-- ==== Sys2Proof/Word.lean ====
section
/-! DEFINITION. The word types of the device and the ranges of its unit numbers. -/

namespace Sys2Proof

abbrev Byte := BitVec 8
abbrev Half := BitVec 16
abbrev Word := BitVec 32
abbrev Dword := BitVec 64

/-- A byte string, byte 0 first (00 R6). -/
abbrev Bytes := List Byte

/-- Logical cores 0 to 255 (00 R1). -/
abbrev Core := Fin 256
/-- Partitions 0 to 15 (12 R291). -/
abbrev Part := Fin 16
/-- Parallel groups 0 to 15 (09 R190). -/
abbrev Group := Fin 16
/-- Compute dies C0 to C3. -/
abbrev Die := Fin 4
/-- Granary memory dies 0 to 15 (07 R155). -/
abbrev MemDie := Fin 16
/-- HBM stacks HB0 to HB7 (08 R176). -/
abbrev Stack := Fin 8
/-- Global pseudo-channels 0 to 511 (08 R176). -/
abbrev PChan := Fin 512
/-- Skelane ports OPT0 to OPT5 (11 R246). -/
abbrev Port := Fin 6
/-- Functions: 0 for PF0, n for VF n (13 R313). -/
abbrev Fn := Fin 16
/-- Mailbox slots of a function (14 R336). -/
abbrev SlotNo := Fin 4
/-- Work counters 0 to 63 (06 R150). -/
abbrev Ctr := Fin 64
/-- Virtual channels 0 to 23 (11 R270). -/
abbrev Vc := Fin 24
/-- Service controllers SC0 to SC3 (14). -/
abbrev Sc := Fin 4

end Sys2Proof
end

