-- ==== Sys2Proof/Machine/Regs.lean ====
section
/-! DEFINITION. The register map as data (18 R426 and the field tables of every chapter): one name per
register field, and for each field where it lies in BAR0, its access code (00 R7), its reset value and the
survival code of its Kept across column (16 R405). Reserved bits are no fields: they read as zero and ignore
writes (00 R11). CORE_SCALE lies in device memory (04 R81), and the BLKCTL registers are per view (18 R430);
neither is in this table. -/

namespace Sys2Proof

/-- The access codes of 00 R7 that a register of the device uses. -/
inductive Access where
  | rw | ro | wo | rwp | rwl
  deriving DecidableEq, Repr

/-- The survival codes of 16 R405. -/
inductive Kept where
  | i | p | l | s | f
  deriving DecidableEq, Repr

/-- The blocks of BAR0 (18 R426). -/
inductive Block where
  | hst | rot | pwr | svc | skl | xce | upd | hbm | grn | core | err
  deriving DecidableEq, Repr

/-- One row of a register's field table. `base` is the BAR0 offset of the register of index 0, `dims` the
counts and strides of its indices, outermost first (a core's number is the outermost index of a CORE_
register), `bytes` the register's width. -/
structure FieldSpec where
  block : Block
  base : Nat
  dims : List (Nat × Nat)
  bytes : Nat
  lo : Nat
  width : Nat
  access : Access
  reset : Nat
  kept : Kept
  snap : Bool
  deriving DecidableEq, Repr

/-- The register fields of the device, named by register and field. -/
inductive Field where
  | coreEpiMsePtrAddr
  | coreSeqCtrlRun
  | coreSeqCtrlStart
  | coreStreamBaseBase
  | coreSeqStatusState
  | coreSeqStatusStoppedS
  | coreSeqStatusMpc
  | coreSeqStatusDepth
  | coreIssueErrCode
  | coreIssueErrStream
  | coreIssueErrAddr
  | coreIssueErrField
  | coreLcCount
  | coreLcRemain
  | coreWaitStateWaiting
  | coreWaitStateKind
  | coreWaitStateFlag
  | coreWaitStateAddr
  | coreWaitStateValue
  | coreWaitStateCycles
  | coreParamReadyReady
  | coreMarkLostLost
  | corePshadowValue
  | coreParamValue
  | coreBalCtrlDynamic
  | hstWorkNext
  | hstWorkLimit
  | hstWorkBase
  | hstWorkAuto
  | hstWorkArm
  | grnSchedOwner
  | grnCtrlClear
  | grnCtrlBusy
  | grnCtrlSelftest
  | grnStatusState
  | grnStatusRows
  | grnStatusSpares
  | grnErrTallyCe
  | grnErrTallyUe
  | grnSparebankBank
  | grnSparebankEn
  | grnRemapRow
  | grnRemapEn
  | hbmStatusState
  | hbmStatusRefx2
  | hbmStatusTemp
  | hbmStatusRepairs
  | hbmErrTallyCe
  | hbmErrTallyUe
  | hbmScrubEn
  | hbmScrubInterval
  | hbmScrubPasses
  | hbmInjectOffset
  | hbmInjectNsym
  | hbmInjectArm
  | xceGroupSizem1
  | xceGroupRank
  | xceGroupSucc
  | xceGroupPred
  | xceGroupServe
  | xceGroupMcast
  | xceGroupMcen
  | xceGroupEn
  | xceMembersAddr
  | xceListBase
  | xceListCount
  | xceCstatInst
  | xceCstatState
  | xceCstatBlocks
  | xceEscTallyEscMade
  | xceEscTallyEscRecv
  | xceWinCtrlMhi
  | xceWinCtrlMlo
  | xceCkfaultXtag
  | xceCkfaultBlock
  | xceCkfaultKind
  | xceCkfaultFrom
  | xceCkfaultAt
  | xceDropTallyDropped
  | updStepStep
  | updSealState
  | updSealVerdict
  | updSealFatal
  | updSealSgrp
  | updSealCken
  | updSealSbuf
  | updListBase
  | updListCount
  | updTallyNonfinite
  | updTallyCommits
  | updCkptStep
  | updEngineState
  | updEnginePart
  | updEngineMismatch
  | updHypValue
  | updProgWord
  | coreEpiShadowPtrAddr
  | sklDevidDevid
  | sklDevidValid
  | sklDevidHoplim
  | sklEpochEpoch
  | sklEpochDraining
  | sklEpochBank0
  | sklEpochBank1
  | sklEpochDrainLimit
  | sklEpochExpired
  | sklRouteOut
  | sklMcastPorts
  | sklMcastLocal
  | sklMcastEp
  | sklMcastValid
  | sklMcastLeaves
  | sklPortCtrlEn
  | sklPortCtrlForce16
  | sklPortCtrlSpthr
  | sklPortStatusState
  | sklPortStatusPeerport
  | sklPortStatusPeerdev
  | sklPortStatusRtt
  | sklPortStatusHead
  | sklSpareMapTx0
  | sklSpareMapTx0en
  | sklSpareMapTx1
  | sklSpareMapTx1en
  | sklSpareMapRx0
  | sklSpareMapRx0en
  | sklSpareMapRx1
  | sklSpareMapRx1en
  | sklLinkTallyCsym
  | sklLinkTallyRetry
  | sklChanRes
  | sklChanOcc
  | sklChanXoff
  | sklInjCap
  | sklInjRate
  | sklInjMarks
  | sklTimeNow
  | sklTimeCtrlGmpri
  | sklTimeCtrlLocked
  | sklTimeCtrlGm
  | sklTimeCtrlParent
  | sklTimeCtrlHops
  | sklTimeCtrlGmid
  | sklViolTallyCount
  | rotSimgAddrAddr
  | rotSimgCtrlStart
  | rotSimgCtrlBusy
  | rotSimgCtrlCheckonly
  | rotSimgStatusCode
  | rotSimgStatusSect
  | rotSimgStatusRecord
  | rotSimgStatusOffset
  | rotSimgStatusApplied
  | rotSimgIdFullid
  | rotSimgIdLastid
  | rotStructRegprot
  | rotStructEnmodes
  | rotStructQused
  | rotCoreMapSlot
  | hstLinkStatusUp
  | hstLinkStatusRate
  | hstLinkStatusWidth
  | hstLinkStatusNoflit
  | hstLinkStatusReqide
  | hstLinkStatusDowns
  | hstOwnPolicyOrder
  | hstOwnPolicyElig
  | hstOwnPolicySecure
  | hstOwnPolicyWindow
  | hstOwnPolicyFmdev
  | hstOwnPolicyFmep
  | hstOwnPolicyLock
  | hstOwnStatusState
  | hstOwnStatusOwner
  | hstOwnStatusSucc
  | hstOwnStatusCause
  | hstOwnStatusChanges
  | hstOwnCtrlClaim
  | hstOwnCtrlRelease
  | hstOwnCtrlHandover
  | hstOwnCtrlSucc
  | hstBar2BaseBase
  | hstHwinHaddr
  | hstHwinLen
  | hstHwinEn
  | hstViolTallyCount
  | svcSlotAddr
  | svcSlotGo
  | svcSlotState
  | svcSlotCode
  | svcSlotTag
  | svcSlotDetail
  | svcVpulsePulse
  | svcPulseCount
  | svcPulseStep
  | svcFwbeatBeat
  | svcLoopCursor
  | svcLoopIngest
  | svcLoopLoop
  | svcLoopPlogcnt
  | rotBootStatusStage
  | rotBootStatusBank
  | rotBootStatusFellback
  | rotBootStatusTrial
  | rotBootStatusTries
  | rotBootStatusReason
  | rotBootStatusRtype
  | rotBootStatusEarlyw
  | rotBootStatusMlost
  | rotDeviceIdId
  | rotFuseStateSvnBoot
  | rotFuseStateSvnFw
  | rotFuseStateSvnTests
  | rotFuseStateSvnStruct
  | rotFuseStateVrevoked
  | rotFuseStateOenrolled
  | rotFuseStateOrevoked
  | rotFuseStateOslot
  | rotFuseStateOwned
  | rotFuseStatePending
  | rotFuseStateLifecycle
  | rotFuseCtrlAddr
  | rotFuseCtrlOp
  | rotFuseCtrlStype
  | rotFuseCtrlSval
  | rotFuseCtrlStart
  | rotFuseCtrlBusy
  | rotFuseCtrlResult
  | rotPmapQmask
  | rotPmapHwin
  | rotPmapValid
  | rotPmapLockLock
  | rotFlashCtrlFoff
  | rotFlashCtrlDaddr
  | rotFlashCtrlLen
  | rotFlashCtrlOp
  | rotFlashCtrlStart
  | rotFlashCtrlBusy
  | rotFlashCtrlResult
  | hstResetWarm
  | hstResetPort
  | hstPartCtrlFence
  | hstPartCtrlFenced
  | hstPartCtrlReset
  | hstPartCtrlBusy
  | hstPartCtrlCause
  | coreResetReset
  | coreResetBusy
  | pwrStatusStage
  | pwrStatusMode
  | pwrStatusShedcap
  | pwrStatusThermcap
  | pwrStatusTlevel
  | pwrStatusPending
  | pwrStatusHold
  | pwrStatusQuiesced
  | pwrStatusPstate
  | pwrStatusRefloss
  | pwrStatusDieslow
  | pwrModeCtrlSel
  | pwrInputVin
  | pwrInputIin
  | pwrInputHoldus
  | pwrStateCtrlTarget
  | pwrHoursHours
  | pwrShedTallyS1
  | pwrShedTallyS2
  | pwrShedTallyS3
  | pwrShedTallyS4
  | pwrTempTemp
  | pwrTempPeak
  | pwrTempVdie
  | pwrSlotVsetE
  | pwrSlotVsetT
  | pwrSlotME
  | pwrSlotMT
  | pwrSlotTrend
  | pwrSlotCal
  | pwrSlotRetired
  | hstDevStatusBoot
  | hstDevStatusDevfault
  | hstDevStatusRegprot
  | hstDevStatusShed
  | hstDevStatusPen
  | hstDevStatusPfenced
  | hstDevStatusPattn
  | updStatusStatus
  | updStatusPrev
  | hstIrqRouteKind
  | hstIrqRouteArg
  | errRingBase
  | errRingLog2n
  | errRingEn
  | errSeqNext
  | errLostDropped
  | errLostLoftonly
  | errLastRecord
  deriving DecidableEq, Repr

/-- The field table: every row as its chapter gives it. -/
def Field.spec : Field → FieldSpec
  | .coreEpiMsePtrAddr => ⟨.core, 0x2000480, [(256, 0x10000)], 8, 0, 48, .rw, 0x0, .i, false⟩
  | .coreSeqCtrlRun => ⟨.core, 0x2000000, [(256, 0x10000)], 4, 0, 1, .rw, 0x0, .i, false⟩
  | .coreSeqCtrlStart => ⟨.core, 0x2000000, [(256, 0x10000)], 4, 16, 16, .rw, 0x0, .i, false⟩
  | .coreStreamBaseBase => ⟨.core, 0x2000008, [(256, 0x10000), (3, 0x4)], 4, 0, 17, .rw, 0x0, .i, false⟩
  | .coreSeqStatusState => ⟨.core, 0x2000020, [(256, 0x10000)], 8, 0, 2, .ro, 0x0, .i, false⟩
  | .coreSeqStatusStoppedS => ⟨.core, 0x2000020, [(256, 0x10000)], 8, 4, 4, .ro, 0x0, .i, false⟩
  | .coreSeqStatusMpc => ⟨.core, 0x2000020, [(256, 0x10000)], 8, 8, 16, .ro, 0x0, .i, false⟩
  | .coreSeqStatusDepth => ⟨.core, 0x2000020, [(256, 0x10000)], 8, 24, 4, .ro, 0x0, .i, false⟩
  | .coreIssueErrCode => ⟨.core, 0x2000028, [(256, 0x10000)], 8, 0, 8, .ro, 0x0, .i, false⟩
  | .coreIssueErrStream => ⟨.core, 0x2000028, [(256, 0x10000)], 8, 8, 2, .ro, 0x0, .i, false⟩
  | .coreIssueErrAddr => ⟨.core, 0x2000028, [(256, 0x10000)], 8, 16, 17, .ro, 0x0, .i, false⟩
  | .coreIssueErrField => ⟨.core, 0x2000028, [(256, 0x10000)], 8, 48, 8, .ro, 0x0, .i, false⟩
  | .coreLcCount => ⟨.core, 0x2000100, [(256, 0x10000), (8, 0x8)], 8, 0, 32, .rw, 0x0, .i, false⟩
  | .coreLcRemain => ⟨.core, 0x2000100, [(256, 0x10000), (8, 0x8)], 8, 32, 32, .ro, 0x0, .i, false⟩
  | .coreWaitStateWaiting => ⟨.core, 0x2000200, [(256, 0x10000), (4, 0x10)], 16, 0, 1, .ro, 0x0, .i, false⟩
  | .coreWaitStateKind => ⟨.core, 0x2000200, [(256, 0x10000), (4, 0x10)], 16, 1, 3, .ro, 0x0, .i, false⟩
  | .coreWaitStateFlag => ⟨.core, 0x2000200, [(256, 0x10000), (4, 0x10)], 16, 4, 12, .ro, 0x0, .i, false⟩
  | .coreWaitStateAddr => ⟨.core, 0x2000200, [(256, 0x10000), (4, 0x10)], 16, 16, 17, .ro, 0x0, .i, false⟩
  | .coreWaitStateValue => ⟨.core, 0x2000200, [(256, 0x10000), (4, 0x10)], 16, 48, 16, .ro, 0x0, .i, false⟩
  | .coreWaitStateCycles => ⟨.core, 0x2000200, [(256, 0x10000), (4, 0x10)], 16, 64, 64, .ro, 0x0, .i, true⟩
  | .coreParamReadyReady => ⟨.core, 0x2000300, [(256, 0x10000)], 4, 0, 1, .rw, 0x0, .i, false⟩
  | .coreMarkLostLost => ⟨.core, 0x2000308, [(256, 0x10000)], 4, 0, 32, .ro, 0x0, .i, false⟩
  | .corePshadowValue => ⟨.core, 0x2001000, [(256, 0x10000), (256, 0x8)], 8, 0, 64, .rw, 0x0, .i, false⟩
  | .coreParamValue => ⟨.core, 0x2001800, [(256, 0x10000), (256, 0x8)], 8, 0, 64, .ro, 0x0, .i, false⟩
  | .coreBalCtrlDynamic => ⟨.core, 0x2000030, [(256, 0x10000)], 4, 0, 1, .rw, 0x0, .i, false⟩
  | .hstWorkNext => ⟨.hst, 0x80000, [(64, 0x10)], 16, 0, 32, .rw, 0x0, .i, false⟩
  | .hstWorkLimit => ⟨.hst, 0x80000, [(64, 0x10)], 16, 32, 32, .rw, 0x0, .i, false⟩
  | .hstWorkBase => ⟨.hst, 0x80000, [(64, 0x10)], 16, 64, 32, .rw, 0x0, .i, false⟩
  | .hstWorkAuto => ⟨.hst, 0x80000, [(64, 0x10)], 16, 96, 1, .rw, 0x0, .i, false⟩
  | .hstWorkArm => ⟨.hst, 0x80000, [(64, 0x10)], 16, 97, 1, .wo, 0x0, .i, false⟩
  | .grnSchedOwner => ⟨.grn, 0x1000000, [(16, 0x100000), (64, 0x4)], 4, 0, 9, .rw, 0x1FF, .i, false⟩
  | .grnCtrlClear => ⟨.grn, 0x1000400, [(16, 0x100000)], 4, 0, 1, .rwp, 0x0, .i, false⟩
  | .grnCtrlBusy => ⟨.grn, 0x1000400, [(16, 0x100000)], 4, 1, 1, .ro, 0x0, .i, false⟩
  | .grnCtrlSelftest => ⟨.grn, 0x1000400, [(16, 0x100000)], 4, 2, 1, .rwp, 0x0, .i, false⟩
  | .grnStatusState => ⟨.grn, 0x1000408, [(16, 0x100000)], 4, 0, 2, .ro, 0x0, .i, false⟩
  | .grnStatusRows => ⟨.grn, 0x1000408, [(16, 0x100000)], 4, 2, 14, .ro, 0x0, .i, false⟩
  | .grnStatusSpares => ⟨.grn, 0x1000408, [(16, 0x100000)], 4, 16, 3, .ro, 0x0, .i, false⟩
  | .grnErrTallyCe => ⟨.grn, 0x1000410, [(16, 0x100000)], 8, 0, 32, .ro, 0x0, .i, true⟩
  | .grnErrTallyUe => ⟨.grn, 0x1000410, [(16, 0x100000)], 8, 32, 32, .ro, 0x0, .i, true⟩
  | .grnSparebankBank => ⟨.grn, 0x1000420, [(16, 0x100000), (4, 0x4)], 4, 0, 8, .ro, 0x0, .i, false⟩
  | .grnSparebankEn => ⟨.grn, 0x1000420, [(16, 0x100000), (4, 0x4)], 4, 8, 1, .ro, 0x0, .i, false⟩
  | .grnRemapRow => ⟨.grn, 0x1010000, [(16, 0x100000), (260, 0x40), (16, 0x4)], 4, 0, 13, .ro, 0x0, .i, false⟩
  | .grnRemapEn => ⟨.grn, 0x1010000, [(16, 0x100000), (260, 0x40), (16, 0x4)], 4, 16, 1, .ro, 0x0, .i, false⟩
  | .hbmStatusState => ⟨.hbm, 0xC00000, [(8, 0x20000)], 4, 0, 2, .ro, 0x0, .i, false⟩
  | .hbmStatusRefx2 => ⟨.hbm, 0xC00000, [(8, 0x20000)], 4, 2, 1, .ro, 0x0, .i, false⟩
  | .hbmStatusTemp => ⟨.hbm, 0xC00000, [(8, 0x20000)], 4, 8, 8, .ro, 0x0, .i, false⟩
  | .hbmStatusRepairs => ⟨.hbm, 0xC00000, [(8, 0x20000)], 4, 16, 8, .ro, 0x0, .i, false⟩
  | .hbmErrTallyCe => ⟨.hbm, 0xC00010, [(8, 0x20000)], 8, 0, 32, .ro, 0x0, .i, true⟩
  | .hbmErrTallyUe => ⟨.hbm, 0xC00010, [(8, 0x20000)], 8, 32, 32, .ro, 0x0, .i, true⟩
  | .hbmScrubEn => ⟨.hbm, 0xC00020, [(8, 0x20000)], 4, 0, 1, .rw, 0x1, .i, false⟩
  | .hbmScrubInterval => ⟨.hbm, 0xC00020, [(8, 0x20000)], 4, 1, 7, .rw, 0x1, .i, false⟩
  | .hbmScrubPasses => ⟨.hbm, 0xC00020, [(8, 0x20000)], 4, 16, 16, .ro, 0x0, .i, false⟩
  | .hbmInjectOffset => ⟨.hbm, 0xC00030, [(8, 0x20000)], 8, 0, 39, .rw, 0x0, .i, false⟩
  | .hbmInjectNsym => ⟨.hbm, 0xC00030, [(8, 0x20000)], 8, 39, 3, .rw, 0x0, .i, false⟩
  | .hbmInjectArm => ⟨.hbm, 0xC00030, [(8, 0x20000)], 8, 42, 1, .rwp, 0x0, .i, false⟩
  | .xceGroupSizem1 => ⟨.xce, 0x800000, [(16, 0x40)], 16, 0, 17, .ro, 0x0, .i, false⟩
  | .xceGroupRank => ⟨.xce, 0x800000, [(16, 0x40)], 16, 17, 17, .ro, 0x0, .i, false⟩
  | .xceGroupSucc => ⟨.xce, 0x800000, [(16, 0x40)], 16, 34, 17, .ro, 0x0, .i, false⟩
  | .xceGroupPred => ⟨.xce, 0x800000, [(16, 0x40)], 16, 51, 17, .ro, 0x0, .i, false⟩
  | .xceGroupServe => ⟨.xce, 0x800000, [(16, 0x40)], 16, 68, 2, .ro, 0x0, .i, false⟩
  | .xceGroupMcast => ⟨.xce, 0x800000, [(16, 0x40)], 16, 70, 12, .ro, 0x0, .i, false⟩
  | .xceGroupMcen => ⟨.xce, 0x800000, [(16, 0x40)], 16, 82, 1, .ro, 0x0, .i, false⟩
  | .xceGroupEn => ⟨.xce, 0x800000, [(16, 0x40)], 16, 83, 1, .ro, 0x0, .i, false⟩
  | .xceMembersAddr => ⟨.xce, 0x800010, [(16, 0x40)], 8, 0, 48, .ro, 0x0, .i, false⟩
  | .xceListBase => ⟨.xce, 0x800018, [(16, 0x40)], 8, 0, 48, .rw, 0x0, .i, false⟩
  | .xceListCount => ⟨.xce, 0x800018, [(16, 0x40)], 8, 48, 12, .rw, 0x0, .i, false⟩
  | .xceCstatInst => ⟨.xce, 0x800020, [(16, 0x40)], 8, 0, 12, .ro, 0x0, .i, false⟩
  | .xceCstatState => ⟨.xce, 0x800020, [(16, 0x40)], 8, 12, 2, .ro, 0x0, .i, false⟩
  | .xceCstatBlocks => ⟨.xce, 0x800020, [(16, 0x40)], 8, 16, 32, .ro, 0x0, .i, false⟩
  | .xceEscTallyEscMade => ⟨.xce, 0x800028, [(16, 0x40)], 8, 0, 32, .ro, 0x0, .i, true⟩
  | .xceEscTallyEscRecv => ⟨.xce, 0x800028, [(16, 0x40)], 8, 32, 32, .ro, 0x0, .i, true⟩
  | .xceWinCtrlMhi => ⟨.xce, 0x800800, [], 4, 0, 6, .rw, 0x2, .i, false⟩
  | .xceWinCtrlMlo => ⟨.xce, 0x800800, [], 4, 8, 6, .rw, 0x8, .i, false⟩
  | .xceCkfaultXtag => ⟨.xce, 0x800810, [], 16, 0, 16, .ro, 0x0, .i, false⟩
  | .xceCkfaultBlock => ⟨.xce, 0x800810, [], 16, 16, 32, .ro, 0x0, .i, false⟩
  | .xceCkfaultKind => ⟨.xce, 0x800810, [], 16, 48, 2, .ro, 0x0, .i, false⟩
  | .xceCkfaultFrom => ⟨.xce, 0x800810, [], 16, 50, 17, .ro, 0x0, .i, false⟩
  | .xceCkfaultAt => ⟨.xce, 0x800810, [], 16, 67, 17, .ro, 0x0, .i, false⟩
  | .xceDropTallyDropped => ⟨.xce, 0x800820, [], 8, 0, 32, .ro, 0x0, .i, true⟩
  | .updStepStep => ⟨.upd, 0xA00000, [(16, 0x40)], 8, 0, 64, .rw, 0x0, .i, false⟩
  | .updSealState => ⟨.upd, 0xA00008, [(16, 0x40)], 16, 0, 3, .ro, 0x0, .i, false⟩
  | .updSealVerdict => ⟨.upd, 0xA00008, [(16, 0x40)], 16, 3, 2, .ro, 0x0, .i, false⟩
  | .updSealFatal => ⟨.upd, 0xA00008, [(16, 0x40)], 16, 8, 11, .rw, 0x187, .i, false⟩
  | .updSealSgrp => ⟨.upd, 0xA00008, [(16, 0x40)], 16, 19, 4, .ro, 0x0, .i, false⟩
  | .updSealCken => ⟨.upd, 0xA00008, [(16, 0x40)], 16, 23, 1, .ro, 0x0, .i, false⟩
  | .updSealSbuf => ⟨.upd, 0xA00008, [(16, 0x40)], 16, 32, 48, .rw, 0x0, .i, false⟩
  | .updListBase => ⟨.upd, 0xA00018, [(16, 0x40)], 8, 0, 48, .rw, 0x0, .i, false⟩
  | .updListCount => ⟨.upd, 0xA00018, [(16, 0x40)], 8, 48, 12, .rw, 0x0, .i, false⟩
  | .updTallyNonfinite => ⟨.upd, 0xA00020, [(16, 0x40)], 8, 0, 32, .ro, 0x0, .i, true⟩
  | .updTallyCommits => ⟨.upd, 0xA00020, [(16, 0x40)], 8, 32, 32, .ro, 0x0, .i, true⟩
  | .updCkptStep => ⟨.upd, 0xA00028, [(16, 0x40)], 8, 0, 64, .ro, 0x0, .i, false⟩
  | .updEngineState => ⟨.upd, 0xA00800, [(4, 0x10)], 8, 0, 2, .ro, 0x0, .i, false⟩
  | .updEnginePart => ⟨.upd, 0xA00800, [(4, 0x10)], 8, 2, 4, .ro, 0x0, .i, false⟩
  | .updEngineMismatch => ⟨.upd, 0xA00800, [(4, 0x10)], 8, 32, 32, .ro, 0x0, .i, true⟩
  | .updHypValue => ⟨.upd, 0xA10000, [(16, 0x400), (16, 0x40), (16, 0x4)], 4, 0, 32, .rw, 0x0, .i, false⟩
  | .updProgWord => ⟨.upd, 0xA20000, [(16, 0x400), (128, 0x8)], 8, 0, 64, .rw, 0x0, .i, false⟩
  | .coreEpiShadowPtrAddr => ⟨.core, 0x2000488, [(256, 0x10000)], 8, 0, 48, .rw, 0x0, .i, false⟩
  | .sklDevidDevid => ⟨.skl, 0x400000, [], 4, 0, 17, .rw, 0x0, .l, false⟩
  | .sklDevidValid => ⟨.skl, 0x400000, [], 4, 17, 1, .rw, 0x0, .l, false⟩
  | .sklDevidHoplim => ⟨.skl, 0x400000, [], 4, 24, 8, .rw, 0x10, .l, false⟩
  | .sklEpochEpoch => ⟨.skl, 0x400008, [], 8, 0, 1, .ro, 0x0, .l, false⟩
  | .sklEpochDraining => ⟨.skl, 0x400008, [], 8, 1, 1, .ro, 0x0, .l, false⟩
  | .sklEpochBank0 => ⟨.skl, 0x400008, [], 8, 2, 2, .rw, 0x0, .l, false⟩
  | .sklEpochBank1 => ⟨.skl, 0x400008, [], 8, 4, 2, .rw, 0x0, .l, false⟩
  | .sklEpochDrainLimit => ⟨.skl, 0x400008, [], 8, 8, 24, .rw, 0x3E8, .l, false⟩
  | .sklEpochExpired => ⟨.skl, 0x400008, [], 8, 32, 16, .ro, 0x0, .i, true⟩
  | .sklRouteOut => ⟨.skl, 0x500000, [(2, 0x20000), (131072, 0x1)], 1, 0, 3, .rw, 0x7, .l, false⟩
  | .sklMcastPorts => ⟨.skl, 0x540000, [(2, 0x8000), (4096, 0x8)], 8, 0, 6, .rw, 0x0, .l, false⟩
  | .sklMcastLocal => ⟨.skl, 0x540000, [(2, 0x8000), (4096, 0x8)], 8, 6, 1, .rw, 0x0, .l, false⟩
  | .sklMcastEp => ⟨.skl, 0x540000, [(2, 0x8000), (4096, 0x8)], 8, 7, 9, .rw, 0x0, .l, false⟩
  | .sklMcastValid => ⟨.skl, 0x540000, [(2, 0x8000), (4096, 0x8)], 8, 16, 1, .rw, 0x0, .l, false⟩
  | .sklMcastLeaves => ⟨.skl, 0x540000, [(2, 0x8000), (4096, 0x8)], 8, 32, 17, .rw, 0x0, .l, false⟩
  | .sklPortCtrlEn => ⟨.skl, 0x401000, [(6, 0x400)], 4, 0, 1, .rw, 0x1, .l, false⟩
  | .sklPortCtrlForce16 => ⟨.skl, 0x401000, [(6, 0x400)], 4, 1, 1, .rw, 0x0, .l, false⟩
  | .sklPortCtrlSpthr => ⟨.skl, 0x401000, [(6, 0x400)], 4, 8, 16, .rw, 0x40, .l, false⟩
  | .sklPortStatusState => ⟨.skl, 0x401008, [(6, 0x400)], 8, 0, 3, .ro, 0x0, .i, false⟩
  | .sklPortStatusPeerport => ⟨.skl, 0x401008, [(6, 0x400)], 8, 3, 3, .ro, 0x0, .l, false⟩
  | .sklPortStatusPeerdev => ⟨.skl, 0x401008, [(6, 0x400)], 8, 6, 17, .ro, 0x0, .l, false⟩
  | .sklPortStatusRtt => ⟨.skl, 0x401008, [(6, 0x400)], 8, 23, 10, .ro, 0x0, .l, false⟩
  | .sklPortStatusHead => ⟨.skl, 0x401008, [(6, 0x400)], 8, 33, 14, .ro, 0x0, .l, false⟩
  | .sklSpareMapTx0 => ⟨.skl, 0x401010, [(6, 0x400)], 4, 0, 5, .ro, 0x0, .l, false⟩
  | .sklSpareMapTx0en => ⟨.skl, 0x401010, [(6, 0x400)], 4, 5, 1, .ro, 0x0, .l, false⟩
  | .sklSpareMapTx1 => ⟨.skl, 0x401010, [(6, 0x400)], 4, 8, 5, .ro, 0x0, .l, false⟩
  | .sklSpareMapTx1en => ⟨.skl, 0x401010, [(6, 0x400)], 4, 13, 1, .ro, 0x0, .l, false⟩
  | .sklSpareMapRx0 => ⟨.skl, 0x401010, [(6, 0x400)], 4, 16, 5, .ro, 0x0, .l, false⟩
  | .sklSpareMapRx0en => ⟨.skl, 0x401010, [(6, 0x400)], 4, 21, 1, .ro, 0x0, .l, false⟩
  | .sklSpareMapRx1 => ⟨.skl, 0x401010, [(6, 0x400)], 4, 24, 5, .ro, 0x0, .l, false⟩
  | .sklSpareMapRx1en => ⟨.skl, 0x401010, [(6, 0x400)], 4, 29, 1, .ro, 0x0, .l, false⟩
  | .sklLinkTallyCsym => ⟨.skl, 0x401018, [(6, 0x400)], 8, 0, 32, .ro, 0x0, .i, true⟩
  | .sklLinkTallyRetry => ⟨.skl, 0x401018, [(6, 0x400)], 8, 32, 32, .ro, 0x0, .i, true⟩
  | .sklChanRes => ⟨.skl, 0x401100, [(6, 0x400), (48, 0x4)], 4, 0, 14, .ro, 0x0, .l, false⟩
  | .sklChanOcc => ⟨.skl, 0x401100, [(6, 0x400), (48, 0x4)], 4, 16, 14, .ro, 0x0, .i, false⟩
  | .sklChanXoff => ⟨.skl, 0x401100, [(6, 0x400), (48, 0x4)], 4, 30, 1, .ro, 0x0, .i, false⟩
  | .sklInjCap => ⟨.skl, 0x400100, [(24, 0x8)], 8, 0, 16, .rw, 0x186A, .l, false⟩
  | .sklInjRate => ⟨.skl, 0x400100, [(24, 0x8)], 8, 16, 16, .ro, 0x186A, .i, false⟩
  | .sklInjMarks => ⟨.skl, 0x400100, [(24, 0x8)], 8, 32, 32, .ro, 0x0, .i, true⟩
  | .sklTimeNow => ⟨.skl, 0x400020, [], 8, 0, 64, .ro, 0x0, .l, false⟩
  | .sklTimeCtrlGmpri => ⟨.skl, 0x400028, [], 8, 0, 8, .rw, 0x80, .l, false⟩
  | .sklTimeCtrlLocked => ⟨.skl, 0x400028, [], 8, 8, 1, .ro, 0x0, .l, false⟩
  | .sklTimeCtrlGm => ⟨.skl, 0x400028, [], 8, 9, 1, .ro, 0x0, .i, false⟩
  | .sklTimeCtrlParent => ⟨.skl, 0x400028, [], 8, 10, 3, .ro, 0x0, .i, false⟩
  | .sklTimeCtrlHops => ⟨.skl, 0x400028, [], 8, 16, 8, .ro, 0x0, .i, false⟩
  | .sklTimeCtrlGmid => ⟨.skl, 0x400028, [], 8, 24, 17, .ro, 0x0, .i, false⟩
  | .sklViolTallyCount => ⟨.skl, 0x400200, [(16, 0x4)], 4, 0, 32, .ro, 0x0, .i, true⟩
  | .rotSimgAddrAddr => ⟨.rot, 0x100800, [], 8, 0, 48, .rw, 0x0, .i, false⟩
  | .rotSimgCtrlStart => ⟨.rot, 0x100808, [], 4, 0, 1, .rwp, 0x0, .i, false⟩
  | .rotSimgCtrlBusy => ⟨.rot, 0x100808, [], 4, 1, 1, .ro, 0x0, .i, false⟩
  | .rotSimgCtrlCheckonly => ⟨.rot, 0x100808, [], 4, 2, 1, .rw, 0x0, .i, false⟩
  | .rotSimgStatusCode => ⟨.rot, 0x100810, [], 8, 0, 8, .ro, 0x0, .i, false⟩
  | .rotSimgStatusSect => ⟨.rot, 0x100810, [], 8, 8, 8, .ro, 0x0, .i, false⟩
  | .rotSimgStatusRecord => ⟨.rot, 0x100810, [], 8, 16, 16, .ro, 0x0, .i, false⟩
  | .rotSimgStatusOffset => ⟨.rot, 0x100810, [], 8, 32, 21, .ro, 0x0, .i, false⟩
  | .rotSimgStatusApplied => ⟨.rot, 0x100810, [], 8, 53, 1, .ro, 0x0, .i, false⟩
  | .rotSimgIdFullid => ⟨.rot, 0x100818, [], 16, 0, 64, .ro, 0x0, .i, false⟩
  | .rotSimgIdLastid => ⟨.rot, 0x100818, [], 16, 64, 64, .ro, 0x0, .i, false⟩
  | .rotStructRegprot => ⟨.rot, 0x100828, [], 4, 0, 1, .ro, 0x0, .i, false⟩
  | .rotStructEnmodes => ⟨.rot, 0x100828, [], 4, 1, 3, .ro, 0x0, .i, false⟩
  | .rotStructQused => ⟨.rot, 0x100828, [], 4, 4, 16, .ro, 0x0, .i, false⟩
  | .rotCoreMapSlot => ⟨.rot, 0x100900, [(4, 0x40), (64, 0x1)], 1, 0, 7, .ro, 0x0, .i, false⟩
  | .hstLinkStatusUp => ⟨.hst, 0x0, [], 8, 0, 1, .ro, 0x0, .i, false⟩
  | .hstLinkStatusRate => ⟨.hst, 0x0, [], 8, 1, 2, .ro, 0x0, .i, false⟩
  | .hstLinkStatusWidth => ⟨.hst, 0x0, [], 8, 3, 2, .ro, 0x0, .i, false⟩
  | .hstLinkStatusNoflit => ⟨.hst, 0x0, [], 8, 5, 1, .ro, 0x0, .i, false⟩
  | .hstLinkStatusReqide => ⟨.hst, 0x0, [], 8, 16, 16, .rw, 0x0, .i, false⟩
  | .hstLinkStatusDowns => ⟨.hst, 0x0, [], 8, 32, 16, .ro, 0x0, .i, true⟩
  | .hstOwnPolicyOrder => ⟨.hst, 0x100, [], 8, 0, 6, .rwl, 0x39, .i, false⟩
  | .hstOwnPolicyElig => ⟨.hst, 0x100, [], 8, 6, 3, .rwl, 0x7, .i, false⟩
  | .hstOwnPolicySecure => ⟨.hst, 0x100, [], 8, 9, 3, .rwl, 0x0, .i, false⟩
  | .hstOwnPolicyWindow => ⟨.hst, 0x100, [], 8, 12, 12, .rwl, 0x1F4, .i, false⟩
  | .hstOwnPolicyFmdev => ⟨.hst, 0x100, [], 8, 24, 17, .rwl, 0x1FFFF, .i, false⟩
  | .hstOwnPolicyFmep => ⟨.hst, 0x100, [], 8, 41, 9, .rwl, 0x1FF, .i, false⟩
  | .hstOwnPolicyLock => ⟨.hst, 0x100, [], 8, 63, 1, .rwl, 0x0, .i, false⟩
  | .hstOwnStatusState => ⟨.hst, 0x110, [], 8, 0, 2, .ro, 0x0, .i, false⟩
  | .hstOwnStatusOwner => ⟨.hst, 0x110, [], 8, 2, 2, .ro, 0x0, .i, false⟩
  | .hstOwnStatusSucc => ⟨.hst, 0x110, [], 8, 4, 2, .ro, 0x0, .i, false⟩
  | .hstOwnStatusCause => ⟨.hst, 0x110, [], 8, 6, 2, .ro, 0x0, .i, false⟩
  | .hstOwnStatusChanges => ⟨.hst, 0x110, [], 8, 32, 32, .ro, 0x0, .i, true⟩
  | .hstOwnCtrlClaim => ⟨.hst, 0x118, [], 4, 0, 1, .wo, 0x0, .i, false⟩
  | .hstOwnCtrlRelease => ⟨.hst, 0x118, [], 4, 1, 1, .wo, 0x0, .i, false⟩
  | .hstOwnCtrlHandover => ⟨.hst, 0x118, [], 4, 2, 1, .wo, 0x0, .i, false⟩
  | .hstOwnCtrlSucc => ⟨.hst, 0x118, [], 4, 4, 2, .wo, 0x0, .i, false⟩
  | .hstBar2BaseBase => ⟨.hst, 0x200, [], 8, 0, 39, .rw, 0x0, .i, false⟩
  | .hstHwinHaddr => ⟨.hst, 0x40000, [(16, 0x100), (16, 0x10)], 16, 0, 64, .rw, 0x0, .i, false⟩
  | .hstHwinLen => ⟨.hst, 0x40000, [(16, 0x100), (16, 0x10)], 16, 64, 23, .rw, 0x0, .i, false⟩
  | .hstHwinEn => ⟨.hst, 0x40000, [(16, 0x100), (16, 0x10)], 16, 87, 1, .rw, 0x0, .i, false⟩
  | .hstViolTallyCount => ⟨.hst, 0x300, [(17, 0x4)], 4, 0, 32, .ro, 0x0, .i, true⟩
  | .svcSlotAddr => ⟨.svc, 0x300000, [(16, 0x1000), (4, 0x20)], 16, 0, 48, .rw, 0x0, .i, false⟩
  | .svcSlotGo => ⟨.svc, 0x300000, [(16, 0x1000), (4, 0x20)], 16, 48, 1, .wo, 0x0, .i, false⟩
  | .svcSlotState => ⟨.svc, 0x300000, [(16, 0x1000), (4, 0x20)], 16, 52, 2, .ro, 0x0, .i, false⟩
  | .svcSlotCode => ⟨.svc, 0x300000, [(16, 0x1000), (4, 0x20)], 16, 56, 8, .ro, 0x0, .i, false⟩
  | .svcSlotTag => ⟨.svc, 0x300000, [(16, 0x1000), (4, 0x20)], 16, 64, 32, .ro, 0x0, .i, false⟩
  | .svcSlotDetail => ⟨.svc, 0x300000, [(16, 0x1000), (4, 0x20)], 16, 96, 32, .ro, 0x0, .i, false⟩
  | .svcVpulsePulse => ⟨.svc, 0x300100, [(16, 0x1000)], 8, 0, 64, .ro, 0x0, .i, false⟩
  | .svcPulseCount => ⟨.svc, 0x320000, [(16, 0x8)], 8, 0, 48, .ro, 0x0, .i, false⟩
  | .svcPulseStep => ⟨.svc, 0x320000, [(16, 0x8)], 8, 48, 16, .ro, 0x0, .i, false⟩
  | .svcFwbeatBeat => ⟨.svc, 0x320100, [(4, 0x8)], 8, 0, 64, .ro, 0x0, .i, false⟩
  | .svcLoopCursor => ⟨.svc, 0x320200, [(16, 0x10)], 16, 0, 32, .ro, 0x0, .i, false⟩
  | .svcLoopIngest => ⟨.svc, 0x320200, [(16, 0x10)], 16, 32, 1, .ro, 0x0, .i, false⟩
  | .svcLoopLoop => ⟨.svc, 0x320200, [(16, 0x10)], 16, 33, 1, .ro, 0x0, .i, false⟩
  | .svcLoopPlogcnt => ⟨.svc, 0x320200, [(16, 0x10)], 16, 64, 64, .ro, 0x0, .i, true⟩
  | .rotBootStatusStage => ⟨.rot, 0x100000, [], 8, 0, 2, .ro, 0x0, .i, false⟩
  | .rotBootStatusBank => ⟨.rot, 0x100000, [], 8, 2, 1, .ro, 0x0, .i, false⟩
  | .rotBootStatusFellback => ⟨.rot, 0x100000, [], 8, 3, 1, .ro, 0x0, .i, false⟩
  | .rotBootStatusTrial => ⟨.rot, 0x100000, [], 8, 4, 1, .ro, 0x0, .i, false⟩
  | .rotBootStatusTries => ⟨.rot, 0x100000, [], 8, 5, 2, .ro, 0x0, .i, false⟩
  | .rotBootStatusReason => ⟨.rot, 0x100000, [], 8, 8, 8, .ro, 0x0, .i, false⟩
  | .rotBootStatusRtype => ⟨.rot, 0x100000, [], 8, 16, 8, .ro, 0x0, .i, false⟩
  | .rotBootStatusEarlyw => ⟨.rot, 0x100000, [], 8, 24, 16, .ro, 0x0, .i, false⟩
  | .rotBootStatusMlost => ⟨.rot, 0x100000, [], 8, 40, 16, .ro, 0x0, .i, false⟩
  | .rotDeviceIdId => ⟨.rot, 0x100010, [], 16, 0, 128, .ro, 0x0, .i, false⟩
  | .rotFuseStateSvnBoot => ⟨.rot, 0x100020, [], 8, 0, 7, .ro, 0x0, .i, false⟩
  | .rotFuseStateSvnFw => ⟨.rot, 0x100020, [], 8, 7, 7, .ro, 0x0, .i, false⟩
  | .rotFuseStateSvnTests => ⟨.rot, 0x100020, [], 8, 14, 7, .ro, 0x0, .i, false⟩
  | .rotFuseStateSvnStruct => ⟨.rot, 0x100020, [], 8, 21, 7, .ro, 0x0, .i, false⟩
  | .rotFuseStateVrevoked => ⟨.rot, 0x100020, [], 8, 28, 4, .ro, 0x0, .i, false⟩
  | .rotFuseStateOenrolled => ⟨.rot, 0x100020, [], 8, 32, 4, .ro, 0x0, .i, false⟩
  | .rotFuseStateOrevoked => ⟨.rot, 0x100020, [], 8, 36, 4, .ro, 0x0, .i, false⟩
  | .rotFuseStateOslot => ⟨.rot, 0x100020, [], 8, 40, 2, .ro, 0x0, .i, false⟩
  | .rotFuseStateOwned => ⟨.rot, 0x100020, [], 8, 42, 1, .ro, 0x0, .i, false⟩
  | .rotFuseStatePending => ⟨.rot, 0x100020, [], 8, 43, 1, .ro, 0x0, .i, false⟩
  | .rotFuseStateLifecycle => ⟨.rot, 0x100020, [], 8, 44, 2, .ro, 0x0, .i, false⟩
  | .rotFuseCtrlAddr => ⟨.rot, 0x100030, [], 16, 0, 48, .rw, 0x0, .i, false⟩
  | .rotFuseCtrlOp => ⟨.rot, 0x100030, [], 16, 48, 2, .rw, 0x0, .i, false⟩
  | .rotFuseCtrlStype => ⟨.rot, 0x100030, [], 16, 50, 2, .rw, 0x0, .i, false⟩
  | .rotFuseCtrlSval => ⟨.rot, 0x100030, [], 16, 52, 7, .rw, 0x0, .i, false⟩
  | .rotFuseCtrlStart => ⟨.rot, 0x100030, [], 16, 63, 1, .rwp, 0x0, .i, false⟩
  | .rotFuseCtrlBusy => ⟨.rot, 0x100030, [], 16, 64, 1, .ro, 0x0, .i, false⟩
  | .rotFuseCtrlResult => ⟨.rot, 0x100030, [], 16, 65, 8, .ro, 0x0, .i, false⟩
  | .rotPmapQmask => ⟨.rot, 0x100100, [(16, 0x8)], 8, 0, 16, .rwl, 0x0, .i, false⟩
  | .rotPmapHwin => ⟨.rot, 0x100100, [(16, 0x8)], 8, 16, 4, .rwl, 0x0, .i, false⟩
  | .rotPmapValid => ⟨.rot, 0x100100, [(16, 0x8)], 8, 20, 1, .rwl, 0x0, .i, false⟩
  | .rotPmapLockLock => ⟨.rot, 0x100180, [], 4, 0, 1, .rwl, 0x0, .i, false⟩
  | .rotFlashCtrlFoff => ⟨.rot, 0x100200, [], 16, 0, 26, .rw, 0x0, .i, false⟩
  | .rotFlashCtrlDaddr => ⟨.rot, 0x100200, [], 16, 32, 48, .rw, 0x0, .i, false⟩
  | .rotFlashCtrlLen => ⟨.rot, 0x100200, [], 16, 80, 24, .rw, 0x0, .i, false⟩
  | .rotFlashCtrlOp => ⟨.rot, 0x100200, [], 16, 104, 3, .rw, 0x0, .i, false⟩
  | .rotFlashCtrlStart => ⟨.rot, 0x100200, [], 16, 107, 1, .rwp, 0x0, .i, false⟩
  | .rotFlashCtrlBusy => ⟨.rot, 0x100200, [], 16, 108, 1, .ro, 0x0, .i, false⟩
  | .rotFlashCtrlResult => ⟨.rot, 0x100200, [], 16, 109, 8, .ro, 0x0, .i, false⟩
  | .hstResetWarm => ⟨.hst, 0x400, [], 4, 0, 1, .wo, 0x0, .i, false⟩
  | .hstResetPort => ⟨.hst, 0x400, [], 4, 1, 6, .wo, 0x0, .i, false⟩
  | .hstPartCtrlFence => ⟨.hst, 0x500, [(16, 0x8)], 8, 0, 1, .rw, 0x0, .p, false⟩
  | .hstPartCtrlFenced => ⟨.hst, 0x500, [(16, 0x8)], 8, 1, 1, .ro, 0x0, .p, false⟩
  | .hstPartCtrlReset => ⟨.hst, 0x500, [(16, 0x8)], 8, 2, 1, .wo, 0x0, .p, false⟩
  | .hstPartCtrlBusy => ⟨.hst, 0x500, [(16, 0x8)], 8, 3, 1, .ro, 0x0, .p, false⟩
  | .hstPartCtrlCause => ⟨.hst, 0x500, [(16, 0x8)], 8, 4, 8, .ro, 0x0, .p, false⟩
  | .coreResetReset => ⟨.core, 0x2000040, [(256, 0x10000)], 4, 0, 1, .wo, 0x0, .i, false⟩
  | .coreResetBusy => ⟨.core, 0x2000040, [(256, 0x10000)], 4, 1, 1, .ro, 0x0, .i, false⟩
  | .pwrStatusStage => ⟨.pwr, 0x200000, [], 8, 0, 3, .ro, 0x0, .i, false⟩
  | .pwrStatusMode => ⟨.pwr, 0x200000, [], 8, 3, 2, .ro, 0x0, .i, false⟩
  | .pwrStatusShedcap => ⟨.pwr, 0x200000, [], 8, 5, 2, .ro, 0x1, .i, false⟩
  | .pwrStatusThermcap => ⟨.pwr, 0x200000, [], 8, 7, 2, .ro, 0x1, .i, false⟩
  | .pwrStatusTlevel => ⟨.pwr, 0x200000, [], 8, 9, 2, .ro, 0x0, .i, false⟩
  | .pwrStatusPending => ⟨.pwr, 0x200000, [], 8, 11, 1, .ro, 0x0, .i, false⟩
  | .pwrStatusHold => ⟨.pwr, 0x200000, [], 8, 12, 1, .ro, 0x0, .i, false⟩
  | .pwrStatusQuiesced => ⟨.pwr, 0x200000, [], 8, 13, 1, .ro, 0x0, .i, false⟩
  | .pwrStatusPstate => ⟨.pwr, 0x200000, [], 8, 14, 2, .ro, 0x0, .i, false⟩
  | .pwrStatusRefloss => ⟨.pwr, 0x200000, [], 8, 16, 1, .ro, 0x0, .i, false⟩
  | .pwrStatusDieslow => ⟨.pwr, 0x200000, [], 8, 17, 4, .ro, 0x0, .i, false⟩
  | .pwrModeCtrlSel => ⟨.pwr, 0x200008, [], 4, 0, 2, .rw, 0x0, .i, false⟩
  | .pwrInputVin => ⟨.pwr, 0x200010, [], 8, 0, 16, .ro, 0x0, .i, false⟩
  | .pwrInputIin => ⟨.pwr, 0x200010, [], 8, 16, 16, .ro, 0x0, .i, false⟩
  | .pwrInputHoldus => ⟨.pwr, 0x200010, [], 8, 32, 16, .ro, 0x0, .i, false⟩
  | .pwrStateCtrlTarget => ⟨.pwr, 0x200020, [], 4, 0, 2, .rw, 0x0, .i, false⟩
  | .pwrHoursHours => ⟨.pwr, 0x200028, [], 4, 0, 24, .ro, 0x0, .f, false⟩
  | .pwrShedTallyS1 => ⟨.pwr, 0x200030, [], 8, 0, 16, .ro, 0x0, .i, true⟩
  | .pwrShedTallyS2 => ⟨.pwr, 0x200030, [], 8, 16, 16, .ro, 0x0, .i, true⟩
  | .pwrShedTallyS3 => ⟨.pwr, 0x200030, [], 8, 32, 16, .ro, 0x0, .i, true⟩
  | .pwrShedTallyS4 => ⟨.pwr, 0x200030, [], 8, 48, 16, .ro, 0x0, .i, true⟩
  | .pwrTempTemp => ⟨.pwr, 0x200100, [(5, 0x8)], 8, 0, 16, .ro, 0x0, .i, false⟩
  | .pwrTempPeak => ⟨.pwr, 0x200100, [(5, 0x8)], 8, 16, 16, .ro, 0x0, .i, true⟩
  | .pwrTempVdie => ⟨.pwr, 0x200100, [(5, 0x8)], 8, 32, 10, .ro, 0x0, .i, false⟩
  | .pwrSlotVsetE => ⟨.pwr, 0x201000, [(4, 0x400), (68, 0x8)], 8, 0, 10, .ro, 0x0, .f, false⟩
  | .pwrSlotVsetT => ⟨.pwr, 0x201000, [(4, 0x400), (68, 0x8)], 8, 10, 10, .ro, 0x0, .f, false⟩
  | .pwrSlotME => ⟨.pwr, 0x201000, [(4, 0x400), (68, 0x8)], 8, 20, 8, .ro, 0x0, .f, false⟩
  | .pwrSlotMT => ⟨.pwr, 0x201000, [(4, 0x400), (68, 0x8)], 8, 28, 8, .ro, 0x0, .f, false⟩
  | .pwrSlotTrend => ⟨.pwr, 0x201000, [(4, 0x400), (68, 0x8)], 8, 36, 16, .ro, 0x0, .f, false⟩
  | .pwrSlotCal => ⟨.pwr, 0x201000, [(4, 0x400), (68, 0x8)], 8, 52, 1, .ro, 0x0, .f, false⟩
  | .pwrSlotRetired => ⟨.pwr, 0x201000, [(4, 0x400), (68, 0x8)], 8, 53, 1, .ro, 0x0, .f, false⟩
  | .hstDevStatusBoot => ⟨.hst, 0x600, [], 8, 0, 2, .ro, 0x0, .i, false⟩
  | .hstDevStatusDevfault => ⟨.hst, 0x600, [], 8, 2, 1, .ro, 0x0, .i, false⟩
  | .hstDevStatusRegprot => ⟨.hst, 0x600, [], 8, 3, 1, .ro, 0x0, .i, false⟩
  | .hstDevStatusShed => ⟨.hst, 0x600, [], 8, 4, 3, .ro, 0x0, .i, false⟩
  | .hstDevStatusPen => ⟨.hst, 0x600, [], 8, 8, 16, .ro, 0x0, .i, false⟩
  | .hstDevStatusPfenced => ⟨.hst, 0x600, [], 8, 24, 16, .ro, 0x0, .i, false⟩
  | .hstDevStatusPattn => ⟨.hst, 0x600, [], 8, 40, 16, .ro, 0x0, .i, false⟩
  | .updStatusStatus => ⟨.upd, 0xA00030, [(16, 0x40)], 8, 0, 11, .ro, 0x0, .i, false⟩
  | .updStatusPrev => ⟨.upd, 0xA00030, [(16, 0x40)], 8, 32, 11, .ro, 0x0, .i, false⟩
  | .hstIrqRouteKind => ⟨.hst, 0x20000, [(16, 0x100), (64, 0x4)], 4, 0, 4, .rw, 0x0, .i, false⟩
  | .hstIrqRouteArg => ⟨.hst, 0x20000, [(16, 0x100), (64, 0x4)], 4, 4, 12, .rw, 0x0, .i, false⟩
  | .errRingBase => ⟨.err, 0x3000000, [], 8, 0, 48, .rw, 0x0, .s, false⟩
  | .errRingLog2n => ⟨.err, 0x3000000, [], 8, 48, 5, .rw, 0x0, .s, false⟩
  | .errRingEn => ⟨.err, 0x3000000, [], 8, 63, 1, .rw, 0x0, .s, false⟩
  | .errSeqNext => ⟨.err, 0x3000008, [], 8, 0, 64, .ro, 0x0, .s, false⟩
  | .errLostDropped => ⟨.err, 0x3000010, [], 8, 0, 32, .ro, 0x0, .i, true⟩
  | .errLostLoftonly => ⟨.err, 0x3000010, [], 8, 32, 32, .ro, 0x0, .i, true⟩
  | .errLastRecord => ⟨.err, 0x3001000, [(64, 0x40)], 64, 0, 512, .ro, 0x0, .s, true⟩

def Field.table0 : List Field :=
  [.coreEpiMsePtrAddr, .coreSeqCtrlRun, .coreSeqCtrlStart, .coreStreamBaseBase,
   .coreSeqStatusState, .coreSeqStatusStoppedS, .coreSeqStatusMpc, .coreSeqStatusDepth,
   .coreIssueErrCode, .coreIssueErrStream, .coreIssueErrAddr, .coreIssueErrField,
   .coreLcCount, .coreLcRemain, .coreWaitStateWaiting, .coreWaitStateKind,
   .coreWaitStateFlag, .coreWaitStateAddr, .coreWaitStateValue, .coreWaitStateCycles,
   .coreParamReadyReady, .coreMarkLostLost, .corePshadowValue, .coreParamValue,
   .coreBalCtrlDynamic, .hstWorkNext, .hstWorkLimit, .hstWorkBase,
   .hstWorkAuto, .hstWorkArm, .grnSchedOwner, .grnCtrlClear,
   .grnCtrlBusy, .grnCtrlSelftest, .grnStatusState, .grnStatusRows,
   .grnStatusSpares, .grnErrTallyCe, .grnErrTallyUe, .grnSparebankBank]

def Field.table1 : List Field :=
  [.grnSparebankEn, .grnRemapRow, .grnRemapEn, .hbmStatusState,
   .hbmStatusRefx2, .hbmStatusTemp, .hbmStatusRepairs, .hbmErrTallyCe,
   .hbmErrTallyUe, .hbmScrubEn, .hbmScrubInterval, .hbmScrubPasses,
   .hbmInjectOffset, .hbmInjectNsym, .hbmInjectArm, .xceGroupSizem1,
   .xceGroupRank, .xceGroupSucc, .xceGroupPred, .xceGroupServe,
   .xceGroupMcast, .xceGroupMcen, .xceGroupEn, .xceMembersAddr,
   .xceListBase, .xceListCount, .xceCstatInst, .xceCstatState,
   .xceCstatBlocks, .xceEscTallyEscMade, .xceEscTallyEscRecv, .xceWinCtrlMhi,
   .xceWinCtrlMlo, .xceCkfaultXtag, .xceCkfaultBlock, .xceCkfaultKind,
   .xceCkfaultFrom, .xceCkfaultAt, .xceDropTallyDropped, .updStepStep]

def Field.table2 : List Field :=
  [.updSealState, .updSealVerdict, .updSealFatal, .updSealSgrp,
   .updSealCken, .updSealSbuf, .updListBase, .updListCount,
   .updTallyNonfinite, .updTallyCommits, .updCkptStep, .updEngineState,
   .updEnginePart, .updEngineMismatch, .updHypValue, .updProgWord,
   .coreEpiShadowPtrAddr, .sklDevidDevid, .sklDevidValid, .sklDevidHoplim,
   .sklEpochEpoch, .sklEpochDraining, .sklEpochBank0, .sklEpochBank1,
   .sklEpochDrainLimit, .sklEpochExpired, .sklRouteOut, .sklMcastPorts,
   .sklMcastLocal, .sklMcastEp, .sklMcastValid, .sklMcastLeaves,
   .sklPortCtrlEn, .sklPortCtrlForce16, .sklPortCtrlSpthr, .sklPortStatusState,
   .sklPortStatusPeerport, .sklPortStatusPeerdev, .sklPortStatusRtt, .sklPortStatusHead]

def Field.table3 : List Field :=
  [.sklSpareMapTx0, .sklSpareMapTx0en, .sklSpareMapTx1, .sklSpareMapTx1en,
   .sklSpareMapRx0, .sklSpareMapRx0en, .sklSpareMapRx1, .sklSpareMapRx1en,
   .sklLinkTallyCsym, .sklLinkTallyRetry, .sklChanRes, .sklChanOcc,
   .sklChanXoff, .sklInjCap, .sklInjRate, .sklInjMarks,
   .sklTimeNow, .sklTimeCtrlGmpri, .sklTimeCtrlLocked, .sklTimeCtrlGm,
   .sklTimeCtrlParent, .sklTimeCtrlHops, .sklTimeCtrlGmid, .sklViolTallyCount,
   .rotSimgAddrAddr, .rotSimgCtrlStart, .rotSimgCtrlBusy, .rotSimgCtrlCheckonly,
   .rotSimgStatusCode, .rotSimgStatusSect, .rotSimgStatusRecord, .rotSimgStatusOffset,
   .rotSimgStatusApplied, .rotSimgIdFullid, .rotSimgIdLastid, .rotStructRegprot,
   .rotStructEnmodes, .rotStructQused, .rotCoreMapSlot, .hstLinkStatusUp]

def Field.table4 : List Field :=
  [.hstLinkStatusRate, .hstLinkStatusWidth, .hstLinkStatusNoflit, .hstLinkStatusReqide,
   .hstLinkStatusDowns, .hstOwnPolicyOrder, .hstOwnPolicyElig, .hstOwnPolicySecure,
   .hstOwnPolicyWindow, .hstOwnPolicyFmdev, .hstOwnPolicyFmep, .hstOwnPolicyLock,
   .hstOwnStatusState, .hstOwnStatusOwner, .hstOwnStatusSucc, .hstOwnStatusCause,
   .hstOwnStatusChanges, .hstOwnCtrlClaim, .hstOwnCtrlRelease, .hstOwnCtrlHandover,
   .hstOwnCtrlSucc, .hstBar2BaseBase, .hstHwinHaddr, .hstHwinLen,
   .hstHwinEn, .hstViolTallyCount, .svcSlotAddr, .svcSlotGo,
   .svcSlotState, .svcSlotCode, .svcSlotTag, .svcSlotDetail,
   .svcVpulsePulse, .svcPulseCount, .svcPulseStep, .svcFwbeatBeat,
   .svcLoopCursor, .svcLoopIngest, .svcLoopLoop, .svcLoopPlogcnt]

def Field.table5 : List Field :=
  [.rotBootStatusStage, .rotBootStatusBank, .rotBootStatusFellback, .rotBootStatusTrial,
   .rotBootStatusTries, .rotBootStatusReason, .rotBootStatusRtype, .rotBootStatusEarlyw,
   .rotBootStatusMlost, .rotDeviceIdId, .rotFuseStateSvnBoot, .rotFuseStateSvnFw,
   .rotFuseStateSvnTests, .rotFuseStateSvnStruct, .rotFuseStateVrevoked, .rotFuseStateOenrolled,
   .rotFuseStateOrevoked, .rotFuseStateOslot, .rotFuseStateOwned, .rotFuseStatePending,
   .rotFuseStateLifecycle, .rotFuseCtrlAddr, .rotFuseCtrlOp, .rotFuseCtrlStype,
   .rotFuseCtrlSval, .rotFuseCtrlStart, .rotFuseCtrlBusy, .rotFuseCtrlResult,
   .rotPmapQmask, .rotPmapHwin, .rotPmapValid, .rotPmapLockLock,
   .rotFlashCtrlFoff, .rotFlashCtrlDaddr, .rotFlashCtrlLen, .rotFlashCtrlOp,
   .rotFlashCtrlStart, .rotFlashCtrlBusy, .rotFlashCtrlResult, .hstResetWarm]

def Field.table6 : List Field :=
  [.hstResetPort, .hstPartCtrlFence, .hstPartCtrlFenced, .hstPartCtrlReset,
   .hstPartCtrlBusy, .hstPartCtrlCause, .coreResetReset, .coreResetBusy,
   .pwrStatusStage, .pwrStatusMode, .pwrStatusShedcap, .pwrStatusThermcap,
   .pwrStatusTlevel, .pwrStatusPending, .pwrStatusHold, .pwrStatusQuiesced,
   .pwrStatusPstate, .pwrStatusRefloss, .pwrStatusDieslow, .pwrModeCtrlSel,
   .pwrInputVin, .pwrInputIin, .pwrInputHoldus, .pwrStateCtrlTarget,
   .pwrHoursHours, .pwrShedTallyS1, .pwrShedTallyS2, .pwrShedTallyS3,
   .pwrShedTallyS4, .pwrTempTemp, .pwrTempPeak, .pwrTempVdie,
   .pwrSlotVsetE, .pwrSlotVsetT, .pwrSlotME, .pwrSlotMT,
   .pwrSlotTrend, .pwrSlotCal, .pwrSlotRetired, .hstDevStatusBoot]

def Field.table7 : List Field :=
  [.hstDevStatusDevfault, .hstDevStatusRegprot, .hstDevStatusShed, .hstDevStatusPen,
   .hstDevStatusPfenced, .hstDevStatusPattn, .updStatusStatus, .updStatusPrev,
   .hstIrqRouteKind, .hstIrqRouteArg, .errRingBase, .errRingLog2n,
   .errRingEn, .errSeqNext, .errLostDropped, .errLostLoftonly,
   .errLastRecord]

/-- Every field, in the order of the chapters. -/
def Field.all : List Field :=
  Field.table0 ++ Field.table1 ++ Field.table2 ++ Field.table3 ++ Field.table4 ++ Field.table5 ++ Field.table6 ++ Field.table7

end Sys2Proof
end

