-- ==== Sys2Proof/Syntax.lean ====
section
/-! DEFINITION. The commands: one constructor of `Instr` per row of opcode_table.json, with the operands that
come from outside. An operand is what the world outside the modelled state decides: who asks, which unit, what
arrives on a link, what a sensor reads, how long something lasted. REG_READ stands for the host's
reads through BAR0 and of configuration space too (13 R310, R316), which have no row of their own. -/

namespace Sys2Proof

/-- The four issue streams of a core (05 R99). -/
inductive Stream where
  | m | l | s | c
  deriving DecidableEq, Repr

/-- The fabric address and the transaction an MGMT packet carries, so that it can be answered (11 R259). -/
structure FmSrc where
  dev : BitVec 17
  ep : BitVec 9
  vc : BitVec 5
  job : Half
  tag : BitVec 13
  epoch : Bool
  /-- the endpoint to which the packet is addressed (13 R333) -/
  dstEp : BitVec 9 := 268
  /-- the first bytes of the packet, as a violation's record names them (13 R335) -/
  head : Bytes := []
  deriving DecidableEq, Repr

/-- The state in which a request TLP arrives: sound, failing its IDE integrity check, poisoned (EP set), or malformed under
the PCIe rules (13 R322, R335). -/
inductive TlpKind where
  | sound | broken | poisoned | malformed
  deriving DecidableEq, Repr

/-- A request TLP: its state, the first 16 bytes of its header, and its TLP prefixes (13 R310, R335). -/
structure Tlp where
  kind : TlpKind
  header : Bytes := []
  prefixes : Bytes := []
  deriving DecidableEq, Repr

/-- A TLP of each state of which nothing else matters. -/
abbrev Tlp.sound : Tlp := { kind := .sound }
abbrev Tlp.broken : Tlp := { kind := .broken }
abbrev Tlp.poisoned : Tlp := { kind := .poisoned }
abbrev Tlp.malformed : Tlp := { kind := .malformed }

/-- Who makes a request: the host through function `fn`, with `ide` when it came on the function's IDE stream;
the baseboard controller, with `secured` when in an SPDM secured session, by a message of these first bytes; a fabric
manager (13 R325, R326, R335). -/
inductive Who where
  | host (fn : Fn) (ide : Bool) (tlp : Tlp)
  | baseboard (secured : Bool) (head : Bytes)
  | fm (src : FmSrc)
  deriving DecidableEq, Repr

/-- The baseboard controller, where the bytes of its message do not matter. -/
abbrev Who.bmc (secured : Bool) : Who := .baseboard secured []

/-- A transport packet as it stands on a link (11 R257). `rsv` says that some reserved bit is set, `ends` that
the packet ends where LEN says. -/
structure Packet where
  type : Byte
  epoch : Bool := false
  mc : Bool := false
  ans : Bool := false
  cm : Bool := false
  rsv : Bool := false
  ends : Bool := true
  len : BitVec 12
  dstDev : BitVec 17
  dstEp : BitVec 9
  srcDev : BitVec 17
  srcEp : BitVec 9
  tag : BitVec 13
  vc : BitVec 5
  hoplim : Byte
  addr : BitVec 48 := 0
  job : Half
  aux : Half := 0
  data : Bytes := []
  pcrc : Word
  deriving DecidableEq, Repr

/-- Where a packet enters the router: a port, or the device's own injection (11 R261). -/
inductive Ingress where
  | port (n : Port)
  | own
  deriving DecidableEq, Repr

/-- A link flit (11 R253). `decoded` says that its codeword decoded, `crc` is its CRC field. -/
structure Flit where
  fseq : BitVec 14
  ftype : BitVec 2
  ackseq : BitVec 14
  ackv : Bool
  sop : Bool
  content : Bytes
  crc : Word
  decoded : Bool
  deriving DecidableEq, Repr

/-- The fields of configuration space that the device's behaviour depends on (13 R310, R313, R315, R321, R323, R335). -/
inductive CfgField where
  | vendorId | deviceId | classCode | serialNumber
  | memSpace | busMaster | serrEnable | msixEnable | msixMask | powerState | maxPayload | maxReadRequest | aspm
  | errReport | errDetected
  | totalVfs | initialVfs | numVfs | firstVfOffset | vfStride | vfMemSpace | bar2Size | vfBar2Size
  | aerStatus | aerMask | aerSeverity | aerCorStatus | aerCorMask | aerFirst | aerHeader | aerPrefix
  deriving DecidableEq, Repr

/-- The target of a register write that has no row of its own: a BAR0 offset with 4 or 8 bytes (13 R316), or a field of a
function's configuration space (13 R310). -/
inductive WriteTarget where
  | bar0 (off : BitVec 26) (wide : Bool) (data : Dword)
  | config (field : CfgField) (value : Word)
  deriving DecidableEq, Repr

/-- How a read is made that REG_READ stands for: over management; by the host through BAR0 or of configuration space,
which have no row of their own (13 R310, R316); or a management request whose operation code is none of R332's. -/
inductive ReadVia where
  | mgmt | bar0
  | config (field : CfgField)
  | operation (code : Byte)
  deriving DecidableEq, Repr

/-- What comes on the I3C bus beside messages: ENTDAA, or a transfer with a parity error or a malformed CCC (13 R330,
R335). -/
inductive Ccc where
  | entdaa (address : BitVec 7)
  | malformed (head : Bytes := [])
  deriving DecidableEq, Repr

/-- A packet of an MCTP message of more than one (13 R330): the first, the last, its sequence number, its tag and owner
bit, and its payload. -/
structure McpPacket where
  som : Bool
  eom : Bool
  seq : BitVec 2
  tag : BitVec 4
  payload : Bytes
  deriving DecidableEq, Repr

/-- What comes on an MCTP binding where SET_ENDPOINT_ID may: that command; a control command that has no row (13 R331); a
packet of a longer message, which the device reassembles (13 R330); or a packet with a bad header (13 R335). -/
inductive CtlMsg where
  | setEid (eid : Byte)
  | other (command : Byte) (head : Bytes := [])
  | packet (pkt : McpPacket)
  | badPacket (head : Bytes := [])
  deriving DecidableEq, Repr

/-- The two MCTP bindings (13 R330). -/
inductive Binding where
  | i3c | pcie
  deriving DecidableEq, Repr

/-- How a device DMA completion ends (13 R329). -/
inductive CplStatus where
  | sc | ur | ca | ep
  /-- the completion fails its IDE integrity check (13 R322) -/
  | broken
  deriving DecidableEq, Repr

/-- A completion that comes for device DMA: how it ends, and the first 16 bytes of its header (13 R335). -/
structure Cpl where
  status : CplStatus
  header : Bytes := []
  deriving DecidableEq, Repr

/-- A completion of each ending of which nothing else matters. -/
abbrev Cpl.sc : Cpl := { status := .sc }
abbrev Cpl.ur : Cpl := { status := .ur }
abbrev Cpl.ca : Cpl := { status := .ca }
abbrev Cpl.ep : Cpl := { status := .ep }
abbrev Cpl.broken : Cpl := { status := .broken }

/-- One entry of the beacon content (11 R277) with its receive time. -/
structure BeaconMsg where
  gmpri : Byte
  gmid : BitVec 17
  hops : Byte
  bseq : Byte
  rseq : Byte
  t3 : Dword
  t2 : Dword
  t4 : Dword
  deriving DecidableEq, Repr

/-- What the start-up self-test found on one memory die (07 R170): failing rows by bank, banks with a decoder or
port fault, and whether the valid array failed. -/
structure SelfTestFinding where
  rows : List (Nat × Nat)
  banks : List Nat
  validBad : Bool
  deriving DecidableEq, Repr

/-- A multiplier of a position that forms a wrong product as a word is fed (04 R77): the index of the word, for direct insertion
the slices of the two operands (03 R60), and how far the product as formed lies off, in units of its bit 0. -/
structure MulFault where
  pos : Nat
  mult : Fin 8
  index : Nat
  sliceA : Nat := 0
  sliceB : Nat := 0
  off : Int
  deriving DecidableEq, Repr

/-- The core that runs an MMA word, and its multipliers that form wrong products as the word is fed. -/
structure MmaRun where
  core : Core
  faults : List MulFault := []
  deriving DecidableEq, Repr

/-- One thermal sample (17 R418, R419): the highest sensor of each compute die, of the hub die and of each Granary die, in
steps of 0.125 °C, the highest HBM stack report in °C, and the mean of the rail sense points of the compute dies and of the
hub in mV. -/
structure ThermalReading where
  die0 : Int
  die1 : Int
  die2 : Int
  die3 : Int
  hub : Int
  granary : List Int
  hbm : Int
  rails : List Nat := []
  deriving DecidableEq, Repr

/-- What a field test of one core found (14 R356): core, first failing test, failures, flags, word. -/
structure CoreFinding where
  core : Core
  firstFail : Byte
  failures : Byte
  flags : Byte
  word : Word
  deriving DecidableEq, Repr

/-- How one core fares in a voltage sweep (17 R422): the lowest voltage in mV at which it passes every test at E and at T, and
whether it fails at Vcap. -/
structure SweepFinding where
  core : Core
  vpassE : Nat
  vpassT : Nat
  failE : Bool
  failT : Bool
  deriving DecidableEq, Repr

/-- What a receiver finds at the end of training (11 R250, 19 R445): the physical lanes that are good, and, where the cable
permutes the fibres of a direction, the lane here that each of the peer's physical lanes lights. -/
structure RxLanes where
  good : BitVec 34
  fibres : List Nat := []
  deriving DecidableEq, Repr

/-- The commands of opcode_table.json. -/
inductive Instr where
  /-- RUN_START (R100). -/
  | runStart (who : Who) (c : Core) (start : Half)
  /-- RUN_STOP (R134). -/
  | runStop (who : Who) (c : Core) (start : Half)
  /-- NEXT (R102). -/
  | next (c : Core)
  /-- LOOP (R113). -/
  | loop (c : Core) (st : Stream)
  /-- ENDL (R113). -/
  | endl (c : Core) (st : Stream)
  /-- BR (R115). -/
  | br (c : Core) (st : Stream)
  /-- SETP (R102). -/
  | setp (c : Core) (st : Stream)
  /-- ADDP (R102). -/
  | addp (c : Core) (st : Stream)
  /-- WORK (R102). -/
  | work (c : Core) (st : Stream)
  /-- HALT (R102). -/
  | halt (c : Core) (st : Stream)
  /-- SETLC (R102). -/
  | setlc (c : Core)
  /-- SNOP (R112). -/
  | snop (c : Core) (st : Stream)
  /-- LOAD (R141). -/
  | load (c : Core)
  /-- GATHER (R144). -/
  | gather (c : Core)
  /-- STORE (R143). -/
  | store (c : Core)
  /-- SCATTER (R145). -/
  | scatter (c : Core)
  /-- COPY (R453). -/
  | copy (c : Core)
  /-- WAIT_SATISFIED (R122). -/
  | waitSatisfied (c : Core) (st : Stream) (cycles : Nat)
  /-- PFENCE_RENDEZVOUS (R119). -/
  | pfenceRendezvous (c : Core)
  /-- MARK_RECORD_PASS (R126). -/
  | markRecordPass (c : Core)
  /-- SEAL_WORD (R127). -/
  | sealWord (c : Core)
  /-- SEAL_REPORT (R127). -/
  | sealReport (c : Core)
  /-- TILE_DONE (R128). -/
  | tileDone (c : Core)
  /-- DIE_OR_DEVICE_FLAG_SIGNAL (R120). -/
  | dieOrDeviceFlagSignal
  /-- MMA (R105). -/
  | mma (run : MmaRun)
  /-- CLR (R55). -/
  | clr (c : Core)
  /-- DRN (R95). -/
  | drn (c : Core)
  /-- LIFT (R196). -/
  | lift (c : Core)
  /-- SPILL (R146). -/
  | spill (c : Core)
  /-- RESTORE (R146). -/
  | restore (c : Core)
  /-- INSERTION (R57). -/
  | insertion (c : Core)
  /-- SWEEP (R56). -/
  | sweep (c : Core) (bank : Fin 2)
  /-- READOUT (R95). -/
  | readout (c : Core)
  /-- DRAIN_ROW_WRITE (R112). -/
  | drainRowWrite (c : Core)
  /-- VNOP (R86). -/
  | vnop (c : Core)
  /-- VFMA32 (R86). -/
  | vfma32 (c : Core)
  /-- VADD32 (R86). -/
  | vadd32 (c : Core)
  /-- VMUL32 (R86). -/
  | vmul32 (c : Core)
  /-- VMAX32 (R86). -/
  | vmax32 (c : Core)
  /-- VMIN32 (R86). -/
  | vmin32 (c : Core)
  /-- VFMA64 (R86). -/
  | vfma64 (c : Core)
  /-- VADD64 (R86). -/
  | vadd64 (c : Core)
  /-- VMUL64 (R86). -/
  | vmul64 (c : Core)
  /-- VDIV32 (R86). -/
  | vdiv32 (c : Core)
  /-- VSQRT32 (R86). -/
  | vsqrt32 (c : Core)
  /-- VEXP32 (R86). -/
  | vexp32 (c : Core)
  /-- VCVT (R450). -/
  | vcvt (c : Core)
  /-- VAMAX (R83). -/
  | vamax (c : Core)
  /-- VSCALE (R84). -/
  | vscale (c : Core)
  /-- VLD (R86). -/
  | vld (c : Core)
  /-- VST (R86). -/
  | vst (c : Core)
  /-- FEED_SLOT_READY (R147). -/
  | feedSlotReady (c : Core) (b : Bool) (cycles : Nat)
  /-- LOAD_LAND (R141). -/
  | loadLand (c : Core) (op : Nat)
  /-- STORE_ACK (R121). -/
  | storeAck (c : Core) (op : Nat)
  /-- COPY_COMPLETE (R121). -/
  | copyComplete (c : Core) (op : Nat)
  /-- BOUND_WORDS_READ (R139). -/
  | boundWordsRead (c : Core) (st : Stream)
  /-- WORK_FETCHADD (R150). -/
  | workFetchadd (w : Ctr)
  /-- WORK_ANSWER (R102). -/
  | workAnswer (c : Core) (st : Stream)
  /-- WORK_ARM (R151). -/
  | workArm (who : Who) (w : Ctr)
  /-- PSHADOW_WRITE (R118). -/
  | pshadowWrite (who : Who) (c : Core) (n : Byte) (value : Dword)
  /-- PARAM_READY_WRITE (R118). -/
  | paramReadyWrite (who : Who) (c : Core) (ready : Bool)
  /-- CORE_RESET (R393). -/
  | coreReset (who : Who) (c : Core)
  /-- CORE_DONE (R393). -/
  | coreDone (c : Core)
  /-- GRANARY_ACCESS (R159). -/
  | granaryAccess (q : MemDie) (bank : Byte) (slot : Fin 64)
  /-- GRANARY_REFRESH (R161). -/
  | granaryRefresh (q : MemDie) (bank : Fin 260)
  /-- GRN_SCHED_WRITE (R160). -/
  | grnSchedWrite (who : Who) (q : MemDie) (entry : Fin 64) (owner : Word)
  /-- SCHED_FRAME_APPLY (R160). -/
  | schedFrameApply (q : MemDie)
  /-- FLASH_CLEAR (R167). -/
  | flashClear (who : Who) (q : MemDie)
  /-- FLASH_CLEAR_DONE (R167). -/
  | flashClearDone (q : MemDie)
  /-- SELFTEST (R170). -/
  | selftest (who : Who) (q : MemDie)
  /-- SELFTEST_DONE (R170). -/
  | selftestDone (q : MemDie) (found : SelfTestFinding)
  /-- HBM_ACCESS (R182). -/
  | hbmAccess (pc : PChan)
  /-- HBM_REFRESH (R183). -/
  | hbmRefresh (pc : PChan) (bank : Fin 64)
  /-- PATROL_SCRUB (R184). -/
  | patrolScrub (pc : PChan)
  /-- HBM_TEMP_REPORT (R183). -/
  | hbmTempReport (k : Stack) (temp : Byte)
  /-- INJECT_ARM (R452). -/
  | injectArm (who : Who) (k : Stack) (value : Dword)
  /-- REDUCE_SCATTER (R188). -/
  | reduceScatter (g : Group)
  /-- ALL_GATHER (R188). -/
  | allGather (g : Group)
  /-- ALL_REDUCE (R188). -/
  | allReduce (g : Group)
  /-- BROADCAST (R188). -/
  | broadcast (g : Group)
  /-- ALL_TO_ALL (R188). -/
  | allToAll (g : Group)
  /-- SEND (R188). -/
  | send (g : Group)
  /-- RECV (R212). -/
  | recv (g : Group)
  /-- LIFT_ACCUMULATE (R198). -/
  | liftAccumulate (d : Die)
  /-- BLOCK_READY (R204). -/
  | blockReady (g : Group) (block : Word)
  /-- BLOCK_PACKET (R208). -/
  | blockPacket (pkt : Packet)
  /-- EXTENT_NOTICE (R206). -/
  | extentNotice (pkt : Packet)
  /-- XREC (R207). -/
  | xrec (pkt : Packet)
  /-- AGREED_NOTICE (R207). -/
  | agreedNotice (pkt : Packet)
  /-- DATA_PACKET (R212). -/
  | dataPacket (pkt : Packet)
  /-- POISON_NOTICE (R194). -/
  | poisonNotice (pkt : Packet)
  /-- COLLECTIVE_COMPLETE (R195). -/
  | collectiveComplete (g : Group)
  /-- SEAL_GATHER (R220). -/
  | sealGather (p : Part)
  /-- VERDICT_QUERY (R455). -/
  | verdictQuery (pkt : Packet)
  /-- VERDICT_ANSWER (R455). -/
  | verdictAnswer (pkt : Packet)
  /-- VERDICT_QUERY_RETRY (R455). -/
  | verdictQueryRetry (p : Part) (elapsedUs : Nat)
  /-- COMMIT (R231). -/
  | commit (p : Part) (mismatch : Option Nat)
  /-- RELEASE (R225). -/
  | release (p : Part)
  /-- UPD_PREPARE (R219). -/
  | updPrepare (p : Part)
  /-- BUDDY_SLOT_VALID (R245). -/
  | buddySlotValid (p : Part)
  /-- FLIT_RECEIVE (R255). -/
  | flitReceive (n : Port) (f : Flit)
  /-- RETRY (R255). -/
  | retry (n : Port) (fseq : BitVec 14)
  /-- RETRY_REPEAT (R255). -/
  | retryRepeat (n : Port) (elapsedNs : Nat)
  /-- FLOW (R254). -/
  | flow (n : Port) (xoff : BitVec 48)
  /-- LANESWAP (R251). -/
  | laneswap (n : Port) (lane : Fin 32) (spare : Fin 2) (count : BitVec 10)
  /-- LANESWAP_REPEAT (R251). -/
  | laneswapRepeat (n : Port) (elapsedNs : Nat)
  /-- LANE_SWITCH (R251). -/
  | laneSwitch (n : Port) (tx : Bool) (spare : Fin 2) (cwc : BitVec 10)
  /-- LANE_FAIL (R251). -/
  | laneFail (n : Port) (lane : Fin 34) (lockLost : Bool) (skew : Nat) (corrected : Nat) (cwc : BitVec 10)
  /-- TRAIN (R249). -/
  | train (n : Port) (peerDev : BitVec 17) (peerPort : BitVec 3) (rttNs : Nat)
  /-- LIGHT_DETECT (R249). -/
  | lightDetect (n : Port)
  /-- LIGHT_LOSS (R276). -/
  | lightLoss (n : Port)
  /-- TRAINING_DONE (R249). -/
  | trainingDone (n : Port) (goodTx : BitVec 34) (seen : RxLanes)
  /-- TRAINING_TIMEOUT (R249). -/
  | trainingTimeout (n : Port) (elapsedUs : Nat)
  /-- BEACON (R278). -/
  | beacon (n : Port) (b : BeaconMsg)
  /-- BEACON_SEND (R277). -/
  | beaconSend (n : Port)
  /-- GRANDMASTER_ELECTION (R279). -/
  | grandmasterElection (silentNs : Nat)
  /-- TIME_OFFSET_ALARM (R279). -/
  | timeOffsetAlarm (offsetNs : Int) (lastedUs : Nat)
  /-- PACKET_ROUTE (R262). -/
  | packetRoute (src : Ingress) (pkt : Packet) (xoffNs : List Nat)
  /-- WRITE (R258). -/
  | write (pkt : Packet)
  /-- READ (R258). -/
  | read (pkt : Packet)
  /-- READ_DATA (R258). -/
  | readData (pkt : Packet)
  /-- ACK (R259). -/
  | ack (pkt : Packet)
  /-- NAK (R276). -/
  | nak (pkt : Packet)
  /-- SVC_REQUEST (R260). -/
  | svcRequest (pkt : Packet)
  /-- EPOCH_ARM (R265). -/
  | epochArm (pkt : Packet)
  /-- EPOCH_DONE (R265). -/
  | epochDone (pkt : Packet)
  /-- EPOCH_RETIRE (R265). -/
  | epochRetire (pkt : Packet)
  /-- EPOCH_FLIP (R265). -/
  | epochFlip
  /-- DRAIN_LIMIT (R267). -/
  | drainLimit (elapsedUs : Nat)
  /-- INJECTION_RATE_RAISE (R274). -/
  | injectionRateRaise (vc : Vc) (sinceCmeNs : Nat)
  /-- BANK_STATE_WRITE (R264). -/
  | bankStateWrite (who : Who) (bank : Fin 2) (state : BitVec 2)
  /-- PORT_EN_WRITE (R249). -/
  | portEnWrite (who : Who) (n : Port) (en : Bool)
  /-- STRUCT_LOAD (R288). -/
  | structLoad (who : Who) (checkOnly : Bool)
  /-- STRUCT_LOAD_DONE (R290). -/
  | structLoadDone
  /-- BAR2_READ (R317). -/
  | bar2Read (fn : Fn) (ide : Bool) (tlp : Tlp) (off : BitVec 39) (len : Nat)
  /-- BAR2_WRITE (R317). -/
  | bar2Write (fn : Fn) (ide : Bool) (tlp : Tlp) (off : BitVec 39) (data : Bytes)
  /-- REGISTER_WRITE (R10). -/
  | registerWrite (who : Who) (target : WriteTarget)
  /-- DMA_COMPLETION (R321). -/
  | dmaCompletion (tag : Nat) (cpl : Cpl) (data : Bytes)
  /-- DMA_TIMEOUT (R329). -/
  | dmaTimeout (tag : Nat) (elapsedMs : Nat)
  /-- VF_ENABLE_CLEAR (R313). -/
  | vfEnableClear
  /-- FLR_VF (R314). -/
  | flrVf (f : Fn)
  /-- FLR_PF0 (R314). -/
  | flrPf0
  /-- LINK_DOWN (R314). -/
  | linkDown
  /-- LINK_UP (R311). -/
  | linkUp (flit : Bool) (rate : Fin 4) (width : Fin 4)
  /-- IDE_KM (R322). -/
  | ideKm (fn : Fn) (secured : Bool)
  /-- MSIX_UNMASK (R323). -/
  | msixUnmask (fn : Fn) (ide : Bool) (vec : Fin 64)
  /-- ENTDAA (R330). -/
  | entdaa (ccc : Ccc)
  /-- SET_ENDPOINT_ID (R331). -/
  | setEndpointId (b : Binding) (msg : CtlMsg)
  /-- GET_ENDPOINT_ID (R331). -/
  | getEndpointId (b : Binding)
  /-- GET_ENDPOINT_UUID (R331). -/
  | getEndpointUuid (b : Binding)
  /-- GET_MCTP_VERSION_SUPPORT (R331). -/
  | getMctpVersionSupport (b : Binding)
  /-- GET_MESSAGE_TYPE_SUPPORT (R331). -/
  | getMessageTypeSupport (b : Binding)
  /-- GET_VENDOR_DEFINED_MESSAGE_SUPPORT (R331). -/
  | getVendorDefinedMessageSupport (b : Binding)
  /-- REG_READ (R332). -/
  | regRead (who : Who) (via : ReadVia) (off : BitVec 26) (size : Byte)
  /-- REG_WRITE (R332). -/
  | regWrite (who : Who) (off : BitVec 26) (size : Byte) (data : BitVec 128)
  /-- OWN_CLAIM (R326). -/
  | ownClaim (who : Who)
  /-- OWN_RELEASE (R327). -/
  | ownRelease (who : Who)
  /-- OWN_HANDOVER (R327). -/
  | ownHandover (who : Who) (succ : Byte)
  /-- HEARTBEAT (R327). -/
  | heartbeat (who : Who)
  /-- ELECTION_WINDOW_END (R325). -/
  | electionWindowEnd (elapsedMs : Nat)
  /-- HANDOVER_EXPIRE (R325). -/
  | handoverExpire (elapsedMs : Nat)
  /-- OWNERSHIP_LAPSE (R327). -/
  | ownershipLapse (silentMs : Nat)
  /-- GET_VERSION (R334). -/
  | getVersion (b : Binding) (msg : Bytes)
  /-- GET_CAPABILITIES (R334). -/
  | getCapabilities (b : Binding) (msg : Bytes)
  /-- NEGOTIATE_ALGORITHMS (R334). -/
  | negotiateAlgorithms (b : Binding) (msg : Bytes)
  /-- GET_DIGESTS (R334). -/
  | getDigests (b : Binding) (msg : Bytes)
  /-- GET_CERTIFICATE (R334). -/
  | getCertificate (b : Binding) (msg : Bytes)
  /-- CHALLENGE (R334). -/
  | challenge (b : Binding) (msg : Bytes)
  /-- GET_MEASUREMENTS (R379). -/
  | getMeasurements (b : Binding) (msg : Bytes)
  /-- KEY_EXCHANGE (R334). -/
  | keyExchange (b : Binding) (msg : Bytes)
  /-- FINISH (R334). -/
  | finish (b : Binding) (session : Word) (msg : Bytes)
  /-- END_SESSION (R334). -/
  | endSession (b : Binding) (session : Word) (msg : Bytes)
  /-- SPDM_HEARTBEAT (R334). -/
  | spdmHeartbeat (b : Binding) (session : Word) (msg : Bytes)
  /-- KEY_UPDATE (R334). -/
  | keyUpdate (b : Binding) (session : Word) (msg : Bytes)
  /-- MLDSA_SIG (R381). -/
  | mldsaSig (b : Binding) (off : Word) (msg : Bytes)
  /-- GET_CHAIN (R381). -/
  | getChain (b : Binding) (off : Word) (msg : Bytes)
  /-- ATTEST (R382). -/
  | attest (b : Binding) (nonce : BitVec 256) (msg : Bytes)
  /-- REPORT (R381). -/
  | report (b : Binding) (off : Word) (msg : Bytes)
  /-- LOG (R381). -/
  | log (b : Binding) (off : Word) (msg : Bytes)
  /-- CALL_SUBMIT (R336). -/
  | callSubmit (who : Who) (f : Fn) (slot : SlotNo) (addr : BitVec 48)
  /-- CALL_START (R341). -/
  | callStart (f : Fn) (slot : SlotNo)
  /-- CALL_COMPLETE (R339). -/
  | callComplete (f : Fn) (slot : SlotNo)
  /-- LOAD_PROGRAM (R345). -/
  | loadProgram (f : Fn) (slot : SlotNo)
  /-- STEP_LOOP (R346). -/
  | stepLoop (f : Fn) (slot : SlotNo)
  /-- SEAL (R349). -/
  | seal (f : Fn) (slot : SlotNo)
  /-- INGEST (R350). -/
  | ingest (f : Fn) (slot : SlotNo)
  /-- BATCH_LANDED (R350). -/
  | batchLanded (p : Part)
  /-- CHECKPOINT (R352). -/
  | checkpoint (f : Fn) (slot : SlotNo)
  /-- RESTORE_CALL (R353). -/
  | restoreCall (f : Fn) (slot : SlotNo)
  /-- REPLAY (R354). -/
  | replay (f : Fn) (slot : SlotNo)
  /-- INSTALL (R355). -/
  | install (f : Fn) (slot : SlotNo)
  /-- CLEARWIN (R355). -/
  | clearwin (f : Fn) (slot : SlotNo)
  /-- PROBE (R355). -/
  | probe (f : Fn) (slot : SlotNo)
  /-- PROBE_TIMEOUT (R355). -/
  | probeTimeout (f : Fn) (slot : SlotNo) (elapsedUs : Nat)
  /-- FIELD_TEST (R356). -/
  | fieldTest (f : Fn) (slot : SlotNo) (found : List CoreFinding)
  /-- MARGIN_CAL (R422). -/
  | marginCal (f : Fn) (slot : SlotNo) (found : List SweepFinding)
  /-- ERRLOG_READ (R357). -/
  | errlogRead (f : Fn) (slot : SlotNo)
  /-- CANCEL (R358). -/
  | cancel (f : Fn) (slot : SlotNo)
  /-- FWBEAT (R359). -/
  | fwbeat (sc : Sc)
  /-- HOURS_WRITE (R425). -/
  | hoursWrite (hours : BitVec 24)
  /-- POR (R392). -/
  | por (found : List SelfTestFinding) (hbmFailed : Byte)
  /-- WARM_RESET (R392). -/
  | warmReset (who : Who)
  /-- PERST (R440). -/
  | perst
  /-- APPLY (R368). -/
  | apply (who : Who) (addr : BitVec 48)
  /-- SVN_COMMIT (R369). -/
  | svnCommit (who : Who) (stype : BitVec 2) (value : BitVec 7)
  /-- FUSE_OP_DONE (R368). -/
  | fuseOpDone (words : Option Nat)
  /-- ERASE (R383). -/
  | erase (who : Who) (foff : BitVec 26) (daddr : BitVec 48) (len : BitVec 24)
  /-- PROGRAM (R383). -/
  | program (who : Who) (foff : BitVec 26) (daddr : BitVec 48) (len : BitVec 24)
  /-- FLASH_READ (R383). -/
  | flashRead (who : Who) (foff : BitVec 26) (daddr : BitVec 48) (len : BitVec 24)
  /-- SWITCH (R383). -/
  | switch (who : Who)
  /-- CONFIRM (R383). -/
  | confirm (who : Who)
  /-- FLASH_OP_DONE (R383). -/
  | flashOpDone
  /-- ERR_RECORD_WRITE (R388). -/
  | errRecordWrite
  /-- ERR_RING_WRITE (R435). -/
  | errRingWrite (who : Who) (value : Dword)
  /-- REGISTER_UPSET (R389). -/
  | registerUpset (f : Option Field) (idx : Nat) (allDiffer : Bool)
  /-- TAKE (R430). -/
  | take (who : Who) (blk : Block) (c : Core) (held : Bool)
  /-- FENCE (R395). -/
  | fence (who : Who) (p : Part)
  /-- FENCE_TIMEOUT (R395). -/
  | fenceTimeout (p : Part) (elapsedUs : Nat)
  /-- FENCED (R397). -/
  | fenced (p : Part)
  /-- UNFENCE (R397). -/
  | unfence (who : Who) (p : Part)
  /-- PART_RESET (R398). -/
  | partReset (who : Who) (p : Part)
  /-- PART_DONE (R398). -/
  | partDone (p : Part)
  /-- PORT_RESET (R392). -/
  | portReset (who : Who) (n : Port)
  /-- QUARANTINE_EXPIRE (R396). -/
  | quarantineExpire (tag : BitVec 13) (elapsedMs : Nat)
  /-- FENCED_NOTICE (R403). -/
  | fencedNotice (pkt : Packet)
  /-- UNFENCED_NOTICE (R403). -/
  | unfencedNotice (pkt : Packet)
  /-- INPUT_SAMPLE (R408). -/
  | inputSample (mv : Nat) (ma : Nat)
  /-- SHED_STAGE_LIFT (R408). -/
  | shedStageLift
  /-- HOLDUP_EXPIRE (R411). -/
  | holdupExpire
  /-- RETENTION_EXPIRE (R412). -/
  | retentionExpire
  /-- STAGE5_EXIT (R412). -/
  | stage5Exit
  /-- MODE_SELECT (R414). -/
  | modeSelect (who : Who) (sel : BitVec 2)
  /-- RAIL_SETTLED (R416). -/
  | railSettled
  /-- REFCLK_LOSS (R417). -/
  | refclkLoss (missingUs : Nat)
  /-- REFCLK_RETURN (R417). -/
  | refclkReturn (presentUs : Nat)
  /-- THERMAL_SAMPLE (R419). -/
  | thermalSample (r : ThermalReading)
  /-- THERMAL_LEVEL_DROP (R419). -/
  | thermalLevelDrop
  /-- THERMAL_COOLDOWN (R419). -/
  | thermalCooldown
  /-- TARGET_D0 (R420). -/
  | targetD0 (who : Who)
  /-- TARGET_IDLE (R420). -/
  | targetIdle (who : Who)
  /-- TARGET_DROWSE (R420). -/
  | targetDrowse (who : Who)
  /-- POWER_APPLY (R438). -/
  | powerApply (mv : Nat) (heldMs : Nat)
  /-- STORE_CHARGED (R438). -/
  | storeCharged
  /-- PERST_DEASSERTION (R440). -/
  | perstDeassertion (asserted100us : Bool)
  /-- VF_ENABLE_SET (R313). -/
  | vfEnableSet
  deriving DecidableEq, Repr

end Sys2Proof
end

