-- ==== Sys2Proof/Machine/State.lean ====
section
/-! DEFINITION. The state of the device as plain data: the register file, device memory with its check and
valid bits, the cores, the engines, the links, the partitions and their services, and the queue of waiting
commands. Tables are association lists in rising order of their key that hold no entry equal to the default. -/

namespace Sys2Proof.Machine

/-! ### Exact numbers and long registers (03) -/

/-- An exact value: a NaN, an infinity, or `m × 2^e`, where `negZero` marks a zero of negative sign. -/
inductive XVal where
  | nan
  | inf (neg : Bool)
  | fin (m : Int) (e : Int) (negZero : Bool)
  deriving DecidableEq, Repr

/-- What enters a conversion: an exact value, and the sign in which a saturated register overflows every destination
(03 R69). -/
structure CVal where
  x : XVal
  sat : Option Bool := none
  deriving DecidableEq, Repr

/-- The special lane of a long register (03 R53, R66). -/
inductive Lane where
  | none | pinf | ninf | nan
  deriving DecidableEq, Repr

/-- A long register (03 R51, R53) in its limbs: signed digits of 64 bits and signed carry counts, the residue
modulo 2^31 − 1, the flags of the tag and the insertions since the last sweep. Ten limbs, or seventy for the
chained register of an F64 tile (03 R61). -/
structure LongReg where
  digit : List Int := List.replicate 10 0
  carry : List Int := List.replicate 10 0
  count : Nat := 0
  res : Nat := 0
  lane : Lane := .none
  sat : Bool := false
  chaff : Bool := false
  t2 : Bool := false
  nzero : Bool := false
  deriving DecidableEq, Repr

/-- The content kind of a bank (03 R451). -/
inductive BankKind where
  | empty | ordinary | t2 | chain
  deriving DecidableEq, Repr

/-- What belongs to a bank beside its registers: its kind, the level-1 windows by position, the place in the
open scale block, the feed's cursors in the slots of A and B (05 R105), and the scale registers of row 0 of A
and of B for an INT pair (04 R82). -/
structure BankX where
  kind : BankKind := .empty
  /-- the open level-1 windows by position: the sum as formed, and as the residue path forms it from the operands (03 R58,
  R71) -/
  windows : List (Nat × Int × Int) := []
  blockPos : Nat := 0
  curA : Nat := 0
  curB : Nat := 0
  /-- the rings last fed, by descriptor -/
  ringA : Nat := 0
  ringB : Nat := 0
  chanA : Int := 0
  chanB : Int := 0
  intPair : Bool := false
  deriving DecidableEq, Repr

/-- What a term in the matrix pipeline does to its register: add `t × 2^b`; add `t × 2^b` where a faulty multiplier has made
the term differ from the one that the residue path forms from the operands (03 R71, 04 R77); take a special product; mark
chaff; or, in COMPAT_T2, add the exact sum of a K-block (03 R57, R62, R64, R66). -/
inductive TermKind where
  | add (t : Int) (b : Nat)
  | stray (t predicted : Int) (b : Nat)
  | special (lane : Lane)
  | chaff
  | t2 (sum : XVal) (allNegZero : Bool)
  deriving DecidableEq, Repr

structure Term where
  chain : Bool
  bank : Fin 2
  pos : Nat
  what : TermKind
  deriving DecidableEq, Repr

/-! ### Streams and the sequencer (05) -/

/-- A flag as a word names it, with the die or the core that its scope adds (05 R109). -/
inductive FlagRef where
  | loc (c : Core) (i : Nat)
  | die (d : Die) (i : Nat)
  | dev (i : Nat)
  deriving DecidableEq, Repr

inductive StreamRun where
  | idle | running | halted | stopped
  deriving DecidableEq, Repr

/-- One open loop level: the first row of the body, the row of its ENDL and the iterations left (05 R113). -/
structure LoopX where
  first : Nat
  last : Nat
  remain : Nat
  deriving DecidableEq, Repr

/-- The parts of the word in hand that have been made (05 R110). `begun` says that the word was found sound and has
issued; `claimed` that its work-counter claim is out; `bounds` that its MEMORY bound words are being read. What the word
took as it issued stands beside them: P[PSEL], the COUNT of the level that a LOOP would open, and for a readout the C and
bias descriptors with their extents (05 R110, 06 R139). -/
structure WordDone where
  begun : Bool := false
  waited : Bool := false
  fenced : Bool := false
  feedA : Bool := false
  feedB : Bool := false
  clr : Bool := false
  mxu : Bool := false
  drn : Bool := false
  vec : Bool := false
  claimed : Bool := false
  bounds : Bool := false
  pval : Nat := 0
  lcount : Nat := 0
  cdesc : Nat := 0
  cext : Nat × Nat × Nat := (0, 0, 0)
  bias : Option (Nat × Nat) := none
  deriving DecidableEq, Repr

/-- What a word of L, S or C took at issue (05 R110, 06 R139): its tile index and the extents of HANDLE and of
XHANDLE, with 0 for an extent that a MEMORY bound word gives. -/
structure BoundX where
  tile : Nat
  ext : Nat × Nat × Nat
  xext : Nat × Nat × Nat
  deriving DecidableEq, Repr

/-- A stream: the address of its word, the open loop levels (innermost first), the parts of the word made, what
the word took at issue, the flag value a die or device unit answered last, and the half core cycles spent in the
present hold, with the number that tells this hold from another. -/
structure StreamX where
  pc : Nat := 0
  run : StreamRun := .idle
  loops : List LoopX := []
  done : WordDone := {}
  bound : Option BoundX := none
  lastAnswer : Nat := 0
  halfCycles : Nat := 0
  holdKey : Nat := 0
  deriving DecidableEq, Repr

/-- A MARK record in the core's queue (05 R126). -/
structure MarkRec where
  time : Nat
  addr : Nat
  imm : Nat
  stream : Stream
  lost : Bool
  step : Nat
  deriving DecidableEq, Repr

/-- Where a core stands with the SEAL of its step (05 R127): the word is closed, the stream is held, or the core has
reported. -/
inductive SealPhase where
  | none | due | held | reported
  deriving DecidableEq, Repr

/-! ### Operations in flight of a core (06) -/

/-- A ring of larder slots, by the number of the descriptor that names it (06 R147): the slot filled next, the slot
the feed presents, and the slots that are claimed by a load and that carry the full mark. -/
structure RingX where
  fill : Nat := 0
  feed : Nat := 0
  claimed : List Nat := []
  full : List Nat := []
  deriving DecidableEq, Repr

/-- What is read out of a bank (04 R95, R98). -/
inductive ReadKind where
  | drain | lift | spill
  deriving DecidableEq, Repr

/-- A request of an engine in flight, at most one aligned 2 KiB block (06 R153): its first byte, its length, and the lines
or granules of it that have not been answered. -/
structure OpenReq where
  at' : Nat
  len : Nat
  left : Nat
  deriving DecidableEq, Repr

/-- A readout asked for by a word: the word, its row, P[PSEL] before it, its C and bias descriptors as they stood
with their extents, and what the bank's last MMA word left for an INT tile. -/
structure Readout where
  id : Nat
  kind : ReadKind
  bank : Fin 2
  chain : Bool
  word : Nat
  row : Nat
  pval : Nat
  handle : Nat
  cdesc : Nat
  ext : Nat × Nat × Nat
  bias : Option (Nat × Nat)
  chanA : Int
  chanB : Int
  intPair : Bool
  deriving DecidableEq, Repr

/-- A tile taken out of the crib (04 R95): its registers, swept, by position; the next row to be written; the
writes not yet acknowledged, the requests that carry them and the writes that wait for a drain tag (06 R153); under a
transposed C the rows of positions that await the rest of their storage block; the running sum of the MSE record and its
counts (04 R93). -/
structure Taken where
  req : Readout
  t2 : Bool
  regs : List (Nat × LongReg)
  row : Nat
  left : Nat
  reqs : List OpenReq := []
  todo : List (Nat × Bytes) := []
  held : List (List CVal) := []
  mse : XVal
  mseIn : Nat
  mseOut : Nat
  deriving DecidableEq, Repr

/-- A LOAD or GATHER in flight (06 R141, R144): the runs of bits it moves (source bit address, larder bit address,
bits), the header it writes and where, the ring slot it fills, its answers outstanding, its requests in flight and those
that wait for a read tag (06 R153), and what they brought. -/
structure LoadOp where
  id : Nat
  word : Nat
  plan : List (Nat × Nat × Nat)
  header : Bytes
  headerAt : Nat
  ring : Option (Nat × Nat)
  left : Nat
  reqs : List OpenReq
  todo : List (Nat × Nat)
  got : List Host.Cell
  deriving DecidableEq, Repr

/-- A STORE, SCATTER or COPY in flight: its requests in flight, and the writes that wait for a write tag (06 R153). `plan`
gives the runs of bits a COPY moves, `reading` whether it still reads. -/
structure MoveOp where
  id : Nat
  word : Nat
  left : Nat
  reqs : List OpenReq
  todo : List (Nat × Bytes)
  reading : Bool
  plan : List (Nat × Nat × Nat)
  got : List Host.Cell
  deriving DecidableEq, Repr

/-- The engine of a core that a memory request belongs to. -/
inductive Engine where
  | load | store | copy | drain
  deriving DecidableEq, Repr

/-- One line or granule request of an engine (07 R158, 08 R182): the bytes it writes with their addresses, the number of
bytes it reads from `addr`, or the bytes of a read that has taken effect and awaits its turn to be answered. -/
inductive MemAct where
  | read (n : Nat)
  | write (data : List Host.Cell)
  | held (data : Bytes)
  deriving DecidableEq, Repr

structure MemReq where
  core : Core
  engine : Engine
  op : Nat
  addr : Nat
  act : MemAct
  /-- a write that its HBM controller has accepted, and so acknowledged (08 R182) -/
  acked : Bool := false
  deriving DecidableEq, Repr

/-- An entry of a work counter's queue (06 R150, R151): a claim with its increment, or an arm. A claim whose core was
started afresh before the answer has nobody to go to. -/
inductive CtrAsk where
  | claim (c : Core) (st : Stream) (n : Nat)
  | orphan (n : Nat)
  | arm
  deriving DecidableEq, Repr

/-- A tile posted to an XCE by TILE_DONE (05 R128). -/
structure TilePost where
  core : Core
  handle : Nat
  tile : Nat
  deriving DecidableEq, Repr

/-- A core. -/
structure CoreX where
  sm : StreamX := {}
  sl : StreamX := {}
  ss : StreamX := {}
  sc : StreamX := {}
  flags : List (Nat × Nat) := []
  dirty : List Nat := []
  marks : List MarkRec := []
  markLost : Bool := false
  vregs : List (Nat × Nat) := []
  bank0 : BankX := {}
  bank1 : BankX := {}
  crib : List (Nat × LongReg) := []
  chain : List (Nat × LongReg) := []
  pipe : List Term := []
  readouts : List Readout := []
  taken : List Taken := []
  finished : List Taken := []
  rings : List (Nat × RingX) := []
  loads : List LoadOp := []
  stores : List MoveOp := []
  copies : List MoveOp := []
  nextOp : Nat := 0
  answers : List (Stream × Nat) := []
  sealPhase : SealPhase := .none
  sealWait : List Nat := []
  resetting : Option (Bool × Nat) := none
  /-- the core's error tally: corrected errors of its SRAM (07 R173) -/
  errTally : Nat := 0
  deriving DecidableEq, Repr

/-! ### Granary and HBM (07, 08) -/

/-- What a memory die holds beside its registers and cells. -/
structure GrnX where
  /-- the schedule entries written but not yet in force (07 R160) -/
  written : List (Nat × Nat) := []
  /-- the schedule in force where it differs from the reset table -/
  table : List (Nat × Nat) := []
  /-- the next row each bank refreshes (07 R161) -/
  refresh : List (Nat × Nat) := []
  /-- the last self-test marked the die FAILED (07 R170) -/
  failed : Bool := false
  /-- the spare-bank map as the last self-test left it, in the loft: spare bank and the bank it replaces (07 R170) -/
  selfSpares : List (Nat × Nat) := []
  deriving DecidableEq, Repr

/-- What an HBM stack holds beside its registers and cells: next row refreshed by pseudo-channel and bank, next
granule scrubbed by pseudo-channel (08 R183, R184). -/
structure HbmX where
  refresh : List (Nat × Nat) := []
  scrub : List (Nat × Nat) := []
  /-- an arm of HBM_INJECT is not latched yet (18 R428) -/
  arming : Bool := false
  deriving DecidableEq, Repr

/-! ### Collectives (09) -/

/-- One entry of a collective list (09 R193). -/
structure CollEntry where
  op : Nat
  agreed : Bool
  ver : Nat
  orec : Bool
  fmt : Nat
  scsrc : Nat
  inst : Nat
  sflag : Nat
  count : Nat
  contrib : Nat
  peer : Nat
  scale : Nat
  src : Nat
  dst : Nat
  wtab : Nat
  vlog : Nat
  vhdr : Nat
  deriving DecidableEq, Repr

/-- One element of a block accumulator: the exact value in units of 2^−304, its special lane and the saturation
states (09 R198, R201). -/
structure ElemX where
  n : Int
  lane : Lane
  satp : Bool
  satn : Bool
  deriving DecidableEq, Repr

/-- A block accumulator (09 R198): 32 elements, the lifts added, the contribution residue. -/
structure AccX where
  elems : List ElemX := []
  lifts : Nat := 0
  residue : Nat := 0
  deriving DecidableEq, Repr

/-- What a window table entry or an EXTENT record says of a block (09 R203, R206). -/
structure ExtentX where
  xhi : Nat := 0
  xlo : Nat := 0
  nz : Bool := false
  esc : Bool := false
  deriving DecidableEq, Repr

/-- An arrived block that is incomplete or waits for this rank's contribution (09 R208). `halves` holds bit h once
half h of a WIDE block has come. -/
structure HeldBlock where
  block : Nat
  form : Nat
  w : Nat
  elems : List ElemX
  cks : Nat
  ext : ExtentX
  hops : Nat
  eschop : Nat
  halves : Nat
  deriving DecidableEq, Repr

/-- A parallel group's engine state (09 R193 to R214): the active entry; the accumulators by block; the blocks this
rank has passed on or delivered; arrived blocks; under AGREED the windows, the blocks whose pass this rank began and
the passes that wait here; the extents of the own shard; the chunks landed, by owner and index. `stopped` says that
the entry was poisoned on fetch or by a notice, `noFlag` that its SFLAG is not signalled. -/
structure GroupX where
  entry : Option CollEntry := none
  acc : List (Nat × AccX) := []
  sent : List Nat := []
  held : List HeldBlock := []
  windows : List (Nat × (Nat × Nat)) := []
  xsent : List Nat := []
  xheld : List (Nat × List ExtentX) := []
  extents : List (Nat × ExtentX) := []
  extentSent : Bool := false
  gathering : Bool := false
  chunks : List (Nat × Nat) := []
  unacked : Nat := 0
  poisoned : Bool := false
  stopped : Bool := false
  noFlag : Bool := false
  poisonLater : List Nat := []
  /-- malformed packets that name entries not yet active: the entry and the block -/
  badLater : List (Nat × Nat) := []
  /-- the entries of the step that discard whatever names them (09 R194) -/
  discards : List Nat := []
  /-- a RECV whose bytes did not fit COUNT: it awaits no more (09 R212) -/
  counted : Bool := false
  /-- the entry is the seal collective (10 R220) -/
  isSeal : Bool := false
  deriving DecidableEq, Repr

/-- A lifted tile in the queue of an XCE (09 R196, R199). -/
structure LiftX where
  core : Core
  xtag : Nat
  cdesc : BitVec 512
  ext : Nat × Nat × Nat
  tile : Nat
  regs : List (Nat × LongReg)
  deriving DecidableEq, Repr

/-! ### The seal, the Update Engine and the services of a partition (10, 12, 14) -/

/-- One CARVE region (12 R299), LEN in bytes. -/
structure RegionX where
  base : Nat
  len : Nat
  use : Nat
  deriving DecidableEq, Repr

/-- One parallel group as a structure image gives it (12 R301). -/
structure RingRec where
  g : Nat
  serv : Nat
  mcen : Bool
  mcast : Nat
  rank : Nat
  mtaddr : Nat
  members : List Nat
  deriving DecidableEq, Repr

/-- The state of a partition that a structure image gives (12 R296 to R300). -/
structure PartImg where
  fmask : Nat := 0x7FF
  /-- the core groups, each as a mask over the cores -/
  groups : List Nat := []
  /-- the parallel groups of the partition -/
  pgroups : List Nat := []
  rings : List RingRec := []
  job : Nat := 0
  sgrp : Nat := 0
  cken : Bool := false
  buddy : Nat := 0
  ckbase : Nat := 0
  cklen : Nat := 0
  wcmask : Nat := 0
  devFirst : Nat := 0
  devCount : Nat := 0
  dieFlags : List (Nat × Nat) := []
  carve : List RegionX := []
  deriving DecidableEq, Repr

/-- One entry of the tensor list as prepared (10 R229), with the snapshot of its program and hyperparameters. -/
structure UpdEntry where
  tid : Nat
  wfmt : Nat
  stoch : Bool
  prog : Nat
  hset : Nat
  m32 : Bool
  nelem : Nat
  ebase : Nat
  waddr : Nat
  gladdr : Nat
  maddr : Nat
  vaddr : Nat
  grad : Nat
  vhdr : Nat
  words : List Dword
  hyp : List Nat
  b1 : Nat
  b2 : Nat
  deriving DecidableEq, Repr

/-- A running STEP_LOOP, SEAL or REPLAY of a partition (14 R346, R349, R354): its call; the steps to commit and how many are
committed; whether an abort is retried, and the retries allowed and made; where and how deep it logs the records of MARK. -/
structure LoopSvc where
  fn : Fn
  slot : SlotNo
  steps : Nat := 0
  onabort : Bool := false
  retries : Nat := 0
  tries : Nat := 0
  plog : Nat := 0
  plogn : Nat := 0
  committed : Nat := 0
  single : Bool := false
  replay : Bool := false
  /-- the CKS of the state that a replayed step committed -/
  cks : Nat := 0
  cancelled : Bool := false
  /-- a verdict has come since the cancel (14 R358) -/
  ending : Bool := false
  /-- the shadow tags and their P registers -/
  tags : List (Nat × Nat) := []
  deriving DecidableEq, Repr

/-- Ingestion of a partition (14 R350). -/
structure IngestX where
  list : Nat := 0
  nbatch : Nat := 0
  epb : Nat := 0
  depth : Nat := 0
  wrap : Bool := false
  flag : Nat := 0
  fetching : List Nat := []
  landed : List Nat := []
  /-- the list entries of batches being fetched, as read: source, destination and length -/
  entries : List (Nat × List (Nat × Nat × Nat)) := []
  fn : Fn
  deriving DecidableEq, Repr

/-- The buddy copy of a commit (10 R244, R245): its step, the writes not yet acknowledged. -/
structure BuddyX where
  step : Nat
  started : Bool
  left : Nat
  failed : Bool
  payload : Nat
  cks : Nat
  /-- the header with STATE 1 has been sent -/
  sealing : Bool := false
  deriving DecidableEq, Repr

/-- What stood at t0 of a fence (16 R399). -/
structure FenceX where
  /-- a PART reset has completed since the fence began -/
  done : Bool := false
  step : Nat := 0
  cursor : Nat := 0
  sealState : Nat := 0
  deriving DecidableEq, Repr

/-- A partition (10, 12, 14, 16): enabled by an image and its VF; the settings in force and those of the full image, which a
PART reset reapplies; address and IMAGEID of the partial image last applied, and the IMAGEID that the last PART reset put back; the cores that were
RUNNING at the release and those that have reported; the step was stopped by a fault; the snapshot of the list register,
the list as prepared, and whether PREPARE failed; the sums received for the seal, as vector, and whether they are
complete or rank 0's answer; FATAL that waits for the next release; the step last decided; the carried step-status bits; a
commit has been made; the service loop, the ingestion, the checkpoint list as base and length, the cursor by step of the
last releases; the buddy copy; a CHECKPOINT waits; the fence; a PART reset is due. -/
structure PartX where
  enabled : Bool := false
  vf : Nat := 0
  img : PartImg := {}
  full : PartImg := {}
  partialAddr : Nat := 0
  partialId : Nat := 0
  running : List Core := []
  reported : List Core := []
  stopped : Bool := false
  snapTaken : Bool := false
  snapList : Nat × Nat := (0, 0)
  prep : Option (List UpdEntry) := none
  prepFailed : Bool := false
  sums : List Nat := []
  gathered : Bool := false
  fromRank0 : Bool := false
  fatalNext : Option Nat := none
  lastStep : Nat := 0
  carry : List Nat := []
  /-- the tensor list of the last commit -/
  lastList : List UpdEntry := []
  committed : Bool := false
  /-- the release that is due: 0 after a commit, 1 a replay, 2 a resume, 3 after a restore -/
  releaseDue : Option Nat := none
  /-- rank 0 has answered that it has not yet decided (10 R455) -/
  notYet : Bool := false
  loop : Option LoopSvc := none
  ingest : Option IngestX := none
  /-- the shadow tags of the package last loaded -/
  shadowTags : List (Nat × Nat) := []
  ckptList : List (Nat × Nat) := []
  history : List (Nat × Nat) := []
  buddyCopy : Option BuddyX := none
  ckptBusy : Bool := false
  fence : Option FenceX := none
  /-- a fence that waits for the loader, by its cause -/
  fenceDue : Option Nat := none
  resetDue : Bool := false
  imageId : Nat := 0
  /-- calls submitted before this number of GO end with ABORTED: a fence or a reset has come since (14 R343) -/
  abortBelow : Nat := 0
  deriving DecidableEq, Repr

/-! ### Fabric (11) -/

/-- Why a request is outstanding, so that its answer can be used: a collective, an engine of a core, a buddy copy,
a service call in a mailbox slot, ingestion, a probe, or nothing that waits. -/
inductive ReqFor where
  | coll (g : Group)
  | engine (c : Core) (e : Engine) (op : Nat)
  | buddy (p : Part)
  | call (f : Fn) (slot : SlotNo)
  | ingest (p : Part)
  | probe (f : Fn) (slot : SlotNo) (rank : Nat)
  | loader
  | verdict (p : Part)
  | event
  deriving DecidableEq, Repr

/-- An outstanding request, by its tag (11 R257, R259). -/
structure OutReq where
  pkt : Packet
  part : Option Part
  why : ReqFor
  leaves : Nat
  /-- 0 awaited, 1 answered locally by a fence, 2 answered locally at a drain limit (16 R396, 11 R267) -/
  quarantine : Nat
  deriving DecidableEq, Repr

/-- One direction's spare lane in use or asked for (11 R251). -/
structure SwapX where
  lane : Nat
  spare : Nat
  count : Nat
  active : Bool
  deriving DecidableEq, Repr

/-- A packet that a port's buffer holds: its number among those the port received, its flow channel, the flits that have
come, and whether the router has taken it (11 R272). -/
structure RxPkt where
  id : Nat
  chan : Nat
  flits : Nat
  taken : Bool := false
  deriving DecidableEq, Repr

/-- A packet that waits to start on an output port, with the input port and the number under which a buffer still holds it
(11 R271, R272). -/
structure WaitPkt where
  pkt : Packet
  hold : Option (Port × Nat) := none
  deriving DecidableEq, Repr

/-- A port's link state (11 R246 to R256, R277). -/
structure PortX where
  light : Bool := false
  /-- physical lanes found bad by this receiver -/
  badRx : List Nat := []
  /-- the physical lane that carries each logical lane, 32 and 33 being the spares, in each direction -/
  lanesTx : List Nat := []
  lanesRx : List Nat := []
  nextTx : Nat := 0
  expectRx : Nat := 0
  /-- a RETRY has been sent and the flit it names has not come -/
  retryWanted : Bool := false
  /-- the FSEQ last resent from, and how often -/
  resent : Nat × Nat := (0, 0)
  /-- the retry buffer, by FSEQ -/
  buffer : List (Nat × Flit) := []
  /-- the peer's XOFF state -/
  xoff : Nat := 0
  /-- a FLOW flit waits for room in the retry buffer -/
  flowDue : Bool := false
  /-- trainings failed in a row -/
  fails : Nat := 0
  swapsTx : List SwapX := []
  swapsRx : List SwapX := []
  /-- the sequence number of the last beacon sent, and T1 + 1 by sequence number -/
  bseq : Nat := 0
  sentT1 : List (Nat × Nat) := []
  /-- what the peer's last beacon said, and when it came -/
  heard : Bool := false
  lastBseq : Nat := 0
  lastGmpri : Nat := 0
  lastGmid : Nat := 0
  lastHops : Nat := 0
  lastRx : Nat := 0
  /-- packets that wait to start on the port, in order of arrival -/
  queue : List WaitPkt := []
  /-- deficit round robin over VC0 to VC21: the VC being served, whether its turn begins, and the flits left by VC -/
  turnVc : Nat := 0
  turnNew : Bool := true
  flitsLeft : List (Nat × Nat) := []
  /-- packets with a flit in the retry buffer, by the FSEQ of their last flit -/
  pkts : List (Nat × Packet) := []
  /-- a sequenced flit has been taken, so ACKSEQ is valid -/
  gotFlit : Bool := false
  /-- the packets that the port's buffer holds, in the order in which they came, how many have ever come, and the number of
  the one whose flits are coming -/
  received : List RxPkt := []
  rxCount : Nat := 0
  rxOpen : Option Nat := none
  /-- the receiver's physical lane that each of the peer's physical lanes lights, where the cable permutes them (19 R445) -/
  fibres : List Nat := []
  deriving DecidableEq, Repr

/-! ### Host, management and root of trust (13, 15) -/

/-- Configuration space and MSI-X of a function (13 R310, R315, R323, R335): the MSI-X table by vector, each entry as its 128
bits; the pending vectors; the power state (0 D0, 3 D3hot); the payload size as PCIe codes it; the sizes of BAR2 and of the
VFs' BAR2 as 2^(30 + n) bytes; the errors that AER reports, by their bit of the Uncorrectable Error Status. -/
structure FnX where
  busMaster : Bool := false
  msixEnable : Bool := false
  /-- the Function Mask of MSI-X -/
  msixMask : Bool := false
  vectors : List (Nat × Nat) := []
  pendingVec : List Nat := []
  powerState : Nat := 0
  maxPayload : Nat := 0
  /-- Memory Space Enable, and that of the VFs in PF0's SR-IOV capability -/
  memSpace : Bool := false
  vfMemSpace : Bool := false
  maxReadRequest : Nat := 2
  aspm : Nat := 0
  numVfs : Nat := 0
  /-- BAR2 as Resizable BAR codes sizes: 10 is 1 GiB, 19 is 512 GiB -/
  bar2Size : Nat := 19
  vfBar2Size : Nat := 19
  /-- SERR# Enable; the error-report enables and the errors detected, as Device Control and Device Status hold them -/
  serrEnable : Bool := false
  errReport : Nat := 0
  errDetected : Nat := 0
  /-- AER: status, mask, severity, the first error and the header and prefixes of its TLP -/
  aer : Nat := 0
  aerMask : Nat := 0x400000
  aerSeverity : Nat := 0x462030
  /-- AER: status and mask of the correctable errors -/
  aerCor : Nat := 0
  aerCorMask : Nat := 0x2000
  aerFirst : Option Nat := none
  aerHeader : Bytes := []
  aerPrefix : Bytes := []
  deriving DecidableEq, Repr

/-- A claim held during ELECTION, by the form in which it arrived (15 R372). -/
structure ClaimX where
  who : Who
  /-- it came in the form that SECURE requires: on the IDE stream of PF0, or in a secured session -/
  secure : Bool
  deriving DecidableEq, Repr

/-- A selective IDE stream (13 R322). -/
structure IdeX where
  fn : Fn
  secure : Bool
  deriving DecidableEq, Repr

/-- A message being reassembled: its tag, the sequence number that comes next, and its bytes so far (13 R330). -/
structure AsmX where
  tag : BitVec 4
  next : BitVec 2
  bytes : Bytes
  deriving DecidableEq, Repr

/-- A secured session (13 R334): its number, its binding, and whether FINISH has closed its handshake. -/
structure SessionX where
  id : Nat
  on : Binding
  established : Bool
  deriving DecidableEq, Repr

/-- A device DMA read outstanding (13 R321, R329). -/
structure DmaX where
  tag : Nat
  fn : Fn
  part : Option Part
  hostAddr : Nat
  len : Nat
  why : ReqFor
  devAddr : Nat
  /-- ended locally by a fence or a core reset; the tag waits for its completion (16 R396) -/
  quarantine : Bool := false
  deriving DecidableEq, Repr

/-- An SPDM connection on one binding (13 R334, 15 R381): how far its negotiation has come (1 version, 2 capabilities,
3 algorithms), the messages of that negotiation, those since, those about measurements, the hash that the signature of the
previous response signed, and the last attestation report. -/
structure SpdmX where
  phase : Nat := 0
  vca : Bytes := []
  transcript : Bytes := []
  measured : Bytes := []
  signedHash : Option Bytes := none
  report : Bytes := []
  deriving DecidableEq, Repr

/-- A service call in a mailbox slot (14 R336 to R341). -/
structure CallX where
  fn : Fn
  slot : SlotNo
  addr : Nat
  order : Nat
  started : Bool
  service : Nat
  part : Nat
  tag : Nat
  args : Bytes
  resp : Nat
  respLen : Nat
  finished : Option (Nat × Nat × Bytes) := none
  /-- fabric requests of the call without answer -/
  waiting : Nat := 0
  /-- a probe's members: rank, time sent, and the round trip plus one once answered -/
  probe : List (Nat × Nat × Nat) := []
  /-- how far a call of several acts has come -/
  phase : Nat := 0
  cancelled : Bool := false
  /-- step, length and CKS of the payload that a CHECKPOINT has sent to the buddy -/
  kept : Option (Nat × Nat × Nat) := none
  deriving DecidableEq, Repr

/-- The fuses (15 R366), each group as the bits blown. -/
structure FuseX where
  identity : Nat := 0
  uds : Nat := 0
  vendorHash : List Nat := []
  vendorRevoked : Nat := 0
  ownerHash : List Nat := []
  ownerEnrolled : Nat := 0
  ownerRevoked : Nat := 0
  svnBoot : Nat := 0
  svnFw : Nat := 0
  svnTests : Nat := 0
  svnStruct : Nat := 0
  lifecycle : Nat := 0
  deriving DecidableEq, Repr

/-- A boot record (15 R384). -/
structure BootRec where
  active : Bool := false
  trial : Bool := false
  tries : Nat := 0
  seq : Nat := 0
  valid : Bool := false
  deriving DecidableEq, Repr

/-- One margin record (17 R425). -/
structure MarginRec where
  mE : Nat
  mT : Nat
  vE : Nat
  vT : Nat
  hours : Nat
  retired : Bool
  tValid : Bool
  /-- its entry in the ring of 8, and its CRC-32C as stored -/
  entry : Nat := 0
  crc : Nat := 0
  deriving DecidableEq, Repr

/-- The firmware flash (15 R360): image bytes, boot records, margin records by slot, powered hours, the HBM repair list as
stack and row (08 R185), and the DeviceID certificates of both keys (15 R379). -/
structure FlashX where
  cells : List Host.Cell := []
  boot0 : BootRec := {}
  boot1 : BootRec := {}
  margins : List (Nat × List MarginRec) := []
  hours : Nat := 0
  repairs : List (Nat × Nat) := []
  certs : List Bytes := []
  deriving DecidableEq, Repr

/-- The one ROT operation under way (18 R428). -/
inductive RotOp where
  | load (addr : Nat) (checkOnly : Bool)
  | apply (addr : Nat)
  | svn (stype : Nat) (value : Nat)
  | flash (op : Nat) (foff : Nat) (daddr : Nat) (len : Nat)
  deriving DecidableEq, Repr

/-- The root of trust (15): the operation under way; the fuses as the last boot read them; the measurements by index and the
log of measurements with its next number; the seeds of the Alias keys; the SVN of each image booted; debug was found closed
by the fuses. -/
structure RotX where
  op : Option RotOp := none
  fuseAtBoot : FuseX := {}
  measures : List (Nat × Bytes) := []
  log : List Bytes := []
  logSeq : Nat := 0
  alias25519 : Bytes := []
  aliasMl : Bytes := []
  /-- the Alias certificates of this boot, in Ed25519 and in ML-DSA-65; the store has signed with the DeviceID keys (15 R377) -/
  certEd : Bytes := []
  certMl : Bytes := []
  deviceSigned : Bool := false
  bootSvn : List (Nat × Nat) := []
  debugClosed : Bool := false
  /-- a read of the operation under way met an error -/
  readErr : Bool := false
  /-- the shedding stage has risen since the operation under way began (15 R368) -/
  risen : Bool := false
  deriving DecidableEq, Repr

/-! ### Power (17) -/

/-- The supply and the sensors beside the PWR registers: the boot of a POR is due; the module is OFF, charging its
hold-up store, or in the safe state of stage 5, `hot` when that is for heat; samples in a row below 46.0 V, and below
each deeper threshold by stage; microseconds in a row at or above the voltage that lifts the stage, that reconnects the
input, that leaves stage 5; microseconds on the store in stage 5; stage 5 may be left but PERST# holds the module; the
mode each slow die runs; the rails have settled; samples in a row at or above each thermal level, far enough below the
level in force, and cool enough to restart (17 R408 to R419). -/
structure PwrX where
  cold : Bool := true
  off : Bool := false
  inrush : Bool := false
  safe : Bool := false
  hot : Bool := false
  below46 : Nat := 0
  belowRun : List (Nat × Nat) := []
  liftRun : Nat := 0
  holdRun : Nat := 0
  exitRun : Nat := 0
  retention : Nat := 0
  exitReady : Bool := false
  dieMode : List (Nat × Nat) := []
  railsReady : Bool := false
  thermRun : List (Nat × Nat) := []
  dropRun : Nat := 0
  coolRun : Nat := 0
  /-- the Granary dies at the last sample, in steps of 0.125 °C -/
  grnTemp : List Int := []
  deriving DecidableEq, Repr

/-! ### Error records (16 R386) -/

/-- The SYNDROME bytes of a record: bytes that a rule lays out, or what a rule says the record names without giving
it a layout. -/
inductive Synd where
  | bytes (b : Bytes)
  | names (rule : Nat) (what : List Nat)
  deriving DecidableEq, Repr

/-- An error record without its number (16 R386): TIME, STEP, class, severity, partition, unit kind and index, the operation,
temperature and voltage, code and SYNDROME. -/
structure ErrRec where
  time : Nat
  step : Nat
  cls : Nat
  sev : Nat
  part : Option Part
  unitKind : Nat
  unitIdx : Nat
  op : Nat
  temp : Nat
  volt : Nat
  code : Nat
  synd : Synd
  deriving DecidableEq, Repr

/-- What a view holds after a TAKE (18 R430): the fields copied by their key, and the time. -/
structure SnapX where
  held : Bool := false
  time : Nat := 0
  copy : List (Nat × Nat) := []
  deriving DecidableEq, Repr

/-- What leaves the block. -/
inductive Out where
  | packet (at' : Option Port) (pkt : Packet)
  | flit (n : Port) (f : Flit)
  | link (n : Port) (kind : Nat) (args : List Nat)
  | msix (fn : Fn) (vec : Nat) (addr : Nat) (data : Nat)
  | event (toFm : Bool) (vec : Nat) (info : Nat) (payload : Bytes)
  | cpl (fn : Fn) (status : CplStatus) (data : Bytes)
  | dmaRead (tag : Nat) (fn : Fn) (hostAddr : Nat) (len : Nat) (ide : Bool)
  | dmaWrite (fn : Fn) (hostAddr : Nat) (data : Bytes) (ide : Bool)
  | mgmt (who : Who) (code : Nat) (data : Bytes)
  | mctp (b : Binding) (data : Bytes)
  | spdm (b : Binding) (session : Option Nat) (data : Bytes)
  /-- the answer to ENTDAA, with the provisional ID, or a transfer not acknowledged -/
  | i3c (ack : Bool) (pid : Nat)
  | ibi
  /-- a PCIe error message: 0 correctable, 1 non-fatal, 2 fatal -/
  | errMsg (fn : Fn) (kind : Nat)
  deriving DecidableEq, Repr

/-- The hub (13, 14, 15, 19): PERST# asserted, and a WARM reset held by it; VF Enable; claims held; IDE streams; the I3C
dynamic address and the EIDs; SPDM connections and sessions; notices of fenced ranks, by device and job; the service calls
in their slots, and the order of the next GO; values staged for writes of UPD_SEAL by partition and of FLASH_CTRL. -/
structure HubX where
  /-- the microsecond of the last record of a violation, by code and requester -/
  violLast : List (Nat × Nat) := []
  perst : Bool := false
  perstHeld : Bool := false
  vfEnable : Bool := false
  claims : List ClaimX := []
  /-- WINDOW has passed before the policy was locked -/
  windowDone : Bool := false
  ide : List IdeX := []
  i3cAddr : Option Nat := none
  eidI3c : Nat := 0
  eidPcie : Nat := 0
  spdmI3c : SpdmX := {}
  spdmPcie : SpdmX := {}
  sessions : List SessionX := []
  nextSession : Nat := 0
  /-- by binding, 0 I3C and 1 PCIe: the message whose packets are coming, and the message that has come whole (13 R330) -/
  asm : List (Nat × AsmX) := []
  arrived : List (Nat × Bytes) := []
  notices : List (Nat × Nat) := []
  calls : List CallX := []
  callOrder : Nat := 0
  sealStage : List (Nat × Nat) := []
  flashStage : Nat := 0
  /-- partitions that wait for the Update Engine, in the order of their verdicts -/
  commits : List Nat := []
  deriving DecidableEq, Repr

/-- The fabric side of the hub (11, 13): requests outstanding by tag; packets held at injection with their partition, reason
and leaves; device DMA outstanding and the next tag. -/
structure NetX where
  /-- bytes that device DMA has brought for a service, by device address -/
  staged : List (Nat × Option Byte) := []
  out : List (Nat × OutReq) := []
  /-- packets handed to endpoints of this device, with the port by which each came, until they are answered -/
  inbox : List (Packet × Nat) := []
  /-- packets of the device's own that wait to enter the router -/
  inject : List Packet := []
  /-- the microsecond of the last record of a violation, by code and port -/
  violLast : List (Nat × Nat) := []
  /-- VC16 to VC19 by partition, and the weights of the VCs (12 R302) -/
  vcAssign : List (Nat × Nat) := []
  weights : List (Nat × Nat) := []
  held : List (Packet × Option Part × ReqFor × Nat) := []
  dma : List DmaX := []
  nextDma : Nat := 0
  /-- the offset still to be slewed away, and the part of a nanosecond already slewed, in thousandths of a ns -/
  slew : Int := 0
  slewPart : Int := 0
  deriving DecidableEq, Repr

/-- The block. `pending`: the commands that wait, first in, first out. `sent`: what has left the block, the model's own
record. `regs`: the register file, by field and index. `mem`: every addressed byte (07, 08). Then the codes of the memories,
the cores, the flags with the signals under way and the waiters (05 R120), the queues of the work counters (06 R151) and of
the memory units (07 R158, 08 R182), what the units hold beside registers, the collectives, lifted tiles and posted tiles by
die (09), partitions, ports, the fabric, functions, hub, fuses, flash, root of trust, supply, queued error records (16 R388),
snapshots (18 R430), and `fresh`: how many open values have been drawn, the model's own counter. -/
structure State where
  pending : List Instr := []
  sent : List Out := []
  regs : List (Nat × Nat) := []
  mem : List Host.Cell := []
  /-- the syndrome of each Granary byte: stored check bits xor the recomputed ones (07 R162) -/
  grnSyn : List (Nat × Nat) := []
  grnValid : List (Nat × Nat) := []
  /-- by granule: stored check symbols xor the recomputed ones, symbol 64 + t in byte t (08 R452) -/
  hbmSyn : List (Nat × Nat) := []
  /-- the half-stacks whose contents the patterns of a field test have destroyed (14 R356), each with one more than the
  count of draws before the last such test -/
  scrambled : List (Nat × Nat) := []
  /-- the words of the cores' SRAM whose check bits show an error, by device address over 4: 1 a correctable one, any other
  number an uncorrectable one or a parity mismatch (07 R173). A word of the control store stands under its even number. -/
  sramErr : List (Nat × Nat) := []
  cores : List (Nat × CoreX) := []
  dieFlags : List (Nat × Nat) := []
  devFlags : List (Nat × Nat) := []
  signals : List FlagRef := []
  waiters : List (FlagRef × Core × Stream) := []
  ctrQueue : List (Nat × CtrAsk) := []
  grnQueue : List MemReq := []
  hbmQueue : List MemReq := []
  grn : List (Nat × GrnX) := []
  hbm : List (Nat × HbmX) := []
  groups : List (Nat × GroupX) := []
  lifts : List (Nat × List LiftX) := []
  posts : List (Nat × List TilePost) := []
  parts : List (Nat × PartX) := []
  ports : List (Nat × PortX) := []
  net : NetX := {}
  fns : List (Nat × FnX) := []
  hub : HubX := {}
  fuses : FuseX := {}
  flash : FlashX := {}
  rot : RotX := {}
  pwr : PwrX := {}
  errQueue : List ErrRec := []
  snaps : List (Nat × SnapX) := []
  fresh : Nat := 0
  deriving DecidableEq, Repr

/-- The machine right after reset: every default above. -/
def State.reset : State := {}

/-- No command ends in a fault. -/
inductive Fault where
  deriving DecidableEq, Repr

/-- Why a command has no meaning. -/
inductive Refusal where
  /-- A command that the model does not give a meaning yet; raised by exec alone; safe. -/
  | notModelled (mnemonic : String)
  deriving DecidableEq, Repr

end Sys2Proof.Machine
end

