-- ==== Sys2Proof/Machine/Tab.lean ====
section
/-! DEFINITION. Sparse tables: association lists in strictly rising order of their key, holding no entry equal to
the default of its key. Equal tables are equal lists. Device memory and the register file are such tables. -/

namespace Sys2Proof.Machine

/-- The value of key `k`, or its default. -/
def tget {α : Type} (d : Nat → α) : List (Nat × α) → Nat → α
  | [], k => d k
  | (k', v) :: t, k => if k' = k then v else tget d t k

/-- Put an entry in its place. -/
def tput {α : Type} : List (Nat × α) → Nat → α → List (Nat × α)
  | [], k, v => [(k, v)]
  | (k', v') :: t, k, v =>
    if k' < k then (k', v') :: tput t k v
    else if k' = k then (k, v) :: t
    else (k, v) :: (k', v') :: t

/-- Store `v` under `k`; storing the default removes the entry. -/
def tset {α : Type} [DecidableEq α] (d : Nat → α) (t : List (Nat × α)) (k : Nat) (v : α) : List (Nat × α) :=
  if v = d k then t.filter fun e => e.1 != k else tput t k v

/-- The canonical form: keys strictly rising and above `lo`, no entry equal to its default. -/
def twfFrom {α : Type} [DecidableEq α] (d : Nat → α) : Nat → List (Nat × α) → Bool
  | _, [] => true
  | lo, (k, v) :: t => decide (lo ≤ k) && decide (v ≠ d k) && twfFrom d (k + 1) t

def twf {α : Type} [DecidableEq α] (d : Nat → α) (t : List (Nat × α)) : Bool := twfFrom d 0 t

/-- Store many values. -/
def tsetAll {α : Type} [DecidableEq α] (d : Nat → α) (t : List (Nat × α)) : List (Nat × α) → List (Nat × α)
  | [] => t
  | (k, v) :: r => tsetAll d (tset d t k v) r

/-- Drop the entries whose key satisfies `p`, so that those keys read their defaults. -/
def tdrop {α : Type} (p : Nat → Bool) (t : List (Nat × α)) : List (Nat × α) := t.filter fun e => !p e.1

/-- Change every entry whose key satisfies `p`; the default of a key is left as it is. -/
def tmap {α : Type} [DecidableEq α] (d : Nat → α) (f : Nat → α → α) (t : List (Nat × α)) : List (Nat × α) :=
  (t.map fun e => (e.1, f e.1 e.2)).filter fun e => decide (e.2 ≠ d e.1)

/-- The numbers of a list, each once, in rising order. -/
def sortSet (l : List Nat) : List Nat := (l.foldl (fun t k => tset (fun _ => false) t k true) []).map (·.1)

end Sys2Proof.Machine
end

