-- ==== Sys2Proof/Machine/Code.lean ====
section
/-! DEFINITION. The codes that protect memory: the Hamming code of a Granary byte (07 R162), the Reed-Solomon code
of an HBM granule (08 R452), and CRC-32C (11 R253). -/

namespace Sys2Proof.Machine

/-! ### Granary bytes -/

/-- The check bits of a byte (07 R162). -/
def hamming (d : Nat) : Nat :=
  let b := fun i => bits d i 1
  let x := fun l => (l.map b).foldl (· ^^^ ·) 0
  x [0, 1, 3, 4, 6] + 2 * x [0, 2, 3, 5, 6] + 4 * x [1, 2, 3, 7] + 8 * x [4, 5, 6, 7]

/-- The data bit at a codeword position, if the position holds one (07 R162). -/
def hammingBit : Nat → Option Nat
  | 3 => some 0 | 5 => some 1 | 6 => some 2 | 7 => some 3 | 9 => some 4 | 10 => some 5 | 11 => some 6 | 12 => some 7
  | _ => none

/-- What a byte with a syndrome is delivered as, and whether it was corrected or is uncorrectable (07 R162, R164). -/
def hammingRead (d : Byte) (syn : Nat) : Byte × Bool × Bool :=
  if syn = 0 then (d, false, false)
  else if 13 ≤ syn then (d, false, true)
  else match hammingBit syn with
    | some i => (d ^^^ BitVec.ofNat 8 (2 ^ i), true, false)
    | none => (d, true, false)

/-! ### HBM granules -/

/-- Multiplication in GF(2^8) with polynomial x^8 + x^4 + x^3 + x^2 + 1. -/
def gmulGo : Nat → Nat → Nat → Nat → Nat
  | 0, _, _, acc => acc
  | n + 1, a, b, acc =>
    let acc := if b % 2 = 1 then acc ^^^ a else acc
    let a := if a < 128 then 2 * a else (2 * a) ^^^ 0x11D
    gmulGo n a (b / 2) acc

def gmul (a b : Nat) : Nat := gmulGo 8 a b 0

def gpow (a : Nat) : Nat → Nat
  | 0 => 1
  | n + 1 => gmul a (gpow a n)

/-- The inverse of a nonzero element, a^254. -/
def ginv (a : Nat) : Nat := gpow a 254

/-- Symbol `s` of a granule's 64 data bytes, s from 0 to 63 (08 R452). -/
def granuleSymbol (d : Bytes) (s : Nat) : Nat :=
  let p := s / 2
  let h := s % 2
  (span 0 8).foldl (fun a m => a + bits ((d.getD (32 * h + 4 * m + p / 8) 0).toNat) (p % 8) 1 * 2 ^ m) 0

/-- The granule with symbol `s` xored with `e`. -/
def granuleXor (d : Bytes) (s e : Nat) : Bytes :=
  let p := s / 2
  let h := s % 2
  (span 0 8).foldl (fun d m =>
    if bit e m then
      let i := 32 * h + 4 * m + p / 8
      setAt d i (d.getD i 0 ^^^ BitVec.ofNat 8 (2 ^ (p % 8)))
    else d) d

/-- The generator's coefficients of x^7 down to x^0: the product of x - α^i for i from 0 to 7 (08 R452). -/
def rsGen : List Nat :=
  ((span 0 8).foldl (fun (g : List Nat) i =>
    (List.zip (g ++ [0]) (0 :: g)).map fun e => e.1 ^^^ gmul (gpow 2 i) e.2) [1]).drop 1

/-- The check symbols of data symbols: the remainder of the data polynomial times x^8 by the generator, the
coefficient of x^7 first. -/
def rsCheck (data : List Nat) : List Nat :=
  data.foldl (fun r c =>
    let f := c ^^^ r.headD 0
    (List.zip (r.drop 1 ++ [0]) rsGen).map fun e => e.1 ^^^ gmul f e.2) (List.replicate 8 0)

/-- Byte t of a number. -/
def byteAt (v t : Nat) : Nat := bits v (8 * t) 8

/-- The syndromes r(α^i) of a word whose check symbols deviate from those of its data by the bytes of `dev`. -/
def rsSyndromes (dev : Nat) : List Nat :=
  (span 0 8).map fun i => (span 0 8).foldl (fun a t => a ^^^ gmul (byteAt dev t) (gpow 2 (i * (7 - t)))) 0

/-- The coefficients, constant first, of the product of x - X over a list of field elements. -/
def gpoly (xs : List Nat) : List Nat :=
  xs.foldl (fun (g : List Nat) x => (List.zip (0 :: g) (g ++ [0])).map fun e => e.1 ^^^ gmul x e.2) [1]

/-- The value of a polynomial given constant first. -/
def geval (g : List Nat) (x : Nat) : Nat := g.foldr (fun c a => c ^^^ gmul a x) 0

/-- The magnitude at `x`, one of the locators `xs`, by the syndromes. -/
def rsMagnitude (syn xs : List Nat) (x : Nat) : Nat :=
  let l := gpoly (xs.filter (· ≠ x))
  gmul ((List.zip l syn).foldl (fun a e => a ^^^ gmul e.1 e.2) 0) (ginv (geval l x))

/-- The error of the positions `ps` (their symbol numbers) that gives the syndromes, if there is one. -/
def rsTry (syn : List Nat) (ps : List Nat) : Option (List (Nat × Nat)) :=
  let xs := ps.map fun p => gpow 2 (71 - p)
  let ys := xs.map (rsMagnitude syn xs)
  let back := (span 0 8).map fun i => (List.zip xs ys).foldl (fun a e => a ^^^ gmul e.2 (gpow e.1 i)) 0
  if back = syn ∧ ys.all (· ≠ 0) then some (List.zip ps ys) else none

/-- The positions where a locator polynomial, constant first, is zero. -/
def rsRoots (lam : List Nat) : List Nat := (span 0 72).filter fun p => geval lam (gpow 2 (71 - p)) = 0

/-- The errors of at most 3 symbols that give nonzero syndromes, by position and magnitude; none when no word within 3
symbols is a codeword (08 R452). The locator polynomial of 1, 2 or 3 errors solves the syndromes' recurrence. -/
def rsDecode (syn : List Nat) : Option (List (Nat × Nat)) :=
  let S := fun i => syn.getD i 0
  let d1 := S 0
  let d2 := gmul (S 0) (S 2) ^^^ gmul (S 1) (S 1)
  let m := fun a b c d => gmul a d ^^^ gmul b c
  let d3 := gmul (S 0) (m (S 2) (S 3) (S 3) (S 4)) ^^^ gmul (S 1) (m (S 1) (S 3) (S 2) (S 4))
    ^^^ gmul (S 2) (m (S 1) (S 2) (S 2) (S 3))
  let one := if d1 = 0 then none else rsTry syn (rsRoots [gmul (S 1) (ginv d1), 1])
  let two := if d2 = 0 then none else
    let i := ginv d2
    let l1 := gmul i (gmul (S 0) (S 3) ^^^ gmul (S 1) (S 2))
    let l0 := gmul i (gmul (S 1) (S 3) ^^^ gmul (S 2) (S 2))
    let r := rsRoots [l0, l1, 1]
    if r.length = 2 then rsTry syn r else none
  let three := if d3 = 0 then none else
    let i := ginv d3
    let det := fun (a b c : Nat × Nat × Nat) =>
      gmul a.1 (m b.2.1 b.2.2 c.2.1 c.2.2) ^^^ gmul a.2.1 (m b.1 b.2.2 c.1 c.2.2) ^^^
        gmul a.2.2 (m b.1 b.2.1 c.1 c.2.1)
    let l0 := gmul i (det (S 3, S 1, S 2) (S 4, S 2, S 3) (S 5, S 3, S 4))
    let l1 := gmul i (det (S 0, S 3, S 2) (S 1, S 4, S 3) (S 2, S 5, S 4))
    let l2 := gmul i (det (S 0, S 1, S 3) (S 1, S 2, S 4) (S 2, S 3, S 5))
    let r := rsRoots [l0, l1, l2, 1]
    if r.length = 3 then rsTry syn r else none
  match one with
  | some e => some e
  | none => match two with
    | some e => some e
    | none => three

/-- What a granule is delivered as, given how its check symbols deviate: the bytes, and whether it was corrected or is
uncorrectable (08 R179, R452). -/
def granuleRead (d : Bytes) (dev : Nat) : Bytes × Bool × Bool :=
  if dev = 0 then (d, false, false)
  else match rsDecode (rsSyndromes dev) with
    | some errs => (errs.foldl (fun d e => if e.1 < 64 then granuleXor d e.1 e.2 else d) d, true, false)
    | none => (d, false, true)

/-- The granule with its first `n` symbols inverted, and how its check symbols then deviate (08 R452). -/
def granuleInject (d : Bytes) (n : Nat) : Bytes × Nat :=
  let e := (span 0 64).map fun s => if s < n then 0xFF else 0
  ((span 0 n).foldl (fun d s => granuleXor d s 0xFF) d,
   (List.zip (span 0 8) (rsCheck e)).foldl (fun a t => a + t.2 * 2 ^ (8 * t.1)) 0)

/-! ### CRC-32C -/

/-- One bit step of CRC-32C in its reflected form. -/
def crcBit (c : Nat) : Nat := if c % 2 = 1 then (c / 2) ^^^ 0x82F63B78 else c / 2

def crcBits : Nat → Nat → Nat
  | 0, c => c
  | n + 1, c => crcBits n (crcBit c)

/-- CRC-32C of a byte string (polynomial 0x1EDC6F41, reflected, initial and final inversion). -/
def crc32c (b : Bytes) : Nat := (b.foldl (fun c x => crcBits 8 (c ^^^ x.toNat)) 0xFFFFFFFF) ^^^ 0xFFFFFFFF

end Sys2Proof.Machine
end

