-- ==== Sys2Proof/Config.lean ====
section
/-! DEFINITION. What an implementation fixes and the specification leaves open. Each constant below has no value in
the model: no proof can see one, so a claim holds whatever they are. -/

namespace Sys2Proof

/-- The 24 SYNDROME bytes of an error record whose rule says what the record names but gives it no layout
(16 R386). The arguments are the rule and the numbers named. -/
opaque Config.syndrome (rule : Nat) (what : List Nat) : Bytes

/-- A byte read from memory of a stack that does not run (08 R185, R186): no rule says what it is. -/
opaque Config.deadByte (addr : Nat) : Byte

/-- A byte of HBM that nothing has written since a field test ran its patterns over it (14 R356): no rule says what they leave.
The arguments are the count of draws before the test and the address. -/
opaque Config.testByte (draw addr : Nat) : Byte

/-- The value drawn for an open value, by the count of draws before it. -/
opaque Config.free (draw : Nat) : Nat

/-! Functions of published standards that the specification names and does not define (15 R363, R377, R378, R381; 13 R334). -/

/-- Verification of an Ed25519 signature (RFC 8032): key, message, signature. -/
opaque Config.ed25519Verify (key msg sig : Bytes) : Bool

/-- Verification of an ML-DSA-65 signature (FIPS 204): key, message, signature. -/
opaque Config.mldsaVerify (key msg sig : Bytes) : Bool

/-- The Ed25519 public key of a seed, and the signature of a message under it. -/
opaque Config.ed25519Public (seed : Bytes) : Bytes
opaque Config.ed25519Sign (seed msg : Bytes) : Bytes

/-- The ML-DSA-65 public key of a seed, and the signature of a message under it with a context. -/
opaque Config.mldsaPublic (seed : Bytes) : Bytes
opaque Config.mldsaSign (seed context msg : Bytes) : Bytes

/-- What an X.509 Alias certificate signs: the Ed25519 or the ML-DSA-65 Alias key, with the measurements in an extension
(15 R378); and the certificate that the signature completes. -/
opaque Config.aliasTbs (mldsa : Bool) (aliasKey measures : Bytes) : Bytes
opaque Config.aliasCert (mldsa : Bool) (tbs sig : Bytes) : Bytes

/-- A chain as it is served (15 R378): the certificates that stand in the flash, and the Alias certificate of this boot. -/
opaque Config.chain (mldsa : Bool) (stored aliasCert : Bytes) : Bytes

/-- The bytes of an SPDM response (DSP0274), by the request code, the request, and the values that the specification says
it carries. -/
opaque Config.spdm (code : Nat) (request : Bytes) (values : List Bytes) : Bytes

/-- Whether the verify data of a FINISH is right, by the session, the connection's messages and the request. -/
opaque Config.finishOk (session : Nat) (messages msg : Bytes) : Bool

/-- The bytes of an MCTP control response, by the command code and its values. -/
opaque Config.mctp (code : Nat) (values : List Nat) : Bytes

/-- The I3C provisional ID that carries the manufacturer ID of the identity fuses (13 R330; 15 R366 gives the group no
layout). -/
opaque Config.provisionalId (identity : Nat) : Nat

/-- The mask ROM. -/
opaque Config.rom : Bytes

/-- What a section of TYPE 0x02 of a program package says: START, the base of stream L, S or C (0, 1, 2), and DYNAMIC. The
rule names them and gives the section no layout (14 R344). -/
opaque Config.startRow (rec : Bytes) : Nat
opaque Config.startBase (rec : Bytes) (stream : Nat) : Nat
opaque Config.startDynamic (rec : Bytes) : Bool

/-- The operation code of the SVC packet that PROBE sends (14 R355). -/
opaque Config.probeCode : Nat

end Sys2Proof
end

