-- ==== Sys2Proof/Machine/RegFile.lean ====
section
/-! DEFINITION. The register file: one number per register field and index, in a sparse table (00 R7, R11). -/

namespace Sys2Proof.Machine

/-- The reset value of a field at an index. ROT_CORE_MAP maps each core to its own slot, and entry 63 of a Granary
schedule is REFRESH for good (07 R157, 12 R306). -/
def Field.resetAt (f : Field) (i : Nat) : Nat :=
  match f with
  | .grnSchedOwner => if i % 64 = 63 then 0x103 else 0x1FF
  | .rotCoreMapSlot => i % 64
  | f => f.spec.reset

/-- The key of a field at an index. -/
def Field.key (f : Field) (i : Nat) : Nat := i * 512 + f.ctorIdx

/-- The field that a key names. -/
def Field.ofIdx (n : Nat) : Option Field := Field.all.find? fun f => f.ctorIdx == n

/-- What a register holds after reset, by key. -/
def regReset (k : Nat) : Nat :=
  match Field.ofIdx (k % 512) with
  | some f => Field.resetAt f (k / 512)
  | none => 0

/-- The lookup by key in the register list. -/
def regLookup : List (Nat × Nat) → Nat → Option Nat
  | [], _ => none
  | (k', v) :: t, k => if k' = k then some v else regLookup t k

/-- The value of field `f` at index `i`. -/
def fget (s : State) (f : Field) (i : Nat) : Nat := (regLookup s.regs (Field.key f i)).getD (Field.resetAt f i)

/-- Store in the register list; a field at its reset value is not listed. -/
def regStore (reset : Nat) (t : List (Nat × Nat)) (k v : Nat) : List (Nat × Nat) :=
  if v = reset then t.filter fun e => e.1 != k else tput t k v

/-- Store a value, cut to the field's width. -/
def fset (s : State) (f : Field) (i v : Nat) : State :=
  { s with regs := regStore (Field.resetAt f i) s.regs (Field.key f i) (v % 2 ^ f.spec.width) }

/-- Return a field to its reset value. -/
def fclear (s : State) (f : Field) (i : Nat) : State := fset s f i (Field.resetAt f i)

/-- Add to a tally, which holds at its largest value. -/
def fbump (s : State) (f : Field) (i n : Nat) : State := fset s f i (satAdd f.spec.width (fget s f i) n)

/-- A field of one bit as a truth value. -/
def fbit (s : State) (f : Field) (i : Nat) : Bool := fget s f i == 1

/-- Return every listed field to its reset value where `p` holds of the field and its index. -/
def fclearWhere (s : State) (p : Field → Nat → Bool) : State :=
  { s with regs := s.regs.filter fun e =>
      match Field.ofIdx (e.1 % 512) with
      | some f => !p f (e.1 / 512)
      | none => true }

/-- The register list is in its canonical form: keys rise, each key names a field, and no value is its field's
reset value or wider than the field. -/
def regsWf : Nat → List (Nat × Nat) → Bool
  | _, [] => true
  | lo, (k, v) :: t =>
    decide (lo ≤ k) && decide (v ≠ regReset k) &&
      (match Field.ofIdx (k % 512) with | some f => decide (v < 2 ^ f.spec.width) | none => false) &&
      regsWf (k + 1) t

end Sys2Proof.Machine
end

