-- ==== Sys2Proof/Machine/Access.lean ====
section
/-! DEFINITION. Readers and writers of the parts of the state, and who a unit belongs to. -/

namespace Sys2Proof.Machine

/-! ### Parts of the state by number -/

def State.core (s : State) (c : Core) : CoreX := tget (fun _ => {}) s.cores c.val
def State.setCore (s : State) (c : Core) (x : CoreX) : State :=
  { s with cores := tset (fun _ => {}) s.cores c.val x }
def State.part (s : State) (p : Part) : PartX := tget (fun _ => {}) s.parts p.val
def State.setPart (s : State) (p : Part) (x : PartX) : State :=
  { s with parts := tset (fun _ => {}) s.parts p.val x }
def State.group (s : State) (g : Group) : GroupX := tget (fun _ => {}) s.groups g.val
def State.setGroup (s : State) (g : Group) (x : GroupX) : State :=
  { s with groups := tset (fun _ => {}) s.groups g.val x }
def State.port (s : State) (n : Port) : PortX := tget (fun _ => {}) s.ports n.val
def State.setPort (s : State) (n : Port) (x : PortX) : State :=
  { s with ports := tset (fun _ => {}) s.ports n.val x }
def State.grnDie (s : State) (q : MemDie) : GrnX := tget (fun _ => {}) s.grn q.val
def State.setGrnDie (s : State) (q : MemDie) (x : GrnX) : State :=
  { s with grn := tset (fun _ => {}) s.grn q.val x }
def State.stack (s : State) (k : Stack) : HbmX := tget (fun _ => {}) s.hbm k.val
def State.setStack (s : State) (k : Stack) (x : HbmX) : State :=
  { s with hbm := tset (fun _ => {}) s.hbm k.val x }
def State.fn (s : State) (f : Fn) : FnX := tget (fun _ => {}) s.fns f.val
def State.setFn (s : State) (f : Fn) (x : FnX) : State :=
  { s with fns := tset (fun _ => {}) s.fns f.val x }
def State.snap (s : State) (k : Nat) : SnapX := tget (fun _ => {}) s.snaps k
def State.setSnap (s : State) (k : Nat) (x : SnapX) : State :=
  { s with snaps := tset (fun _ => {}) s.snaps k x }

/-- One stream of a core. -/
def CoreX.stream (x : CoreX) : Stream → StreamX
  | .m => x.sm
  | .l => x.sl
  | .s => x.ss
  | .c => x.sc
def CoreX.setStream (x : CoreX) (st : Stream) (v : StreamX) : CoreX :=
  match st with
  | .m => { x with sm := v }
  | .l => { x with sl := v }
  | .s => { x with ss := v }
  | .c => { x with sc := v }

def CoreX.bank (x : CoreX) (b : Fin 2) : BankX := if b = 0 then x.bank0 else x.bank1
def CoreX.setBank (x : CoreX) (b : Fin 2) (v : BankX) : CoreX :=
  if b = 0 then { x with bank0 := v } else { x with bank1 := v }

/-- A ring of a core, by the descriptor that names it. -/
def CoreX.ring (x : CoreX) (h : Nat) : RingX := tget (fun _ => {}) x.rings h
def CoreX.setRing (x : CoreX) (h : Nat) (r : RingX) : CoreX :=
  { x with rings := tset (fun _ => {}) x.rings h r }

/-- A long register at zero (03 R55). -/
def LongReg.zero : LongReg := {}
/-- A chained register at zero: seventy limbs (03 R61). -/
def LongReg.chainZero : LongReg := { digit := List.replicate 70 0, carry := List.replicate 70 0 }

/-- The long register of a bank at a position, and the chained register at an output position. -/
def CoreX.reg (x : CoreX) (b : Fin 2) (pos : Nat) : LongReg := tget (fun _ => {}) x.crib (pos * 2 + b.val)
def CoreX.setReg (x : CoreX) (b : Fin 2) (pos : Nat) (r : LongReg) : CoreX :=
  { x with crib := tset (fun _ => {}) x.crib (pos * 2 + b.val) r }
def CoreX.chainReg (x : CoreX) (pos : Nat) : LongReg := tget (fun _ => LongReg.chainZero) x.chain pos
def CoreX.setChainReg (x : CoreX) (pos : Nat) (r : LongReg) : CoreX :=
  { x with chain := tset (fun _ => LongReg.chainZero) x.chain pos r }

/-! ### Where a unit lies -/

/-- The quarter of a core, and so its memory die and half-stack (12 R291). -/
def quarterOf (c : Core) : Nat := c.val / 16
/-- The die of a core (12 R291). -/
def dieOf (c : Core) : Die := ⟨c.val / 64, by have := c.isLt; omega⟩
def partRange : List Part := List.finRange 16
def coreRange : List Core := List.finRange 256

/-- The partition that holds quarter `g`, by the protection map (15 R374, R375). -/
def partOfQuarter (s : State) (g : Nat) : Option Part :=
  partRange.find? fun p => fbit s .rotPmapValid p.val && bit (fget s .rotPmapQmask p.val) g

/-- The partition of a core. -/
def partOfCore (s : State) (c : Core) : Option Part := partOfQuarter s (quarterOf c)

/-- The cores of a partition. -/
def coresOf (s : State) (p : Part) : List Core := coreRange.filter fun c => partOfCore s c == some p

/-- The quarters of a partition (12 R291). -/
def quartersOf (s : State) (p : Part) : List Nat :=
  (span 0 16).filter fun g => fbit s .rotPmapValid p.val && bit (fget s .rotPmapQmask p.val) g

/-- The partition bound to a function: VF n, n ≥ 1 (13 R313). -/
def partOfFn (s : State) (f : Fn) : Option Part :=
  if f = 0 then none else partRange.find? fun p => (s.part p).enabled && (s.part p).vf == f.val

/-- The partition of a job (11 R260). -/
def partOfJob (s : State) (job : Nat) : Option Part :=
  partRange.find? fun p => (s.part p).enabled && (s.part p).img.job == job

/-- Fabric time, and the fabric time that records carry: 0 while LOCKED is 0 (16 R386). -/
def timeNow (s : State) : Nat := fget s .sklTimeNow 0
def recTime (s : State) : Nat := if fbit s .sklTimeCtrlLocked 0 then timeNow s else 0

/-- P[n] of a core (05 R116). -/
def pget (s : State) (c : Core) (n : Nat) : Nat := fget s .coreParamValue (c.val * 256 + n)
def pset (s : State) (c : Core) (n v : Nat) : State := fset s .coreParamValue (c.val * 256 + n) v

/-- A local flag of a core (05 R120). -/
def CoreX.flag (x : CoreX) (i : Nat) : Nat := tget (fun _ => 0) x.flags i
def CoreX.setFlag (x : CoreX) (i v : Nat) : CoreX := { x with flags := tset (fun _ => 0) x.flags i v }

/-- STATE of CORE_SEQ_STATUS (05 R134): 0 IDLE, 1 RUNNING, 2 HALTED, 3 STOPPED. -/
def coreState (s : State) (c : Core) : Nat := fget s .coreSeqStatusState c.val
def running (s : State) (c : Core) : Bool := coreState s c == 1

/-- A lane of a vector register (04). -/
def CoreX.lane (x : CoreX) (v l : Nat) : Nat := tget (fun _ => 0) x.vregs (v * 256 + l)

/-- The hub runs: the module is not OFF, charging, in the safe state of stage 5, or held in reset by PERST#. -/
def hubOn (s : State) : Bool := !(s.pwr.off || s.pwr.inrush || s.pwr.safe || s.hub.perstHeld)

/-- The fabric and the memories run: DROWSE turns them off (17 R420). -/
def fabricOn (s : State) : Bool := hubOn s && decide (fget s .pwrStatusPstate 0 < 2)

/-- I3C is served: in every state in which PWRGD is high (19 R442), a reset held by PERST# among them. -/
def i3cOn (s : State) : Bool := !(s.pwr.off || s.pwr.inrush || s.pwr.safe)

/-- PWRGD (19 R439). -/
def pwrgd (s : State) : Bool := !(s.pwr.off || s.pwr.inrush || s.pwr.safe)

/-- The answer of a command whose trigger does not hold: nothing changes. -/
def idle (s : State) : Host.Outcome State Fault Refusal := .next s

/-- A draw of a free value: the count of draws moves on. -/
def draw (s : State) : State × Nat := ({ s with fresh := s.fresh + 1 }, Config.free s.fresh)

end Sys2Proof.Machine
end

