-- ==== Sys2Proof/Machine/Report.lean ====
section
/-! DEFINITION. Error records, step status, interrupts and what leaves the block (16 R385 to R388, 10 R216,
13 R323, 18 R434). -/

namespace Sys2Proof.Machine

/-- The classes of 16 R385. -/
inductive Cls where
  | issue | bound | protect | memory | collective | update | step | fabric | host | structure' | thermal | power
  | register | core | reset | test
  deriving DecidableEq, Repr

def Cls.code : Cls → Nat
  | .issue => 1 | .bound => 2 | .protect => 3 | .memory => 4 | .collective => 5 | .update => 6 | .step => 7
  | .fabric => 8 | .host => 9 | .structure' => 10 | .thermal => 11 | .power => 12 | .register => 13 | .core => 14
  | .reset => 15 | .test => 16

/-- The severities of 16 R387. -/
inductive Sev where
  | info | corrected | step | stop | device
  deriving DecidableEq, Repr

def Sev.code : Sev → Nat
  | .info => 0 | .corrected => 1 | .step => 2 | .stop => 3 | .device => 4

/-- The units of 16 R386, with their index. -/
inductive UnitRef where
  | core (c : Core) | grn (q : MemDie) | hbm (k : Stack) | xce (d : Die) | upd (d : Die) | port (n : Port) | router
  | hst | sc (c : Sc) | rot | pwr | err | part (p : Part)
  deriving DecidableEq, Repr

def UnitRef.kind : UnitRef → Nat
  | .core _ => 0 | .grn _ => 1 | .hbm _ => 2 | .xce _ => 3 | .upd _ => 4 | .port _ => 5 | .router => 5 | .hst => 6
  | .sc _ => 7 | .rot => 8 | .pwr => 9 | .err => 10 | .part _ => 11

def UnitRef.idx : UnitRef → Nat
  | .core c => c.val | .grn q => q.val | .hbm k => k.val | .xce d => d.val | .upd d => d.val | .port n => n.val
  | .router => 0xFFF | .sc c => c.val | .part p => p.val | .hst => 0 | .rot => 0 | .pwr => 0 | .err => 0

/-- The die that holds a unit: 0 to 3, and 4 for the hub. -/
def UnitRef.die : UnitRef → Nat
  | .core c => c.val / 64 | .grn q => q.val / 4 | .hbm k => k.val / 2 | .xce d => d.val | .upd d => d.val
  | _ => 4

/-- OP of a record (16 R386): none, a word's address, or an opcode, service code or packet TYPE. -/
inductive OpRef where
  | none | addr (a : Nat) | code (c : Nat)
  deriving DecidableEq, Repr

def OpRef.bits : OpRef → Nat
  | .none => 0 | .addr a => a % 2 ^ 17 | .code c => 2 ^ 31 + c % 256

/-- The temperature of the die that holds a unit, in steps of 0.125 °C: a Granary die and an HBM stack have their own (17
R418). -/
def unitTemp (s : State) (u : UnitRef) : Nat :=
  match u with
  | .grn q => wrap 16 (s.pwr.grnTemp.getD q.val 0)
  | .hbm k => 8 * fget s .hbmStatusTemp k.val
  | u => fget s .pwrTempTemp u.die

/-- A record comes about: it takes its place in the queue of 256, or is dropped and counted (16 R388). STEP, TEMP
and VOLT are those of the moment. -/
def record (s : State) (cls : Cls) (sev : Sev) (part : Option Part) (u : UnitRef) (op : OpRef) (code : Nat)
    (synd : Synd) : State :=
  let r : ErrRec :=
    { time := recTime s
      step := match part with | some p => fget s .updStepStep p.val | none => 0
      cls := cls.code, sev := sev.code, part := part, unitKind := u.kind, unitIdx := u.idx, op := op.bits
      temp := unitTemp s u, volt := fget s .pwrTempVdie u.die, code := code, synd := synd }
  if s.errQueue.length < 256 then { s with errQueue := s.errQueue ++ [r] } else fbump s .errLostDropped 0 1

/-- A record of class REGISTER for a write that was discarded or ignored (16 R385). -/
def logRegister (s : State) (part : Option Part) (u : UnitRef) (off : Nat) : State :=
  record s .register .info part u .none 0 (.names 385 [off])

/-- The bits of the step status (10 R216). -/
inductive StepBit where
  | nan | inf | sat | chaff | convovf | slip | vary | staleShard | checksum | shadow | escaped
  deriving DecidableEq, Repr

def StepBit.idx : StepBit → Nat
  | .nan => 0 | .inf => 1 | .sat => 2 | .chaff => 3 | .convovf => 4 | .slip => 5 | .vary => 6 | .staleShard => 7
  | .checksum => 8 | .shadow => 9 | .escaped => 10

/-- Set bits of a partition's step status; a unit of no partition sets none. -/
def setStatus (s : State) (p : Option Part) (b : StepBit) : State :=
  match p with
  | some p => fset s .updStatusStatus p.val (fget s .updStatusStatus p.val ||| 2 ^ b.idx)
  | none => s

def setStatusIf (s : State) (p : Option Part) (b : StepBit) (on : Bool) : State :=
  if on then setStatus s p b else s

/-- What leaves the block. -/
def emit (s : State) (o : Out) : State := { s with sent := s.sent ++ [o] }

/-- The owner is the host, the baseboard controller or the fabric manager: 1, 2 or 3 in OWNER while STATE is OWNED or
HANDOVER. -/
def ownerCode (s : State) : Nat := fget s .hstOwnStatusOwner 0

/-- An MSI-X table entry after reset: masked. -/
def vecReset (_ : Nat) : Nat := 2 ^ 96

/-- The entry of a vector: the message address in bits [63:0], its data in [95:64], the mask in [96]. -/
def FnX.entry (x : FnX) (v : Nat) : Nat := tget vecReset x.vectors v

/-- A function may issue requests of its own: Bus Master Enable, in D0 (PCIe; 13 R310, R321). -/
def FnX.mayIssue (x : FnX) : Bool := x.busMaster && x.powerState == 0

/-- A function raises a vector (13 R323): it is sent, or stays pending while the vector or the function is masked, MSI-X is
disabled or the function may issue nothing. A VF raises none while VF Enable is 0 or no enabled partition names it (13 R313). -/
def msix (s : State) (f : Fn) (vec : Nat) : State :=
  if f ≠ 0 ∧ (s.hub.vfEnable = false ∨ partOfFn s f = none) then s
  else
    let x := s.fn f
    let e := x.entry vec
    if x.mayIssue && x.msixEnable && !x.msixMask && !bit e 96 then emit s (.msix f vec (bits e 0 64) (bits e 64 32))
    else if x.pendingVec.contains vec then s
    else s.setFn f { x with pendingVec := x.pendingVec ++ [vec] }

/-- The sources of the interrupt routing (18 R434), with the argument each has. -/
inductive IrqSource where
  | flag (i : Nat) | release (p : Part) | held (p : Part) | errClass (c : Nat) (p : Option Part) | power (a : Nat)
  | port (n : Port) | slot (f : Fn) (k : SlotNo)
  deriving DecidableEq, Repr

/-- Whether a route of function `f` with KIND and ARG fires for a source. -/
def routeFires (s : State) (f : Fn) (kind arg : Nat) : IrqSource → Bool
  | .flag i => kind == 1 && arg == 0x800 + i
  | .release p => kind == 2 && arg == p.val
  | .held p => kind == 3 && arg == p.val
  | .errClass c p => kind == 4 && arg == c && (f == 0 || (p.isSome && p == partOfFn s f))
  | .power a => kind == 5 && arg == a
  | .port n => kind == 6 && arg == n.val
  | .slot g k => kind == 7 && arg == k.val && f == g

def fnRange : List Fn := List.finRange 16

/-- One message on every vector routed to the event (18 R434). -/
def raise (s : State) (src : IrqSource) : State :=
  let hits := s.regs.filterMap fun e =>
    if e.1 % 512 = Field.hstIrqRouteKind.ctorIdx then
      let i := e.1 / 512
      let f : Fn := ⟨i / 64 % 16, Nat.mod_lt _ (by decide)⟩
      if decide (4 ≤ i % 64) && routeFires s f e.2 (fget s .hstIrqRouteArg i) src then some (f, i % 64) else none
    else none
  hits.foldl (fun t h => msix t h.1 h.2) s

end Sys2Proof.Machine
end

