-- ==== Sys2Proof/Machine/Mem.lean ====
section
/-! DEFINITION. Device memory: the address map (07 R155, 08 R176, 07 R172, 13 R320), lines of the Granary with their
valid bits and check bits, granules of HBM with their check symbols, and the local windows of the cores. -/

namespace Sys2Proof.Machine

/-- What lies at a device address. -/
inductive Place where
  | granary (q : MemDie)
  | hbm (k : Stack)
  | window (c : Core) (off : Nat)
  | host (f : Fn) (off : Nat)
  | nowhere
  deriving DecidableEq, Repr

def hbmBase : Nat := 0x0080_0000_0000
def windowBase : Nat := 0x0100_0000_0000
def hostBase : Nat := 0x0400_0000_0000

/-- The address map. -/
def placeOf (a : Nat) : Place :=
  if a < 0x0010_0000_0000 then .granary ⟨a / 2 ^ 32 % 16, Nat.mod_lt _ (by decide)⟩
  else if a < hbmBase then .nowhere
  else if a < windowBase then .hbm ⟨(a - hbmBase) / 2 ^ 36 % 8, Nat.mod_lt _ (by decide)⟩
  else if a < windowBase + 2 ^ 32 then
    .window ⟨(a - windowBase) / 2 ^ 24 % 256, Nat.mod_lt _ (by decide)⟩ ((a - windowBase) % 2 ^ 24)
  else if a < hostBase then .nowhere
  else if a < 0x0800_0000_0000 then
    .host ⟨(a - hostBase) / 2 ^ 38 % 16, Nat.mod_lt _ (by decide)⟩ ((a - hostBase) % 2 ^ 38)
  else .nowhere

/-- The half-stack of an HBM address, which is its quarter (08 R177). -/
def halfStackOf (a : Nat) : Nat := (a - hbmBase) / 2 ^ 35

/-- The global pseudo-channel of an HBM address (08 R176). -/
def pchanOf (a : Nat) : Nat :=
  let o := a - hbmBase
  let p := bits o 6 5 ^^^ bits o 21 5
  64 * bits o 36 3 + 2 * (16 * bits o 35 1 + p / 2) + p % 2

/-- The bank, line and row of a Granary address (07 R155). -/
def bankOf (a : Nat) : Nat := bits a 5 8
def rowOf (a : Nat) : Nat := bits a 19 13

/-- What a byte that nothing has written holds: zero, and the reset pattern in the scale registers (04 R81, 07 R165,
08 R185). -/
def memReset (a : Nat) : Byte :=
  match placeOf a with
  | .window _ off =>
    if 0x40_0000 ≤ off ∧ off < 0x42_0000 then
      match off % 16 with
      | 10 => 0x80 | 11 => 0xFF | 14 => 0x80 | 15 => 0x7F | _ => 0
    else 0
  | _ => 0

/-- What a byte holds that nothing has written since reset, or since a field test destroyed its half-stack (14 R356). -/
def memBase (l : List (Nat × Nat)) (a : Nat) : Byte :=
  match l with
  | [] => memReset a
  | _ =>
    match placeOf a with
    | .hbm _ =>
      match tget (fun _ => 0) l (halfStackOf a) with
      | 0 => 0
      | n + 1 => Config.testByte n a
    | _ => memReset a

def mget (s : State) (a : Nat) : Byte := tget (memBase s.scrambled) s.mem a
def mset (s : State) (a : Nat) (b : Byte) : State := { s with mem := tset (memBase s.scrambled) s.mem a b }

/-- `n` bytes from `a` as they are stored. -/
def mbytes (s : State) (a n : Nat) : Bytes := (span a n).map (mget s)

/-- Store bytes, each at its address. -/
def mput (s : State) (cells : List Host.Cell) : State := { s with mem := tsetAll (memBase s.scrambled) s.mem cells }

/-- Bytes with their addresses, from `a` on. -/
def cellsAt (a : Nat) (b : Bytes) : List Host.Cell := List.zip (span a b.length) b

/-- Who makes an access, as error records name it. -/
inductive MemAgent where
  | core (c : Core) | xce (d : Die) | upd (d : Die) | sc (n : Sc) | fn (f : Fn) | fabric | boot | refresh | scrub | rot
  | err
  deriving DecidableEq, Repr

def MemAgent.number : MemAgent → Nat
  | .core c => c.val | .xce d => 0x400 + d.val | .upd d => 0x500 + d.val | .sc n => 0x600 + n.val
  | .fn f => 0x700 + f.val | .fabric => 0x800 | .boot => 0x900 | .refresh => 0x103 | .scrub => 0xA00 | .rot => 0xB00
  | .err => 0xC00

/-- An uncorrectable or error-answered access: a record of class MEMORY that names the address and the agent, and
CHECKSUM in the partition of the agent (07 R164, 08 R179). -/
def memFault (s : State) (a : Nat) (ag : MemAgent) (p : Option Part) (u : UnitRef) (also : List Nat) : State :=
  let s := record s .memory (if p.isSome then .step else .info) p u .none 0 (.names 164 ([a, ag.number] ++ also))
  setStatus s p .checksum

/-! ### The Granary -/

def lineOf (a : Nat) : Nat := a / 32

/-- The two copies of a line's valid bit: 3 when both are set, 0 when neither is (07 R165). -/
def validOf (s : State) (line : Nat) : Nat := tget (fun _ => 0) s.grnValid line

/-- The syndrome of a Granary byte. -/
def synOf (s : State) (a : Nat) : Nat := tget (fun _ => 0) s.grnSyn a

/-- A memory die answers only while its status is READY (07 R167). -/
def grnReady (s : State) (q : MemDie) : Bool := fget s .grnStatusState q.val == 0

/-- An uncorrectable read or error answer of a memory die (07 R164). -/
def grnFault (s : State) (q : MemDie) (a : Nat) (ag : MemAgent) (p : Option Part) : State :=
  memFault (fbump s .grnErrTallyUe q.val 1) a ag p (.grn q) []

/-- Read `n` bytes of one line from `a`: the bytes and whether they are uncorrectable (07 R164, R165, R167). -/
def grnRead (s : State) (q : MemDie) (ag : MemAgent) (p : Option Part) (a n : Nat) : State × Bytes × Bool :=
  if !grnReady s q then (grnFault s q a ag p, List.replicate n 0, true)
  else
    match validOf s (lineOf a) with
    | 0 => (s, List.replicate n 0, false)
    | 3 =>
      let r := (span a n).map fun i => hammingRead (mget s i) (synOf s i)
      let bad := r.any fun x => x.2.2
      let s := fbump s .grnErrTallyCe q.val (r.filter fun x => x.2.1).length
      (if bad then grnFault s q a ag p else s, r.map fun x => x.1, bad)
    | _ => (grnFault s q a ag p, mbytes s a n, true)

/-- Write bytes of one line: exactly those bytes with their check bits. A line that was not valid takes zeros into
its other bytes and becomes valid (07 R166). -/
def grnWrite (s : State) (q : MemDie) (ag : MemAgent) (p : Option Part) (cells : List Host.Cell) : State :=
  match cells with
  | [] => s
  | (a, _) :: _ =>
    if !grnReady s q then grnFault s q a ag p
    else
      let base := lineOf a * 32
      let s := if validOf s (lineOf a) = 0 then
          { s with mem := tsetAll (memBase s.scrambled) s.mem ((span base 32).map fun i => (i, (0 : Byte)))
                   grnSyn := tsetAll (fun _ => 0) s.grnSyn ((span base 32).map fun i => (i, 0)) }
        else s
      { s with mem := tsetAll (memBase s.scrambled) s.mem cells
               grnSyn := tsetAll (fun _ => 0) s.grnSyn (cells.map fun c => (c.1, 0))
               grnValid := tset (fun _ => 0) s.grnValid (lineOf a) 3 }

/-! ### HBM -/

def granuleOf (a : Nat) : Nat := a / 64

/-- How the check symbols of a granule deviate from those of its data. -/
def devOf (s : State) (g : Nat) : Nat := tget (fun _ => 0) s.hbmSyn g
def setDev (s : State) (g d : Nat) : State := { s with hbmSyn := tset (fun _ => 0) s.hbmSyn g d }

/-- A stack serves requests while READY (08 R185, R186). -/
def hbmReady (s : State) (k : Stack) : Bool := fget s .hbmStatusState k.val == 1

/-- An uncorrectable granule (08 R179). -/
def hbmFault (s : State) (k : Stack) (a : Nat) (ag : MemAgent) (p : Option Part) : State :=
  memFault (fbump s .hbmErrTallyUe k.val 1) a ag p (.hbm k) [pchanOf a]

/-- Read `n` bytes of one granule from `a` (08 R179). -/
def hbmRead (s : State) (k : Stack) (ag : MemAgent) (p : Option Part) (a n : Nat) : State × Bytes × Bool :=
  if !hbmReady s k then (s, (span a n).map Config.deadByte, false)
  else
    let g := granuleOf a
    let r := granuleRead (mbytes s (64 * g) 64) (devOf s g)
    let s := if r.2.1 then fbump s .hbmErrTallyCe k.val 1 else s
    (if r.2.2 then hbmFault s k a ag p else s, slice r.1 (a - 64 * g) n, r.2.2)

/-- Write bytes of one granule. A whole granule is written directly, with the symbols that an armed injection inverts;
a part is merged into the corrected granule, whose check symbols are inverted when the read was uncorrectable
(08 R180, R452). -/
def hbmWrite (s : State) (k : Stack) (ag : MemAgent) (p : Option Part) (cells : List Host.Cell) : State :=
  match cells with
  | [] => s
  | (a, _) :: _ =>
    if !hbmReady s k then s
    else
      let g := granuleOf a
      if 64 ≤ cells.length then
        let armed := fbit s .hbmInjectArm k.val && fget s .hbmInjectOffset k.val / 64 == (64 * g - hbmBase) / 64
        if armed then
          let d := (mput s cells)
          let e := granuleInject (mbytes d (64 * g) 64) (fget s .hbmInjectNsym k.val)
          fset (setDev (mput s (cellsAt (64 * g) e.1)) g e.2) .hbmInjectArm k.val 0
        else setDev (mput s cells) g 0
      else
        let r := granuleRead (mbytes s (64 * g) 64) (devOf s g)
        let s := if r.2.1 then fbump s .hbmErrTallyCe k.val 1 else s
        let s := if r.2.2 then hbmFault s k a ag p else s
        let s := mput (mput s (cellsAt (64 * g) r.1)) cells
        setDev s g (if r.2.2 then 2 ^ 64 - 1 else 0)

/-! ### Local windows -/

/-- Offsets of a local window (07 R172). -/
def larderOff : Nat := 0
def storeOff : Nat := 0x20_0000
def scaleOff : Nat := 0x40_0000
def descOff : Nat := 0x42_0000
def holeOff : Nat := 0x43_0000

/-- The device address of an offset in a core's local window. -/
def winAddr (c : Core) (off : Nat) : Nat := windowBase + c.val * 2 ^ 24 + off

/-- The first byte and the length of the SRAM word that an error is noted under: 8 bytes in the control store, 4 elsewhere
(07 R173). -/
def sramSpan (k : Nat) : Nat × Nat :=
  let o := (4 * k - windowBase) % 2 ^ 24
  (4 * k, if storeOff ≤ o ∧ o < scaleOff then 8 else 4)

/-- A run of bytes meets the word of an error, and covers it. -/
def sramMeets (a n k : Nat) : Bool := let w := sramSpan k; decide (a < w.1 + w.2 ∧ w.1 < a + n)
def sramCovers (a n k : Nat) : Bool := let w := sramSpan k; decide (a ≤ w.1 ∧ w.1 + w.2 ≤ a + n)

/-- The errors that are left once a run has been written: those of words wholly rewritten are gone, and so are the
correctable ones of words in which the run was merged (07 R173). -/
def sramAfter (l : List (Nat × Nat)) (a n : Nat) : List (Nat × Nat) :=
  match l with
  | [] => []
  | l => l.filter fun e => !(sramCovers a n e.1 || (e.2 == 1 && sramMeets a n e.1))

/-- Bytes of a core's own stores, which its engines reach without a window access. -/
def localBytes (s : State) (c : Core) (off n : Nat) : Bytes := mbytes s (winAddr c off) n
def localPut (s : State) (c : Core) (off : Nat) (b : Bytes) : State :=
  { mput s (cellsAt (winAddr c off) b) with sramErr := sramAfter s.sramErr (winAddr c off) b.length }

/-- The engines of a core read runs of its stores, given as offset and length: a corrected error counts in the core's
error tally, an uncorrectable one is a MEMORY record and CHECKSUM (07 R173). -/
def sramRead (s : State) (c : Core) (runs : List (Nat × Nat)) : State :=
  let hits := s.sramErr.filter fun e => runs.any fun r => sramMeets (winAddr c r.1) r.2 e.1
  let good := (hits.filter fun e => e.2 == 1).length
  let s := if good = 0 then s else s.setCore c { s.core c with errTally := (s.core c).errTally + good }
  (hits.filter fun e => e.2 != 1).foldl (fun s e => memFault s (4 * e.1) (.core c) (partOfCore s c) (.core c) []) s

/-- An access through a window is aligned (07 R172). -/
def windowAligned (off n : Nat) : Bool := off % 4 == 0 && n % 4 == 0

/-- Whether a write through the window may set the byte at an offset: the control store takes none, offsets past the
descriptors take none, and the reserved bytes of a scale register take none (05 R99, 07 R172, 04 R81). -/
def windowTakes (off : Nat) : Bool :=
  decide (off < storeOff) || (decide (scaleOff ≤ off ∧ off < descOff) && !(decide (5 ≤ off % 16 ∧ off % 16 < 8))) ||
    decide (descOff ≤ off ∧ off < holeOff)

/-- Bytes go into a core's stores as the window takes them. -/
def windowPut (s : State) (c : Core) (off : Nat) (b : Bytes) : State :=
  { mput s ((cellsAt (winAddr c off) b).filter fun e => windowTakes (e.1 - winAddr c 0)) with
    sramErr := sramAfter s.sramErr (winAddr c off) b.length }

/-- Write through a window: an unaligned access, or one to the control store, is ignored and logged (07 R172,
05 R99). -/
def windowWrite (s : State) (c : Core) (off : Nat) (b : Bytes) : State :=
  if !windowAligned off b.length || decide (storeOff ≤ off ∧ off < scaleOff) then
    record s .core .info (partOfCore s c) (.core c) .none 0 (.names 172 [off])
  else windowPut s c off b

/-- Read through a window; an unaligned access is ignored and logged, and what it delivers is open (07 R172). -/
def windowRead (s : State) (c : Core) (off n : Nat) : State × Bytes :=
  if !windowAligned off n then
    (record s .core .info (partOfCore s c) (.core c) .none 0 (.names 172 [off]),
     (span (winAddr c off) n).map Config.deadByte)
  else (sramRead s c [(off, n)], (span off n).map fun o => if o < holeOff then mget s (winAddr c o) else 0)

/-! ### Any address -/

/-- How many bytes from `a` lie in its line or granule; an access to a local window is one piece, and elsewhere a piece
ends with its block of 64. -/
def unitLeft (a : Nat) : Nat :=
  match placeOf a with
  | .granary _ => 32 - a % 32
  | .window _ off => 2 ^ 24 - off
  | _ => 64 - a % 64

/-- Cut a run into lines and granules: address and length of each. -/
def cutRun : Nat → Nat → Nat → List (Nat × Nat)
  | 0, _, _ => []
  | f + 1, a, n => if n = 0 then [] else
    let k := min n (unitLeft a)
    (a, k) :: cutRun f (a + k) (n - k)

/-- Read within one line or granule. Host memory delivers what device DMA has brought, and open bytes otherwise; nothing
lies elsewhere. -/
def unitRead (s : State) (ag : MemAgent) (p : Option Part) (a n : Nat) : State × Bytes × Bool :=
  match placeOf a with
  | .granary q => grnRead s q ag p a n
  | .hbm k => hbmRead s k ag p a n
  | .window c off =>
    let r := windowRead s c off n
    (r.1, r.2, false)
  | .host _ _ => (s, (span a n).map fun i =>
      (tget (fun _ => none) s.net.staged i).getD (Config.deadByte i), false)
  | .nowhere => (s, (span a n).map Config.deadByte, true)

/-- Write within one line or granule. -/
def unitWrite (s : State) (ag : MemAgent) (p : Option Part) (cells : List Host.Cell) : State :=
  match cells with
  | [] => s
  | (a, _) :: _ =>
    match placeOf a with
    | .granary q => grnWrite s q ag p cells
    | .hbm k => hbmWrite s k ag p cells
    | .window c off => windowWrite s c off (cells.map (·.2))
    | .host _ _ => s
    | .nowhere => s

/-! ### The queues of the memories (07 R158, R159, 08 R182) -/

/-- Entry `i` of a memory die's schedule in force. -/
def grnOwner (s : State) (q : MemDie) (i : Nat) : Nat :=
  tget (fun i => if i = 63 then 0x103 else 0x1FF) (s.grnDie q).table i

/-- The agent code under which an agent may own slots of a memory die (07 R157). -/
def MemAgent.slotCode (q : MemDie) : MemAgent → Option Nat
  | .core c => some c.val
  | .xce d => if d.val = q.val / 4 then some 0x100 else none
  | .upd d => if d.val = q.val / 4 then some 0x101 else none
  | _ => none

/-- The queue of a die in which an agent's requests wait: its own, or SHARED for an agent that owns no entry (07 R158). -/
def grnLane (s : State) (q : MemDie) (ag : MemAgent) : Nat :=
  match ag.slotCode q with
  | some v => if (span 0 63).any fun i => grnOwner s q i == v then v else 0x102
  | none => 0x102

/-- A queued request takes effect before its turn to be answered: a read holds what it brought, a write is made. -/
def takeEffect (s : State) (r : MemReq) : State × MemReq :=
  let p := partOfCore s r.core
  match r.act with
  | .read n => let x := unitRead s (.core r.core) p r.addr n; (x.1, { r with act := .held x.2.1 })
  | .write cells => (unitWrite s (.core r.core) p cells, { r with act := .write [] })
  | .held _ => (s, r)

/-- The requests of a list that `pick` names take effect, in their order; `n` of them at most are looked at where `seen`
counts (the requests of a stack that its controller has accepted). -/
def takeEffects (pick seen : MemReq → Bool) : Nat → List MemReq → State → State × List MemReq
  | _, [], s => (s, [])
  | n, r :: rest, s =>
    if n = 0 then (s, r :: rest)
    else
      let x := if pick r then takeEffect s r else (s, r)
      let y := takeEffects pick seen (if seen r then n - 1 else n) rest x.1
      (y.1, x.2 :: y.2)

/-- The requests that each stack's controller accepts (08 R182). -/
def hbmAccepts : Nat := 2048

/-- An agent's access reaches its memory at once. Requests that stand before it have taken effect by then: those accepted
at its granule's pseudo-channel queue (08 R182), and at a bank of the Granary those of the queue that it would wait in
(07 R158). -/
def arrive (s : State) (ag : MemAgent) (a : Nat) : State :=
  match placeOf a with
  | .hbm k =>
    match s.hbmQueue with
    | [] => s
    | l =>
      let x := takeEffects (fun r => granuleOf r.addr == granuleOf a) (fun r => placeOf r.addr == .hbm k) hbmAccepts l s
      { x.1 with hbmQueue := x.2 }
  | .granary q =>
    match s.grnQueue with
    | [] => s
    | l =>
      let lane := grnLane s q ag
      let x := takeEffects (fun r => placeOf r.addr == .granary q && bankOf r.addr == bankOf a &&
        grnLane s q (.core r.core) == lane) (fun _ => false) 1 l s
      { x.1 with grnQueue := x.2 }
  | _ => s

/-- Read `n` bytes from `a` at once: the bytes, and whether any was uncorrectable. -/
def memRead (s : State) (ag : MemAgent) (p : Option Part) (a n : Nat) : State × Bytes × Bool :=
  (cutRun n a n).foldl (fun r u =>
    let x := unitRead (arrive r.1 ag u.1) ag p u.1 u.2
    (x.1, r.2.1 ++ x.2.1, r.2.2 || x.2.2)) (s, [], false)

/-- Write bytes from `a` on at once. -/
def memWrite (s : State) (ag : MemAgent) (p : Option Part) (a : Nat) (b : Bytes) : State :=
  (cutRun b.length a b.length).foldl (fun s u =>
    unitWrite (arrive s ag u.1) ag p (cellsAt u.1 (slice b (u.1 - a) u.2))) s

/-! ### Rights (15 R375) -/

/-- The agents of partition `p` reach the address. -/
def granted (s : State) (p : Part) (a : Nat) : Bool :=
  fbit s .rotPmapValid p.val &&
    match placeOf a with
    | .granary q => bit (fget s .rotPmapQmask p.val) q.val
    | .hbm _ => bit (fget s .rotPmapQmask p.val) (halfStackOf a)
    | .window c _ => bit (fget s .rotPmapQmask p.val) (quarterOf c)
    | .host f _ => fget s .rotPmapHwin p.val == f.val
    | .nowhere => false

/-- The agents of partition `p` reach every byte of a run. No region of the map is smaller than 16 MiB or lies off its own
alignment, so one byte in each 16 MiB and the last byte answer for all. -/
def grantedRun (s : State) (p : Part) (a n : Nat) : Bool :=
  n == 0 || (((span 0 ((n - 1) / 2 ^ 24 + 1)).all fun i => granted s p (a + i * 2 ^ 24)) && granted s p (a + n - 1))

end Sys2Proof.Machine
end

