-- ==== Sys2Proof/Machine/Dma.lean ====
section
/-! DEFINITION. Violations (13 R335) and device DMA through the host windows (13 R320, R321, R329). -/

namespace Sys2Proof.Machine

/-- A violation: its tally counts it, and one record a microsecond per code and requester is written (13 R335). -/
def violation (s : State) (code requester : Nat) (info : List Nat) : State :=
  let s := fbump s .hstViolTallyCount code 1
  let key := code * 2 ^ 32 + requester
  let now := timeNow s / 1000 + 1
  if tget (fun _ => 0) s.hub.violLast key = now then s
  else
    let s := { s with hub := { s.hub with violLast := tset (fun _ => 0) s.hub.violLast key now } }
    record s .host .info none .hst .none code (.names 335 (code :: requester :: info))

/-- The bit of the AER Uncorrectable Error Status that a violation sets: Malformed TLP, Poisoned TLP Received, Unsupported
Request, IDE Check Failed, Unexpected Completion (13 R335). -/
def aerBit : Nat → Option Nat
  | 0x01 => some 18 | 0x02 => some 12 | 0x03 => some 20 | 0x08 => some 28 | 0x0B => some 16 | _ => none

/-- AER takes an error: its status bit, and for the first that is not masked the TLP's header and prefixes (13 R310). -/
def FnX.aerTakes (x : FnX) (b : Nat) (t : Tlp) : FnX :=
  let x := { x with aer := x.aer ||| 2 ^ b }
  if bit x.aerMask b || x.aerFirst.isSome then x
  else { x with aerFirst := some b, aerHeader := t.header, aerPrefix := t.prefixes }

/-- How an error is signalled: 0 correctable, 1 non-fatal, 2 fatal. An error of non-fatal severity that the request's or the
completion's other end sees too is advisory, and signalled as correctable: an Unsupported Request that is answered, an
Unexpected Completion. PRESUMED (PCI Express), log 156. -/
def FnX.errKind (x : FnX) (b : Nat) (answered : Bool) : Nat :=
  if bit x.aerSeverity b then 2 else if b = 16 ∨ (b = 20 ∧ answered) then 0 else 1

/-- What Device Status and the correctable errors of AER show of an error: an advisory one is bit 13. -/
def FnX.errShown (x : FnX) (b kind : Nat) : FnX :=
  { x with
    errDetected := x.errDetected ||| 2 ^ kind ||| (if b = 20 then 8 else 0)
    aerCor := if kind = 0 then x.aerCor ||| 2 ^ 13 else x.aerCor }

/-- The error message that an error makes is enabled: SERR# Enable, or the enable of its kind, with that of Unsupported
Requests for those; masked errors make none. -/
def FnX.errSent (x : FnX) (b kind : Nat) : Bool :=
  !bit x.aerMask b && !(kind == 0 && bit x.aerCorMask 13) &&
    ((x.serrEnable && kind != 0) || (bit x.errReport kind && (b != 20 || bit x.errReport 3)))

/-- A violation at a function of the host link, reported by AER where R335 says so. `answered` says that the request has a
completion. -/
def linkViolation (s : State) (f : Fn) (code : Nat) (info : List Nat) (t : Tlp := .sound) (answered : Bool := false) : State :=
  let s := violation s code f.val (info ++ t.header.map (·.toNat))
  match aerBit code with
  | some b =>
    let x := s.fn f
    let kind := x.errKind b answered
    let s := s.setFn f ((x.aerTakes b t).errShown b kind)
    if x.errSent b kind then emit s (.errMsg f kind) else s
  | none => s

/-! ### IDE streams (13 R322) -/

/-- The stream of a function. -/
def ideOf (s : State) (f : Fn) : Option IdeX := s.hub.ide.find? fun x => x.fn == f

/-- The stream of a function becomes Insecure. -/
def ideBroken (s : State) (f : Fn) : State :=
  { s with hub := { s.hub with ide := mapFirst (fun x => x.fn == f) (fun x => { x with secure := false }) s.hub.ide } }

/-- Device DMA meets an error: a record of class HOST, and CHECKSUM in the requesting partition (13 R329). -/
def dmaError (s : State) (f : Fn) (p : Option Part) (a : Nat) : State :=
  setStatus (violation s 0x0A f.val [a]) p .checksum

/-! ### The end of a call (14 R339, R340) -/

def sOK : Nat := 0
def sBADCALL : Nat := 1
def sUNKNOWN : Nat := 2
def sDENIED : Nat := 3
def sSTATE : Nat := 4
def sBUSY : Nat := 5
def sDMAERR : Nat := 6
def sMEMERR : Nat := 7
def sABORTED : Nat := 8
def sNOTFOUND : Nat := 9
def sCHECK : Nat := 10

/-- The call in a slot. -/
def callOf (s : State) (f : Fn) (k : SlotNo) : Option CallX :=
  s.hub.calls.find? fun c => c.fn == f && c.slot == k

/-- Change the call in a slot. -/
def onCall (s : State) (f : Fn) (k : SlotNo) (g : CallX → CallX) : State :=
  { s with hub := { s.hub with calls := mapFirst (fun c => c.fn == f && c.slot == k) g s.hub.calls } }

/-- A call has come to its end; CALL_COMPLETE writes its results. -/
def finishCall (s : State) (f : Fn) (k : SlotNo) (code detail : Nat) (out : Bytes) : State :=
  onCall s f k fun c => if c.finished.isSome then c else { c with finished := some (code, detail, out) }

/-- The sequence number of the record queued last (14 R340). -/
def lastSeq (s : State) : Nat := fget s .errSeqNext 0 + s.errQueue.length - 1

/-- What a failed transfer does beside its record: a call ends with DMAERR, and a reading of the root of trust has met an
error (14 R340, 15 R371). -/
def dmaFailed (s : State) (why : ReqFor) (f : Fn) (p : Option Part) (a : Nat) : State :=
  let s := dmaError s f p a
  match why with
  | .call g k => finishCall s g k sDMAERR (lastSeq s) []
  | .loader => { s with rot := { s.rot with readErr := true } }
  | _ => s

/-- The host address of a window offset for a run of `n` bytes, when its slice is in use and holds it and the function
may issue DMA (13 R320, R321). -/
def hostXlate (s : State) (f : Fn) (off n : Nat) : Option Nat :=
  let i := f.val * 16 + off / 2 ^ 34
  let o := off % 2 ^ 34
  if fbit s .hstHwinEn i && decide (o + n ≤ fget s .hstHwinLen i * 4096) && (s.fn f).mayIssue &&
      fbit s .hstLinkStatusUp 0 then
    some (fget s .hstHwinHaddr i + o)
  else none

/-- A posted write to host memory, on the function's stream where one is established. -/
def dmaWrite (s : State) (f : Fn) (p : Option Part) (off : Nat) (b : Bytes) : State :=
  match hostXlate s f off b.length with
  | some h => emit s (.dmaWrite f h b (ideOf s f).isSome)
  | none => dmaError s f p (hostBase + f.val * 2 ^ 38 + off)

/-- The lowest tag of the 16,384 that is free (13 R321). -/
def freeDmaTag (s : State) : Nat :=
  ((span 0 (s.net.dma.length + 1)).find? fun t => !(s.net.dma.any fun d => d.tag == t)).getD 0

/-- Reads that are not sent yet carry numbers from here on in place of tags. -/
def dmaUnsent : Nat := 16384

/-- The reads outstanding: sent, and neither answered nor ended locally. -/
def dmaOut (s : State) : Nat := (s.net.dma.filter fun d => decide (d.tag < dmaUnsent) && !d.quarantine).length

/-- Reads are sent in order while a tag is free and fewer than 1,024 are outstanding; none of a function that may issue no
request (13 R310, R321). -/
def dmaGo : Nat → State → State
  | 0, s => s
  | k + 1, s =>
    match s.net.dma.find? fun d => decide (dmaUnsent ≤ d.tag) && (s.fn d.fn).mayIssue with
    | none => s
    | some d =>
      let t := freeDmaTag s
      if 1024 ≤ dmaOut s ∨ dmaUnsent ≤ t then s
      else
        dmaGo k (emit { s with net := { s.net with
            dma := mapFirst (fun e => e.tag == d.tag) (fun e => { e with tag := t }) s.net.dma } }
          (.dmaRead t d.fn d.hostAddr d.len (ideOf s d.fn).isSome))

def pumpDma (s : State) : State := dmaGo (s.net.dma.filter fun d => decide (dmaUnsent ≤ d.tag)).length s

/-- A read of host memory: sent with a tag when its turn comes, to be answered by DMA_COMPLETION. False when it ends at
once in an error. -/
def dmaRead (s : State) (f : Fn) (p : Option Part) (off n : Nat) (why : ReqFor) : State × Bool :=
  let dev := hostBase + f.val * 2 ^ 38 + off
  match hostXlate s f off n with
  | some h =>
    let k := s.net.nextDma
    let d : DmaX := { tag := dmaUnsent + k, fn := f, part := p, hostAddr := h, len := n, why := why, devAddr := dev }
    (pumpDma { s with net := { s.net with nextDma := k + 1, dma := s.net.dma ++ [d] } }, true)
  | none => (dmaFailed s why f p dev, false)

/-! ### Units that reach host memory in one act -/

/-- Write bytes from `a` on: host memory takes posted writes. -/
def agentWrite (s : State) (ag : MemAgent) (p : Option Part) (a : Nat) (b : Bytes) : State :=
  (cutRun b.length a b.length).foldl (fun s u =>
    let d := slice b (u.1 - a) u.2
    match placeOf u.1 with
    | .host f off => dmaWrite s f p off d
    | _ => unitWrite (arrive s ag u.1) ag p (cellsAt u.1 d)) s

/-- Every host byte of a run can be written: its slices are in use and the function may issue DMA (13 R320, R321). -/
def hostTakes (s : State) (a n : Nat) : Bool :=
  (cutRun n a n).all fun u =>
    match placeOf u.1 with
    | .host f off => (hostXlate s f off u.2).isSome
    | _ => true

/-- Every byte of a run of host memory has come. -/
def isStaged (s : State) (u : Nat × Nat) : Bool := (span u.1 u.2).all fun a => (tget (fun _ => none) s.net.staged a).isSome

/-- Cut a run where multiples of `c` lie. -/
def cutEvery (c : Nat) : Nat → Nat → Nat → List (Nat × Nat)
  | 0, _, _ => []
  | k + 1, a, n => if n = 0 then [] else
    let m := min n (c - a % c)
    (a, m) :: cutEvery c k (a + m) (n - m)

/-- The parts of runs that lie in host memory, each within the maximum read request size of its function (13 R310). -/
def hostParts (s : State) (runs : List (Nat × Nat)) : List (Nat × Nat) :=
  runs.flatMap fun r =>
    match placeOf r.1 with
    | .host f _ =>
      let c := 128 * 2 ^ (s.fn f).maxReadRequest
      cutEvery c (r.2 / c + 2) r.1 r.2
    | _ => []

/-- Ask for a part of host memory that has not come and is not on its way. -/
def askHost (p : Option Part) (why : ReqFor) (s : State) (u : Nat × Nat) : State :=
  if isStaged s u || s.net.dma.any (fun d => d.devAddr == u.1 && d.len == u.2) then s
  else
    match placeOf u.1 with
    | .host f off =>
      let d := dmaRead s f p off u.2 why
      if d.2 then d.1
      else { d.1 with net := { d.1.net with
        staged := (span u.1 u.2).foldl (fun t i => tset (fun _ => none) t i (some 0)) d.1.net.staged } }
    | _ => s

/-- What a unit does that needs bytes of host memory: the state after asking for them, or none once all have come. -/
def stageHost (s : State) (p : Option Part) (why : ReqFor) (runs : List (Nat × Nat)) : Option State :=
  let parts := hostParts s runs
  if parts.all (isStaged s) then none else some (parts.foldl (askHost p why) s)

/-- The bytes brought for runs are used up. -/
def unstage (s : State) (runs : List (Nat × Nat)) : State :=
  { s with net := { s.net with
    staged := s.net.staged.filter fun e => !(runs.any fun r => decide (r.1 ≤ e.1 ∧ e.1 < r.1 + r.2)) } }

end Sys2Proof.Machine
end

