-- ==== Sys2Proof/Machine/Net.lean ====
section
/-! DEFINITION. The transport layer of the fabric: packets, tags, answers, the checks at a destination, routing, and
what a port does with the packets it sends (11 R253 to R276, R282). -/

namespace Sys2Proof

open Machine

/-! ### Packets (11 R257, R258) -/

/-- The 32 header bytes. -/
def Packet.header (p : Packet) : Bytes :=
  [p.type, BitVec.ofNat 8 (ofBool p.epoch + 2 * ofBool p.mc + 4 * ofBool p.ans + 8 * ofBool p.cm)] ++
    leBytes 2 p.len.toNat ++ leBytes 4 (p.dstDev.toNat + p.dstEp.toNat * 2 ^ 17) ++
    leBytes 4 (p.srcDev.toNat + p.srcEp.toNat * 2 ^ 17) ++ leBytes 2 p.tag.toNat ++ leBytes 1 p.vc.toNat ++
    [p.hoplim] ++ leBytes 6 p.addr.toNat ++ leBytes 2 p.job.toNat ++ leBytes 2 p.aux.toNat ++ leBytes 6 0

/-- The CRC-32C of the header and payload. -/
def Packet.crc (p : Packet) : Nat := crc32c (p.header ++ p.data)

/-- The packet with its PCRC. -/
def Packet.sealed (p : Packet) : Packet := { p with pcrc := BitVec.ofNat 32 p.crc }

/-- PCRC matches. A packet with a reserved bit set is judged by that bit. -/
def Packet.pcrcOk (p : Packet) : Bool := p.rsv || p.pcrc.toNat == p.crc

/-- A router that changes header fields changes PCRC by the difference, so that a mismatch stays one. -/
def Packet.rehead (p q : Packet) : Packet :=
  { q with pcrc := p.pcrc ^^^ BitVec.ofNat 32 p.crc ^^^ BitVec.ofNat 32 q.crc }

/-- The flits a packet takes. -/
def Packet.flits (p : Packet) : Nat := ceilDiv (36 + p.len.toNat) 120

/-- The flow channel of a packet: class 0 for requests, 1 for answers (11 R270). -/
def Packet.chan (p : Packet) : Nat := 2 * p.vc.toNat + ofBool p.ans

def tWRITE : Byte := 1
def tREAD : Byte := 2
def tREADDATA : Byte := 3
def tACK : Byte := 4
def tNAK : Byte := 5
def tXCE : Byte := 6
def tSVC : Byte := 7
def tMGMT : Byte := 8
def tEPOCH : Byte := 9

/-- The violation codes of 11 R282. -/
def nMALFORMED : Nat := 1
def nPCRC : Nat := 2
def nNOENDPOINT : Nat := 3
def nPROTECT : Nat := 4
def nJOB : Nat := 5
def nVC : Nat := 6
def nSTALE : Nat := 7
def nUNROUTABLE : Nat := 8
def nHOPLIMIT : Nat := 9
def nFENCED : Nat := 10
def nLINKDOWN : Nat := 11
def nUNCORRECTABLE : Nat := 12
def nTIMEOUT : Nat := 13
def nNOTOWNER : Nat := 14
def nSTRAY : Nat := 15

/-- AUX as its TYPE allows (11 R258). -/
def auxOk (p : Packet) : Bool :=
  let a := p.aux.toNat
  match p.type.toNat with
  | 1 => a == 0
  | 2 => decide (1 ≤ a ∧ a ≤ 2048)
  | 3 => a == 0
  | 4 => decide (a ≤ 1)
  | 5 => decide (a ≤ 255)
  | 6 => a == 0
  | 9 => decide (a < 8) && bits a 1 2 != 3
  | _ => true

/-- MALFORMED as every router finds it. -/
def Packet.malformed (p : Packet) : Bool :=
  let t := p.type.toNat
  p.rsv || t == 0 || decide (9 < t) || p.ans != decide (3 ≤ t ∧ t ≤ 5) || !auxOk p || decide (23 < p.vc.toNat) ||
    (p.mc && (!(t == 1 || t == 6) || decide (4095 < p.dstDev.toNat)))

/-- The bytes a request touches. -/
def Packet.extent (q : Packet) : Nat := if q.type == tREAD then q.aux.toNat else q.data.length

/-- The CRC of a flit matches. -/
def Flit.crcOk (f : Flit) : Bool :=
  f.crc.toNat == crc32c (leBytes 4 (f.fseq.toNat + f.ftype.toNat * 2 ^ 14 + f.ackseq.toNat * 2 ^ 16 +
    ofBool f.ackv * 2 ^ 30 + ofBool f.sop * 2 ^ 31) ++ slice f.content 0 120)

/-- The port a packet came in by, 0xFFF for the device's own. -/
def Ingress.num : Ingress → Nat
  | .port n => n.val
  | .own => 0xFFF

end Sys2Proof

namespace Sys2Proof.Machine

/-! ### This device on the fabric -/

def devId (s : State) : Nat := fget s .sklDevidDevid 0
def devValid (s : State) : Bool := fbit s .sklDevidValid 0
def epochNow (s : State) : Bool := fbit s .sklEpochEpoch 0
def draining (s : State) : Bool := fbit s .sklEpochDraining 0
/-- The state of a routing bank: 0 RETIRED, 1 LOADING, 2 LIVE (11 R264). -/
def bankState (s : State) (e : Bool) : Nat := if e then fget s .sklEpochBank1 0 else fget s .sklEpochBank0 0
def routeOf (s : State) (e : Bool) (dev : Nat) : Nat := fget s .sklRouteOut (ofBool e * 131072 + dev)
/-- STATE of a port is UP or UP16. -/
def portUp (s : State) (n : Port) : Bool :=
  fget s .sklPortStatusState n.val == 2 || fget s .sklPortStatusState n.val == 3
def portRange : List Port := List.finRange 6

/-! ### Injection and tags (11 R259, R261, R265, R269) -/

/-- The lowest of the 8,192 tags that is neither outstanding nor quarantined. -/
def freeTag (s : State) : Option Nat := (span 0 8192).find? fun t => !(s.net.out.any fun o => o.1 == t)

/-- Own packets enter the router in the order in which they are formed. -/
def pushOwn (s : State) (p : Packet) : State := { s with net := { s.net with inject := s.net.inject ++ [p] } }

/-- Requests of the device go on to be injected as long as there are tags, the device has its ID and no drain is under
way. -/
def pumpGo : Nat → State → State
  | 0, s => s
  | n + 1, s =>
    match s.net.held, freeTag s with
    | (p, part, why, leaves) :: rest, some t =>
      if draining s || !devValid s then s
      else
        let p := Packet.sealed
          { p with tag := BitVec.ofNat 13 t, epoch := epochNow s, srcDev := BitVec.ofNat 17 (devId s)
                   hoplim := BitVec.ofNat 8 (fget s .sklDevidHoplim 0) }
        let leaves := if p.mc then
            fget s .sklMcastLeaves (ofBool p.epoch * 4096 + p.dstDev.toNat % 4096) + 1 else leaves
        let o : OutReq := { pkt := p, part := part, why := why, leaves := leaves, quarantine := 0 }
        pumpGo n (pushOwn { s with net := { s.net with held := rest, out := s.net.out ++ [(t, o)] } } p)
    | _, _ => s

def pump (s : State) : State := pumpGo s.net.held.length s

/-- A unit of the device makes a request. -/
def sendReq (s : State) (part : Option Part) (why : ReqFor) (p : Packet) : State :=
  pump { s with net := { s.net with held := s.net.held ++ [(p, part, why, 1)] } }

/-- A request with nothing in it yet, from an endpoint to an endpoint. -/
def blankReq (type : Byte) (srcEp : Nat) (dev ep : Nat) (vc job : Nat) (addr aux : Nat) (data : Bytes) : Packet :=
  { type := type, len := BitVec.ofNat 12 data.length, dstDev := BitVec.ofNat 17 dev, dstEp := BitVec.ofNat 9 ep
    srcDev := 0, srcEp := BitVec.ofNat 9 srcEp, tag := 0, vc := BitVec.ofNat 5 vc, hoplim := 0
    addr := BitVec.ofNat 48 addr, job := BitVec.ofNat 16 job, aux := BitVec.ofNat 16 aux, data := data, pcrc := 0 }

/-- The answer to a request: to its SRC, with its TAG, VC and EPOCH (11 R259). -/
def answerTo (s : State) (q : Packet) (srcEp : Nat) (type : Byte) (aux : Nat) (data : Bytes) : Packet :=
  Packet.sealed
    { type := type, ans := true, epoch := q.epoch, len := BitVec.ofNat 12 data.length, dstDev := q.srcDev
      dstEp := q.srcEp, srcDev := BitVec.ofNat 17 (devId s), srcEp := BitVec.ofNat 9 srcEp, tag := q.tag, vc := q.vc
      hoplim := BitVec.ofNat 8 (fget s .sklDevidHoplim 0), job := q.job, aux := BitVec.ofNat 16 aux, data := data
      pcrc := 0 }

/-- The endpoint of this device that a packet names. -/
def localEp (s : State) (q : Packet) : Nat :=
  if q.mc then fget s .sklMcastEp (ofBool q.epoch * 4096 + q.dstDev.toNat % 4096) else q.dstEp.toNat

/-- The port by which a packet at one of this device's endpoints came; 0xFFF for the device's own. -/
def cameBy (s : State) (q : Packet) : Nat := ((s.net.inbox.find? fun e => e.1 == q).map (·.2)).getD 0xFFF

/-- A packet at an endpoint has been answered or taken. -/
def doneWith (s : State) (q : Packet) : State :=
  { s with net := { s.net with inbox := dropFirst (fun e => e.1 == q) s.net.inbox } }

/-- A packet is handed to an endpoint of this device. -/
def deliver (s : State) (port : Nat) (p : Packet) : State :=
  emit { s with net := { s.net with inbox := s.net.inbox ++ [(p, port)] } } (.packet none p)

/-- An answer sets out. A device without an ID answers only MGMT. -/
def answer (s : State) (q : Packet) (type : Byte) (aux : Nat) (data : Bytes) : State :=
  let s := doneWith s q
  if devValid s || q.type == tMGMT then pushOwn s (answerTo s q (localEp s q) type aux data) else s

/-- ACK, with CME when the request carries a congestion mark. -/
def ackTo (s : State) (q : Packet) : State := answer s q tACK (ofBool q.cm) []

/-! ### Violations (11 R282) -/

/-- A violation is counted, and one record a microsecond per code and port is written; 0xFFF names the device itself. -/
def fabViol (s : State) (code port : Nat) (q : Packet) : State :=
  let s := fbump s .sklViolTallyCount code 1
  let key := code * 4096 + port
  let now := timeNow s / 1000 + 1
  if tget (fun _ => 0) s.net.violLast key = now then s
  else
    let s := { s with net := { s.net with violLast := tset (fun _ => 0) s.net.violLast key now } }
    record s .fabric .info none (if h : port < 6 then .port ⟨port, h⟩ else .router) (.code q.type.toNat) code
      (.names 282 [code, port, q.vc.toNat, q.type.toNat, q.srcDev.toNat, q.srcEp.toNat, q.dstDev.toNat, q.dstEp.toNat,
        q.tag.toNat])

/-- The source of a packet has a route. -/
def srcRoutable (s : State) (e : Bool) (q : Packet) : Bool :=
  q.srcDev.toNat == devId s || decide (routeOf s e q.srcDev.toNat < 6)

/-- The NAK of a violation, where one is sent. -/
def sendNak (s : State) (q : Packet) (code : Nat) : State :=
  let e := if code = nSTALE then epochNow s else q.epoch
  if q.ans || !srcRoutable s e q then s
  else if devValid s || q.type == tMGMT then pushOwn s (answerTo s { q with epoch := e } (localEp s q) tNAK code [])
  else s

/-- A violation by a packet at one of this device's endpoints and its one answer, recorded with the port by which the packet
came. -/
def nak (s : State) (q : Packet) (code : Nat) : State :=
  sendNak (doneWith (fabViol s code (cameBy s q) q) q) q code

/-- A violation that the router finds as a packet comes by a port, or 0xFFF for the device's own, and its one answer. -/
def nakAt (s : State) (q : Packet) (code port : Nat) : State := sendNak (fabViol s code port q) q code

/-! ### The checks of a destination (11 R260, R282) -/

/-- The packet is one for this device. -/
def isForUs (s : State) (q : Packet) : Bool :=
  if !fabricOn s then false
  else if q.mc then
    let i := ofBool q.epoch * 4096 + q.dstDev.toNat % 4096
    fbit s .sklMcastValid i && fbit s .sklMcastLocal i
  else devValid s && q.dstDev.toNat == devId s || q.type == tMGMT

/-- The endpoint takes the TYPE. -/
def endpointTakes (q : Packet) (ep : Nat) : Bool :=
  match q.type.toNat with
  | 1 | 2 => decide (ep ≤ 267)
  | 6 => decide (256 ≤ ep ∧ ep ≤ 259)
  | 7 => decide (264 ≤ ep ∧ ep ≤ 267)
  | 8 | 9 => ep == 268
  | _ => decide (ep ≤ 268)

/-- The partition to which a parallel group belongs. -/
def partOfGroup (s : State) (g : Nat) : Option Part :=
  if fbit s .xceGroupEn g then partRange.find? fun p => (s.part p).enabled && (s.part p).img.pgroups.contains g
  else none

/-- The partition whose memory holds an address. -/
def partOfAddr (s : State) (a : Nat) : Option Part := partRange.find? fun p => (s.part p).enabled && granted s p a

/-- The partition that a request names by its endpoint, its address or its group VC. -/
def destPart (s : State) (q : Packet) : Option Part :=
  let ep := localEp s q
  match q.type.toNat with
  | 1 | 2 => if h : ep < 256 then partOfCore s ⟨ep, h⟩ else partOfAddr s q.addr.toNat
  | 6 => if q.vc.toNat < 16 then partOfGroup s q.vc.toNat else partOfJob s q.job.toNat
  | _ => partOfJob s q.job.toNat

/-- The VC is open to the partition (11 R260, R270). -/
def vcOpen (s : State) (p : Part) (vc : Nat) : Bool :=
  if vc < 16 then partOfGroup s vc == some p
  else if vc < 20 then tget (fun _ => 0) s.net.vcAssign vc == p.val + 1
  else vc == 20 || vc == 21 || vc == 22

/-- The registered address of the fabric manager (13 R326). -/
def isFm (s : State) (dev ep : Nat) : Bool :=
  dev == fget s .hstOwnPolicyFmdev 0 && ep == fget s .hstOwnPolicyFmep 0 && decide (ep < 269)

/-- The regions of a partition that admit a request at an address (12 R300). -/
def admits (s : State) (p : Part) (q : Packet) (a : Nat) : Bool :=
  granted s p a && (s.part p).img.carve.any fun r => decide (r.base ≤ a ∧ a < r.base + r.len) &&
    match r.use with
    | 1 => true
    | 2 => q.type == tREAD
    | 3 => (q.vc.toNat == 20 || q.vc.toNat == 21) && decide (264 ≤ q.srcEp.toNat ∧ q.srcEp.toNat ≤ 267)
    | _ => false

/-- The traffic to a CKPT_IN region that a fence lets pass (16 R395). -/
def ckptTraffic (s : State) (p : Part) (q : Packet) : Bool :=
  (q.type == tWRITE || q.type == tREAD) && (q.vc.toNat == 20 || q.vc.toNat == 21) &&
    decide (264 ≤ q.srcEp.toNat ∧ q.srcEp.toNat ≤ 267) &&
    (s.part p).img.carve.any fun r => r.use == 3 && decide (r.base ≤ q.addr.toNat ∧ q.addr.toNat < r.base + r.len)

/-- What a destination finds wrong with a packet, in the order of 11 R282; `bad` says that its payload is malformed. -/
def destCheck (s : State) (q : Packet) (bad : Bool) : Option Nat :=
  if !q.pcrcOk then some nPCRC
  else if q.malformed || bad then some nMALFORMED
  else if !endpointTakes q (localEp s q) then some nNOENDPOINT
  else if q.ans || q.type == tMGMT || q.type == tEPOCH then none
  else if q.type == tSVC && q.job.toNat == 0 then none
  else
    match destPart s q with
    | none => some nJOB
    | some p =>
      if (s.part p).img.job ≠ q.job.toNat then some nJOB
      else if !vcOpen s p q.vc.toNat then some nVC
      else if fbit s .hstPartCtrlFence p.val && !ckptTraffic s p q then some nFENCED
      else if (q.type == tWRITE || q.type == tREAD) && q.extent != 0 &&
          !(admits s p q q.addr.toNat && admits s p q (q.addr.toNat + q.extent - 1)) then some nPROTECT
      else none

/-! ### Ports: from packets to flits (11 R253, R255, R271) -/

/-- A link flit with its CRC. -/
def mkFlit (fseq ftype ackseq : Nat) (ackv sop : Bool) (content : Bytes) : Flit :=
  let c := slice content 0 120
  let h := fseq + ftype * 2 ^ 14 + ackseq * 2 ^ 16 + ofBool ackv * 2 ^ 30 + ofBool sop * 2 ^ 31
  { fseq := BitVec.ofNat 14 fseq, ftype := BitVec.ofNat 2 ftype, ackseq := BitVec.ofNat 14 ackseq, ackv := ackv
    sop := sop, content := c, crc := BitVec.ofNat 32 (crc32c (leBytes 4 h ++ c)), decoded := true }

/-- Cut bytes into pieces of 120. -/
def cut120 : Nat → Bytes → List Bytes
  | 0, _ => []
  | n + 1, b => slice b 0 120 :: cut120 n (b.drop 120)

/-- Send a sequenced flit: it takes the next FSEQ and stays in the retry buffer. -/
def sendSeq (s : State) (n : Port) (ftype : Nat) (sop : Bool) (content : Bytes) : State :=
  let x := s.port n
  let f := mkFlit x.nextTx ftype ((x.expectRx + 16383) % 16384) x.gotFlit sop content
  emit (s.setPort n { x with nextTx := (x.nextTx + 1) % 16384, buffer := x.buffer ++ [(x.nextTx, f)] }) (.flit n f)

/-- Send a flit that takes no sequence number: an IDLE flit, or LINK content. -/
def sendLoose (s : State) (n : Port) (ftype : Nat) (content : Bytes) : State :=
  let x := s.port n
  emit s (.flit n (mkFlit x.nextTx ftype ((x.expectRx + 16383) % 16384) x.gotFlit false content))

def sendLink (s : State) (n : Port) (content : Bytes) : State := sendLoose s n 3 content

/-- An IDLE flit, which carries an acknowledgement when no other flit does. -/
def sendIdle (s : State) (n : Port) : State := sendLoose s n 1 (List.replicate 120 0)

/-! ### Flow control (11 R254, R272) -/

def chanIx (n : Port) (c : Nat) : Nat := n.val * 48 + c

/-- The XOFF state of the 48 channels, one bit each. -/
def xoffMask (s : State) (n : Port) : Nat :=
  (span 0 48).foldl (fun a c => a + fget s .sklChanXoff (chanIx n c) * 2 ^ c) 0

/-- A FLOW flit is sent, or waits for room in the retry buffer. -/
def flowOut (s : State) (n : Port) : State :=
  let room := portUp s n && decide ((s.port n).buffer.length < 4096)
  let s := s.setPort n { s.port n with flowDue := !room }
  if room then sendSeq s n 2 false (leBytes 6 (xoffMask s n)) else s

/-- Flits come into a channel's buffer. -/
def chanFill (s : State) (n : Port) (c : Nat) : State :=
  let i := chanIx n c
  let s := fset s .sklChanOcc i (fget s .sklChanOcc i + 1)
  let res := fget s .sklChanRes i
  if res ≠ 0 ∧ res ≤ fget s .sklChanOcc i ∧ fbit s .sklChanXoff i = false then
    flowOut (fset s .sklChanXoff i 1) n
  else s

/-- Flits leave a channel's buffer. -/
def chanDrain (s : State) (n : Port) (c flits : Nat) : State :=
  let i := chanIx n c
  let s := fset s .sklChanOcc i (fget s .sklChanOcc i - flits)
  if fbit s .sklChanXoff i ∧ fget s .sklChanOcc i ≤ fget s .sklChanRes i / 2 then flowOut (fset s .sklChanXoff i 0) n
  else s

/-- A packet leaves the buffer of its input port once no output port waits to send a copy of it. -/
def leaveBuffer (s : State) (hold : Option (Port × Nat)) : State :=
  match hold with
  | none => s
  | some (n, id) =>
    if portRange.any fun m => (s.port m).queue.any fun w => w.hold == hold then s
    else
      match (s.port n).received.find? fun r => r.id == id with
      | none => s
      | some r =>
        chanDrain (s.setPort n { s.port n with received := (s.port n).received.filter fun r => r.id != id }) n r.chan r.flits

/-- A packet occupies consecutive DATA flits. -/
def sendPacket (s : State) (n : Port) (p : Packet) : State :=
  let pieces := cut120 p.flits (p.header ++ p.data ++ leBytes 4 p.pcrc.toNat)
  let s := (List.zip (span 0 pieces.length) pieces).foldl (fun s c => sendSeq s n 0 (c.1 == 0) c.2) s
  let x := s.port n
  emit (s.setPort n { x with pkts := x.pkts ++ [((x.nextTx + 16383) % 16384, p)] }) (.packet (some n) p)

/-- The packet may start on the port: its channel is XON, the retry buffer has room, and neither shedding nor a lost
reference holds its VC (11 R254, R255, R281; 17 R417). -/
def mayStart (s : State) (n : Port) (p : Packet) : Bool :=
  portUp s n && !bit (s.port n).xoff p.chan && decide ((s.port n).buffer.length + p.flits ≤ 4096) &&
    (decide (fget s .pwrStatusStage 0 < 4) && !fbit s .pwrStatusRefloss 0 || p.vc.toNat == 22)

/-- The weight of a VC in the round robin (12 R302). -/
def vcWeight (s : State) (v : Nat) : Nat := tget (fun v => if v < 20 then 16 else 4) s.net.weights v

/-- Deficit round robin over VC0 to VC21 (R271). `head` is the packet that each VC may start, in order of arrival; a VC
with none loses what it has left. The packet, the VC that stays in turn and the flits left; at most `fuel` turns. -/
def roundRobin (head : Nat → Option Packet) (weight : Nat → Nat) :
    Nat → Nat → Bool → List (Nat × Nat) → Option (Packet × Nat × List (Nat × Nat))
  | 0, _, _, _ => none
  | fuel + 1, v, fresh, left =>
    match head v with
    | none => roundRobin head weight fuel ((v + 1) % 22) true (tset (fun _ => 0) left v 0)
    | some p =>
      let have' := tget (fun _ => 0) left v + (if fresh then weight v else 0)
      if p.flits ≤ have' then some (p, v, tset (fun _ => 0) left v (have' - p.flits))
      else roundRobin head weight fuel ((v + 1) % 22) true (tset (fun _ => 0) left v have')

/-- The packet that starts next, and the port after the choice: VC23, then VC22, then the others by deficit round robin;
each channel in order of arrival. Every VC has a turn in 22 and a packet has at most 18 flits. -/
def nextPacket (s : State) (n : Port) : Option (Packet × PortX) :=
  let x := s.port n
  let waits := x.queue.map (·.pkt)
  let ready := waits.filter fun p => mayStart s n p && waits.find? (fun q => q.chan == p.chan) == some p
  match ready.find? (fun p => p.vc.toNat == 23) with
  | some p => some (p, x)
  | none => match ready.find? (fun p => p.vc.toNat == 22) with
    | some p => some (p, x)
    | none =>
      match roundRobin (fun v => ready.find? fun p => p.vc.toNat == v) (vcWeight s) 440 x.turnVc x.turnNew x.flitsLeft with
      | some r => some (r.1, { x with turnVc := r.2.1, turnNew := false, flitsLeft := r.2.2 })
      | none => none

/-- Packets start as long as any may, and leave the buffers that hold them. -/
def portPump (n : Port) : Nat → State → State
  | 0, s => s
  | k + 1, s =>
    match nextPacket s n with
    | none => s
    | some (p, x) =>
      let hold := (x.queue.find? fun w => w.pkt == p).bind (·.hold)
      portPump n k (leaveBuffer
        (sendPacket (s.setPort n { x with queue := dropFirst (fun w => w.pkt == p) x.queue }) n p) hold)

def portGo (s : State) (n : Port) : State := portPump n (s.port n).queue.length s

/-! ### Routing (11 R262, R268) -/

/-- Forward a packet to a port. A packet whose channel at that port has been XOFF for more than 2 µs is marked CM (R274);
`xoffNs` says by output port how long it has, and `hold` which buffer still holds the packet. -/
def forward (s : State) (n : Port) (p : Packet) (hold : Option (Port × Nat)) (xoffNs : List Nat) : State :=
  let q := p.rehead { p with hoplim := p.hoplim - 1, cm := p.cm || decide (2000 < xoffNs.getD n.val 0) }
  let x := s.port n
  portGo (s.setPort n { x with queue := x.queue ++ [{ pkt := q, hold := hold }] }) n

/-- A router forwards a packet, delivers it, or answers it. A packet that it answers with a NAK goes nowhere: of a multicast
packet no copy is made before every check has passed (11 R282). -/
def route (s : State) (src : Ingress) (p : Packet) (hold : Option (Port × Nat)) (xoffNs : List Nat) : State :=
  if bankState s p.epoch ≠ 2 then nakAt s p nSTALE src.num
  else if p.malformed then nakAt s p nMALFORMED src.num
  else if p.mc then
    let i := ofBool p.epoch * 4096 + p.dstDev.toNat % 4096
    if !fbit s .sklMcastValid i then nakAt s p nUNROUTABLE src.num
    else
      let ports := portRange.filter fun n => bit (fget s .sklMcastPorts i) n.val && src != .port n
      if !ports.isEmpty && p.hoplim.toNat == 0 then nakAt s p nHOPLIMIT src.num
      else if ports.all (portUp s) then
        let s := if fbit s .sklMcastLocal i then deliver s src.num p else s
        ports.foldl (fun s n => forward s n p hold xoffNs) s
      else nakAt s p nLINKDOWN src.num
  else if devValid s && p.dstDev.toNat == devId s then deliver s src.num p
  else
    let out := routeOf s p.epoch p.dstDev.toNat
    if h : out < 6 then
      if p.hoplim.toNat = 0 then nakAt s p nHOPLIMIT src.num
      else if !portUp s ⟨out, h⟩ then nakAt s p nLINKDOWN src.num
      else forward s ⟨out, h⟩ p hold xoffNs
    else nakAt s p nUNROUTABLE src.num

end Sys2Proof.Machine
end

