-- ==== Sys2Proof/Machine/Notify.lean ====
section
/-! DEFINITION. Events told to an owner beside its interrupts (13 R323, R324; 16 R401). -/

namespace Sys2Proof.Machine

/-- The arbiter is in OWNED with this master: 1 host, 2 baseboard controller, 3 fabric manager (13 R325). -/
def ownedBy (s : State) (k : Nat) : Bool := fget s .hstOwnStatusState 0 == 2 && fget s .hstOwnStatusOwner 0 == k

/-- A fabric manager is registered. -/
def fmKnown (s : State) : Bool := decide (fget s .hstOwnPolicyFmep 0 < 269)

/-- An MGMT EVENT to the registered fabric manager on VC22 (13 R324, R332). -/
def fmEvent (s : State) (payload : Bytes) : State :=
  sendReq s none .event
    (blankReq tMGMT 268 (fget s .hstOwnPolicyFmdev 0) (fget s .hstOwnPolicyFmep 0) 22 0 0 7 payload)

/-- A vector of PF0 that an owner other than the host hears of as an EVENT (13 R324). The EVENT names the vector and
the ring index or partition; no rule lays its bytes out. -/
def pfEvent (s : State) (vec info : Nat) : State :=
  let s := msix s 0 vec
  if ownedBy s 2 then emit s (.event false vec info [])
  else if ownedBy s 3 then fmEvent s (slice (Config.syndrome 324 [vec, info]) 0 16)
  else s

/-- The MGMT EVENT of a fence, of a PART reset and of its lifting: KIND 0x10, 0x11, 0x12 (16 R401). -/
def fenceEvent (s : State) (p : Part) (kind : Nat) : State :=
  if fmKnown s then
    fmEvent s (leBytes 1 kind ++ leBytes 1 p.val ++ leBytes 2 (s.part p).img.job ++ leBytes 4 0 ++
      leBytes 8 (match (s.part p).fence with | some f => f.step | none => fget s .updStepStep p.val))
  else s

end Sys2Proof.Machine
end

