-- ==== Sys2Proof/Machine/Arbiter.lean ====
section
/-! DEFINITION. The ownership arbiter (13 R325 to R328, 15 R372) and the answers of management operations (13 R332,
R333). -/

namespace Sys2Proof.Machine

/-! ### Masters -/

/-- Master codes: 1 host, 2 baseboard controller, 3 fabric manager. -/
def masterOf : Who → Nat
  | .host _ _ _ => 1
  | .baseboard _ _ => 2
  | .fm _ => 3

/-- How a violation names a requester: a function, the baseboard controller's endpoint, or a fabric address. -/
def requesterOf (s : State) : Who → Nat
  | .host f _ _ => f.val
  | .baseboard _ _ => 0x100 + s.hub.eidI3c
  | .fm src => 2 ^ 20 + src.dev.toNat * 512 + src.ep.toNat

/-- The requester is the owner (R328). -/
def isOwner (s : State) (w : Who) : Bool :=
  (match w with
    | .host f _ _ => f == 0
    | .baseboard _ _ => true
    | .fm src => isFm s src.dev.toNat src.ep.toNat) && ownedBy s (masterOf w)

/-- A claim comes in the form that SECURE may require: on the IDE stream of PF0, or in a secured session of the baseboard
controller (R326). -/
def cameSecure (s : State) : Who → Bool
  | .host _ ide _ => ide && s.hub.ide.any fun x => x.fn == 0 && x.secure
  | .baseboard secured _ => secured && s.hub.sessions.any fun e => e.on == .i3c && e.established
  | .fm _ => false

/-- A claim is valid under the policy, `secure` being the form in which it arrived (R326, 15 R372). -/
def validAs (s : State) (w : Who) (secure : Bool) : Bool :=
  bit (fget s .hstOwnPolicyElig 0) (masterOf w - 1) &&
    match w with
    | .host f _ _ => f == 0 && (!bit (fget s .hstOwnPolicySecure 0) 0 || secure)
    | .baseboard _ _ => !bit (fget s .hstOwnPolicySecure 0) 1 || secure
    | .fm src => isFm s src.dev.toNat src.ep.toNat && src.vc.toNat == 22 && src.job.toNat == 0

/-- A claim that arrives is valid (R326). -/
def claimValid (s : State) (w : Who) : Bool := validAs s w (cameSecure s w)

/-- The place of a master in the order of precedence, 3 for one that the order does not name. -/
def precedence (s : State) (m : Nat) : Nat :=
  let o := fget s .hstOwnPolicyOrder 0
  ((span 0 3).find? fun i => bits o (2 * i) 2 == m).getD 3

/-! ### Changes of state -/

/-- The arbiter changes its state: the change is counted and vector 3 of PF0 tells it. -/
def setOwn (s : State) (st owner succ : Nat) : State :=
  let s := fset (fset (fset s .hstOwnStatusState 0 st) .hstOwnStatusOwner 0 owner) .hstOwnStatusSucc 0 succ
  let s := { s with hub := { s.hub with claims := [] } }
  pfEvent (fbump s .hstOwnStatusChanges 0 1) 3 0

/-- A master becomes owner. -/
def grant (s : State) (w : Who) : State := setOwn s 2 (masterOf w) 0

/-- Ownership is lost, for CAUSE 1 release, 2 lapse, 3 handover expired. -/
def loseOwner (s : State) (cause : Nat) : State := setOwn (fset s .hstOwnStatusCause 0 cause) 1 0 0

/-- Ownership lapses when the owner is master `m`. -/
def lapseOf (s : State) (m : Nat) : State := if ownedBy s m then loseOwner s 2 else s

/-- The held claim of highest precedence. -/
def bestClaim (s : State) : Option Who :=
  (s.hub.claims.map (·.who)).foldl (fun b w => match b with
    | none => some w
    | some v => if precedence s (masterOf w) < precedence s (masterOf v) then some w else b) none

/-- The election ends. -/
def endElection (s : State) : State :=
  match bestClaim s with
  | some w => grant s w
  | none => setOwn s 1 0 0

/-- The first bytes of the TLP or message that a request came in, as a violation's record names them (R335). -/
def headOf : Who → List Nat
  | .host _ _ tlp => (tlp.header.take 16).map (·.toNat)
  | .baseboard _ head => (head.take 16).map (·.toNat)
  | .fm src => (src.head.take 16).map (·.toNat)

/-- A violation of code CLAIM. -/
def claimViolation (s : State) (w : Who) : State := violation s 0x10 (requesterOf s w) (masterOf w :: headOf w)

/-- The policy is locked: the held claims are judged by the form in which they came (15 R372). -/
def judgeHeld (s : State) : State :=
  let good := fun (c : ClaimX) => validAs s c.who c.secure
  let bad := s.hub.claims.filter fun c => !good c
  let s := { s with hub := { s.hub with claims := s.hub.claims.filter good } }
  let s := bad.foldl (fun s c => claimViolation s c.who) s
  match bestClaim s with
  | some w => if precedence s (masterOf w) = 0 ∨ s.hub.windowDone = true then grant s w else s
  | none => if s.hub.windowDone then setOwn s 1 0 0 else s

/-! ### Requests to the arbiter; the answer is a completion code of R332 -/

def kSUCCESS : Nat := 0
def kMALFORMED : Nat := 1
def kNOTOWNER : Nat := 2
def kBUSY : Nat := 3
def kUNKNOWN : Nat := 4
def kHELD : Nat := 5

/-- A claim is held until the election ends. -/
def holdClaim (s : State) (w : Who) : State :=
  { s with hub := { s.hub with claims := s.hub.claims ++ [{ who := w, secure := cameSecure s w }] } }

/-- The master whose claim a command carries. -/
def claimant : Instr → Option Who
  | .ownClaim w => some w
  | .registerWrite (.host f ide tlp) (.bar0 off _ data) =>
    if off.toNat = 0x118 ∧ data.toNat % 8 = 1 then some (.host f ide tlp) else none
  | _ => none

/-- A claim reaches the arbiter: its binding carries it, and it comes to the endpoint, in a request that nothing turns away. -/
def claimHeard (s : State) : Who → Bool
  | .host f ide tlp =>
    f == 0 && fbit s .hstLinkStatusUp 0 && tlp.kind == .sound &&
      (if ide then s.hub.ide.any fun x => x.fn == 0 && x.secure else !bit (fget s .hstLinkStatusReqide 0) 0)
  | .baseboard _ _ => s.hub.i3cAddr.isSome
  | .fm src => src.dstEp.toNat == 268

/-- A valid claim of higher precedence comes within the same management cycle (R325): it is among the claims that stand next
in the queue, with nothing between. DESIGN CHOICE, log 138. -/
def outranked (s : State) (w : Who) : Bool :=
  (s.pending.takeWhile fun c => (claimant c).isSome).any fun c => match claimant c with
    | some v => claimHeard s v && claimValid s v && decide (precedence s (masterOf v) < precedence s (masterOf w))
    | none => false

/-- A claim. -/
def claimBy (s : State) (w : Who) : State × Nat :=
  let st := fget s .hstOwnStatusState 0
  if st = 0 ∧ fbit s .hstOwnPolicyLock 0 = false then (holdClaim s w, kHELD)
  else if isOwner s w then (s, kSUCCESS)
  else if !claimValid s w then (claimViolation s w, kNOTOWNER)
  else
    match st with
    | 0 => (if precedence s (masterOf w) = 0 then grant s w else holdClaim s w, kHELD)
    | 1 => if outranked s w then (claimViolation s w, kBUSY) else (grant s w, kSUCCESS)
    | 3 => if fget s .hstOwnStatusSucc 0 = masterOf w then (grant s w, kSUCCESS) else (claimViolation s w, kBUSY)
    | _ => (claimViolation s w, kBUSY)

/-- A write or an operation of a master that is not the owner. -/
def notOwner (s : State) (w : Who) (what : Nat) : State := violation s 0x06 (requesterOf s w) (what :: headOf w)

/-- RELEASE by the owner. -/
def releaseBy (s : State) (w : Who) : State × Nat :=
  if isOwner s w then (loseOwner s 1, kSUCCESS) else (notOwner s w 4, kNOTOWNER)

/-- HANDOVER by the owner to another master. -/
def handoverBy (s : State) (w : Who) (succ : Nat) : State × Nat :=
  if !isOwner s w then (notOwner s w 5, kNOTOWNER)
  else if succ = 0 ∨ 3 < succ ∨ succ = masterOf w then (claimViolation s w, kNOTOWNER)
  else (setOwn s 3 0 succ, kSUCCESS)

/-- A write of HST_OWN_CTRL by a master: CLAIM, RELEASE or HANDOVER to SUCC, one of them at most (R325 to R327). -/
def ownCtrl (s : State) (w : Who) (data : Nat) : State × Nat :=
  if 1 < bits data 0 1 + bits data 1 1 + bits data 2 1 then (claimViolation s w, kNOTOWNER)
  else if bit data 0 then claimBy s w
  else if bit data 1 then releaseBy s w
  else if bit data 2 then handoverBy s w (bits data 4 2)
  else (s, kSUCCESS)

/-! ### Answers (R332, R333) -/

/-- The MGMT packet that an operation of the fabric manager came in, as its answer needs it. -/
def fmPacket (src : FmSrc) : Packet :=
  { type := tMGMT, epoch := src.epoch, len := 0, dstDev := 0, dstEp := src.dstEp, srcDev := src.dev, srcEp := src.ep
    tag := src.tag, vc := src.vc, hoplim := 0, job := src.job, pcrc := 0 }

/-- The violation code with which an MGMT packet is refused. -/
def nakOf (code : Nat) : Nat := if code = kNOTOWNER ∨ code = kBUSY then nNOTOWNER else nMALFORMED

/-- The answer of a management operation: a completion byte with the data over MCTP, on I3C after an In-Band Interrupt
(R330); ACK, READ_DATA or NAK to an MGMT packet. -/
def mgmtAnswer (s : State) (w : Who) (code : Nat) (data : Bytes) : State :=
  match w with
  | .fm src =>
    let q := fmPacket src
    if code = kSUCCESS ∨ code = kHELD then answer s q (if data = [] then tACK else tREADDATA) 0 data
    else nak s q (nakOf code)
  | .baseboard _ _ => emit (emit s .ibi) (.mgmt w code data)
  | .host _ _ _ => emit s (.mgmt w code data)

/-- What keeps an MGMT packet from being heard: its endpoint, its JOB, its VC, or, where only the registered fabric manager may send,
its source. -/
def fmRefused (s : State) (w : Who) (registered : Bool) : Option Nat :=
  match w with
  | .fm src =>
    if src.dstEp.toNat ≠ 268 then some nNOENDPOINT
    else if src.job.toNat ≠ 0 then some nJOB
    else if src.vc.toNat ≠ 22 then some nVC
    else if registered && !isFm s src.dev.toNat src.ep.toNat then some nNOTOWNER
    else none
  | _ => none

/-- A master's binding carries messages: the I3C target has its address, the PCIe link is up, the hub runs (R330; 19 R442). -/
def masterOn (s : State) : Who → Bool
  | .host _ _ _ => hubOn s && fbit s .hstLinkStatusUp 0
  | .baseboard _ _ => i3cOn s && s.hub.i3cAddr.isSome
  | .fm _ => hubOn s

/-- A management operation: heard while the hub runs and its binding carries it, and answered. A tenant's function sends
none. -/
def mgmtOp (s : State) (w : Who) (registered : Bool) (act : State → State × Nat × Bytes) :
    Host.Outcome State Fault Refusal :=
  if !masterOn s w then idle s
  else
    match w, fmRefused s w registered with
    | .fm src, some c => .next (nak s (fmPacket src) c)
    | .host f _ _, _ => if f ≠ 0 then idle s else
        let r := act s
        .next (mgmtAnswer r.1 w r.2.1 r.2.2)
    | _, _ =>
      let r := act s
      .next (mgmtAnswer r.1 w r.2.1 r.2.2)

/-- OWN_CLAIM. -/
def execOwnClaim (who : Who) (s : State) : Host.Outcome State Fault Refusal :=
  mgmtOp s who false fun s => let r := claimBy s who; (r.1, r.2, [])

/-- OWN_RELEASE. -/
def execOwnRelease (who : Who) (s : State) : Host.Outcome State Fault Refusal :=
  mgmtOp s who false fun s => let r := releaseBy s who; (r.1, r.2, [])

/-- OWN_HANDOVER; a successor code outside 1 to 3 is a bad vendor request. -/
def execOwnHandover (who : Who) (succ : Byte) (s : State) : Host.Outcome State Fault Refusal :=
  mgmtOp s who false fun s =>
    if succ.toNat = 0 ∨ 3 < succ.toNat then (violation s 0x0D (requesterOf s who) (5 :: succ.toNat :: headOf who), kMALFORMED, [])
    else let r := handoverBy s who succ.toNat; (r.1, r.2, [])

/-- HEARTBEAT. -/
def execHeartbeat (who : Who) (s : State) : Host.Outcome State Fault Refusal :=
  mgmtOp s who true fun s => (s, kSUCCESS, [])

/-- ELECTION_WINDOW_END: WINDOW has passed since the end of the ROM stage. -/
def execElectionWindowEnd (elapsedMs : Nat) (s : State) : Host.Outcome State Fault Refusal :=
  if !hubOn s || fget s .hstOwnStatusState 0 != 0 || decide (elapsedMs < fget s .hstOwnPolicyWindow 0) then idle s
  else if fbit s .hstOwnPolicyLock 0 then .next (endElection s)
  else .next { s with hub := { s.hub with windowDone := true } }

/-- HANDOVER_EXPIRE: the successor has not claimed within 100 ms. -/
def execHandoverExpire (elapsedMs : Nat) (s : State) : Host.Outcome State Fault Refusal :=
  if fget s .hstOwnStatusState 0 = 3 ∧ 100 ≤ elapsedMs then .next (loseOwner s 3) else idle s

/-- OWNERSHIP_LAPSE: the baseboard controller silent for 2 s, the fabric manager without HEARTBEAT for 1 s. -/
def execOwnershipLapse (silentMs : Nat) (s : State) : Host.Outcome State Fault Refusal :=
  if ownedBy s 2 && decide (2000 ≤ silentMs) || ownedBy s 3 && decide (1000 ≤ silentMs) then .next (loseOwner s 2)
  else idle s

end Sys2Proof.Machine
end

