-- ==== Sys2Proof/Machine/Num.lean ====
section
/-! DEFINITION. Exact values and their one rounding (02 R41, R42): sums and products of exact values, quotients and
square roots carried far enough with a sticky bit, and rounding to nearest with ties to even. -/

namespace Sys2Proof.Machine

def XVal.zero : XVal := .fin 0 0 false

/-- An integer times a power of two. -/
def XVal.of (m e : Int) : XVal := .fin m e false

def XVal.isZero : XVal → Bool
  | .fin m _ _ => m == 0
  | _ => false
def XVal.isNan : XVal → Bool
  | .nan => true
  | _ => false
def XVal.isInf : XVal → Bool
  | .inf _ => true
  | _ => false
def XVal.isFin : XVal → Bool
  | .fin _ _ _ => true
  | _ => false

/-- The sign, that of a zero included. -/
def XVal.neg? : XVal → Bool
  | .nan => false
  | .inf n => n
  | .fin m _ z => if m = 0 then z else decide (m < 0)

def XVal.negate : XVal → XVal
  | .nan => .nan
  | .inf n => .inf (!n)
  | .fin m e z => if m = 0 then .fin 0 0 (!z) else .fin (-m) e false

def XVal.abs (x : XVal) : XVal := if x.neg? then x.negate else x

/-- `m × 2^e` as a numerator over the power of two `2^f`, for `f ≤ e`. -/
def alignTo (m e f : Int) : Int := m * 2 ^ (e - f).toNat

/-- The exact sum, with the specials and the zero signs of IEEE 754-2019. -/
def XVal.add : XVal → XVal → XVal
  | .nan, _ => .nan
  | _, .nan => .nan
  | .inf a, .inf b => if a = b then .inf a else .nan
  | .inf a, _ => .inf a
  | _, .inf b => .inf b
  | .fin m e z, .fin n f w =>
    if m = 0 ∧ n = 0 then .fin 0 0 (z && w)
    else if m = 0 then .fin n f false
    else if n = 0 then .fin m e false
    else
      let g := min e f
      .fin (alignTo m e g + alignTo n f g) g false

/-- The exact product. -/
def XVal.mul (a b : XVal) : XVal :=
  match a, b with
  | .nan, _ => .nan
  | _, .nan => .nan
  | .inf n, y => if y.isZero then .nan else .inf (n != y.neg?)
  | x, .inf n => if x.isZero then .nan else .inf (n != x.neg?)
  | .fin m e _, .fin n f _ => if m = 0 ∨ n = 0 then .fin 0 0 (a.neg? != b.neg?) else .fin (m * n) (e + f) false

/-- A value times a power of two. -/
def XVal.scale (x : XVal) (k : Int) : XVal :=
  match x with
  | .fin m e z => if m = 0 then .fin 0 0 z else .fin m (e + k) false
  | x => x

/-- Less than, for values that are no NaN; the two zeros are equal. -/
def XVal.lt : XVal → XVal → Bool
  | .nan, _ => false
  | _, .nan => false
  | .inf a, .inf b => a && !b
  | .inf a, _ => a
  | _, .inf b => !b
  | .fin m e _, .fin n f _ =>
    let g := min e f
    decide (alignTo m e g < alignTo n f g)

/-- Maximum and minimum of 04 R85: NaN when either is, and −0 below +0. -/
def XVal.max (a b : XVal) : XVal :=
  if a.isNan || b.isNan then .nan
  else if a.lt b then b else if b.lt a then a else if a.neg? then b else a
def XVal.min (a b : XVal) : XVal :=
  if a.isNan || b.isNan then .nan
  else if a.lt b then a else if b.lt a then b else if a.neg? then a else b

/-- `m / 2^k` to nearest, ties to even. -/
def rneShift (m k : Nat) : Nat :=
  if k = 0 then m
  else
    let q := m >>> k
    let r := m % 2 ^ k
    let h := 2 ^ (k - 1)
    if h < r ∨ (r = h ∧ q % 2 = 1) then q + 1 else q

/-- A quotient of integers to nearest, ties to even. -/
def rneRat (num : Int) (den : Nat) : Int :=
  let a := num.natAbs
  let q := a / den
  let r := a % den
  let q' : Nat := if den < 2 * r ∨ (2 * r = den ∧ q % 2 = 1) then q + 1 else q
  if num < 0 then -(q' : Int) else q'

/-- A finite value as a fraction. -/
def fracOf (m e : Int) : Int × Nat := if 0 ≤ e then (m * 2 ^ e.toNat, 1) else (m, 2 ^ (-e).toNat)

/-- A finite value to the nearest integer, ties to even. -/
def rneInt (m e : Int) : Int :=
  let f := fracOf m e
  rneRat f.1 f.2

/-- A quotient carried to at least 130 bits with a sticky bit below them: it rounds to any format as the exact quotient
does. -/
def quot (m e n f : Int) : XVal :=
  let k := 130 + n.natAbs.log2
  let a := m.natAbs * 2 ^ k
  let q := a / n.natAbs
  let t : Nat := 2 * q + (if a % n.natAbs = 0 then 0 else 1)
  let neg := decide (m < 0) != decide (n < 0)
  .fin (if neg then -(t : Int) else t) (e - f - k - 1) false

/-- The exact quotient, with the specials of IEEE 754-2019, good for one rounding. -/
def XVal.div (a b : XVal) : XVal :=
  match a, b with
  | .nan, _ => .nan
  | _, .nan => .nan
  | .inf _, .inf _ => .nan
  | .inf n, y => .inf (n != y.neg?)
  | x, .inf n => .fin 0 0 (x.neg? != n)
  | .fin m e _, .fin n f _ =>
    if n = 0 then (if m = 0 then .nan else .inf (a.neg? != b.neg?))
    else if m = 0 then .fin 0 0 (a.neg? != b.neg?)
    else quot m e n f

/-- The integer square root, bit by bit from bit `b - 1` down. -/
def isqrtGo : Nat → Nat → Nat → Nat
  | 0, _, r => r
  | b + 1, n, r => isqrtGo b n (if (r + 2 ^ b) * (r + 2 ^ b) ≤ n then r + 2 ^ b else r)

def isqrt (n : Nat) : Nat := isqrtGo (n.log2 / 2 + 1) n 0

/-- The square root of IEEE 754-2019, good for one rounding. -/
def XVal.sqrt : XVal → XVal
  | .nan => .nan
  | .inf n => if n then .nan else .inf false
  | .fin m e z =>
    if m = 0 then .fin 0 0 z
    else if m < 0 then .nan
    else
      let n := m.toNat * 2 ^ (if e % 2 = 0 then 260 else 261)
      let r := isqrt n
      .fin (2 * r + (if r * r = n then 0 else 1) : Nat) ((e - (if e % 2 = 0 then 260 else 261)) / 2 - 1) false

/-! ### Floating-point layouts (02 R32, R33) -/

/-- A layout: exponent and mantissa bits and bias; `ieee` when the all-ones exponent holds specials. -/
structure FloatFmt where
  ebits : Nat
  mbits : Nat
  bias : Nat
  ieee : Bool
  deriving DecidableEq, Repr

def f8e : FloatFmt := ⟨4, 3, 7, false⟩
def f8w : FloatFmt := ⟨5, 2, 15, false⟩
def f16 : FloatFmt := ⟨5, 10, 15, true⟩
def bf16 : FloatFmt := ⟨8, 7, 127, true⟩
def f32 : FloatFmt := ⟨8, 23, 127, true⟩
def f64 : FloatFmt := ⟨11, 52, 1023, true⟩

/-- The exponent of the smallest subnormal. -/
def FloatFmt.eMin (f : FloatFmt) : Int := 1 - (f.bias : Int) - f.mbits
/-- The code of the sign bit, of +∞ (or one past the largest magnitude), and of the canonical NaN. -/
def FloatFmt.signBit (f : FloatFmt) : Nat := 2 ^ (f.ebits + f.mbits)
def FloatFmt.top (f : FloatFmt) : Nat := if f.ieee then (2 ^ f.ebits - 1) * 2 ^ f.mbits else f.signBit
def FloatFmt.nan (f : FloatFmt) : Nat := if f.ieee then f.top + 2 ^ (f.mbits - 1) else f.signBit

/-- The value of a code. -/
def FloatFmt.decode (f : FloatFmt) (code : Nat) : XVal :=
  let neg := bit code (f.ebits + f.mbits)
  let mag := code % f.signBit
  let ex := mag / 2 ^ f.mbits
  let fr := mag % 2 ^ f.mbits
  if !f.ieee && code % (2 * f.signBit) == f.signBit then .nan
  else if f.ieee && decide (f.top < mag) then .nan
  else if f.ieee && mag == f.top then .inf neg
  else
    let m : Nat := if ex = 0 then fr else 2 ^ f.mbits + fr
    let e : Int := f.eMin + (if ex = 0 then 0 else ex - 1 : Nat)
    if m = 0 then .fin 0 0 neg else .fin (if neg then -(m : Int) else m) e false

/-- The magnitude code that a positive finite value rounds to; it may lie past the largest (02 R42). -/
def FloatFmt.roundMag (f : FloatFmt) (m : Nat) (e : Int) : Nat :=
  if m = 0 then 0
  else
    let q := max ((m.log2 : Int) + e - f.mbits) f.eMin
    let sig := if q ≤ e then m * 2 ^ (e - q).toNat else rneShift m (q - e).toNat
    (q - f.eMin).toNat * 2 ^ f.mbits + sig

/-- A value rounded once into a layout: its code, and whether a finite value overflowed (02 R43 to R45). -/
def FloatFmt.encode (f : FloatFmt) (x : XVal) : Nat × Bool :=
  match x with
  | .nan => (f.nan, false)
  | .inf n => if f.ieee then (f.top + (if n then f.signBit else 0), false) else (f.nan, false)
  | .fin m e z =>
    let neg := if m = 0 then z else decide (m < 0)
    let sb := if neg then f.signBit else 0
    let r := f.roundMag m.natAbs e
    if f.top ≤ r then ((if f.ieee then f.top else f.top - 1) + sb, true)
    else if !f.ieee && r == 0 then (0, false)
    else (r + sb, false)

/-- A value rounded once to F32, as a value. -/
def toF32 (x : XVal) : XVal := f32.decode (f32.encode x).1

end Sys2Proof.Machine
end

