-- ==== Sys2Proof/Machine/Elem.lean ====
section
/-! DEFINITION. The correctly rounded functions of 04 R86 and R91: e^x, GELU, SILU, tanh and the sigmoid. Each is
enclosed between two fixed-point bounds of `P` fraction bits, and the enclosure is refined until both ends round to
one F32 value. -/

namespace Sys2Proof.Machine

/-- A closed interval `[lo, hi] × 2^-P` of non-negative numbers. -/
structure Ival where
  lo : Nat
  hi : Nat
  deriving DecidableEq, Repr

def upDiv (a b : Nat) : Nat := (a + b - 1) / b

def Ival.mul (P : Nat) (a b : Ival) : Ival := ⟨a.lo * b.lo / 2 ^ P, upDiv (a.hi * b.hi) (2 ^ P)⟩
def Ival.add (a b : Ival) : Ival := ⟨a.lo + b.lo, a.hi + b.hi⟩
def Ival.sub (a b : Ival) : Ival := ⟨a.lo - b.hi, a.hi - b.lo⟩
def Ival.div (P : Nat) (a b : Ival) : Ival := ⟨a.lo * 2 ^ P / b.hi, upDiv (a.hi * 2 ^ P) b.lo⟩
def Ival.one (P : Nat) : Ival := ⟨2 ^ P, 2 ^ P⟩

/-- A non-negative finite value in fixed point. -/
def Ival.ofVal (P : Nat) (m e : Int) : Ival :=
  let f := fracOf m e
  ⟨f.1.natAbs * 2 ^ P / f.2, upDiv (f.1.natAbs * 2 ^ P) f.2⟩

/-- Terms of the exponential series from `y^k / k!` on. -/
def expSeries (P : Nat) (y : Ival) : Nat → Nat → Ival → Ival → Ival
  | 0, _, t, acc => ⟨acc.lo, acc.hi + 2 * t.hi + 2⟩
  | n + 1, k, t, acc =>
    let u := y.mul P t
    let t' : Ival := ⟨u.lo / k, upDiv u.hi k⟩
    expSeries P y n (k + 1) t' (acc.add t')

def squareTimes (P : Nat) : Nat → Ival → Ival
  | 0, a => a
  | n + 1, a => squareTimes P n (a.mul P a)

/-- e^y for 0 ≤ y < 512: y is divided by 2^16, the series is summed and the result squared 16 times. -/
def expPos (P : Nat) (y : Ival) : Ival :=
  let r : Ival := ⟨y.lo / 2 ^ 16, upDiv y.hi (2 ^ 16)⟩
  squareTimes P 16 (expSeries P r (P / 8 + 8) 1 (Ival.one P) (Ival.one P))

/-- e^x of a value of either sign, |x| < 512. -/
def expIval (P : Nat) (m e : Int) : Ival :=
  let r := expPos P (Ival.ofVal P m e)
  if m < 0 then (Ival.one P).div P r else r

/-- The arctangent of 1/n by its series; two terms bound the rest. -/
def atanInv (P n : Nat) : Nat → Nat → Ival → Bool → Ival → Ival
  | 0, _, t, _, acc => ⟨acc.lo - t.hi - 1, acc.hi + t.hi + 1⟩
  | f + 1, k, t, plus, acc =>
    let term : Ival := ⟨t.lo / k, upDiv t.hi k⟩
    let acc := if plus then acc.add term else acc.sub term
    atanInv P n f (k + 2) ⟨t.lo / (n * n), upDiv t.hi (n * n)⟩ (!plus) acc

/-- π = 16 atan(1/5) − 4 atan(1/239). -/
def piIval (P : Nat) : Ival :=
  let at' := fun n => atanInv P n (P / 4 + 8) 1 ⟨2 ^ P / n, upDiv (2 ^ P) n⟩ true ⟨0, 0⟩
  let a := at' 5
  let b := at' 239
  ⟨16 * a.lo - 4 * b.hi, 16 * a.hi - 4 * b.lo⟩

/-- The series of Φ(y) − ½ without its density: y + y³/3 + y⁵/15 + …, each term the last times y²/(2k+1). -/
def phiSeries (P : Nat) (y2 : Ival) : Nat → Nat → Ival → Ival → Ival
  | 0, _, t, acc => ⟨acc.lo, acc.hi + 2 * t.hi + 2⟩
  | n + 1, k, t, acc =>
    let u := y2.mul P t
    let t' : Ival := ⟨u.lo / (2 * k + 1), upDiv u.hi (2 * k + 1)⟩
    phiSeries P y2 n (k + 1) t' (acc.add t')

/-- Φ(y) for 0 ≤ y < 32: ½ + (1/√(2π)) e^(−y²/2) (y + y³/3 + …). -/
def phiPos (P : Nat) (y : Ival) : Ival :=
  let y2 := y.mul P y
  let half : Ival := ⟨y2.lo / 2, upDiv y2.hi 2⟩
  let dens := (Ival.one P).div P (expPos P half)
  let tp := piIval P
  let root : Ival := ⟨isqrt (2 * tp.lo * 2 ^ P), isqrt (2 * tp.hi * 2 ^ P) + 1⟩
  let sum := phiSeries P y2 (P + 1024) 1 y y
  (Ival.add ⟨2 ^ (P - 1), 2 ^ (P - 1)⟩ ((dens.mul P sum).div P root))

/-- A function to be rounded: the enclosure of its magnitude at precision `P`, and its sign. -/
structure Enclosed where
  ival : Nat → Ival
  neg : Bool

/-- Refine an enclosure until both ends round to one F32 magnitude code. -/
def settleF32 (x : Enclosed) : List Nat → Nat
  | [] => 0
  | P :: r =>
    let i := x.ival P
    let a := f32.roundMag i.lo (-(P : Int))
    let b := f32.roundMag i.hi (-(P : Int))
    if a = b then a else
      match r with
      | [] => a
      | _ => settleF32 x r

/-- The value of an enclosed function rounded once to F32: a zero result is +0 (04 R91), a result past the largest
finite value is infinite. -/
def roundEnclosed (x : Enclosed) : XVal :=
  let c := settleF32 x [640, 1280, 2560, 5120]
  if c = 0 then XVal.zero
  else if f32.top ≤ c then .inf x.neg
  else
    let v := f32.decode c
    if x.neg then v.negate else v

/-- e^x, correctly rounded (04 R86). -/
def exp32 : XVal → XVal
  | .nan => .nan
  | .inf n => if n then XVal.zero else .inf false
  | .fin m e _ =>
    if m = 0 then .fin 1 0 false
    else if XVal.lt (.fin 128 0 false) (.fin m e false) then .inf false
    else if XVal.lt (.fin m e false) (.fin (-128) 0 false) then XVal.zero
    else roundEnclosed ⟨fun P => expIval P m e, false⟩

/-- 1 / (1 + e^−x), correctly rounded (04 R91). -/
def sigmoid32 : XVal → XVal
  | .nan => .nan
  | .inf n => if n then XVal.zero else .fin 1 0 false
  | .fin m e _ =>
    if m = 0 then .fin 1 (-1) false
    else if XVal.lt (.fin 256 0 false) (.fin m e false) then .fin 1 0 false
    else if XVal.lt (.fin m e false) (.fin (-256) 0 false) then XVal.zero
    else roundEnclosed ⟨fun P => (Ival.one P).div P ((Ival.one P).add (expIval P (-m) e)), false⟩

/-- x / (1 + e^−x), correctly rounded (04 R91). -/
def silu32 : XVal → XVal
  | .nan => .nan
  | .inf n => if n then XVal.zero else .inf false
  | .fin m e _ =>
    if m = 0 then XVal.zero
    else if XVal.lt (.fin 256 0 false) (.fin m e false) then .fin m e false
    else if XVal.lt (.fin m e false) (.fin (-256) 0 false) then XVal.zero
    else roundEnclosed
      ⟨fun P => (Ival.ofVal P m e).div P ((Ival.one P).add (expIval P (-m) e)), decide (m < 0)⟩

/-- tanh x, correctly rounded (04 R91): (e^2x − 1) / (e^2x + 1). -/
def tanh32 : XVal → XVal
  | .nan => .nan
  | .inf n => .fin (if n then -1 else 1) 0 false
  | .fin m e _ =>
    if m = 0 then XVal.zero
    else
      let a := m.natAbs
      if XVal.lt (.fin 128 0 false) (.fin a e false) then .fin (if m < 0 then -1 else 1) 0 false
      else roundEnclosed ⟨fun P =>
        let t := expPos P (Ival.ofVal P a (e + 1))
        (t.sub (Ival.one P)).div P (t.add (Ival.one P)), decide (m < 0)⟩

/-- x × Φ(x), correctly rounded (04 R91). -/
def gelu32 : XVal → XVal
  | .nan => .nan
  | .inf n => if n then XVal.zero else .inf false
  | .fin m e _ =>
    if m = 0 then XVal.zero
    else if XVal.lt (.fin 24 0 false) (.fin m e false) then .fin m e false
    else if XVal.lt (.fin m e false) (.fin (-24) 0 false) then XVal.zero
    else roundEnclosed ⟨fun P =>
      let y := Ival.ofVal P m e
      let p := phiPos P y
      y.mul P (if m < 0 then (Ival.one P).sub p else p), decide (m < 0)⟩

end Sys2Proof.Machine
end

