-- ==== Sys2Proof/Machine/Formats.lean ====
section
/-! DEFINITION. The number formats and the conversions into them (02 R29 to R49). -/

namespace Sys2Proof.Machine

/-- The formats of 02 R29. -/
inductive Fmt where
  | f8e | f8w | f16 | bf16 | f32 | f64 | bs8 | bs4 | bu8 | int8 | int4
  deriving DecidableEq, Repr

def Fmt.ofCode : Nat → Option Fmt
  | 0 => some .f8e | 1 => some .f8w | 2 => some .f16 | 3 => some .bf16 | 4 => some .f32 | 5 => some .f64
  | 6 => some .bs8 | 7 => some .bs4 | 8 => some .bu8 | 9 => some .int8 | 10 => some .int4 | _ => none

def Fmt.code : Fmt → Nat
  | .f8e => 0 | .f8w => 1 | .f16 => 2 | .bf16 => 3 | .f32 => 4 | .f64 => 5 | .bs8 => 6 | .bs4 => 7 | .bu8 => 8
  | .int8 => 9 | .int4 => 10

/-- Element bits. -/
def Fmt.width : Fmt → Nat
  | .f8e => 8 | .f8w => 8 | .f16 => 16 | .bf16 => 16 | .f32 => 32 | .f64 => 64 | .bs8 => 8 | .bs4 => 4 | .bu8 => 8
  | .int8 => 8 | .int4 => 4

/-- BS8, BS4 and BU8, which always carry block scales; F8E and F8W, which may; INT8 and INT4 (02 R35, R36, R39). -/
def Fmt.isBlock : Fmt → Bool
  | .bs8 => true | .bs4 => true | .bu8 => true | _ => false
def Fmt.isF8 : Fmt → Bool
  | .f8e => true | .f8w => true | _ => false
def Fmt.isInt : Fmt → Bool
  | .int8 => true | .int4 => true | _ => false

def Fmt.layout : Fmt → Option FloatFmt
  | .f8e => some Machine.f8e | .f8w => some Machine.f8w | .f16 => some Machine.f16 | .bf16 => some Machine.bf16
  | .f32 => some Machine.f32 | .f64 => some Machine.f64 | _ => none

/-- The value of a code with no scale applied: the number of a floating-point code, the integer of any other
(02 R32 to R35, R39). -/
def Fmt.raw (f : Fmt) (code : Nat) : XVal :=
  match f.layout with
  | some l => l.decode code
  | none => if f = .bu8 then .fin (code % 256 : Nat) 0 false else .fin (sext f.width code) 0 false

/-- A value under block scale S (02 R35, R36). -/
def underScale (x : XVal) (S : Nat) : XVal := if S = 0xFF then .nan else x.scale ((S : Int) - 127)

/-- A channel scale is valid when it is a positive, finite F32 (02 R39). -/
def validScale (s : Nat) : Bool := s != 0 && decide (s < 0x7F80_0000)

/-- An INT element in a channel with scale `s` and zero point `z`, as register bits (02 R39). -/
def intValue (f : Fmt) (code s z : Nat) : XVal :=
  if validScale s then XVal.mul (.fin (sext f.width code - sext 8 z) 0 false) (f32.decode s) else .nan

/-- The step-status bits a conversion may set, and OVF of its block (02 R43 to R49, R216 of 10). -/
structure Flags where
  nan : Bool := false
  inf : Bool := false
  convovf : Bool := false
  ovf : Bool := false
  sat : Bool := false
  deriving DecidableEq, Repr

def Flags.or (a b : Flags) : Flags :=
  ⟨a.nan || b.nan, a.inf || b.inf, a.convovf || b.convovf, a.ovf || b.ovf, a.sat || b.sat⟩

/-- Conversion into a floating-point layout (02 R43 to R45). -/
def convFloat (l : FloatFmt) (v : CVal) : Nat × Flags :=
  match v.sat with
  | some neg => ((if l.ieee then l.top else l.top - 1) + (if neg then l.signBit else 0), { convovf := true })
  | none =>
    let r := l.encode v.x
    (r.1, { convovf := r.2, inf := !l.ieee && v.x.isInf })

/-- The largest and smallest code produced by a block or INT conversion (02 R35, R49). -/
def Fmt.codeMax : Fmt → Int
  | .bs8 => 127 | .bs4 => 7 | .bu8 => 255 | .int8 => 127 | .int4 => 7 | _ => 0
def Fmt.codeMin : Fmt → Int
  | .bs8 => -127 | .bs4 => -7 | .int8 => -128 | .int4 => -8 | _ => 0

/-- One element of a block under scale S, not 0xFF (02 R47, R48). A value is clamped when it still lies outside after rounding
(log 151, DESIGN CHOICE). -/
def convScaled (f : Fmt) (S : Nat) (v : CVal) : Nat × Flags :=
  match f.layout with
  | some l =>
    let r := convFloat l { v with x := v.x.scale (127 - (S : Int)) }
    (r.1, { r.2 with ovf := r.2.convovf })
  | none =>
    match v.sat with
    | some neg => (wrap f.width (if neg then f.codeMin else f.codeMax), { convovf := true, ovf := true })
    | none =>
      match v.x.scale (127 - (S : Int)) with
      | .nan => (0, {})
      | .inf _ => (0, { inf := true })
      | .fin m e _ =>
        let n := rneInt m e
        let c := clampInt f.codeMin f.codeMax n
        let clamped := decide (c ≠ n)
        (wrap f.width c, { convovf := clamped, ovf := clamped })

/-- One element under a scale read from the table (02 R47): S = 0xFF writes code 0. -/
def convTable (f : Fmt) (S : Nat) (v : CVal) : Nat × Flags :=
  if S = 0xFF then (0, { inf := v.x.isInf && v.sat.isNone }) else convScaled f S v

/-- Whether scale S keeps `amax` within the destination (02 R46). -/
def fitsScale (f : Fmt) (amax : XVal) (S : Nat) : Bool := !(convScaled f S ⟨amax, none⟩).2.convovf

/-- The scale computed for a block (02 R46). -/
def computeScale (f : Fmt) (vs : List CVal) : Nat :=
  if vs.any fun v => v.sat.isNone && (v.x.isNan || v.x.isInf) then 0xFF
  else if vs.any fun v => v.sat.isSome then 0xFE
  else
    let amax := vs.foldl (fun a v => if a.lt v.x.abs then v.x.abs else a) XVal.zero
    if amax.isZero then 0
    else ((span 0 255).find? (fitsScale f amax)).getD 0xFE

/-- A block under COMPUTED scale: its codes, its table entry and the flags (02 R46 to R48). -/
def convBlock (f : Fmt) (vs : List CVal) : List Nat × Nat × Flags :=
  let S := computeScale f vs
  if S = 0xFF then
    (vs.map fun _ => 0, 0xFF, { inf := vs.any fun v => v.sat.isNone && v.x.isInf })
  else
    let r := vs.map (convScaled f S)
    let fl := r.foldl (fun a e => a.or e.2) {}
    (r.map (·.1), S + (if fl.ovf then 256 else 0), fl)

/-- Conversion into INT8 or INT4 in a channel (02 R39, R49). -/
def convInt (f : Fmt) (s z : Nat) (v : CVal) : Nat × Flags :=
  let zi := sext 8 z
  let put := fun (n : Int) (also : Bool) (inf : Bool) =>
    let c := clampInt f.codeMin f.codeMax n
    ((wrap f.width c, { convovf := also || decide (c ≠ n), inf := inf }) : Nat × Flags)
  if !validScale s then put zi true (v.sat.isNone && v.x.isInf)
  else
    match v.sat with
    | some neg => (wrap f.width (if neg then f.codeMin else f.codeMax), { convovf := true })
    | none =>
      match v.x with
      | .nan => put zi true false
      | .inf neg => (wrap f.width (if neg then f.codeMin else f.codeMax), { convovf := true, inf := true })
      | .fin m e _ =>
        match f32.decode s with
        | .fin n g _ =>
          let q := if g ≤ e then rneRat (m * 2 ^ (e - g).toNat) n.natAbs else rneRat m (n.natAbs * 2 ^ (g - e).toNat)
          put (q + zi) false false
        | _ => put zi true false

/-- The scale sources of 04 R92. -/
inductive ScaleSrc where
  | none | computed | table | channel
  deriving DecidableEq, Repr

def ScaleSrc.ofCode : Nat → ScaleSrc
  | 0 => .none | 1 => .computed | 2 => .table | _ => .channel

/-- Whether a scale source fits an output format, given whether a block-scale table is there (04 R92). -/
def scaleFits (src : ScaleSrc) (f : Fmt) (hastab : Bool) : Bool :=
  match src with
  | .none => (f.layout.isSome && !f.isF8) || (f.isF8 && !hastab)
  | .computed => f.isBlock || f.isF8
  | .table => f.isBlock || f.isF8
  | .channel => f.isInt

end Sys2Proof.Machine
end

