-- ==== Sys2Proof/Machine/LongRegs.lean ====
section
/-! DEFINITION. The long register: insertion, sweep, saturation, residue, records (03 R51 to R57, R64, R66 to R72). -/

namespace Sys2Proof.Machine

/-- The residue modulus, 2^31 − 1 (03 R71). -/
def resP : Nat := 2 ^ 31 - 1

/-- The balanced digit of a number: in −2^63 to 2^63 − 1, congruent modulo 2^64. -/
def balanced (z : Int) : Int :=
  let r := z % 2 ^ 64
  if r < 2 ^ 63 then r else r - 2 ^ 64

/-- The signed digits of a number, least significant first, at most `n` of them. -/
def signedDigits : Nat → Int → List Int
  | 0, _ => []
  | n + 1, z => if z = 0 then [] else
    let d := balanced z
    d :: signedDigits n ((z - d) / 2 ^ 64)

/-- Add digits into the limbs from limb 0 on, counting carries (03, insert). -/
def addDigits : List Int → List Int → List Int → List Int × List Int
  | d :: ds, c :: cs, t :: ts =>
    let s := d + t
    let (s, c) := if 2 ^ 63 ≤ s then (s - 2 ^ 64, c + 1) else if s < -(2 ^ 63) then (s + 2 ^ 64, c - 1) else (s, c)
    let r := addDigits ds cs ts
    (s :: r.1, c :: r.2)
  | ds, cs, _ => (ds, cs)

/-- The extended value of a register: Σ (digit + carry × 2^64) × 2^(64 i). -/
def limbSum : List Int → List Int → Int
  | d :: ds, c :: cs => d + c * 2 ^ 64 + 2 ^ 64 * limbSum ds cs
  | _, _ => 0
def LongReg.ext (r : LongReg) : Int := limbSum r.digit r.carry

/-- The limbs of a value: unsigned digits. -/
def limbsOf : Nat → Int → List Int
  | 0, _ => []
  | n + 1, z => z % 2 ^ 64 :: limbsOf n (z / 2 ^ 64)

/-- The carries after a sweep: zero but for the guard. -/
def guardLast (n : Nat) (g : Int) : List Int := List.replicate (n - 1) 0 ++ [g]

/-- The guard held in 16 bits. -/
def clampGuard (g : Int) : Int := clampInt (-32768) 32767 g

/-- Pass every deferred carry up (03 R56). -/
def LongReg.sweep (r : LongReg) : LongReg :=
  let n := r.digit.length
  let v := r.ext
  let g := v / 2 ^ (64 * n)
  { r with digit := limbsOf n v
           carry := guardLast n (if r.sat then clampGuard g else g)
           count := 0 }

/-- The guard: the carry field of the last limb. -/
def LongReg.guard (r : LongReg) : Int := r.carry.getLastD 0

/-- Hold the guard at the end of its range (03 R57). -/
def LongReg.saturate (r : LongReg) : LongReg :=
  { r with carry := r.carry.dropLast ++ [if r.guard < 0 then -32768 else 32767], sat := true }

/-- A residue after a term `t × 2^b` (03 R71). -/
def resAfter (res : Nat) (t : Int) (b : Nat) : Nat :=
  ((res : Int) + t % resP * (2 ^ (b % 31) : Nat)).toNat % resP

/-- Insert `t × 2^b` (03, insert; R57, R71). The sweep that the 32,768th insertion calls for is a step of its own. -/
def LongReg.insert (r : LongReg) (t : Int) (b : Nat) : LongReg :=
  if r.sat then r
  else
    let n := r.digit.length
    let ds := List.replicate (b / 64) 0 ++ signedDigits n (t * 2 ^ (b % 64))
    let x := addDigits r.digit r.carry ds
    let r := { r with digit := x.1, carry := x.2 }
    let r := if r.guard < -32768 ∨ 32767 < r.guard then r.saturate else r
    { r with res := resAfter r.res t b, count := r.count + 1 }

/-- The register has to be swept before its next insertion (03 R56). -/
def LongReg.sweepDue (r : LongReg) : Bool := !r.sat && decide (32768 ≤ r.count)

/-- The special lane after a special product (03 R66). -/
def laneAfter : Lane → Lane → Lane
  | .none, x => x
  | .pinf, .pinf => .pinf
  | .ninf, .ninf => .ninf
  | x, .none => x
  | _, _ => .nan

def laneOf : XVal → Lane
  | .nan => .nan
  | .inf n => if n then .ninf else .pinf
  | _ => .none

/-- The accumulator of a COMPAT_T2 register (03 R64). -/
def LongReg.t2Value (r : LongReg) : XVal :=
  match r.lane with
  | .nan => .nan
  | .pinf => .inf false
  | .ninf => .inf true
  | .none => if r.nzero then .fin 0 0 true else .fin r.ext (-304) false

/-- A COMPAT_T2 register that holds an accumulator: a finite one sits in N exactly. -/
def LongReg.ofT2 (r : LongReg) (acc : XVal) : LongReg :=
  match acc with
  | .fin m e z =>
    let n := alignTo m (e + 304) 0
    { r with digit := limbsOf 10 n, carry := guardLast 10 (n / 2 ^ 640), res := (n % resP).toNat, lane := .none
             nzero := m == 0 && z, t2 := true }
  | x => { r with digit := List.replicate 10 0, carry := List.replicate 10 0, res := 0, lane := laneOf x, nzero := false
                  t2 := true }

/-- acc after one K-block whose exact sum is `sum` (03 R64). -/
def t2Step (acc sum : XVal) (allNegZero : Bool) : XVal :=
  match XVal.add acc sum with
  | .fin m e _ => if m = 0 then .fin 0 0 (acc.isZero && acc.neg? && allNegZero) else toF32 (.fin m e false)
  | x => x

/-- One term lands: the register and the step-status bits it sets (03 R57, R62, R64, R67). What a faulty multiplier formed
reaches the digits, and the residue takes the term that the operands give (03 R71, 04 R77). The bits that a COMPACT group dropped
set CHAFF in a saturated register too, whose insertion is ignored. DESIGN CHOICE, log 139. -/
def LongReg.land (r : LongReg) (w : TermKind) : LongReg × List StepBit :=
  match w with
  | .add t b => (r.insert t b, [])
  | .stray t predicted b => ({ r.insert t b with res := if r.sat then r.res else resAfter r.res predicted b }, [])
  | .chaff => ({ r with chaff := true }, [.chaff])
  | .special l =>
    let l' := laneAfter r.lane l
    ({ r with lane := l' }, if l' = r.lane then [] else if l' = .nan then [.nan] else [.inf])
  | .t2 sum nz =>
    let acc := t2Step r.t2Value sum nz
    let r' := r.ofT2 acc
    (r', if r'.lane = r.lane then [] else if r'.lane = .nan then [.nan] else if r'.lane = .none then [] else [.inf])

/-- Whether the swept value fits its image: the guard copies the sign (03 R69). -/
def LongReg.inRange (r : LongReg) : Bool :=
  let n := 64 * r.digit.length
  decide (-(2 ^ (n - 1) : Int) ≤ r.ext) && decide (r.ext < 2 ^ (n - 1))

/-- The residue check at a readout: registers with SAT or T2 take no part (03 R71). -/
def LongReg.resOk (r : LongReg) : Bool := r.sat || r.t2 || (r.ext % resP).toNat == r.res

/-- The weight of bit 0: 2^−304, and 2^−2154 in a chained register (03 R51, R61). -/
def LongReg.weight (r : LongReg) : Int := if r.digit.length = 10 then -304 else -2154

/-- What a readout delivers (03 R64, R67 to R69): the value, the sign of its saturation, and whether the register
saturates. A restored register with T2 and SAT both set reads out as its accumulator (R64), not as a saturated value (R69).
DESIGN CHOICE, log 140. -/
def LongReg.readout (r : LongReg) : CVal × Bool :=
  if r.t2 then (⟨r.t2Value, none⟩, false)
  else
    match r.lane with
    | .nan => (⟨.nan, none⟩, r.sat || !r.inRange)
    | .pinf => (⟨.inf false, none⟩, r.sat || !r.inRange)
    | .ninf => (⟨.inf true, none⟩, r.sat || !r.inRange)
    | .none =>
      if r.sat || !r.inRange then
        let n := 64 * r.digit.length
        let neg := decide (r.guard < 0)
        (⟨.fin (if neg then -(2 ^ (n - 1) : Int) else 2 ^ (n - 1) - 1) r.weight false, some neg⟩, true)
      else (⟨.fin r.ext r.weight false, none⟩, false)

def Lane.code : Lane → Nat
  | .none => 0 | .pinf => 1 | .ninf => 2 | .nan => 3
def Lane.ofCode : Nat → Lane
  | 0 => .none | 1 => .pinf | 2 => .ninf | _ => .nan

/-- The 8-byte tag of a swept register (03 R53). -/
def LongReg.tag (r : LongReg) : Nat :=
  wrap 16 r.guard + r.res * 2 ^ 16 + r.lane.code * 2 ^ 47 + ofBool r.sat * 2 ^ 49 + ofBool r.chaff * 2 ^ 50 +
    ofBool r.t2 * 2 ^ 51 + ofBool r.nzero * 2 ^ 52

/-- The register record: the image of the digits, then the tag (03 R53, R61). -/
def LongReg.record (r : LongReg) : Bytes :=
  (r.digit.map fun d => leBytes 8 (wrap 64 d)).flatten ++ leBytes 8 r.tag

/-- A restored record; none when it is refused (03 R54). -/
def LongReg.ofRecord (limbs : Nat) (b : Bytes) : Option LongReg :=
  let tag := field b (8 * limbs) 8
  let res := bits tag 16 31
  let t2 := bit tag 51
  let nz := bit tag 52
  if bits tag 53 11 ≠ 0 ∨ res = resP ∨ (nz ∧ ¬ t2) then none
  else some
    { digit := (span 0 limbs).map fun i => (field b (8 * i) 8 : Int)
      carry := guardLast limbs (sext 16 tag)
      count := 0, res := res, lane := Lane.ofCode (bits tag 47 2), sat := bit tag 49, chaff := bit tag 50
      t2 := t2, nzero := nz }

end Sys2Proof.Machine
end

