-- ==== Sys2Proof/Machine/Operands.lean ====
section
/-! DEFINITION. Tensor descriptors, tiles, larder slots, and the runs of memory that a tile covers (06 R135 to R146). -/

namespace Sys2Proof.Machine

/-- The fields of a descriptor (06 R135). `raw` is its 512 bits. -/
structure Desc where
  raw : Nat
  base : Nat
  fmtCode : Nat
  kind : Nat
  order : Bool
  xpose : Bool
  bsrc0 : Nat
  bsrc1 : Nat
  bsrc2 : Nat
  rtrack : Bool
  hastab : Bool
  bound0 : Nat
  bound1 : Nat
  bound2 : Nat
  baddr : Nat
  t0 : Nat
  t1 : Nat
  stride1 : Nat
  stride2 : Nat
  stab : Nat
  sbase : Int
  rbase : Nat
  rslots : Nat
  rslack : Nat
  shtol : Nat
  deriving DecidableEq, Repr

def Desc.of (d : Nat) : Desc :=
  { raw := d, base := bits d 0 48, fmtCode := bits d 48 4, kind := bits d 52 2, order := bit d 54, xpose := bit d 55
    bsrc0 := bits d 56 2, bsrc1 := bits d 58 2, bsrc2 := bits d 60 2, rtrack := bit d 62, hastab := bit d 63
    bound0 := bits d 64 32, bound1 := bits d 96 32, bound2 := bits d 128 32, baddr := bits d 160 48
    t0 := bits d 208 16, t1 := bits d 224 8, stride1 := bits d 256 40, stride2 := bits d 296 40, stab := bits d 336 48
    sbase := sext 14 (bits d 384 14), rbase := bits d 400 14, rslots := bits d 414 6 + 1, rslack := bits d 420 8
    shtol := bits d 448 16 }

/-- Descriptor `h` of a core. -/
def descOf (s : State) (c : Core) (h : Nat) : Nat := leNat (localBytes s c (descOff + 64 * (h % 1024)) 64)

/-- The format of a DATA descriptor; F32 stands for the 32-bit words of INDEX and for RECORD. -/
def Desc.fmt (d : Desc) : Fmt := if d.kind = 0 then (Fmt.ofCode d.fmtCode).getD .f32 else .f32
/-- Element bits. -/
def Desc.w (d : Desc) : Nat := d.fmt.width
/-- The bytes of one storage block of 32 elements. -/
def Desc.blockBytes (d : Desc) : Nat := 4 * d.w
/-- Rows and contraction indices of a slot (06 R138, R140). -/
def Desc.rw (d : Desc) : Nat := if d.xpose then d.t0 else d.t1
def Desc.kw (d : Desc) : Nat := if d.xpose then d.t1 else d.t0
/-- Bytes of a slot row (06 R140). -/
def Desc.rb (d : Desc) : Nat := 32 * ceilDiv (d.kw * d.w) 256
/-- Block-scale entries of a slot row. -/
def Desc.rowBlocks (d : Desc) : Nat := ceilDiv d.kw 32
/-- Bytes of records of a RECORD tile (06 R146). -/
def Desc.recordBytes (d : Desc) : Nat := if d.fmtCode = 5 then 581632 else 360448
/-- The bytes and the 128-byte units of a slot (06 R140, R146). -/
def Desc.slotBytes (d : Desc) : Nat :=
  if d.kind = 2 then 128 + d.recordBytes
  else 128 + d.rw * d.rb + (if d.hastab then d.rw * d.rowBlocks * 2 else 0)
def Desc.slotUnits (d : Desc) : Nat := ceilDiv d.slotBytes 128
/-- The larder byte where slot `i` of the ring starts. -/
def Desc.slotAt (d : Desc) (i : Nat) : Nat := (d.rbase + i * d.slotUnits) * 128
/-- The ring reaches past unit 16,383 (06 R140). -/
def Desc.ringBad (d : Desc) : Bool := decide (16384 < d.rbase + d.rslots * d.slotUnits)

/-- A bound field is in order: PARAM names a register in bits [7:0] alone. -/
def boundOk (src v : Nat) : Bool := src != 3 && (src != 1 || decide (v < 256))

/-- A descriptor within R135, R136 and R138 of 06; other use rules are checked where the use is. -/
def Desc.ok (d : Desc) : Bool :=
  bits d.raw 232 24 == 0 && bits d.raw 398 2 == 0 && bits d.raw 428 20 == 0 && bits d.raw 464 48 == 0 &&
  d.kind != 3 && boundOk d.bsrc0 d.bound0 && boundOk d.bsrc1 d.bound1 && boundOk d.bsrc2 d.bound2 &&
  d.baddr % 4 == 0 &&
  (if d.kind = 2 then d.fmtCode == 0 || d.fmtCode == 5
   else
    (d.kind != 1 || d.fmtCode == 0) &&
    decide (1 ≤ d.t1 ∧ d.t1 ≤ 64) && decide (1 ≤ d.t0 ∧ d.t0 ≤ (if d.xpose then 64 else 4096)) &&
    (let e := if d.hastab then d.blockBytes else max 1 (d.w / 8)
     d.base % e == 0 && d.stride1 % e == 0 && d.stride2 % e == 0))

/-- A format code that exists and that the partition enables (02 R29, R30, 12 R296). -/
def fmtOn (s : State) (p : Option Part) (code : Nat) : Bool :=
  match p with
  | some p => decide (code < 11) && bit (s.part p).img.fmask code
  | none => false

/-- Three extents. -/
abbrev Ext := Nat × Nat × Nat

/-- The extents taken at issue: IMM and PARAM; a MEMORY extent is 0 until its bound word is read (06 R139). -/
def extAtIssue (s : State) (c : Core) (d : Desc) : Ext :=
  let one := fun src v => if src = 0 then v else if src = 1 then bits (pget s c (v % 256)) 0 32 else 0
  (one d.bsrc0 d.bound0, one d.bsrc1 d.bound1, one d.bsrc2 d.bound2)

/-- A descriptor with a MEMORY source. -/
def Desc.fromMem (d : Desc) : Bool := d.bsrc0 == 2 || d.bsrc1 == 2 || d.bsrc2 == 2

/-- The extents once the three bound words are there. -/
def extWithWords (d : Desc) (e : Ext) (b : Bytes) : Ext :=
  (if d.bsrc0 = 2 then field b 0 4 else e.1, if d.bsrc1 = 2 then field b 4 4 else e.2.1,
   if d.bsrc2 = 2 then field b 8 4 else e.2.2)

/-- Where a tile lies: its coordinates and whether it is wholly masked (06 R137). -/
structure Tile where
  c0 : Nat
  c1 : Nat
  c2 : Nat
  masked : Bool
  deriving DecidableEq, Repr

/-- A tile of a tensor with an extent of 0 is wholly masked. A coordinate that the rule still gives it there stays as it is, for
the header (06 R141); one that would divide by 0 is 0. -/
def tileOf (d : Desc) (e : Ext) (t : Nat) : Tile :=
  let n0 := ceilDiv e.1 d.t0
  let n1 := ceilDiv e.2.1 d.t1
  let c0 := if n0 = 0 then 0 else if d.order then t / n1 % n0 else t % n0
  let c1 := if n1 = 0 then 0 else if d.order then t % n1 else t / n0 % n1
  let c2 := t / (n0 * n1)
  ⟨c0, c1, c2, decide (e.1 = 0 ∨ e.2.1 = 0 ∨ e.2.2 ≤ c2)⟩

/-- The first coordinates of the tile, and how many real ones follow, along dim0 and dim1. -/
def Tile.x0 (t : Tile) (d : Desc) : Nat := t.c0 * d.t0
def Tile.x1 (t : Tile) (d : Desc) : Nat := t.c1 * d.t1
def Tile.n0 (t : Tile) (d : Desc) (e : Ext) : Nat := if t.masked then 0 else min d.t0 (e.1 - t.x0 d)
def Tile.n1 (t : Tile) (d : Desc) (e : Ext) : Nat := if t.masked then 0 else min d.t1 (e.2.1 - t.x1 d)

/-- The bit address of element (x0, x1, x2) (06 R136). -/
def Desc.bitAt (d : Desc) (x0 x1 x2 : Nat) : Nat := (d.base + x2 * d.stride2 + x1 * d.stride1) * 8 + x0 * d.w

/-- The block-scale entry of element (x0, x1, x2): its address (06 R136). -/
def Desc.entryAt (d : Desc) (x0 x1 x2 : Nat) : Nat :=
  d.stab + 2 * ((d.bitAt x0 x1 x2 / 8 - d.base) / d.blockBytes)

/-- Rows and contraction indices that are real in a tile's slot. -/
def Tile.rows (t : Tile) (d : Desc) (e : Ext) : Nat := if d.xpose then t.n0 d e else t.n1 d e
def Tile.ks (t : Tile) (d : Desc) (e : Ext) : Nat := if d.xpose then t.n1 d e else t.n0 d e
/-- The channel of row 0 (06 R138). -/
def Tile.ch0 (t : Tile) (d : Desc) : Nat := if d.xpose then t.x0 d else t.x1 d

/-- A slot header (06 R140). -/
def slotHeader (rowmask kv ch0 tile status : Nat) : Bytes :=
  leBytes 8 rowmask ++ leBytes 2 kv ++ leBytes 2 0 ++ leBytes 4 ch0 ++ leBytes 8 tile ++ leBytes 1 status ++
    List.replicate 103 0

/-- The header of a loaded tile (06 R140, R141). -/
def Tile.header (t : Tile) (d : Desc) (e : Ext) (tile : Nat) : Bytes :=
  slotHeader (2 ^ t.rows d e - 1) (if t.rows d e = 0 then 0 else t.ks d e) (t.ch0 d) tile 0

/-- The runs of bits that bring rows of a tensor into a slot at larder byte `at`: `rows` gives for each slot row the
dim1 coordinate of its data row, if it is real. Along a row `n` elements from `x0` are read, with the entries of their
blocks after the last row (06 R140, R141). -/
def rowRuns (d : Desc) (at' x0 n x2 : Nat) (rows : List (Nat × Nat)) : List (Nat × Nat × Nat) :=
  rows.flatMap fun r =>
    (d.bitAt x0 r.2 x2, (at' + 128 + r.1 * d.rb) * 8, n * d.w) ::
    (if d.hastab then (span 0 (ceilDiv n 32)).map fun b =>
      (d.entryAt (x0 + 32 * b) r.2 x2 * 8,
       (at' + 128 + d.rw * d.rb + (r.1 * d.rowBlocks + b) * 2) * 8, 16) else [])

/-- The runs of a LOAD: row by row, or element by element when the operand is stored transposed (06 R138, R141,
04 R78). -/
def loadRuns (d : Desc) (e : Ext) (t : Tile) (tile at' : Nat) : List (Nat × Nat × Nat) :=
  if d.kind = 2 then [((d.base + tile * d.recordBytes) * 8, (at' + 128) * 8, d.recordBytes * 8)]
  else if t.masked then []
  else if d.xpose then
    (span 0 (t.n0 d e)).flatMap fun r => (span 0 (t.n1 d e)).map fun k =>
      (d.bitAt (t.x0 d + r) (t.x1 d + k) t.c2, (at' + 128 + r * d.rb) * 8 + k * d.w, d.w)
  else rowRuns d at' (t.x0 d) (t.n0 d e) t.c2 ((span 0 (t.n1 d e)).map fun r => (r, t.x1 d + r))

/-- The byte runs that a list of bit runs reads: address and length. -/
def srcBytes (runs : List (Nat × Nat × Nat)) : List (Nat × Nat) :=
  runs.map fun r => (r.1 / 8, ceilDiv (r.1 % 8 + r.2.2) 8)

/-- Bits of a byte string by a byte reader. -/
def readBits (rd : Nat → Byte) (at' n : Nat) : Nat :=
  (leNat ((span (at' / 8) (ceilDiv (at' % 8 + n) 8)).map rd) >>> (at' % 8)) % 2 ^ n

/-- The bytes at `a` on with `n` bits at bit address `at` replaced. -/
def putBitsAt (rd : Nat → Byte) (at' n v : Nat) : List Host.Cell :=
  let a := at' / 8
  let k := ceilDiv (at' % 8 + n) 8
  let old := leNat ((span a k).map rd)
  cellsAt a (leBytes k (putBits old (at' % 8) n v))

/-- The element codes of tile row `i` (along dim1, from `x1 + i`) that a writer delivers, by (x0 offset, x1 offset). -/
abbrev CodeOf := Nat → Nat → Nat

/-- Pack element codes into bytes, low nibble first (02 R31). -/
def packCodes (w : Nat) : List Nat → Bytes
  | [] => []
  | a :: r =>
    if w = 4 then
      match r with
      | [] => [BitVec.ofNat 8 (a % 16)]
      | b :: r => BitVec.ofNat 8 (a % 16 + 16 * (b % 16)) :: packCodes w r
    else leBytes (w / 8) a ++ packCodes w r

/-- Padding elements that are written with a row: those of the last block of a block-scaled row (02 R38). -/
def Desc.padTo (d : Desc) (e : Ext) : Nat := if d.fmt.isBlock || d.hastab then ceilDiv e.1 32 * 32 else e.1

/-- The writes of one dim1 row of a tile: its real lanes and the padding of its last block (06 R143). -/
def rowWrite (d : Desc) (e : Ext) (t : Tile) (code : CodeOf) (i : Nat) : Nat × Bytes :=
  let x0 := t.x0 d
  let n := t.n0 d e
  let pad := if x0 + n = e.1 then min (d.padTo e) (x0 + d.t0) - e.1 else 0
  (d.bitAt x0 (t.x1 d + i) t.c2 / 8, packCodes d.w ((span 0 n).map (fun j => code j i) ++ List.replicate pad 0))

/-- The writes of a whole tile, row by row. -/
def tileWrites (d : Desc) (e : Ext) (t : Tile) (code : CodeOf) : List (Nat × Bytes) :=
  (span 0 (t.n1 d e)).map (rowWrite d e t code)

/-- Every byte a tile of a descriptor covers, as address and length: its rows, from a byte that a row's first nibble may share
on, its padding, and its table entries (06 R154, PROT). -/
def tileRange (d : Desc) (e : Ext) (tile : Nat) : List (Nat × Nat) :=
  if d.kind = 2 then [(d.base + tile * d.recordBytes, d.recordBytes)]
  else
    let t := tileOf d e tile
    (span 0 (t.n1 d e)).flatMap fun i =>
      let w := rowWrite d e t (fun _ _ => 0) i
      (w.1, max w.2.length (ceilDiv (d.bitAt (t.x0 d) (t.x1 d + i) t.c2 % 8 + t.n0 d e * d.w) 8)) ::
      (if d.hastab then (span 0 (ceilDiv (t.n0 d e) 32)).map fun b =>
        (d.entryAt (t.x0 d + 32 * b) (t.x1 d + i) t.c2, 2) else [])

/-- The partition reaches every byte of a tile. -/
def tileGranted (s : State) (p : Option Part) (d : Desc) (e : Ext) (tile : Nat) : Bool :=
  match p with
  | some p => (tileRange d e tile).all fun r => grantedRun s p r.1 r.2
  | none => false

/-- The tile index of a stream word: P[PSEL] + IMM, modulo 2^64 (06 R138). -/
def streamTile (p imm : Nat) : Nat := wrap 64 ((p : Int) + sext 16 imm)

/-- A scale register of a core by number, as its 16 bytes (04 R81). -/
def scaleReg (s : State) (c : Core) (n : Nat) : Nat := leNat (localBytes s c (scaleOff + 16 * n) 16)
def scaleS (v : Nat) : Nat := bits v 0 32
def scaleZ (v : Nat) : Nat := bits v 32 8

/-- The scale register of a channel is one of the 8,192 (04 R82). -/
def chanOk (n : Int) : Bool := decide (0 ≤ n ∧ n < 8192)

end Sys2Proof.Machine
end

