-- ==== Sys2Proof/Machine/Words.lean ====
section
/-! DEFINITION. Control words and stream words: their fields, and where they are fetched from (05 R99, R101 to R112). -/

namespace Sys2Proof.Machine

/-- A word at issue: its stream, the row or stream-word address it came from, its bits. -/
structure WordX where
  st : Stream
  addr : Nat
  raw : Nat
  deriving DecidableEq, Repr

def streamNum : Stream → Nat
  | .m => 0 | .l => 1 | .s => 2 | .c => 3

def allStreams : List Stream := [.m, .l, .s, .c]

/-- The address of the word at `pc`: the row, or the stream's base plus the stream address (05 R99). -/
def wordAddr (s : State) (c : Core) (st : Stream) (pc : Nat) : Nat :=
  if st = .m then pc else fget s .coreStreamBaseBase (c.val * 3 + (streamNum st - 1)) + pc

/-- The word at `pc`, unless the address reaches past the control store (05 R99). -/
def fetchWord (s : State) (c : Core) (st : Stream) (pc : Nat) : Option WordX :=
  let a := wordAddr s c st pc
  if 0xFFFF < pc ∨ 131071 < a then none
  else if st = .m then some ⟨st, a, leNat (localBytes s c (storeOff + 32 * a) 32)⟩
  else some ⟨st, a, leNat (localBytes s c (storeOff + 16 * a) 16)⟩

/-- A field with its place in a control word and in a stream word. -/
def WordX.pick (w : WordX) (mlo slo n : Nat) : Nat := bits w.raw (if w.st = .m then mlo else slo) n
def WordX.lo (w : WordX) (mlo slo : Nat) : Nat := if w.st = .m then mlo else slo

def WordX.op (w : WordX) : Nat := w.pick 251 123 5
def WordX.cond (w : WordX) : Nat := w.pick 248 120 3
def WordX.imm (w : WordX) : Nat := w.pick 232 48 16
def WordX.vary (w : WordX) : Bool := w.pick 231 117 1 == 1
def WordX.mark (w : WordX) : Bool := w.pick 230 116 1 == 1
def WordX.wait (w : WordX) : Bool := w.pick 229 119 1 == 1
def WordX.signal (w : WordX) : Bool := w.pick 228 118 1 == 1
def WordX.pfence (w : WordX) : Bool := w.pick 225 115 1 == 1
def WordX.wflag (w : WordX) : Nat := w.pick 36 100 12
def WordX.sflag (w : WordX) : Nat := w.pick 24 88 12
def WordX.psel (w : WordX) : Nat := w.pick 10 40 8
def WordX.wcid (w : WordX) : Nat := w.pick 18 24 6
def WordX.wslack (w : WordX) : Nat := w.pick 2 16 8
/-- Of M words alone (05 R101, R104). -/
def WordX.isM (w : WordX) : Bool := w.st == .m
def WordX.seal (w : WordX) : Bool := w.isM && bit w.raw 227
def WordX.tileDone (w : WordX) : Bool := w.isM && bit w.raw 226
def WordX.mop (w : WordX) : Nat := if w.isM then bits w.raw 220 4 else 0
def WordX.acc (w : WordX) : Nat := bits w.raw 218 2
def WordX.afmt (w : WordX) : Nat := bits w.raw 214 4
def WordX.bfmt (w : WordX) : Nat := bits w.raw 210 4
def WordX.zpe (w : WordX) : Bool := bit w.raw 207
def WordX.bank (w : WordX) : Fin 2 := if bit w.raw 206 then 1 else 0
def WordX.clr (w : WordX) : Bool := w.isM && bit w.raw 205
def WordX.drn (w : WordX) : Bool := w.isM && bit w.raw 204
def WordX.kcnt (w : WordX) : Nat := bits w.raw 192 12
def WordX.xtag (w : WordX) : Nat := bits w.raw 176 16
def WordX.vop (w : WordX) : Nat := if w.isM then bits w.raw 136 8 else 0
def WordX.vd (w : WordX) : Nat := bits w.raw 131 5
def WordX.va (w : WordX) : Nat := bits w.raw 126 5
def WordX.vb (w : WordX) : Nat := bits w.raw 121 5
def WordX.vc (w : WordX) : Nat := bits w.raw 116 5
def WordX.vf1 (w : WordX) : Nat := bits w.raw 112 4
def WordX.vf2 (w : WordX) : Nat := bits w.raw 108 4
def WordX.vimm (w : WordX) : Nat := bits w.raw 96 12
def WordX.scsrc (w : WordX) : Nat := bits w.raw 94 2
def WordX.act (w : WordX) : Nat := bits w.raw 80 4
def WordX.ofmt (w : WordX) : Nat := bits w.raw 76 4
def WordX.mse (w : WordX) : Bool := bit w.raw 75
def WordX.shadow (w : WordX) : Bool := bit w.raw 74
/-- Of stream words alone (05 R111). -/
def WordX.handle (w : WordX) : Nat := bits w.raw 78 10
def WordX.laddr (w : WordX) : Nat := bits w.raw 64 14
def WordX.xhandle (w : WordX) : Nat := bits w.raw 30 10

/-- A handle field: none, or the handle after patching by P[PSEL] (05 R106). -/
def patched (field p : Nat) (patch : Bool) : Option Nat :=
  if field = 0x3FF then none else some (if patch then (field + p % 1024) % 1024 else field)

def WordX.hA (w : WordX) (p : Nat) : Option Nat := patched (bits w.raw 166 10) p (bit w.raw 145)
def WordX.hB (w : WordX) (p : Nat) : Option Nat := patched (bits w.raw 156 10) p (bit w.raw 145)
def WordX.hC (w : WordX) (p : Nat) : Option Nat := patched (bits w.raw 146 10) p (bit w.raw 144)
def WordX.hBias (w : WordX) (p : Nat) : Option Nat := patched (bits w.raw 84 10) p (bit w.raw 144)
/-- The source descriptor of VCVT, never patched (05 R107). -/
def WordX.hSrc (w : WordX) : Option Nat := patched (bits w.raw 98 10) 0 false

/-- The parts of a word that have been made. -/
def WordX.done (w : WordX) (s : State) (c : Core) : WordDone := ((s.core c).stream w.st).done

/-- P[PSEL] of a word: as the word took it when it issued, and as it stands before that (05 R110). -/
def WordX.p (w : WordX) (s : State) (c : Core) : Nat :=
  if (w.done s c).begun then (w.done s c).pval else pget s c w.psel

/-- The C descriptor of a word with its extents, and the bias descriptor with its extent along dim0: as taken when the word
issued (05 R110, 06 R139). -/
def WordX.cTaken (w : WordX) (s : State) (c : Core) : Nat × Ext :=
  if (w.done s c).begun then ((w.done s c).cdesc, (w.done s c).cext)
  else
    let d := descOf s c ((w.hC (w.p s c)).getD 0)
    (d, extAtIssue s c (Desc.of d))
def WordX.biasTaken (w : WordX) (s : State) (c : Core) : Option (Nat × Nat) :=
  if (w.done s c).begun then (w.done s c).bias
  else (w.hBias (w.p s c)).map fun h => (descOf s c h, (extAtIssue s c (Desc.of (descOf s c h))).1)

/-- The count source CORE_LC of a LOOP, by the level that it would open (05 R102, R110). -/
def WordX.lcTaken (w : WordX) (s : State) (c : Core) : Nat :=
  if (w.done s c).begun then (w.done s c).lcount
  else fget s .coreLcCount (c.val * 8 + ((s.core c).stream w.st).loops.length)

/-- What a word takes as it issues. -/
def WordX.take (w : WordX) (s : State) (c : Core) : WordDone :=
  { w.done s c with begun := true, pval := w.p s c, lcount := w.lcTaken s c, cdesc := (w.cTaken s c).1
                    cext := (w.cTaken s c).2, bias := w.biasTaken s c }

/-- Where a word stands in its core's control store. -/
def WordX.place (w : WordX) : Nat × Nat := if w.st = .m then (storeOff + 32 * w.addr, 32) else (storeOff + 16 * w.addr, 16)

/-- The descriptors that a word names. -/
def WordX.names (w : WordX) (p : Nat) : List Nat :=
  if w.st = .m then
    [w.hA p, w.hB p, w.hC p, if w.drn then w.hBias p else none, if w.vop = 0x0C then w.hSrc else none].filterMap id
  else if 8 ≤ w.op ∧ w.op ≤ 12 then w.handle :: (if w.op = 9 ∨ w.op = 11 ∨ w.op = 12 then [w.xhandle] else [])
  else []

/-- The pair of operands of an MMA word is F64 × F64, or INT. -/
def WordX.isF64 (w : WordX) : Bool := w.afmt == 5
def WordX.isInt (w : WordX) : Bool := w.afmt == 9 || w.afmt == 10

/-- An operand's slot as the feed sees it (06 R140, R142): its descriptor, its header, the cursor. -/
structure SlotX where
  h : Nat
  d : Desc
  base : Nat
  rowmask : Nat
  kv : Nat
  ch0 : Nat
  cur : Nat
  deriving DecidableEq, Repr

/-- The slot of a larder byte under a descriptor. -/
def slotAt (s : State) (c : Core) (h : Nat) (d : Desc) (base cur : Nat) : SlotX :=
  let b := localBytes s c (larderOff + base) 32
  ⟨h, d, base, field b 0 8, field b 8 2, field b 12 4, cur⟩

/-- The slot that the feed presents of a ring. -/
def feedSlot (s : State) (c : Core) (h cur : Nat) : SlotX :=
  let d := Desc.of (descOf s c h)
  slotAt s c h d (d.slotAt ((s.core c).ring h).feed) cur

/-- Row `r` of a slot is real. -/
def SlotX.rowReal (x : SlotX) (r : Nat) : Bool := decide (r < 64) && bit x.rowmask r

/-- Element (row, k) of a slot, as its code. -/
def SlotX.code (x : SlotX) (rd : Nat → Byte) (r k : Nat) : Nat :=
  readBits rd ((x.base + 128 + r * x.d.rb) * 8 + k * x.d.w) x.d.w

/-- The block scale of the block of index `k` in a row: 127 without a table (03 R58). -/
def SlotX.scaleAt (x : SlotX) (rd : Nat → Byte) (r k : Nat) : Nat :=
  if x.d.hastab then
    readBits rd ((x.base + 128 + x.d.rw * x.d.rb + (r * x.d.rowBlocks + k / 32) * 2) * 8) 8
  else 127

/-- Every real row's channel has a scale register (04 R82). -/
def SlotX.chansOk (x : SlotX) : Bool :=
  (span 0 (min 64 x.d.rw)).all fun r => !x.rowReal r || chanOk (x.d.sbase + x.ch0 + r)

end Sys2Proof.Machine
end

