-- ==== Sys2Proof/Machine/Checks.lean ====
section
/-! DEFINITION. The checks of a word at issue (05 R101 to R116, R133; 06 R135 to R154; 03 R54, R63 to R65, R451;
04 R78 to R93). A fault is the low bit of the field it is charged to, and a refusal code. -/

namespace Sys2Proof.Machine

/-- The refusal codes (05 R133, 06 R154). -/
def cILLEGAL : Nat := 0x01
def cLOOPDEPTH : Nat := 0x02
def cBADLOOP : Nat := 0x03
def cBADTARGET : Nat := 0x04
def cPWRITE : Nat := 0x05
def cSCOPE : Nat := 0x06
def cRANGE : Nat := 0x07
def cDESC : Nat := 0x08
def cBSRC : Nat := 0x09
def cRING : Nat := 0x0A
def cKIND : Nat := 0x0B
def cXPOSE : Nat := 0x0C
def cWORKSTATIC : Nat := 0x0D
def cVARYREQ : Nat := 0x0E
def cPROT : Nat := 0x0F
def cBOUNDRD : Nat := 0x10
def cKSPAN : Nat := 0x11
/-- No code of R133: the fetch of the word met an uncorrectable error (07 R173). -/
def cFETCH : Nat := 0x100

abbrev Charge := Nat × Nat

/-- A charge where `b` holds. -/
def bad (b : Bool) (field code : Nat) : List Charge := if b then [(field, code)] else []

/-- The charge recorded: that of the first field from the top, and there the lowest code (05 R133). -/
def chooseCharge : List Charge → Option Charge
  | [] => none
  | x :: r =>
    match chooseCharge r with
    | none => some x
    | some y => some (if x.1 < y.1 then y else if y.1 < x.1 then x else (x.1, min x.2 y.2))

/-! ### Flags and counters -/

/-- A flag ID as a word of core `c` means it (05 R109). -/
def flagRef (c : Core) (id : Nat) : Option FlagRef :=
  let i := id % 1024
  match id / 1024 with
  | 0 => if i < 64 then some (.loc c i) else none
  | 1 => if i < 256 then some (.die (dieOf c) i) else none
  | 2 => some (.dev i)
  | _ => none

def inRange (i : Nat) (r : Nat × Nat) : Bool := decide (r.1 ≤ i ∧ i < r.1 + r.2)

/-- The structure image assigns the flag to the partition (05 R109, 12 R298). -/
def flagAssigned (s : State) (p : Option Part) : FlagRef → Bool
  | .loc _ _ => true
  | .die d i => match p with
    | some p => inRange i ((s.part p).img.dieFlags.getD d.val (0, 0))
    | none => false
  | .dev i => match p with
    | some p => inRange i ((s.part p).img.devFirst, (s.part p).img.devCount)
    | none => false

def flagCharges (s : State) (c : Core) (id field : Nat) : List Charge :=
  match flagRef c id with
  | none => [(field, cILLEGAL)]
  | some r => bad (!flagAssigned s (partOfCore s c) r) field cSCOPE

/-- A counter assigned to the partition (05 R109). -/
def ctrAssigned (s : State) (p : Option Part) (w : Nat) : Bool :=
  match p with | some p => bit (s.part p).img.wcmask w | none => false

/-- The P registers a stream may write (05 R116). -/
def pWritable (st : Stream) (n : Nat) : Bool :=
  match st with
  | .m => decide (n < 128)
  | .l => decide (128 ≤ n ∧ n < 160)
  | .s => decide (160 ≤ n ∧ n < 192)
  | .c => decide (192 ≤ n ∧ n < 224)

/-- The largest COND of an OP (05 R102, R103, R111). -/
def condMax (st : Stream) (op : Nat) : Nat :=
  match op with
  | 1 => if st = .m then 2 else 1
  | 3 => 4
  | 4 => 3
  | 8 => if st = .m then 7 else 0
  | _ => 0

/-- The OP exists on the stream (05 R102, R112). -/
def opOk (st : Stream) (op : Nat) : Bool :=
  match st with
  | .m => decide (op ≤ 8)
  | .l => decide (op ≤ 7) || op == 8 || op == 9
  | .s => decide (op ≤ 7) || op == 10 || op == 11
  | .c => decide (op ≤ 7) || op == 12

/-- The sequencer part of a word: what control words and stream words have in common. -/
def seqCharges (s : State) (c : Core) (pc : Nat) (loops : List LoopX) (w : WordX) : List Charge :=
  let fop := w.lo 251 123
  let fimm := w.lo 232 48
  let fpsel := w.lo 10 40
  let target := fetchWord s c w.st w.imm
  bad (!opOk w.st w.op) fop cILLEGAL ++
  bad (decide (condMax w.st w.op < w.cond)) (w.lo 248 120) cILLEGAL ++
  (if w.op = 1 then
    bad (decide (8 ≤ loops.length)) fop cLOOPDEPTH ++ bad target.isNone fimm cBADTARGET ++
      bad (!(decide (pc < w.imm) && (match target with | some t => t.op == 2 | none => false))) fimm cBADLOOP
   else []) ++
  (if w.op = 2 then bad (match loops with | [] => true | l :: _ => l.last != pc) fop cBADLOOP else []) ++
  (if w.op = 3 then bad target.isNone fimm cBADTARGET else []) ++
  (if w.op = 4 ∨ w.op = 5 ∨ w.op = 6 then bad (!pWritable w.st w.psel) fpsel cPWRITE else []) ++
  (if w.op = 6 then
    let dyn := fbit s .coreBalCtrlDynamic c.val
    bad (w.imm == 0) fimm cILLEGAL ++ bad (!dyn) fop cWORKSTATIC ++ bad (dyn && !w.vary) (w.lo 231 117) cVARYREQ ++
      bad (!ctrAssigned s (partOfCore s c) w.wcid) (w.lo 18 24) cSCOPE
   else []) ++
  (if w.wait then
    flagCharges s c w.wflag (w.lo 36 100) ++ bad (decide (1024 ≤ w.wflag) && w.wslack != 255) (w.lo 2 16) cILLEGAL
   else []) ++
  (if w.signal then flagCharges s c w.sflag (w.lo 24 88) else [])

/-! ### Descriptors -/

/-- Faults of a descriptor whatever its use: its layout, and a format that is not enabled. -/
def descCharges (s : State) (p : Option Part) (d : Desc) (field : Nat) : List Charge :=
  bad (!d.ok) field cDESC ++ bad (d.kind == 0 && !fmtOn s p d.fmtCode) field cILLEGAL

/-- A descriptor named for writing (06 R138). -/
def writtenCharges (d : Desc) (field : Nat) : List Charge :=
  bad ((d.kind == 0 && d.fmt.isBlock || d.kind != 2 && d.hastab) && d.t0 % 32 != 0) field cDESC ++
    bad (d.kind == 0 && d.w == 4 && d.t0 % 2 != 0) field cDESC

/-- Transposition is not for block-scaled operands (04 R78). -/
def noTranspose (d : Desc) : Bool := d.fmt.isBlock || (d.fmt.isF8 && d.hastab)

/-- An operand of an MMA word. -/
def operandCharges (s : State) (p : Option Part) (d : Desc) (fmt : Nat) (t f64 : Bool) (field tfield : Nat) :
    List Charge :=
  descCharges s p d field ++ bad (d.kind != 0 || d.fmtCode != fmt) field cKIND ++
    bad (d.hastab && d.t0 % 32 != 0) field cDESC ++ bad (f64 && decide (32 < d.rw)) field cDESC ++
    bad d.ringBad field cRING ++ bad (t != d.xpose) field cXPOSE ++ bad (t && noTranspose d) tfield cILLEGAL

/-- The legal pairs and modes (03 R63 to R65): whether the pair is legal, and the modes that it allows. -/
def pairModes (a b : Nat) : Option (List Nat) :=
  let f8 := fun x => x == 0 || x == 1
  let bs := fun x => x == 6 || x == 7
  let int := fun x => x == 9 || x == 10
  if f8 a && f8 b then some [0, 1, 2]
  else if bs a && bs b then some [0, 1]
  else if int a && int b then some [0, 1]
  else if a = b ∧ (a = 2 ∨ a = 3) then some [0, 1, 2]
  else if a = b ∧ a = 4 then some [0, 2]
  else if a = b ∧ a = 5 then some [0]
  else none

/-- The kinds of the banks after the clear of a word (03 R451). -/
def kindsAfterClr (k0 k1 : BankKind) (clr f64 : Bool) (b : Fin 2) : BankKind × BankKind :=
  if !clr then (k0, k1)
  else if f64 || k0 = .chain || k1 = .chain then (.empty, .empty)
  else if b = 0 then (.empty, k1) else (k0, .empty)

/-- An MMA word would give its bank another kind (03 R451). -/
def kindClash (k0 k1 : BankKind) (b : Fin 2) (f64 : Bool) (acc : Nat) : Bool :=
  if f64 then !((k0 = .empty ∧ k1 = .empty : Bool) || (k0 = .chain ∧ k1 = .chain : Bool))
  else
    match (if b = 0 then k0 else k1) with
    | .chain => true
    | .ordinary => acc == 2
    | .t2 => acc != 2
    | .empty => false

/-- A bank holds, or is half of, a chain. -/
def CoreX.isChain (x : CoreX) (b : Fin 2) : Bool := (x.bank b).kind == .chain

/-- The rings that an MMA or RESTORE word enters: whether the feed starts a slot there (06 R147). -/
def entersA (x : CoreX) (w : WordX) : Bool := w.mop == 4 || (w.mop == 1 && (x.bank w.bank).curA == 0)
def entersB (x : CoreX) (w : WordX) : Bool := w.mop == 1 && (x.bank w.bank).curB == 0

/-- The larder records that a RESTORE reads (06 R146). -/
def restoreRecords (s : State) (c : Core) (h : Nat) : List (Option LongReg) :=
  let x := feedSlot s c h 0
  let chain := x.d.fmtCode == 5
  let limbs := if chain then 70 else 10
  (span 0 (if chain then 1024 else 4096)).map fun i =>
    LongReg.ofRecord limbs (localBytes s c (larderOff + x.base + 128 + i * (8 * limbs + 8)) (8 * limbs + 8))

/-- Records that a RESTORE may not take (03 R54, R451): a refused one, or a mix of T2 set and clear. -/
def recordsBad (rs : List (Option LongReg)) : Bool :=
  rs.any Option.isNone ||
    (rs.any (fun r => match r with | some r => r.t2 | none => false) &&
      rs.any (fun r => match r with | some r => !r.t2 | none => false))

/-- KCNT exceeds the indices left in the current slot of A or of B (05 R105): the cursors are the bank's, which a clear
leaves alone. -/
def spanCharges (s : State) (c : Core) (w : WordX) (p : Nat) : List Charge :=
  let k := (s.core c).bank w.bank
  match w.mop, w.hA p, w.hB p with
  | 1, some a, some b =>
    bad (decide ((Desc.of (descOf s c a)).kw < k.curA + w.kcnt) || decide ((Desc.of (descOf s c b)).kw < k.curB + w.kcnt))
      192 cKSPAN
  | _, _, _ => []

/-- The faults of an MMA or RESTORE word that the slots it reads decide: the channels of an INT pair, the records. -/
def slotCharges (s : State) (c : Core) (w : WordX) (p : Nat) : List Charge :=
  match w.mop with
  | 1 =>
    match w.hA p, w.hB p with
    | some a, some b =>
      bad (w.isInt && !(feedSlot s c a 0).chansOk) 166 cRANGE ++ bad (w.isInt && !(feedSlot s c b 0).chansOk) 156 cRANGE
    | _, _ => []
  | 4 =>
    match w.hA p with
    | some a => bad (recordsBad (restoreRecords s c a)) 166 cILLEGAL
    | none => []
  | _ => []

/-! ### The matrix part -/

/-- The strides that a lifted tensor must have (09 R196). -/
def liftStrides (d : Desc) (e : Ext) : Bool :=
  decide (d.stride1 * 8 = 32 * ceilDiv e.1 32 * d.w) && decide (d.stride2 = e.2.1 * d.stride1)

/-- The faults of a matrix part in the word itself. -/
def matrixOwn (s : State) (c : Core) (w : WordX) (p : Nat) : List Charge :=
  let part := partOfCore s c
  let raw := w.raw
  bad (decide (4 < w.mop)) 220 cILLEGAL ++
  (if w.mop = 1 then
    bad (w.acc == 3) 218 cILLEGAL ++ bad (!fmtOn s part w.afmt) 214 cILLEGAL ++ bad (!fmtOn s part w.bfmt) 210 cILLEGAL ++
    (match pairModes w.afmt w.bfmt with
      | none => [(214, cILLEGAL)]
      | some m => bad (!m.contains w.acc) 218 cILLEGAL) ++
    bad (w.isF64 && w.bank == 1) 206 cILLEGAL ++ bad (w.kcnt == 0) 192 cILLEGAL ++
    bad (w.hA p).isNone 166 cILLEGAL ++ bad (w.hB p).isNone 156 cILLEGAL
   else
    bad (w.acc != 0) 218 cILLEGAL ++ bad (w.afmt != 0) 214 cILLEGAL ++ bad (w.bfmt != 0) 210 cILLEGAL ++
    bad (bit raw 209) 209 cILLEGAL ++ bad (bit raw 208) 208 cILLEGAL ++ bad w.zpe 207 cILLEGAL ++
    bad (w.kcnt != 0) 192 cILLEGAL) ++
  bad (w.mop != 2 && w.xtag != 0) 176 cILLEGAL ++
  bad (w.clr && (w.mop == 2 || w.mop == 3)) 205 cILLEGAL ++
  bad (w.drn && (w.mop == 2 || w.mop == 3 || w.mop == 4)) 204 cILLEGAL ++
  bad (w.tileDone && !(w.drn || w.mop == 2 || w.mop == 3)) 226 cILLEGAL ++
  bad ((w.mop == 2 || w.mop == 3) && (w.hC p).isNone) 146 cILLEGAL ++
  bad (w.mop == 4 && (w.hA p).isNone) 166 cILLEGAL

/-- The faults of a matrix part that the banks, the parameters and the descriptors decide. -/
def matrixCharges (s : State) (c : Core) (w : WordX) (p : Nat) : List Charge :=
  let x := s.core c
  let part := partOfCore s c
  let raw := w.raw
  let a := (w.hA p).map fun h => Desc.of (descOf s c h)
  let b := (w.hB p).map fun h => Desc.of (descOf s c h)
  let cd := (w.hC p).map fun h => Desc.of (descOf s c h)
  let chain := x.isChain w.bank
  matrixOwn s c w p ++
  (if w.mop = 1 then
    (let k := kindsAfterClr x.bank0.kind x.bank1.kind w.clr w.isF64 w.bank
     bad (kindClash k.1 k.2 w.bank w.isF64 w.acc) 206 cILLEGAL) ++
    (match a with | none => [] | some d => operandCharges s part d w.afmt (bit raw 209) w.isF64 166 209) ++
    (match b with | none => [] | some d => operandCharges s part d w.bfmt (bit raw 208) w.isF64 156 208)
   else []) ++
  (if w.mop = 2 then
    bad (chain || (x.bank w.bank).kind == .t2) 206 cILLEGAL ++
    (let g := w.xtag % 16
     bad (!fbit s .xceGroupEn g || !(match part with | some q => (s.part q).img.pgroups.contains g | none => false)) 176
       cILLEGAL) ++
    (match cd with
      | none => []
      | some d => descCharges s part d 146 ++ bad (d.kind != 0 || !(d.t0 == 32 || d.t0 == 64)) 146 cILLEGAL ++
          bad d.fromMem 146 cBSRC ++ bad (!liftStrides d (extAtIssue s c d)) 146 cDESC)
   else []) ++
  (if w.mop = 3 then
    (match cd with
      | none => []
      | some d => descCharges s part d 146 ++ bad (d.kind != 2 || (d.fmtCode == 5) != chain) 146 cKIND ++
          bad d.fromMem 146 cBSRC ++ bad (chain && (decide (32 < d.t0) || decide (32 < d.t1))) 146 cDESC ++
          bad (!tileGranted s part d (0, 0, 0) (bits p 32 32)) 146 cPROT)
   else []) ++
  (if w.mop = 4 then
    (match a with
      | none => []
      | some d => descCharges s part d 166 ++ bad (d.kind != 2 || (d.fmtCode == 5 && w.bank == 1)) 166 cKIND ++
          bad d.ringBad 166 cRING)
   else [])

/-! ### The drain -/

/-- The tensor range that a drain reads as bias: the elements of the tile's real columns (04 R89). -/
def colCoord (d : Desc) (t : Tile) : Nat := if d.xpose then t.x1 d else t.x0 d
def colCount (d : Desc) (e : Ext) (t : Tile) : Nat := if d.xpose then t.n1 d e else t.n0 d e

/-- The faults of the drain fields in the word itself. -/
def drainOwn (s : State) (c : Core) (w : WordX) (p : Nat) : List Charge :=
  let fmt := (Fmt.ofCode w.ofmt).getD .f32
  if !w.drn then
    bad (w.scsrc != 0) 94 cILLEGAL ++ bad (bits w.raw 84 10 != 0) 84 cILLEGAL ++ bad (w.act != 0) 80 cILLEGAL ++
      bad (w.ofmt != 0) 76 cILLEGAL ++ bad w.mse 75 cILLEGAL ++ bad w.shadow 74 cILLEGAL
  else
    bad (decide (5 < w.act)) 80 cILLEGAL ++ bad (!fmtOn s (partOfCore s c) w.ofmt) 76 cILLEGAL ++
    bad (w.mse && (w.shadow || fmt == .f32 || fmt == .f64)) 75 cILLEGAL ++ bad (w.hC p).isNone 146 cILLEGAL

/-- A conversion into a block-scaled format (04 R79). -/
def blockOut (f : Fmt) (src : ScaleSrc) : Bool := f.isBlock || (f.isF8 && (src == .computed || src == .table))

/-- The faults of a drain that its descriptors decide. -/
def drainCharges (s : State) (c : Core) (w : WordX) (p : Nat) : List Charge :=
  let x := s.core c
  let part := partOfCore s c
  let fmt := (Fmt.ofCode w.ofmt).getD .f32
  let src := ScaleSrc.ofCode w.scsrc
  let tile := bits p 32 32
  if !w.drn then drainOwn s c w p
  else
    let chain := (w.mop == 1 && w.isF64) ||
      (let k := kindsAfterClr x.bank0.kind x.bank1.kind w.clr w.isF64 w.bank
       (if w.bank = 0 then k.1 else k.2) == .chain)
    drainOwn s c w p ++
    (match w.hC p with
      | none => []
      | some h =>
        let d := Desc.of (descOf s c h)
        let e := extAtIssue s c d
        let t := tileOf d e tile
        descCharges s part d 146 ++ bad (d.kind != 0) 146 cKIND ++
        (if w.shadow then bad (d.fmtCode != w.ofmt) 76 cILLEGAL else bad (d.fmtCode != w.ofmt) 146 cKIND) ++
        writtenCharges d 146 ++
        bad (chain && (decide (32 < d.t0) || decide (32 < d.t1))) 146 cDESC ++ bad d.fromMem 146 cBSRC ++
        bad (!scaleFits src fmt d.hastab || ((src == .computed || src == .table) && !d.hastab)) 94 cILLEGAL ++
        bad ((fmt.isInt && (src == .channel)) &&
          !((span 0 (t.rows d e)).all fun r => chanOk (d.sbase + t.ch0 d + r))) 146 cRANGE ++
        bad (blockOut fmt src && t.x0 d % 32 != 0) 146 cILLEGAL ++ bad (!tileGranted s part d e tile) 146 cPROT ++
        (match w.hBias p with
          | none => []
          | some hb =>
            let b := Desc.of (descOf s c hb)
            let eb := extAtIssue s c b
            let n := min (colCount d e t) (eb.1 - colCoord d t)
            let x0 := colCoord d t
            descCharges s part b 84 ++ bad (b.kind != 0) 84 cKIND ++ bad (b.fmt.isBlock && !b.hastab) 84 cDESC ++
            bad b.fromMem 84 cBSRC ++
            bad (b.fmt.isInt && !((span 0 n).all fun j => chanOk (b.sbase + x0 + j))) 84 cRANGE ++
            bad (!(match part with
              | some q => (n == 0 || grantedRun s q (b.bitAt x0 0 0 / 8) (ceilDiv (b.bitAt x0 0 0 % 8 + n * b.w) 8)) &&
                  (!b.hastab || n == 0 || grantedRun s q (b.entryAt x0 0 0) (b.entryAt (x0 + n - 1) 0 0 + 2 - b.entryAt x0 0 0))
              | none => false)) 84 cPROT))

/-! ### The vector part -/

/-- Which of VD, VA, VB and VC an operation uses (04 R86). -/
def vUses (op : Nat) : Bool × Bool × Bool × Bool :=
  match op with
  | 0x01 | 0x06 => (true, true, true, true)
  | 0x02 | 0x03 | 0x04 | 0x05 | 0x07 | 0x08 | 0x09 => (true, true, true, false)
  | 0x0A | 0x0B | 0x0C => (true, true, false, false)
  | 0x0D => (false, true, false, false)
  | 0x0F => (true, false, false, false)
  | 0x10 => (false, true, false, false)
  | _ => (false, false, false, false)

/-- The lanes or registers that VAMAX and VSCALE take (05 R107). -/
def WordX.vcount (w : WordX) : Nat := bits w.raw 96 8 + 1

/-- The descriptor CH of a VCVT is read only when its destination needs one (04 R450): a block-scale table for COMPUTED and
TABLE, a scale base for CHANNEL, and the F8 formats, whose HASTAB decides which scale source fits. -/
def vcvtNeedsDest (w : WordX) : Bool :=
  let f2 := (Fmt.ofCode w.vf2).getD .f32
  f2.isBlock || f2.isF8 || f2.isInt || bits w.raw 96 2 != 0

/-- The faults of VCVT's scale state (04 R450). -/
def vcvtCharges (s : State) (c : Core) (w : WordX) (p : Nat) : List Charge :=
  let part := partOfCore s c
  let e0 := bits p 32 32
  let f1 := (Fmt.ofCode w.vf1).getD .f32
  let f2 := (Fmt.ofCode w.vf2).getD .f32
  let src := ScaleSrc.ofCode (bits w.raw 96 2)
  let lanes := fun (b : Int) => (span 0 256).all fun l => chanOk (b + e0 + l)
  let tab := fun (d : Desc) => match part with
    | some q => grantedRun s q (d.stab + 2 * (e0 / 32)) (2 * ((e0 + 255) / 32 - e0 / 32 + 1))
    | none => false
  (match w.hSrc with
    | none => []
    | some h =>
      let d := Desc.of (descOf s c h)
      if !(f1.isBlock || f1.isF8 || f1.isInt) then []
      else descCharges s part d 98 ++ bad d.fromMem 98 cBSRC ++ bad (f1.isBlock && !d.hastab) 98 cILLEGAL ++
        bad (f1.isInt && !lanes d.sbase) 98 cRANGE ++
        bad ((f1.isBlock || f1.isF8) && d.hastab && !tab d) 98 cPROT) ++
  (match w.hC p with
    | none => []
    | some h =>
      let d := Desc.of (descOf s c h)
      bad (!scaleFits src f2 d.hastab || ((src == .computed || src == .table) && !d.hastab)) 96 cILLEGAL ++
        bad ((src == .computed || src == .table) && e0 % 32 != 0) 96 cILLEGAL ++
        bad (src == .channel && !lanes d.sbase) 146 cRANGE ++
        bad ((src == .computed || src == .table) && !tab d) 146 cPROT)

/-- The faults of the vector part in the word itself. -/
def vectorOwn (s : State) (c : Core) (w : WordX) (p : Nat) : List Charge :=
  let u := vUses w.vop
  let part := partOfCore s c
  let f1 := (Fmt.ofCode w.vf1).getD .f32
  bad (decide (0x10 < w.vop)) 136 cILLEGAL ++
  bad (!u.1 && w.vd != 0) 131 cILLEGAL ++ bad (!u.2.1 && w.va != 0) 126 cILLEGAL ++
  bad (!u.2.2.1 && w.vb != 0) 121 cILLEGAL ++ bad (!u.2.2.2 && w.vc != 0) 116 cILLEGAL ++
  bad (w.vop != 0x0C && w.vf1 != 0) 112 cILLEGAL ++ bad (w.vop != 0x0C && w.vf2 != 0) 108 cILLEGAL ++
  (match w.vop with
    | 0x0F | 0x10 => bad (bits w.raw 106 2 != 0) 106 cILLEGAL
    | 0x0D => bad (bits w.raw 104 3 != 0) 104 cILLEGAL
    | 0x0E => bad (bits w.raw 104 2 != 0) 104 cILLEGAL
    | 0x0C => bad (!fmtOn s part w.vf1) 112 cILLEGAL ++ bad (!fmtOn s part w.vf2) 108 cILLEGAL ++
        bad (w.hSrc.isNone && (f1.isBlock || f1.isInt)) 98 cILLEGAL
    | _ => bad (w.vimm != 0) 96 cILLEGAL) ++
  bad ((w.vop == 0x0C || w.vop == 0x0D || w.vop == 0x0E) && (w.hC p).isNone) 146 cILLEGAL

def vectorCharges (s : State) (c : Core) (w : WordX) (p : Nat) : List Charge :=
  let part := partOfCore s c
  vectorOwn s c w p ++
  (match w.vop with
    | 0x0D | 0x0E => bad (decide (8192 < bits p 0 13 + w.vcount)) 96 cRANGE
    | 0x0C => vcvtCharges s c w p
    | _ => []) ++
  (if (w.vop = 0x0C ∧ vcvtNeedsDest w) ∨ w.vop = 0x0D ∨ w.vop = 0x0E then
    match w.hC p with
    | none => []
    | some h =>
      let d := Desc.of (descOf s c h)
      descCharges s part d 146 ++ bad d.fromMem 146 cBSRC
   else [])

/-! ### A whole control word, a whole stream word -/

/-- The bits of a control word that no part owns. -/
def spareCharges (w : WordX) : List Charge :=
  bad (bit w.raw 224) 224 cILLEGAL ++ bad (bits w.raw 48 26 != 0) 48 cILLEGAL ++ bad (bits w.raw 0 2 != 0) 0 cILLEGAL

/-- The faults of a control word that do not depend on what its WAIT may wait for. -/
def mOwn (s : State) (c : Core) (pc : Nat) (loops : List LoopX) (w : WordX) : List Charge :=
  let p := w.p s c
  seqCharges s c pc loops w ++ matrixOwn s c w p ++ drainOwn s c w p ++ vectorOwn s c w p ++ spareCharges w ++
    bad (w.tileDone && w.mop == 0 && (w.hC p).isNone) 146 cILLEGAL

/-- The faults of a control word; `slots` says that the slots it reads are there to be judged. -/
def mCharges (s : State) (c : Core) (pc : Nat) (loops : List LoopX) (w : WordX) (slots : Bool) : List Charge :=
  let p := w.p s c
  seqCharges s c pc loops w ++ matrixCharges s c w p ++ drainCharges s c w p ++ vectorCharges s c w p ++ spareCharges w ++
    bad (w.tileDone && w.mop == 0 && (w.hC p).isNone) 146 cILLEGAL ++
    spanCharges s c w p ++ (if slots then slotCharges s c w p else [])

/-- Faults in the range of a tile, judged once its extents are known. -/
def tileCharges (s : State) (part : Option Part) (d : Desc) (e : Ext) (tile field : Nat) : List Charge :=
  bad (!tileGranted s part d e tile) field cPROT

/-- The index entries that the rows of a gathered or scattered tile name (06 R144): the tile's coordinate along dim0, the
index group, and whether the tile is wholly masked. -/
def indexGroup (d : Desc) (b : BoundX) : Nat × Nat × Bool :=
  let n0 := ceilDiv b.ext.1 d.t0
  let ng := ceilDiv b.xext.1 d.t1
  let c0 := if d.order then b.tile / ng % n0 else b.tile % n0
  let g := if d.order then b.tile % ng else b.tile / n0 % ng
  (c0, g, decide (b.ext.1 = 0 ∨ b.ext.2.1 = 0 ∨ b.ext.2.2 = 0 ∨ b.xext.1 = 0 ∨ n0 * ng ≤ b.tile))

/-- The index entries that a gathered or scattered tile reads, as address and length: none for a wholly masked tile
(06 R137, R144). -/
def indexRun (d x : Desc) (b : BoundX) : List (Nat × Nat) :=
  let g := indexGroup d b
  if g.2.2 then []
  else [(x.bitAt (g.2.1 * d.t1) 0 0 / 8, 4 * min d.t1 (b.xext.1 - g.2.1 * d.t1))]

/-- The protection of what a stream word moves, given its extents: rows chosen by an index tensor are judged row by
row instead (06 R154). -/
def rangeCharges (s : State) (c : Core) (w : WordX) (d x : Desc) (b : BoundX) : List Charge :=
  let part := partOfCore s c
  match w.op with
  | 8 | 10 => tileCharges s part d b.ext b.tile 78
  | 9 | 11 =>
    bad (!(match part with
      | some q => (indexRun d x b).all fun r => grantedRun s q r.1 r.2
      | none => false)) 30 cPROT
  | 12 => tileCharges s part d b.ext b.tile 78 ++ tileCharges s part x b.xext b.tile 30
  | _ => []

/-- A larder slot named by LADDR, or a tracked ring (06 R140, R147). -/
def laddrCharges (d : Desc) (w : WordX) (ring : Bool) : List Charge :=
  if ring && d.rtrack then bad d.ringBad 78 cRING ++ bad (w.laddr != 0) 64 cRING
  else bad (decide (16384 < w.laddr + d.slotUnits)) 64 cRING

/-- The faults of a stream word that do not depend on what its WAIT may wait for. -/
def streamOwn (s : State) (c : Core) (pc : Nat) (loops : List LoopX) (w : WordX) : List Charge :=
  let moves := decide (8 ≤ w.op ∧ w.op ≤ 12)
  seqCharges s c pc loops w ++ bad (bits w.raw 112 3 != 0) 112 cILLEGAL ++ bad (bits w.raw 0 16 != 0) 0 cILLEGAL ++
    bad (moves && w.handle == 0x3FF) 78 cILLEGAL ++
    bad ((w.op == 9 || w.op == 11 || w.op == 12) && w.xhandle == 0x3FF) 30 cILLEGAL

/-- The faults of a stream word. -/
def streamCharges (s : State) (c : Core) (pc : Nat) (loops : List LoopX) (w : WordX) : List Charge :=
  let part := partOfCore s c
  let d := Desc.of (descOf s c w.handle)
  let x := Desc.of (descOf s c w.xhandle)
  let b : BoundX := ⟨streamTile (w.p s c) w.imm, extAtIssue s c d, extAtIssue s c x⟩
  streamOwn s c pc loops w ++
  (if w.op < 8 ∨ 12 < w.op then []
   else
    descCharges s part d 78 ++
    (match w.op with
      | 8 => bad (d.xpose && noTranspose d) 78 cILLEGAL ++ laddrCharges d w true
      | 9 => bad (d.kind != 0 || d.fmt.isInt) 78 cKIND ++ bad d.xpose 78 cXPOSE ++ laddrCharges d w true
      | 10 => writtenCharges d 78 ++ laddrCharges d w false
      | 11 => bad (d.kind != 0) 78 cKIND ++ bad d.xpose 78 cXPOSE ++ writtenCharges d 78 ++ laddrCharges d w false
      | _ => []) ++
    (match w.op with
      | 9 | 11 => descCharges s part x 30 ++ bad (x.kind != 1) 30 cKIND
      | 12 => descCharges s part x 30 ++ writtenCharges x 30 ++
          bad (!(d.kind == x.kind && d.fmtCode == x.fmtCode && d.xpose == x.xpose && d.t0 == x.t0 && d.t1 == x.t1 &&
            d.hastab == x.hastab)) 30 cKIND
      | _ => []) ++
    (if d.fromMem || ((w.op == 9 || w.op == 11 || w.op == 12) && x.fromMem) then [] else rangeCharges s c w d x b))

end Sys2Proof.Machine
end

