-- ==== Sys2Proof/Machine/Issue.lean ====
section
/-! DEFINITION. A stream at its word: reaching it, finding it sound or refusing it, making its parts in order and
closing it (05 R110, R113, R120 to R127, R133). -/

namespace Sys2Proof.Machine

/-! ### Flags (05 R120) -/

def flagGet (s : State) : FlagRef → Nat
  | .loc c i => (s.core c).flag i
  | .die d i => tget (fun _ => 0) s.dieFlags (d.val * 256 + i)
  | .dev i => tget (fun _ => 0) s.devFlags i

def flagPut (s : State) (f : FlagRef) (v : Nat) : State :=
  match f with
  | .loc c i => s.setCore c ((s.core c).setFlag i v)
  | .die d i => { s with dieFlags := tset (fun _ => 0) s.dieFlags (d.val * 256 + i) v }
  | .dev i => { s with devFlags := tset (fun _ => 0) s.devFlags i v }

/-- The partition and the unit that a saturating signal is logged under. -/
def flagUnit (s : State) : FlagRef → Option Part × UnitRef
  | .loc c _ => (partOfCore s c, .core c)
  | .die d i => (partRange.find? fun p => flagAssigned s (some p) (.die d i), .xce d)
  | .dev i => (partRange.find? fun p => flagAssigned s (some p) (.dev i), .hst)

/-- Scope and index of a flag. -/
def flagName : FlagRef → List Nat
  | .loc _ i => [0, i]
  | .die d i => [1, d.val, i]
  | .dev i => [2, i]

/-- A SIGNAL adds 1; one that finds 65,535 leaves it and writes a record. -/
def flagAdd (s : State) (f : FlagRef) : State :=
  let v := flagGet s f
  if v = 0xFFFF then
    let u := flagUnit s f
    record s .core .info u.1 u.2 .none 0 (.names 120 (flagName f))
  else flagPut s f (v + 1)

/-- A SIGNAL of a word: at once for a local flag, on its way to the flag's unit for any other. -/
def signalFlag (s : State) (c : Core) (id : Nat) : State :=
  match flagRef c id with
  | some (.loc c i) => flagAdd s (.loc c i)
  | some f => { s with signals := s.signals ++ [f] }
  | none => s

/-! ### Holds and stops -/

/-- Every stream holds before its next word: shedding stage 4 or a lost reference (17 R410, R417). -/
def deviceHeld (s : State) : Bool := fbit s .pwrStatusQuiesced 0 || fbit s .pwrStatusRefloss 0

/-- The stream waits no longer at a die or device flag. -/
def dropWaiter (s : State) (c : Core) (st : Stream) : State :=
  { s with waiters := s.waiters.filter fun w => !(w.2.1 == c && w.2.2 == st) }

/-- On reaching a word with a WAIT on a die or device flag, the stream's wait goes to the flag's unit (05 R120). The M word
behind a SEAL is not reached before the SEAL lets go (05 R127). -/
def reach (s : State) (c : Core) (st : Stream) : State :=
  let x := (s.core c).stream st
  if x.run ≠ .running ∨ (st = .m ∧ (s.core c).sealPhase ≠ .none) then s
  else
    match fetchWord s c st x.pc with
    | none => s
    | some w =>
      if !w.wait then s
      else
        match flagRef c w.wflag with
        | some (.loc _ _) => s
        | some f =>
          let s := { s with waiters := s.waiters ++ [(f, c, st)] }
          s.setCore c ((s.core c).setStream st { x with lastAnswer := flagGet s f })
        | none => s

/-- A stream stops at its word, unless the word has begun: then it stops at the next one (05 R133). -/
def StreamX.stopNext (x : StreamX) : StreamX :=
  if x.run = .running && !x.done.begun then { x with run := .stopped } else x

/-- The core counts in STOPPED of its partition unless it has reported its SEAL (10 R218). -/
def countStopped (s : State) (c : Core) : State :=
  match partOfCore s c with
  | none => s
  | some p =>
    if (s.core c).sealPhase = .reported then s else s.setPart p { s.part p with stopped := true }

/-- The WAIT of a word that does not issue does not decrement: what it took before its issue goes back (05 R120, R133). -/
def giveBack (s : State) (c : Core) (st : Stream) : State :=
  let x := (s.core c).stream st
  if x.run = .running && x.done.waited && !x.done.begun then
    match fetchWord s c st x.pc with
    | some w => match flagRef c w.wflag with
      | some f => flagPut s f (min (flagGet s f + 1) 0xFFFF)
      | none => s
    | none => s
  else s

/-- STATE becomes STOPPED and every stream stops at its next word (05 R133, R134). -/
def stopCore (s : State) (c : Core) : State :=
  let s := allStreams.foldl (fun s st => giveBack s c st) s
  let x := s.core c
  let s := s.setCore c { x with sm := x.sm.stopNext, sl := x.sl.stopNext, ss := x.ss.stopNext, sc := x.sc.stopNext }
  let s := allStreams.foldl (fun s st => if ((s.core c).stream st).run = .stopped then dropWaiter s c st else s) s
  countStopped (fset s .coreSeqStatusState c.val 3) c

/-- A word is refused: its stream stops with the address held, the core stops, the code is recorded (05 R133). A word whose
fetch met an uncorrectable error stops the core too, with a MEMORY record and CHECKSUM, and leaves CORE_ISSUE_ERR as it is
(07 R173). -/
def refuse (s : State) (c : Core) (st : Stream) (addr : Nat) (ch : Charge) : State :=
  let s := giveBack s c st
  let s := s.setCore c ((s.core c).setStream st { (s.core c).stream st with run := .stopped })
  let s := dropWaiter s c st
  if ch.2 = cFETCH then
    stopCore (memFault s (winAddr c (WordX.mk st addr 0).place.1) (.core c) (partOfCore s c) (.core c) []) c
  else
  let s := fset s .coreIssueErrCode c.val ch.2
  let s := fset s .coreIssueErrStream c.val (streamNum st)
  let s := fset s .coreIssueErrAddr c.val addr
  let s := fset s .coreIssueErrField c.val ch.1
  let s := record s .issue .stop (partOfCore s c) (.core c) (.addr addr) ch.2 (.names 133 [streamNum st, ch.1])
  stopCore s c

/-! ### Reaching the parts of a word -/

/-- The feed still has to enter a tracked slot before the word can be judged (06 R147). -/
def feedDue (s : State) (c : Core) (w : WordX) : Bool :=
  let x := s.core c
  let due := fun (h : Option Nat) (enters done : Bool) =>
    match h with
    | some h => enters && !done && (Desc.of (descOf s c h)).rtrack
    | none => false
  due (w.hA (w.p s c)) (entersA x w) x.sm.done.feedA || due (w.hB (w.p s c)) (entersB x w) x.sm.done.feedB

/-- What a command finds when it comes to make a part of the word at hand. -/
inductive AtWord where
  /-- the stream is at no word that it may begin or go on with -/
  | notThere
  /-- the word is refused -/
  | refusedAs (addr : Nat) (ch : Charge)
  /-- the word is sound, or under way -/
  | word (w : WordX)
  deriving DecidableEq, Repr

/-- The stream may begin a word: its core runs, nothing holds the device, and for M no SEAL holds it. -/
def mayBegin (s : State) (c : Core) (st : Stream) : Bool :=
  running s c && !deviceHeld s && (st != .m || (s.core c).sealPhase == .none)

/-- The WAIT is satisfied and the PFENCE rendezvous complete (05 R110). -/
def issued (w : WordX) (d : WordDone) : Bool := (!w.wait || d.waited) && (!w.pfence || d.fenced)

/-- The faults of the word's own fields. -/
def ownCharges (s : State) (c : Core) (st : Stream) (w : WordX) : List Charge :=
  let x := (s.core c).stream st
  if st = .m then mOwn s c x.pc x.loops w else streamOwn s c x.pc x.loops w

/-- Every fault of the word as it issues. -/
def allCharges (s : State) (c : Core) (st : Stream) (w : WordX) (slots : Bool) : List Charge :=
  let x := (s.core c).stream st
  if st = .m then mCharges s c x.pc x.loops w slots else streamCharges s c x.pc x.loops w

/-- The fetch of a word meets an uncorrectable error (07 R173). -/
def fetchBad (s : State) (c : Core) (w : WordX) : Bool :=
  s.sramErr.any fun e => e.2 != 1 && sramMeets (winAddr c w.place.1) w.place.2 e.1

/-- The word at hand of a stream, judged when it is new (05 R133): the faults of its own fields as the stream reaches
it, and those of its descriptors, bounds and slots as it issues, after its WAIT and its rendezvous. DEDUCED, log 21.
`slots` asks for the judgement of the larder slots too. -/
def atWord (s : State) (c : Core) (st : Stream) (slots : Bool) : AtWord :=
  let x := (s.core c).stream st
  if x.run ≠ .running then .notThere
  else
    match fetchWord s c st x.pc with
    | none => if mayBegin s c st then .refusedAs (wordAddr s c st x.pc) (0, cBADTARGET) else .notThere
    | some w =>
      if x.done.begun then .word w
      else if !mayBegin s c st then .notThere
      else if fetchBad s c w then .refusedAs w.addr (0, cFETCH)
      else if !issued w x.done then
        (if (ownCharges s c st w).isEmpty then .word w
         else match chooseCharge (allCharges s c st w false) with
          | some ch => .refusedAs w.addr ch
          | none => .word w)
      else
        let due := st == .m && feedDue s c w
        match chooseCharge (allCharges s c st w (slots && !due)) with
        | some ch => .refusedAs w.addr ch
        | none => if due && slots then .notThere else .word w

/-- Note a condition of the word's issue that has come true. The hold that it ended is over (05 R134). -/
def markReady (s : State) (c : Core) (st : Stream) (f : WordDone → WordDone) : State :=
  let x := (s.core c).stream st
  s.setCore c ((s.core c).setStream st { x with done := f x.done, halfCycles := 0 })

/-- VARY and MARK, in the word's issue cycle (05 R125, R126). -/
def issueMarks (s : State) (c : Core) (w : WordX) : State :=
  let p := partOfCore s c
  let s := setStatusIf s p .vary w.vary
  if !w.mark then s
  else
    let x := s.core c
    if x.marks.length < 16 then
      let r : MarkRec :=
        { time := timeNow s, addr := if w.st = .m then w.addr else (x.stream w.st).pc, imm := w.imm, stream := w.st
          lost := x.markLost
          step := match p with | some p => fget s .updStepStep p.val | none => 0 }
      s.setCore c { x with marks := x.marks ++ [r], markLost := false }
    else fbump (s.setCore c { x with markLost := true }) .coreMarkLostLost c.val 1

/-- The word issues, unless it has: what it reads of the parameters is taken, VARY is recorded, the MARK stamp is taken, and a
HALT word makes its SIGNAL (05 R110, R121, R125, R126). The control store and the descriptors that the word names are read (07 R173). -/
def issueWord (s : State) (c : Core) (w : WordX) : State :=
  if (w.done s c).begun then s
  else
    let d := w.take s c
    let runs := w.place :: (w.names (w.p s c)).map fun h => (descOff + 64 * (h % 1024), 64)
    let s := markReady (sramRead (issueMarks s c w) c runs) c w.st fun _ => d
    if w.op = 7 ∧ w.signal then signalFlag s c w.sflag else s

/-- Note that a part of the word has been made; with its first part the word issues. -/
def markDone (s : State) (c : Core) (st : Stream) (f : WordDone → WordDone) : State :=
  match fetchWord s c st ((s.core c).stream st).pc with
  | some w => markReady (issueWord s c w) c st f
  | none => markReady s c st fun d => f { d with begun := true }

/-- The answer of a command that makes a part of a word: a refusal if the word is not sound, nothing if the part is not
the stream's next, else its effect. -/
def atPart (s : State) (c : Core) (st : Stream) (ready : WordX → WordDone → Bool) (effect : WordX → State) :
    Host.Outcome State Fault Refusal :=
  match atWord s c st true with
  | .notThere => idle s
  | .refusedAs a ch => .next (refuse s c st a ch)
  | .word w => if ready w ((s.core c).stream st).done then .next (effect w) else idle s

/-- Every part of a control word but its sequencer operation has been made. -/
def partsMade (w : WordX) (d : WordDone) : Bool :=
  issued w d && (!w.clr || d.clr) && (w.mop == 0 || d.mxu) && (!w.drn || d.drn) && (w.vop == 0 || d.vec)

/-! ### The close of a word -/

/-- Operations of a core that have not completed, by their numbers (05 R127). -/
def opsOut (x : CoreX) : List Nat :=
  x.stores.map (·.id) ++ x.copies.map (·.id) ++ x.readouts.map (·.id) ++ x.taken.map (·.req.id) ++
    x.finished.map (·.req.id)

/-- Every operation the core issued has completed. -/
def allComplete (x : CoreX) : Bool := x.loads.isEmpty && (opsOut x).isEmpty && x.pipe.isEmpty

/-- STATE becomes HALTED once all four streams have halted and every operation has completed (05 R100). A core that halts
without a SEAL word counts in STOPPED (10 R218). -/
def settle (s : State) (c : Core) : State :=
  let x := s.core c
  if running s c && allStreams.all (fun st => (x.stream st).run == .halted) && allComplete x then
    let s := fset s .coreSeqStatusState c.val 2
    if x.sealPhase = .none then countStopped s c else s
  else s

/-- The stream goes on to `pc`, or halts; a stream of a core that no longer runs stops there. -/
def advance (s : State) (c : Core) (st : Stream) (pc : Nat) (loops : List LoopX) (halt : Bool) : State :=
  let x := (s.core c).stream st
  let run := if halt then .halted else if running s c then .running else .stopped
  let s := s.setCore c ((s.core c).setStream st
    { x with pc := if halt then x.pc else pc, loops := loops, done := {}, bound := none, halfCycles := 0, run := run })
  if halt then settle s c else reach s c st

/-- The word closes, issuing first if no part of it has been made: its own writes, its SIGNAL (a HALT word has made it), its SEAL,
and the stream goes on (05 R110). -/
def closeWord (s : State) (c : Core) (w : WordX) (now : Bool) (own : State → State) (pc : Nat) (loops : List LoopX)
    (halt : Bool) : State :=
  let s := own (issueWord s c w)
  let s := if w.signal && now && w.op != 7 then signalFlag s c w.sflag else s
  let s := if w.seal then s.setCore c { s.core c with sealPhase := .due } else s
  advance s c w.st pc loops halt

/-- A sequencer operation is made when every other part of its word has been. -/
def seqOp (s : State) (c : Core) (st : Stream) (op : Nat) (effect : WordX → StreamX → State) :
    Host.Outcome State Fault Refusal :=
  atPart s c st (fun w d => w.op == op && partsMade w d && !d.claimed && !d.bounds)
    (fun w => effect w ((s.core c).stream st))

/-- A word that carries no load, store, transfer or claim signals in the cycle after its issue, unless TILE_DONE does
(05 R121). -/
def signalsNow (w : WordX) : Bool := !w.tileDone

end Sys2Proof.Machine
end

