-- ==== Sys2Proof/Machine/Engines.lean ====
section
/-! DEFINITION. The load, store and transfer engines: the requests of a tile, their answers, and what completes a word
(05 R112, R121; 06 R137 to R147, R153, R453). -/

namespace Sys2Proof.Machine

/-! ### Requests and answers -/

/-- Requests being issued: the state, how many are on their way, what came at once. -/
structure Asked where
  s : State
  left : Nat
  got : List Host.Cell

/-- Ask for one line or granule. Memory dies and stacks queue the request, host memory is asked by device DMA, a local
window answers at once. -/
def askRead (c : Core) (e : Engine) (op : Nat) (p : Option Part) (r : Asked) (u : Nat × Nat) : Asked :=
  let q : MemReq := { core := c, engine := e, op := op, addr := u.1, act := .read u.2 }
  match placeOf u.1 with
  | .granary _ => { r with s := { r.s with grnQueue := r.s.grnQueue ++ [q] }, left := r.left + 1 }
  | .hbm _ => { r with s := { r.s with hbmQueue := r.s.hbmQueue ++ [q] }, left := r.left + 1 }
  | .host f off =>
    let d := dmaRead r.s f p off u.2 (.engine c e op)
    if d.2 then { r with s := d.1, left := r.left + 1 }
    else { r with s := d.1, got := tsetAll (fun _ => 0) r.got (cellsAt u.1 (List.replicate u.2 0)) }
  | _ =>
    let d := unitRead r.s (.core c) p u.1 u.2
    { r with s := d.1, got := tsetAll (fun _ => 0) r.got (cellsAt u.1 d.2.1) }

/-- Ask for byte runs, in their order, each cut into lines and granules. -/
def askReads (s : State) (c : Core) (e : Engine) (op : Nat) (runs : List (Nat × Nat)) : Asked :=
  let p := partOfCore s c
  runs.foldl (fun r u => (cutRun u.2 u.1 u.2).foldl (askRead c e op p) r) ⟨s, 0, []⟩

/-- The requests that a stack's controller has accepted: the oldest 2,048 (08 R182). -/
def accepted (s : State) (k : Stack) : List MemReq :=
  (s.hbmQueue.filter fun r => placeOf r.addr == .hbm k).take hbmAccepts

/-- Ask for one write within a line or granule. A controller of HBM acknowledges it as it accepts it (08 R182); host memory
takes it as a posted write. -/
def askWrite (c : Core) (e : Engine) (op : Nat) (p : Option Part) (r : State × Nat) (a : Nat) (b : Bytes) :
    State × Nat :=
  let q : MemReq := { core := c, engine := e, op := op, addr := a, act := .write (cellsAt a b) }
  match placeOf a with
  | .granary _ => ({ r.1 with grnQueue := r.1.grnQueue ++ [q] }, r.2 + 1)
  | .hbm k =>
    let ok := decide ((accepted r.1 k).length < hbmAccepts)
    ({ r.1 with hbmQueue := r.1.hbmQueue ++ [{ q with acked := ok }] }, if ok then r.2 else r.2 + 1)
  | .host f off => (dmaWrite r.1 f p off b, r.2)
  | _ => (unitWrite r.1 (.core c) p (cellsAt a b), r.2)

/-- Ask for byte writes, each cut into lines and granules; how many acknowledgements they await. -/
def askWrites (s : State) (c : Core) (e : Engine) (op : Nat) (ws : List (Nat × Bytes)) : State × Nat :=
  let p := partOfCore s c
  ws.foldl (fun r w => (cutRun w.2.length w.1 w.2.length).foldl
    (fun r u => askWrite c e op p r u.1 (slice w.2 (u.1 - w.1) u.2)) r) (s, 0)

/-- The byte that the newest queued write gives an address: a write that has been accepted, or stands before any that comes now
(07 R158, 08 R182). -/
def queuedByte (s : State) (a : Nat) : Option Byte :=
  (s.grnQueue ++ s.hbmQueue).foldl (fun r q =>
    match q.act with
    | .write cells => match cells.find? (fun e => e.1 == a) with
      | some e => some e.2
      | none => r
    | _ => r) none

/-- The byte a partly written element byte keeps: what a write on its way gives it, else what the memory stores, or zero on a
line that is not valid. -/
def rawByte (s : State) (a : Nat) : Byte :=
  match queuedByte s a with
  | some b => b
  | none =>
    match placeOf a with
    | .granary _ => if validOf s (lineOf a) = 0 then 0 else mget s a
    | _ => mget s a

/-- Bits from nowhere: the source of padding. -/
def zeroSrc : Nat := 2 ^ 60

/-- The value of a run of bits among the bytes that came. -/
def gotBits (got : List Host.Cell) (src n : Nat) : Nat :=
  if src = zeroSrc then 0 else readBits (tget (fun _ => 0) got) src n

/-- The writes of a COPY once its reads have come: whole bytes, with an odd nibble merged (06 R453). A run that begins within
the last byte of the run before it keeps what that one put there. -/
def copyRuns (rd : Nat → Byte) (got : List Host.Cell) : List (Nat × Nat × Nat) → List Host.Cell → List (Nat × Bytes)
  | [], _ => []
  | r :: rest, last =>
    let old := fun a => match last.find? (fun e => e.1 == a) with | some e => e.2 | none => rd a
    let cells := putBitsAt old r.2.1 r.2.2 (gotBits got r.1 r.2.2)
    (r.2.1 / 8, cells.map (·.2)) :: copyRuns rd got rest (cells.getLast?.toList)
def copyWrites (s : State) (plan : List (Nat × Nat × Nat)) (got : List Host.Cell) : List (Nat × Bytes) :=
  copyRuns (rawByte s) got plan []

/-! ### Tags (06 R153) -/

/-- Requests of at most one aligned 2 KiB block that a run of bytes takes. -/
def blocks2k : Nat → Nat → Nat → List (Nat × Nat)
  | 0, _, _ => []
  | f + 1, a, n => if n = 0 then [] else
    let k := min n (2048 - a % 2048)
    (a, k) :: blocks2k f (a + k) (n - k)

/-- The requests of byte runs, in their order. -/
def requestsOf (runs : List (Nat × Nat)) : List (Nat × Nat) := runs.flatMap fun r => blocks2k r.2 r.1 r.2
/-- The write requests of byte strings. -/
def writeRequests (ws : List (Nat × Bytes)) : List (Nat × Bytes) :=
  ws.flatMap fun w => (blocks2k w.2.length w.1 w.2.length).map fun r => (r.1, slice w.2 (r.1 - w.1) r.2)

/-- An answer for byte `a` reaches the first request in flight that awaits it; a request that awaits nothing more gives its
tag back. -/
def answerReq (l : List OpenReq) (a : Nat) : List OpenReq :=
  (mapFirst (fun r : OpenReq => decide (r.at' ≤ a ∧ a < r.at' + r.len ∧ 0 < r.left))
    (fun r => { r with left := r.left - 1 }) l).filter fun r => r.left != 0

/-- Read tags and write tags in use, and the tags and bytes of the drain queue. -/
def readTags (x : CoreX) : Nat := (x.loads.map (·.reqs.length)).sum
def writeTags (x : CoreX) : Nat := (x.stores.map (·.reqs.length)).sum
def drainReqs (x : CoreX) : List OpenReq := (x.finished ++ x.taken).flatMap (·.reqs)
/-- The drain queue is at its bounds, 64 tags and 32 KiB: writes of a readout wait for room in it. -/
def drainFull (x : CoreX) : Bool := (x.finished ++ x.taken).any fun t => !t.todo.isEmpty
/-- The drain queue has room for one more write of `n` bytes. -/
def drainRoom (x : CoreX) (n : Nat) : Bool :=
  decide ((drainReqs x).length < 64 ∧ ((drainReqs x).map (·.len)).sum + n ≤ 32768)
/-- A tile with more writes to send. -/
def Taken.ask (t : Taken) (ws : List (Nat × Bytes)) : Taken := { t with todo := t.todo ++ writeRequests ws }
/-- Every write of a tile has been sent and acknowledged. -/
def Taken.acked (t : Taken) : Bool := t.left == 0 && t.todo.isEmpty

/-- Change one operation of a core, by its number. -/
def CoreX.onLoad (x : CoreX) (op : Nat) (f : LoadOp → LoadOp) : CoreX :=
  { x with loads := mapFirst (fun m => m.id == op) f x.loads }
def CoreX.onStore (x : CoreX) (op : Nat) (f : MoveOp → MoveOp) : CoreX :=
  { x with stores := mapFirst (fun m => m.id == op) f x.stores }
def CoreX.onCopy (x : CoreX) (op : Nat) (f : MoveOp → MoveOp) : CoreX :=
  { x with copies := mapFirst (fun m => m.id == op) f x.copies }
def CoreX.onTaken (x : CoreX) (op : Nat) (f : Taken → Taken) : CoreX :=
  { x with taken := mapFirst (fun m => m.req.id == op) f x.taken
           finished := (mapFirst (fun m => m.req.id == op) f x.finished).filter fun t =>
             !t.acked || bit t.req.word 226 }

/-- The oldest load that has requests waiting sends its next one while a read tag is free. -/
def sendLoads (c : Core) : Nat → State → State
  | 0, s => s
  | n + 1, s =>
    let x := s.core c
    match x.loads.find? (fun m => !m.todo.isEmpty) with
    | some m =>
      match m.todo with
      | [] => s
      | u :: rest =>
        if 256 ≤ readTags x then s
        else
          let r := askReads s c .load m.id [u]
          let open' := if r.left = 0 then [] else [⟨u.1, u.2, r.left⟩]
          sendLoads c n (r.s.setCore c ((r.s.core c).onLoad m.id fun m =>
            { m with todo := rest, reqs := m.reqs ++ open', left := m.left + r.left
                     got := tsetAll (fun _ => 0) m.got r.got }))
    | none => s

/-- The oldest store that has writes waiting sends its next one while a write tag is free. -/
def sendStores (c : Core) : Nat → State → State
  | 0, s => s
  | n + 1, s =>
    let x := s.core c
    match x.stores.find? (fun m => !m.todo.isEmpty) with
    | some m =>
      match m.todo with
      | [] => s
      | u :: rest =>
        if 128 ≤ writeTags x then s
        else
          let r := askWrites s c .store m.id [u]
          let open' := if r.2 = 0 then [] else [⟨u.1, u.2.length, r.2⟩]
          sendStores c n (r.1.setCore c ((r.1.core c).onStore m.id fun m =>
            { m with todo := rest, reqs := m.reqs ++ open', left := m.left + r.2 }))
    | none => s

/-- The oldest tile read out that has writes waiting sends its next one while the drain queue has room. -/
def sendDrains (c : Core) : Nat → State → State
  | 0, s => s
  | n + 1, s =>
    let x := s.core c
    match (x.finished ++ x.taken).find? (fun t => !t.todo.isEmpty) with
    | some t =>
      match t.todo with
      | [] => s
      | u :: rest =>
        if !drainRoom x u.2.length then s
        else
          let r := askWrites s c .drain t.req.id [u]
          let open' := if r.2 = 0 then [] else [⟨u.1, u.2.length, r.2⟩]
          sendDrains c n (r.1.setCore c ((r.1.core c).onTaken t.req.id fun t =>
            { t with todo := rest, reqs := t.reqs ++ open', left := t.left + r.2 }))
    | none => s

/-- Whatever room the drain queue of a core has is used. -/
def drainsOn (s : State) (c : Core) : State :=
  let x := s.core c
  settle (sendDrains c (((x.finished ++ x.taken).map (·.todo.length)).sum) s) c

/-- Whatever the tags of a core allow is sent. -/
def sendMore (s : State) (c : Core) : State :=
  let x := s.core c
  let s := sendLoads c ((x.loads.map (·.todo.length)).sum) s
  sendStores c ((x.stores.map (·.todo.length)).sum) s

/-- A COPY whose reads have all come sends its writes. -/
def copyTurn (s : State) (c : Core) (op : Nat) : State :=
  match (s.core c).copies.find? (fun m => m.id == op) with
  | some m =>
    if m.reading && m.left == 0 then
      let w := askWrites s c .copy op (copyWrites s m.plan m.got)
      w.1.setCore c ((w.1.core c).onCopy op fun m => { m with reading := false, left := w.2, got := [] })
    else s
  | none => s

/-- The answer of a read request reaches its engine. -/
def answerRead (s : State) (c : Core) (e : Engine) (op a : Nat) (b : Bytes) : State :=
  let x := s.core c
  let cells := cellsAt a b
  match e with
  | .load => sendMore (s.setCore c (x.onLoad op fun m =>
      { m with left := m.left - 1, reqs := answerReq m.reqs a, got := tsetAll (fun _ => 0) m.got cells })) c
  | .copy => copyTurn (s.setCore c (x.onCopy op fun m =>
      { m with left := m.left - 1, got := tsetAll (fun _ => 0) m.got cells })) c op
  | _ => s

/-- The acknowledgement of a write request at `a` reaches its engine. -/
def answerWrite (s : State) (c : Core) (e : Engine) (op a : Nat) : State :=
  let x := s.core c
  match e with
  | .store => sendMore (s.setCore c (x.onStore op fun m =>
      { m with left := m.left - 1, reqs := answerReq m.reqs a })) c
  | .copy => s.setCore c (x.onCopy op fun m => { m with left := m.left - 1 })
  | .drain => drainsOn (s.setCore c (x.onTaken op fun m =>
      { m with left := m.left - 1, reqs := answerReq m.reqs a })) c
  | .load => s

/-- The first `n` requests that `mine` names are marked accepted. -/
def markAcked (mine : MemReq → Bool) : Nat → List MemReq → List MemReq
  | _, [] => []
  | 0, l => l
  | n + 1, r :: rest => if mine r then { r with acked := true } :: markAcked mine n rest else r :: markAcked mine (n + 1) rest

/-- A controller of HBM accepts what it has room for, and acknowledges the writes among it (08 R182). -/
def acceptStack (s : State) (k : Stack) : State :=
  let fresh := (accepted s k).filter fun r => !r.acked && (match r.act with | .write _ => true | _ => false)
  match fresh with
  | [] => s
  | _ =>
    let s := { s with hbmQueue := markAcked (fun r => placeOf r.addr == .hbm k) hbmAccepts s.hbmQueue }
    fresh.foldl (fun s r => answerWrite s r.core r.engine r.op r.addr) s
def acceptHbm (s : State) : State := (List.finRange 8).foldl acceptStack s

/-- A queued request is performed by its memory and answered; a write that HBM has accepted has been answered. -/
def serve (s : State) (r : MemReq) : State :=
  let p := partOfCore s r.core
  match r.act with
  | .read n =>
    let x := unitRead s (.core r.core) p r.addr n
    answerRead x.1 r.core r.engine r.op r.addr x.2.1
  | .held b => answerRead s r.core r.engine r.op r.addr b
  | .write cells =>
    let s := unitWrite s (.core r.core) p cells
    if r.acked then s else answerWrite s r.core r.engine r.op r.addr

/-! ### Words of the L, S and C streams -/

/-- What a word of L, S or C took at issue. -/
def boundAtIssue (s : State) (c : Core) (w : WordX) : BoundX :=
  { tile := streamTile (w.p s c) w.imm
    ext := extAtIssue s c (Desc.of (descOf s c w.handle))
    xext := extAtIssue s c (Desc.of (descOf s c w.xhandle)) }

/-- The write of one data row of a scattered tile: row `x1` from the codes of the slot row (06 R145). -/
def scatterRow (d : Desc) (e : Ext) (c0 x1 : Nat) (code : Nat → Nat) : Nat × Bytes :=
  rowWrite { d with t1 := 1 } (e.1, x1 + 1, 1) ⟨c0, x1, 0, false⟩ (fun j _ => code j) 0

/-- Why a gathered or scattered row takes no part. -/
inductive RowFate where
  | row (x1 : Nat) | masked | outOfRange | forbidden
  deriving DecidableEq, Repr

/-- The fates of a tile's rows: reading the index entries, then the bound, then the protection map, row by row
(06 R144, R154): the bytes that a GATHER reads with their table entries, or that a SCATTER writes with their padding. -/
def rowFates (s : State) (c : Core) (w : WordX) (d x : Desc) (b : BoundX) : State × List RowFate :=
  let p := partOfCore s c
  let g := indexGroup d b
  let n := min d.t1 (b.xext.1 - g.2.1 * d.t1)
  let r := memRead s (.core c) p (x.bitAt (g.2.1 * d.t1) 0 0 / 8) (4 * n)
  let t : Tile := ⟨g.1, 0, 0, false⟩
  (r.1, (span 0 d.t1).map fun i =>
    if n ≤ i then .masked
    else
      let e := field r.2.1 (4 * i) 4
      if e = 0xFFFF_FFFF then .masked
      else if b.ext.2.1 ≤ e then .outOfRange
      else
        let at' := d.bitAt (t.x0 d) e 0
        let a := at' / 8
        let lanes := ceilDiv (at' % 8 + t.n0 d b.ext * d.w) 8
        let len := if w.op = 11 then max lanes (scatterRow d b.ext g.1 e (fun _ => 0)).2.length else lanes
        let inside := match p with
          | some p => grantedRun s p a len &&
              (!(w.op == 9 && d.hastab) || grantedRun s p (d.entryAt (t.x0 d) e 0) (2 * ceilDiv (t.n0 d b.ext) 32))
          | none => false
        if inside then .row e else .forbidden)

/-- The records that the rows give rise to: BOUND once a word, PROTECT once a row. -/
def fateRecords (s : State) (c : Core) (w : WordX) (fs : List RowFate) : State :=
  let p := partOfCore s c
  let s := if fs.contains .outOfRange then record s .bound .info p (.core c) (.addr w.addr) 0 (.names 144 []) else s
  (List.zip (span 0 fs.length) fs).foldl (fun s f =>
    if f.2 = .forbidden then record s .protect .info p (.core c) (.addr w.addr) 0 (.names 154 [f.1]) else s) s

/-- The data rows of a tile, by slot row. -/
def fateRows (fs : List RowFate) : List (Nat × Nat) :=
  (List.zip (span 0 fs.length) fs).filterMap fun f => match f.2 with | .row x1 => some (f.1, x1) | _ => none

/-- The ring slot that a LOAD or GATHER fills next when its ring is tracked (06 R147). -/
def ringSlot (s : State) (c : Core) (h : Nat) (d : Desc) : Option (Nat × Nat) :=
  if d.rtrack then some (h, ((s.core c).ring h).fill) else none

/-- That slot is free of a load and of the full mark. -/
def slotFree (s : State) (c : Core) (h : Nat) (d : Desc) : Bool :=
  let r := (s.core c).ring h
  !d.rtrack || !(r.full.contains r.fill || r.claimed.contains r.fill)

/-- Take the slot. -/
def claimSlot (s : State) (c : Core) (h : Nat) (d : Desc) : State :=
  if d.rtrack then
    let r := (s.core c).ring h
    s.setCore c ((s.core c).setRing h { r with fill := (r.fill + 1) % d.rslots, claimed := r.claimed ++ [r.fill] })
  else s

/-- Start a load: its requests go out. -/
def startLoad (s : State) (c : Core) (w : WordX) (h : Nat) (d : Desc) (at' : Nat) (plan : List (Nat × Nat × Nat))
    (header : Bytes) : State :=
  let id := (s.core c).nextOp
  let ring := ringSlot s c h d
  let s := claimSlot s c h d
  let op : LoadOp :=
    { id := id, word := w.raw, plan := plan, header := header, headerAt := at', ring := ring, left := 0, reqs := []
      todo := requestsOf (srcBytes plan), got := [] }
  let x := s.core c
  sendMore (s.setCore c { x with loads := x.loads ++ [op], nextOp := id + 1 }) c

/-- The larder byte that a LOAD or GATHER fills. -/
def loadAt (s : State) (c : Core) (w : WordX) (d : Desc) : Nat :=
  if d.rtrack then d.slotAt ((s.core c).ring w.handle).fill else w.laddr * 128

/-- LOAD (06 R141, R146). -/
def doLoad (s : State) (c : Core) (w : WordX) (b : BoundX) : State :=
  let d := Desc.of (descOf s c w.handle)
  let t := tileOf d b.ext b.tile
  let at' := loadAt s c w d
  let header := if d.kind = 2 then slotHeader 0 0 0 b.tile 0 else t.header d b.ext b.tile
  startLoad s c w w.handle d at' (loadRuns d b.ext t b.tile at') header

/-- GATHER (06 R144). -/
def doGather (s : State) (c : Core) (w : WordX) (b : BoundX) : State :=
  let d := Desc.of (descOf s c w.handle)
  let x := Desc.of (descOf s c w.xhandle)
  let at' := loadAt s c w d
  let g := indexGroup d b
  if g.2.2 then startLoad s c w w.handle d at' [] (slotHeader 0 0 0 b.tile 0)
  else
    let f := rowFates s c w d x b
    let s := fateRecords f.1 c w f.2
    let t : Tile := ⟨g.1, 0, 0, false⟩
    let rows := fateRows f.2
    let mask := (rows.map fun r => 2 ^ r.1).sum
    let status := ofBool (f.2.contains .outOfRange) + 2 * ofBool (f.2.contains .forbidden)
    startLoad s c w w.handle d at' (rowRuns d at' (t.x0 d) (t.n0 d b.ext) 0 rows)
      (slotHeader mask (t.n0 d b.ext) 0 b.tile status)

/-- Start a store: its writes go out. -/
def startStore (s : State) (c : Core) (w : WordX) (ws : List (Nat × Bytes)) : State :=
  let id := (s.core c).nextOp
  let op : MoveOp :=
    { id := id, word := w.raw, left := 0, reqs := [], todo := writeRequests ws, reading := false, plan := [], got := [] }
  let x := s.core c
  sendMore (s.setCore c { x with stores := x.stores ++ [op], nextOp := id + 1 }) c

/-- What a store reads of a row of its slot: the `n` lanes (07 R173). -/
def rowReads (d : Desc) (at' n row : Nat) : List (Nat × Nat) :=
  [(larderOff + at' + 128 + row * d.rb, ceilDiv (n * d.w) 8)]

/-- A lane of a slot in the larder. -/
def larderCode (s : State) (c : Core) (d : Desc) (at' row k : Nat) : Nat :=
  readBits (fun a => mget s (winAddr c (larderOff + a))) ((at' + 128 + row * d.rb) * 8 + k * d.w) d.w

/-- STORE (06 R143): the lanes, with their padding. The entries of a block-scale table are not the store's: a conversion under
COMPUTED writes them (02 R37). -/
def doStore (s : State) (c : Core) (w : WordX) (b : BoundX) : State :=
  let d := Desc.of (descOf s c w.handle)
  let at' := w.laddr * 128
  if d.kind = 2 then
    startStore (sramRead s c [(larderOff + at' + 128, d.recordBytes)]) c w
      [(d.base + b.tile * d.recordBytes, localBytes s c (larderOff + at' + 128) d.recordBytes)]
  else
    let t := tileOf d b.ext b.tile
    let code := fun j i => if d.xpose then larderCode s c d at' j i else larderCode s c d at' i j
    let reads := (span 0 (t.rows d b.ext)).flatMap (rowReads d at' (t.ks d b.ext))
    startStore (sramRead s c reads) c w (tileWrites d b.ext t code)

/-- PROT is set in the header of a slot whose row is forbidden (06 R154). -/
def markProt (s : State) (c : Core) (at' : Nat) (fs : List RowFate) : State :=
  if fs.contains .forbidden then
    localPut s c (larderOff + at' + 24) [(mget s (winAddr c (larderOff + at' + 24))) ||| 2]
  else s

/-- SCATTER (06 R145). -/
def doScatter (s : State) (c : Core) (w : WordX) (b : BoundX) : State :=
  let d := Desc.of (descOf s c w.handle)
  let x := Desc.of (descOf s c w.xhandle)
  let at' := w.laddr * 128
  let g := indexGroup d b
  if g.2.2 then startStore s c w []
  else
    let f := rowFates s c w d x b
    let s := markProt (fateRecords f.1 c w f.2) c at' f.2
    let s := sramRead s c ((fateRows f.2).flatMap fun r => rowReads d at' ((⟨g.1, 0, 0, false⟩ : Tile).n0 d b.ext) r.1)
    startStore s c w ((fateRows f.2).map fun r => scatterRow d b.ext g.1 r.2 (larderCode s c d at' r.1))

/-- The runs of bits of a COPY (06 R453): lanes real in both tiles, the padding of the destination's last block and the
high nibble of an odd row, and the entries of the blocks copied. -/
def copyPlan (d x : Desc) (b : BoundX) : List (Nat × Nat × Nat) :=
  if d.kind = 2 then [((d.base + b.tile * d.recordBytes) * 8, (x.base + b.tile * x.recordBytes) * 8, d.recordBytes * 8)]
  else
    let t := tileOf d b.ext b.tile
    let u := tileOf x b.xext b.tile
    let n0 := min (t.n0 d b.ext) (u.n0 x b.xext)
    let n1 := min (t.n1 d b.ext) (u.n1 x b.xext)
    let ends := decide (u.x0 x + n0 = b.xext.1)
    let padTo := if ends then min (x.padTo b.xext) (u.x0 x + x.t0) - b.xext.1 else 0
    let pad := if ends && x.w == 4 && (n0 + padTo) % 2 == 1 then padTo + 1 else padTo
    (span 0 n1).flatMap fun i =>
      let src := d.bitAt (t.x0 d) (t.x1 d + i) t.c2
      let dst := x.bitAt (u.x0 x) (u.x1 x + i) u.c2
      (src, dst, n0 * d.w) ::
      ((if pad = 0 then [] else [(zeroSrc, dst + n0 * x.w, pad * x.w)]) ++
       (if d.hastab && n0 != 0 then (span 0 (ceilDiv n0 32)).map fun k =>
          (d.entryAt (t.x0 d + 32 * k) (t.x1 d + i) t.c2 * 8, x.entryAt (u.x0 x + 32 * k) (u.x1 x + i) u.c2 * 8, 16)
        else []))

/-- COPY (06 R453). -/
def doCopy (s : State) (c : Core) (w : WordX) (b : BoundX) : State :=
  let d := Desc.of (descOf s c w.handle)
  let x := Desc.of (descOf s c w.xhandle)
  let id := (s.core c).nextOp
  let plan := copyPlan d x b
  let runs := srcBytes (plan.filter fun r => r.1 != zeroSrc)
  let r := askReads s c .copy id runs
  let op : MoveOp :=
    { id := id, word := w.raw, left := r.left, reqs := [], todo := [], reading := true, plan := plan, got := r.got }
  let y := r.s.core c
  copyTurn (r.s.setCore c { y with copies := y.copies ++ [op], nextOp := id + 1 }) c id

/-- What a word of L, S or C does once its extents are known. -/
def moveEffect (s : State) (c : Core) (w : WordX) (b : BoundX) : State :=
  match w.op with
  | 8 => doLoad s c w b
  | 9 => doGather s c w b
  | 10 => doStore s c w b
  | 11 => doScatter s c w b
  | _ => doCopy s c w b

/-- A word of L, S or C that moves a tile. -/
def WordX.moves (w : WordX) : Bool := decide (w.st ≠ .m ∧ 8 ≤ w.op ∧ w.op ≤ 12)

/-- The word needs bound words from memory (06 R139). -/
def needsBounds (s : State) (c : Core) (w : WordX) : Bool :=
  (Desc.of (descOf s c w.handle)).fromMem ||
    ((w.op == 9 || w.op == 11 || w.op == 12) && (Desc.of (descOf s c w.xhandle)).fromMem)

/-- The engine has room (06 R147, R153): a tag, and for a tracked ring a free slot. -/
def engineRoom (s : State) (c : Core) (w : WordX) : Bool :=
  let x := s.core c
  match w.op with
  | 8 | 9 => x.loads.all (·.todo.isEmpty) && decide (readTags x < 256) &&
      slotFree s c w.handle (Desc.of (descOf s c w.handle))
  | 10 | 11 => x.stores.all (·.todo.isEmpty) && decide (writeTags x < 128)
  | _ => decide (x.copies.length < 64)

/-- A word of L, S or C issues and keeps what it took, while its bound words or index entries are read. -/
def holdMove (s : State) (c : Core) (w : WordX) (b : BoundX) : State :=
  let s := issueWord s c w
  s.setCore c ((s.core c).setStream w.st { (s.core c).stream w.st with bound := some b })

/-- The index entries of a GATHER or SCATTER: what the word reads of memory beside its tile. -/
def indexNeeds (s : State) (c : Core) (w : WordX) (b : BoundX) : List (Nat × Nat) :=
  if w.op = 9 ∨ w.op = 11 then indexRun (Desc.of (descOf s c w.handle)) (Desc.of (descOf s c w.xhandle)) b else []

/-- The word moves its tile and closes, once the index entries are at hand: those in host memory are brought by device
DMA first (13 R321). `held` is the state in which it waits for them. -/
def moveTile (s held : State) (c : Core) (w : WordX) (b : BoundX) : State :=
  let x := (s.core c).stream w.st
  let runs := indexNeeds s c w b
  match stageHost held (partOfCore s c) .event runs with
  | some t => t
  | none => closeWord (unstage (moveEffect s c w b) runs) c w false id (x.pc + 1) x.loops false

/-- A moving word: it issues and moves its tile at once, or reads its bound words and index entries first. -/
def moveOp (s : State) (c : Core) (st : Stream) (op : Nat) : Host.Outcome State Fault Refusal :=
  atPart s c st (fun w d => w.op == op && issued w d && !d.bounds && engineRoom s c w) fun w =>
    let b := (((s.core c).stream st).bound).getD (boundAtIssue s c w)
    if needsBounds s c w then markDone (holdMove s c w b) c st fun d => { d with bounds := true }
    else moveTile s (holdMove s c w b) c w b

/-- LOAD: a tile into the larder. -/
def execLoad (c : Core) (s : State) : Host.Outcome State Fault Refusal := moveOp s c .l 8

/-- GATHER: rows chosen by an index tensor into the larder. -/
def execGather (c : Core) (s : State) : Host.Outcome State Fault Refusal := moveOp s c .l 9

/-- STORE: a larder slot into a tile. -/
def execStore (c : Core) (s : State) : Host.Outcome State Fault Refusal := moveOp s c .s 10

/-- SCATTER: larder rows into rows chosen by an index tensor. -/
def execScatter (c : Core) (s : State) : Host.Outcome State Fault Refusal := moveOp s c .s 11

/-- COPY: a tile into a tile. -/
def execCopy (c : Core) (s : State) : Host.Outcome State Fault Refusal := moveOp s c .c 12

/-- The three bound words of a descriptor (06 R139): the extents, or none when they cannot be read. -/
def readBounds (s : State) (c : Core) (d : Desc) (e : Ext) : State × Option Ext :=
  if !d.fromMem then (s, some e)
  else
    let p := partOfCore s c
    if !(match p with | some q => grantedRun s q d.baddr 12 | none => false) then (s, none)
    else
      let r := memRead s (.core c) p d.baddr 12
      (r.1, if r.2.2 then none else some (extWithWords d e r.2.1))

/-- The word has an XHANDLE descriptor. -/
def WordX.usesX (w : WordX) : Bool := w.op == 9 || w.op == 11 || w.op == 12

/-- The bound words that a descriptor has in memory, where the partition reaches them. -/
def boundRun (s : State) (c : Core) (d : Desc) : List (Nat × Nat) :=
  if d.fromMem && (match partOfCore s c with | some q => grantedRun s q d.baddr 12 | none => false) then [(d.baddr, 12)]
  else []

/-- The bound words of a moving word, in memory. -/
def boundNeeds (s : State) (c : Core) (w : WordX) : List (Nat × Nat) :=
  boundRun s c (Desc.of (descOf s c w.handle)) ++ (if w.usesX then boundRun s c (Desc.of (descOf s c w.xhandle)) else [])

/-- The bound words are read: a word that cannot have them, or whose range is not the partition's, is refused; any other
moves its tile. `held` is the state in which it waits for index entries. -/
def boundsKnown (s held : State) (c : Core) (w : WordX) (b : BoundX) : State :=
  let d := Desc.of (descOf s c w.handle)
  let y := Desc.of (descOf s c w.xhandle)
  let r := readBounds s c d b.ext
  match r.2 with
  | none => refuse r.1 c w.st w.addr (78, cBOUNDRD)
  | some e =>
    let q := if w.usesX then readBounds r.1 c y b.xext else (r.1, some b.xext)
    match q.2 with
    | none => refuse q.1 c w.st w.addr (30, cBOUNDRD)
    | some f =>
      let b := { b with ext := e, xext := f }
      match chooseCharge (rangeCharges q.1 c w d y b) with
      | some ch => refuse q.1 c w.st w.addr ch
      | none => moveTile (unstage q.1 (boundNeeds s c w)) held c w b

/-- BOUND_WORDS_READ: the extents are there; the word's range is judged, and it moves its tile. Words in host memory are
brought by device DMA first (13 R321). -/
def execBoundWordsRead (c : Core) (st : Stream) (s : State) : Host.Outcome State Fault Refusal :=
  let x := (s.core c).stream st
  match x.bound, fetchWord s c st x.pc with
  | some b, some w =>
    if !x.done.bounds then idle s
    else
      match stageHost s (partOfCore s c) .event (boundNeeds s c w) with
      | some t => .next t
      | none => .next (boundsKnown s s c w b)
  | _, _ => idle s

/-! ### Completion (05 R121, 06 R141, R147) -/

/-- The signal of a completed word. -/
def signalOf (s : State) (c : Core) (st : Stream) (raw : Nat) : State :=
  let w : WordX := ⟨st, 0, raw⟩
  if w.signal then signalFlag s c w.sflag else s

/-- The data of a load goes into the larder, run by run. -/
def placeRun (c : Core) (got : List Host.Cell) (s : State) (r : Nat × Nat × Nat) : State :=
  let v := readBits (tget (fun _ => 0) got) r.1 r.2.2
  let cells := putBitsAt (fun a => mget s (winAddr c (larderOff + a))) r.2.1 r.2.2 v
  mput s (cells.map fun e => (winAddr c (larderOff + e.1), e.2))

/-- The errors of the larder that are left once a load has landed: those of words that its runs of bits rewrite wholly are gone,
and so are the correctable ones of words in which a run was merged (07 R173). -/
def landErr (c : Core) (plan : List (Nat × Nat × Nat)) (l : List (Nat × Nat)) : List (Nat × Nat) :=
  match l with
  | [] => []
  | l => l.filter fun e =>
    let in' := fun k => plan.any fun r =>
      decide (8 * winAddr c larderOff + r.2.1 ≤ 32 * e.1 + k ∧ 32 * e.1 + k < 8 * winAddr c larderOff + r.2.1 + r.2.2)
    !((span 0 32).all in' || (e.2 == 1 && (span 0 32).any in'))

/-- LOAD_LAND: every byte has landed; the header follows, sets the mark of a tracked slot and completes the word. -/
def execLoadLand (c : Core) (op : Nat) (s : State) : Host.Outcome State Fault Refusal :=
  match (s.core c).loads.find? (fun m => m.id == op) with
  | none => idle s
  | some m =>
    if m.left ≠ 0 ∨ m.todo ≠ [] then idle s
    else
      let s := m.plan.foldl (placeRun c m.got) s
      let s := { s with sramErr := landErr c m.plan s.sramErr }
      let s := localPut s c (larderOff + m.headerAt) m.header
      let x := s.core c
      let x := { x with loads := dropFirst (fun m => m.id == op) x.loads }
      let x := match m.ring with
        | some (h, i) =>
          let r := x.ring h
          x.setRing h { r with claimed := dropFirst (· == i) r.claimed, full := r.full ++ [i] }
        | none => x
      .next (settle (signalOf (s.setCore c x) c .l m.word) c)

/-- STORE_ACK: every write has been acknowledged. -/
def execStoreAck (c : Core) (op : Nat) (s : State) : Host.Outcome State Fault Refusal :=
  match (s.core c).stores.find? (fun m => m.id == op) with
  | none => idle s
  | some m =>
    if m.left ≠ 0 ∨ m.todo ≠ [] then idle s
    else
      let x := s.core c
      let s := s.setCore c { x with stores := dropFirst (fun m => m.id == op) x.stores }
      .next (settle (signalOf s c .s m.word) c)

/-- COPY_COMPLETE: the transfer is complete at its destination. -/
def execCopyComplete (c : Core) (op : Nat) (s : State) : Host.Outcome State Fault Refusal :=
  match (s.core c).copies.find? (fun m => m.id == op) with
  | none => idle s
  | some m =>
    if m.reading || m.left ≠ 0 then idle s
    else
      let x := s.core c
      let s := s.setCore c { x with copies := dropFirst (fun m => m.id == op) x.copies }
      .next (settle (signalOf s c .c m.word) c)

end Sys2Proof.Machine
end

