-- ==== Sys2Proof/Machine/Matrix.lean ====
section
/-! DEFINITION. The matrix unit: clearing a bank, the products of an MMA word and how they reach the long registers,
LIFT, SPILL and RESTORE words (03, 04 R75 to R80, 05 R104, R105, 06 R142, R146). -/

namespace Sys2Proof.Machine

/-! ### Banks -/

/-- The word's bank, or with a chain both banks, is held by a readout that has not been taken (04 R96). -/
def bankHeld (x : CoreX) (b : Fin 2) (chain : Bool) : Bool :=
  x.readouts.any fun r => r.chain || chain || r.bank == b

/-- Terms of the bank are still in the matrix pipeline. -/
def bankInPipe (x : CoreX) (b : Fin 2) (chain : Bool) : Bool :=
  x.pipe.any fun t => t.chain || chain || t.bank == b

/-- Every register of a bank at zero (03 R55), and no operands that its next readout would scale by (04 R88); its cursors
stay. A bank that is half of a chain is cleared by `clearBoth`, so chained registers left from before hold nothing. -/
def CoreX.clearBank (x : CoreX) (b : Fin 2) : CoreX :=
  let x := { x with crib := tdrop (fun k => k % 2 == b.val) x.crib, chain := [] }
  x.setBank b { x.bank b with
    kind := .empty, windows := [], blockPos := 0, intPair := false, chanA := 0, chanB := 0 }

/-- Both banks of a chain. -/
def CoreX.clearBoth (x : CoreX) : CoreX := (x.clearBank 0).clearBank 1

/-- The clear of a word (03 R55, R451). -/
def CoreX.clearFor (x : CoreX) (w : WordX) : CoreX :=
  if (w.mop == 1 && w.isF64) || x.bank0.kind == .chain || x.bank1.kind == .chain then x.clearBoth else x.clearBank w.bank

/-- The word takes both banks. -/
def takesBoth (x : CoreX) (w : WordX) : Bool := (w.mop == 1 && w.isF64) || x.isChain w.bank

/-! ### Room at the XCE for a lift (09 R198, R199) -/

def grpServe (s : State) (g : Group) : Die := ⟨fget s .xceGroupServe g.val % 4, Nat.mod_lt _ (by decide)⟩
def grpInst (s : State) (g : Group) : Nat := fget s .xceCstatInst g.val
def grpState (s : State) (g : Group) : Nat := fget s .xceCstatState g.val
def groupRange : List Group := List.finRange 16

/-- An entry is active on this device. -/
def grpActive (s : State) (g : Group) : Bool := grpState s g == 1 || grpState s g == 2

/-- The operations: REDUCE_SCATTER and ALL_REDUCE reduce. -/
def CollEntry.reduces (e : CollEntry) : Bool := e.op == 0 || e.op == 2

/-- The block and lane of a lifted element, by its place in the tile. -/
def liftBlock (d0 d1 x0 x1 x2 : Nat) : Nat := (x2 * d1 + x1) * ceilDiv d0 32 + x0 / 32

/-- The blocks that a tile covers. -/
def tileBlocks (cdesc : Nat) (ext : Ext) (tile : Nat) : List Nat :=
  let d := Desc.of cdesc
  let t := tileOf d ext tile
  (span 0 (t.n1 d ext)).flatMap fun k => (span 0 (ceilDiv (t.n0 d ext) 32)).map fun j =>
    liftBlock ext.1 ext.2.1 (t.x0 d + 32 * j) (t.x1 d + k) t.c2

/-- Accumulators in use at a serving die. -/
def accInUse (s : State) (d : Die) : Nat :=
  (groupRange.map fun g => if grpServe s g = d then (s.group g).acc.length else 0).sum

/-- The group that an XTAG names. -/
def tagGroup (xtag : Nat) : Group := ⟨xtag % 16, Nat.mod_lt _ (by decide)⟩

/-- The accumulators that a lifted tile would open: those of its blocks that have none, when the collective that it names is
active, reduces and has not stopped. -/
def accNeed (s : State) (xtag cdesc : Nat) (ext : Ext) (tile : Nat) : Nat :=
  let g := tagGroup xtag
  let x := s.group g
  match x.entry with
  | some e =>
    if grpActive s g && grpInst s g == xtag / 16 && e.reduces && e.contrib != 0 && !x.stopped then
      ((tileBlocks cdesc ext tile).filter fun b => decide (b < e.count) && !(x.acc.any fun a => a.1 == b)).length
    else 0
  | none => 0

/-- The XCE has no room for the lift of a readout: the queue of lifted tiles of the core's die is full, or no accumulator of the
serving XCE is free for it and the tiles that queue before it (09 R199). -/
def liftFull (s : State) (c : Core) (r : Readout) : Bool :=
  let q := tget (fun _ => []) s.lifts (dieOf c).val
  let xtag := bits r.word 176 16
  let need := accNeed s xtag r.cdesc r.ext (bits r.pval 32 32)
  decide (8 ≤ q.length) ||
    (decide (need ≠ 0) && decide (4096 < accInUse s (grpServe s (tagGroup xtag)) + need +
      ((q.filter fun l => grpServe s (tagGroup l.xtag) == grpServe s (tagGroup xtag)).map fun l =>
        accNeed s l.xtag l.cdesc.toNat l.ext l.tile).sum))

/-- A readout of the core waits at a bound: the epilogue holds its rows for want of drain tags or room in the drain queue,
or a LIFT waits for its XCE (06 R153, 09 R199). -/
def readoutStuck (s : State) (c : Core) : Bool :=
  let x := s.core c
  drainFull x || (match x.readouts with | r :: _ => r.kind == .lift && liftFull s c r | [] => false)

/-- The M stream stalls at a word that needs a held bank; a readout that waits at a bound makes it SLIP (06 R153, 09 R199). -/
def stallSlip (s : State) (c : Core) : State := setStatusIf s (partOfCore s c) .slip (readoutStuck s c)

/-- A matrix part that takes a bank: it waits for the readouts that hold the bank, and where it needs the bank at rest for
the insertions into it (04 R96). -/
def bankPart (s : State) (c : Core) (rest : Bool) (ready : WordX → WordDone → Bool) (both : WordX → Bool)
    (effect : WordX → State) : Host.Outcome State Fault Refusal :=
  let x := s.core c
  atPart s c .m (fun w d => ready w d && !(rest && bankInPipe x w.bank (both w))) fun w =>
    if bankHeld x w.bank (both w) then stallSlip s c else effect w

/-- CLR: the bank is cleared before any insertion of the word. -/
def execClr (c : Core) (s : State) : Host.Outcome State Fault Refusal :=
  let x := s.core c
  bankPart s c true (fun w d => w.clr && issued w d && !d.clr) (takesBoth x)
    fun w => markDone (s.setCore c (x.clearFor w)) c .m fun d => { d with clr := true }

/-! ### Products -/

/-- What a position multiplies: two finite or special operand values. -/
def productOf (a b : XVal) : XVal := XVal.mul a b

/-- The lane that a special product brings (03 R66). -/
def specialOf : XVal → Option Lane
  | .nan => some .nan
  | .inf n => some (if n then .ninf else .pinf)
  | .fin _ _ _ => none

/-- The weight of bit 0 of the level-1 window of a pair, or none for a pair that bypasses it (03 R58). -/
def windowWeight (a b : Fmt) : Option Int :=
  match a, b with
  | .f8e, .f8e => some (-18)
  | .f8w, .f8w => some (-32)
  | .f16, .f16 => some (-48)
  | .bf16, _ => none
  | .f32, _ => none
  | .f64, _ => none
  | .f8e, _ => some (-25)
  | .f8w, _ => some (-25)
  | _, _ => some 0

/-- The operand value of an element without its block scale: the zero point is subtracted when the word says so
(04 R80). -/
def operandRaw (s : State) (c : Core) (w : WordX) (x : SlotX) (rd : Nat → Byte) (r k : Nat) : XVal :=
  let v := x.d.fmt.raw (x.code rd r k)
  if w.zpe && x.d.fmt.isInt then
    match v with
    | .fin m _ _ => .fin (m - sext 8 (scaleZ (scaleReg s c (x.d.sbase + x.ch0 + r).toNat))) 0 false
    | v => v
  else v

/-- The rows of a slot that are real. -/
def SlotX.realRows (x : SlotX) : List Nat := (span 0 64).filter fun r => x.rowReal r

/-- What an MMA word feeds: its slots, the values by row and index, and the multipliers that form wrong products of it. -/
structure Feed where
  w : WordX
  a : SlotX
  b : SlotX
  rd : Nat → Byte
  va : Nat → Nat → XVal
  vb : Nat → Nat → XVal
  wrong : List MulFault := []

/-- The feed of a word. -/
def feedOf (s : State) (c : Core) (w : WordX) (a b : SlotX) (wrong : List MulFault := []) : Feed :=
  let rd := fun o => mget s (winAddr c (larderOff + o))
  ⟨w, a, b, rd, fun r k => operandRaw s c w a rd r k, fun r k => operandRaw s c w b rd r k, wrong⟩

/-- Index `t` of the word forms products (06 R142). -/
def Feed.real (f : Feed) (t : Nat) : Bool := decide (f.a.cur + t < f.a.kv ∧ f.b.cur + t < f.b.kv)

/-- The positions that form products. -/
def Feed.positions (f : Feed) : List (Nat × Nat) :=
  f.a.realRows.flatMap fun i => f.b.realRows.map fun j => (i, j)

/-- The product of position (i, j) at index `t` of the word, without block scales. -/
def Feed.product (f : Feed) (t : Nat) (p : Nat × Nat) : XVal :=
  productOf (f.va p.1 (f.a.cur + t)) (f.vb p.2 (f.b.cur + t))

/-- How far a product of the word lies off as its multipliers form it, in units of its bit 0; for direct insertion, the
product of two slices (04 R77). -/
def Feed.off (f : Feed) (pos t : Nat) (i j : Nat := 0) : Int :=
  ((f.wrong.filter fun m => m.pos == pos && m.index == t && m.sliceA == i && m.sliceB == j).map (·.off)).sum

/-- A level-1 window (03 R58): the position, the sum of its products as formed, and the sum that the residue path forms
from the operands (03 R71). -/
abbrev Window := Nat × Int × Int

/-- Add a product to the window of a position, opening it if need be: the product as formed, and as it should be. -/
def windowAdd : List Window → Nat → Int → Int → List Window
  | [], k, v, u => [(k, v, u)]
  | (k', v', u') :: r, k, v, u =>
    if k' < k then (k', v', u') :: windowAdd r k v u
    else if k' = k then (k, v' + v, u' + u) :: r
    else (k, v, u) :: (k', v', u') :: r

/-- A term as formed, and as the residue path has it (03 R71). -/
def formedTerm (t predicted : Int) (b : Nat) : TermKind := if t = predicted then .add t b else .stray t predicted b

/-- The open block of a bank closes at index `t`: each window is inserted under its block scales, or brings NaN when a
scale is 0xFF (03 R58, R59). -/
def closeBlock (f : Feed) (weight : Int) (t : Nat) (windows : List Window) : List Term :=
  windows.map fun e =>
    let sa := f.a.scaleAt f.rd (e.1 / 64) (f.a.cur + t)
    let sb := f.b.scaleAt f.rd (e.1 % 64) (f.b.cur + t)
    let scaled := f.a.d.fmt.isBlock || f.a.d.fmt.isF8 || f.b.d.fmt.isBlock || f.b.d.fmt.isF8
    if scaled && (sa == 0xFF || sb == 0xFF) then ⟨false, f.w.bank, e.1, .special .nan⟩
    else
      let sum := if scaled then sa + sb else 254
      ⟨false, f.w.bank, e.1, formedTerm e.2.1 e.2.2 ((304 : Int) + weight - 254 + sum).toNat⟩

/-- The block of the level-1 windows closes at index `t` of the word (05 R105): after 32 indices, with the storage block of an
operand that carries a scale table (03 R58; a block opened inside a storage block ends with it: DEDUCED, log 141), and where
its contraction or the word ends. -/
def Feed.closes (f : Feed) (t blockPos : Nat) : Bool :=
  decide (blockPos + 1 = 32) ||
    (f.a.d.hastab && (f.a.cur + t + 1) % 32 == 0) || (f.b.d.hastab && (f.b.cur + t + 1) % 32 == 0) || decide (f.a.cur + t + 1 = f.a.d.kw) || decide (f.b.cur + t + 1 = f.b.d.kw) ||
    decide (f.a.cur + t + 1 = f.a.kv) || decide (f.b.cur + t + 1 = f.b.kv) || (f.w.drn && decide (t + 1 = f.w.kcnt))

/-- The windows, the place in the block and the terms after index `t`. -/
def levelStep (f : Feed) (weight : Int) (r : List Window × Nat × List Term) (t : Nat) :
    List Window × Nat × List Term :=
  let x := if f.real t then
      f.positions.foldl (fun (x : List Window × List Term) p =>
        let pos := p.1 * 64 + p.2
        match f.product t p with
        | .fin m e _ => (windowAdd x.1 pos (alignTo (m + f.off pos t) e weight) (alignTo m e weight), x.2)
        | v => (windowAdd x.1 pos 0 0, x.2 ++ [⟨false, f.w.bank, pos, .special (laneOf v)⟩])) (r.1, [])
    else (r.1, [])
  if f.closes t r.2.1 then ([], 0, r.2.2 ++ x.2 ++ closeBlock f weight t x.1)
  else (x.1, r.2.1 + 1, r.2.2 ++ x.2)

/-- The 8-bit slices of a magnitude. -/
def slicesOf : Nat → Nat → List Nat
  | 0, _ => []
  | n + 1, m => m % 256 :: slicesOf n (m / 256)

/-- The significand and the exponent of bit 0 of a finite operand. -/
def sigOf : XVal → Int × Int
  | .fin m e _ => (m, e)
  | _ => (0, 0)

/-- The slice products of one product (03 R60): `n` slices per operand, bit 0 of the register at `2^low`; `off` is how far
the product of two slices lies off as formed. -/
def sliceTerms (chain : Bool) (bank : Fin 2) (pos n : Nat) (low : Int) (off : Nat → Nat → Int) (a b : XVal) : List Term :=
  let x := sigOf a
  let y := sigOf b
  let neg := decide ((x.1 < 0) ≠ (y.1 < 0))
  (List.zip (span 0 n) (slicesOf n x.1.natAbs)).flatMap fun p =>
    (List.zip (span 0 n) (slicesOf n y.1.natAbs)).map fun q =>
      let t : Int := if neg then -(p.2 * q.2 : Nat) else (p.2 * q.2 : Nat)
      let formed := t + off p.1 q.1
      ⟨chain, bank, pos, formedTerm formed t
        (if formed = 0 ∧ t = 0 then 0 else (x.2 + y.2 + 8 * (p.1 + q.1 : Nat) - low).toNat)⟩

/-- Direct insertion of the products at index `t` (03 R60, R61). -/
def directTerms (f : Feed) (n : Nat) (t : Nat) : List Term :=
  if !f.real t then []
  else
    f.positions.flatMap fun p =>
      let chain := f.w.isF64
      if chain && (decide (32 ≤ p.1) || decide (32 ≤ p.2)) then []
      else
        let pos := if chain then p.1 * 32 + p.2 else p.1 * 64 + p.2
        match specialOf (f.product t p) with
        | some l => [⟨chain, f.w.bank, pos, .special l⟩]
        | none => sliceTerms chain f.w.bank pos n (if chain then -2154 else -304) (fun i j => f.off pos t i j) (f.va p.1 (f.a.cur + t))
            (f.vb p.2 (f.b.cur + t))

/-- A product of a COMPACT group shifted into its window, and whether a dropped bit was 1 (03 R62). -/
def shiftInto (emax : Int) (p : Int × Int) : Int × Bool :=
  let k := p.2 - emax + 140
  if 0 ≤ k then (p.1 * 2 ^ k.toNat, false)
  else
    let m := p.1.natAbs
    let q : Int := (m >>> (-k).toNat : Nat)
    (if p.1 < 0 then -q else q, m % 2 ^ (-k).toNat != 0)

/-- One COMPACT group of a position: its special products, then one term (03 R62). With the operands of each product comes how
far its significand product lies off as formed: the window value, and the residue formed from it (03 R71), take it in. -/
def compactGroup (bank : Fin 2) (pos : Nat) (ps : List ((XVal × XVal) × Int)) : List Term :=
  let specials := ps.filterMap fun p => specialOf (XVal.mul p.1.1 p.1.2)
  let fins := ps.filterMap fun p =>
    match specialOf (XVal.mul p.1.1 p.1.2) with
    | some _ => none
    | none =>
      let a := sigOf p.1.1
      let b := sigOf p.1.2
      let m := a.1 * b.1 + p.2
      if m = 0 then none else some (m, a.2 + b.2)
  let sp := specials.map fun l => (⟨false, bank, pos, .special l⟩ : Term)
  match fins with
  | [] => sp
  | p :: r =>
    let emax := r.foldl (fun m q => max m q.2) p.2
    let sh := fins.map (shiftInto emax)
    let sum := sh.foldl (fun (z : Int) q => z + q.1) 0
    let b := emax - 140 + 304
    let term : Term := if 0 ≤ b then ⟨false, bank, pos, .add sum b.toNat⟩
      else ⟨false, bank, pos, .add (sum / 2 ^ (-b).toNat) 0⟩
    sp ++ [term] ++ (if sh.any (·.2) then [⟨false, bank, pos, .chaff⟩] else [])

/-- The indices of a word in runs of `n` from its first index. -/
def groupsOf (n k : Nat) : List (List Nat) :=
  (span 0 (ceilDiv k n)).map fun g => span (g * n) (min n (k - g * n))

/-- The COMPACT groups of a word. -/
def compactTerms (f : Feed) : List Term :=
  (groupsOf 8 f.w.kcnt).flatMap fun g => f.positions.flatMap fun p =>
    compactGroup f.w.bank (p.1 * 64 + p.2)
      ((g.filter f.real).map fun t =>
        ((f.va p.1 (f.a.cur + t), f.vb p.2 (f.b.cur + t)), f.off (p.1 * 64 + p.2) t))

/-- An operand value under its block scale, for COMPAT_T2. -/
def scaledValue (x : SlotX) (rd : Nat → Byte) (v : XVal) (r k : Nat) : XVal :=
  if x.d.fmt.isF8 && x.d.hastab then underScale v (x.scaleAt rd r k) else v

/-- A finite product as its multipliers form it. -/
def formedProduct (off : Int) : XVal → XVal
  | .fin m e z => .fin (m + off) e (z && off == 0)
  | v => v

/-- The K-blocks of a COMPAT_T2 word (03 R64). -/
def t2Terms (f : Feed) : List Term :=
  (groupsOf 16 f.w.kcnt).flatMap fun g =>
    let ts := g.filter f.real
    if ts.isEmpty then []
    else
      f.positions.map fun p =>
        let ps := ts.map fun t =>
          formedProduct (f.off (p.1 * 64 + p.2) t)
            (XVal.mul (scaledValue f.a f.rd (f.va p.1 (f.a.cur + t)) p.1 (f.a.cur + t))
              (scaledValue f.b f.rd (f.vb p.2 (f.b.cur + t)) p.2 (f.b.cur + t)))
        ⟨false, f.w.bank, p.1 * 64 + p.2,
          .t2 (ps.foldl XVal.add (.fin 0 0 true)) (ps.all fun v => v.isZero && v.neg?)⟩

/-- Everything an MMA word sends down the pipeline, with the bank's windows and place in the block after it. -/
def mmaTerms (f : Feed) (windows : List Window) (blockPos : Nat) : List Window × Nat × List Term :=
  if f.w.acc = 2 then (windows, blockPos, t2Terms f)
  else
    match windowWeight f.a.d.fmt f.b.d.fmt with
    | some weight => (span 0 f.w.kcnt).foldl (levelStep f weight) (windows, blockPos, [])
    | none =>
      if f.w.acc = 1 then (windows, blockPos, compactTerms f)
      else
        let n := match f.a.d.fmt with | .bf16 => 1 | .f32 => 3 | _ => 7
        (windows, blockPos, (span 0 f.w.kcnt).flatMap (directTerms f n))

/-! ### The feed's release (06 R142, R147) -/

/-- The feed releases its slot of a ring. -/
def CoreX.releaseSlot (x : CoreX) (h : Nat) (d : Desc) : CoreX :=
  let r := x.ring h
  x.setRing h { r with feed := (r.feed + 1) % d.rslots, full := dropFirst (· == r.feed) r.full }

/-- The cursor after a word, releasing the slot after its last index or at a DRN. -/
def advanceFeed (x : CoreX) (y : SlotX) (k : Nat) (drn : Bool) : CoreX × Nat :=
  if drn || decide (y.d.kw ≤ y.cur + k) then (x.releaseSlot y.h y.d, 0) else (x, y.cur + k)

/-- The kind that an MMA word leaves its bank in (03 R451); a word whose rows or indices are all masked, so that it inserts
nothing, gives it too. DESIGN CHOICE, log 142. -/
def kindOfWord (w : WordX) : BankKind := if w.isF64 then .chain else if w.acc = 2 then .t2 else .ordinary

/-- The slices of an operand that its pair cuts it into (03 R60): none but slice 0 outside direct insertion. -/
def Feed.slices (f : Feed) : Nat :=
  if f.w.acc ≠ 0 then 1
  else match f.a.d.fmt with | .f32 => 3 | .f64 => 7 | _ => 1

/-- The faults of multipliers that form products of the word. -/
def Feed.faulty (f : Feed) : List MulFault :=
  let side := if f.w.isF64 then 32 else 64
  f.wrong.filter fun m => f.positions.contains (m.pos / side, m.pos % side) && decide (m.index < f.w.kcnt) &&
    f.real m.index && decide (m.sliceA < f.slices ∧ m.sliceB < f.slices)

/-- The mod-3 check of the products: a mismatch is CHECKSUM and a record that names core, position and multiplier (04 R77). -/
def multiplierCheck (s : State) (c : Core) (w : WordX) (l : List MulFault) : State :=
  let p := partOfCore s c
  (l.filter fun m => m.off % 3 != 0).foldl (fun s m =>
    setStatus (record s .core (if p.isSome then .step else .info) p (.core c) (.addr w.addr) 0
      (.names 77 [c.val, m.pos, m.mult.val])) p .checksum) s

/-- What the feed reads of a slot: its header and the rows it presents, with their table entries (07 R173). -/
def SlotX.reads (x : SlotX) (k : Nat) : List (Nat × Nat) :=
  (larderOff + x.base, 32) :: (span 0 (min 64 x.d.rw)).flatMap fun r =>
    if x.rowReal r then
      let n := min k (x.kv - x.cur)
      [(larderOff + x.base + 128 + r * x.d.rb + x.cur * x.d.w / 8, ceilDiv (n * x.d.w) 8),
       (larderOff + x.base + 128 + x.d.rw * x.d.rb + (r * x.d.rowBlocks + x.cur / 32) * 2,
        if x.d.hastab then 2 * ceilDiv (x.cur % 32 + n) 32 else 0)]
    else []

/-- The whole effect of an MMA word on its core. -/
def mmaEffect (s : State) (c : Core) (w : WordX) (ha hb : Nat) (faults : List MulFault) : State :=
  let x := s.core c
  let k := x.bank w.bank
  let a := feedSlot s c ha k.curA
  let b := feedSlot s c hb k.curB
  let feed := feedOf s c w a b faults
  let m := mmaTerms feed k.windows k.blockPos
  let fa := advanceFeed x a w.kcnt w.drn
  let fb := advanceFeed fa.1 b w.kcnt w.drn
  let x := fb.1
  let kind := kindOfWord w
  let k := { k with
    kind := kind, windows := m.1, blockPos := m.2.1, curA := fa.2, curB := fb.2, ringA := ha, ringB := hb
    chanA := a.d.sbase + a.ch0, chanB := b.d.sbase + b.ch0, intPair := w.isInt }
  let x := x.setBank w.bank k
  let x := if w.isF64 then x.setBank 1 { x.bank 1 with kind := .chain } else x
  let s := s.setCore c { x with pipe := x.pipe ++ m.2.2 }
  multiplierCheck (sramRead s c (a.reads w.kcnt ++ b.reads w.kcnt)) c w feed.faulty

/-- MMA: feed KCNT indices and advance the bank's cursor. -/
def execMma (run : MmaRun) (s : State) : Host.Outcome State Fault Refusal :=
  let c := run.core
  let x := s.core c
  bankPart s c false (fun w d => w.mop == 1 && issued w d && !d.mxu && (!w.clr || d.clr) && (w.hA (w.p s c)).isSome &&
      (w.hB (w.p s c)).isSome) (takesBoth x)
    fun w => markDone (mmaEffect s c w ((w.hA (w.p s c)).getD 0) ((w.hB (w.p s c)).getD 0) run.faults) c .m
      fun d => { d with mxu := true }

/-! ### Insertions and sweeps (03 R56, R57) -/

/-- INSERTION: the oldest term of the pipeline lands in its register. -/
def execInsertion (c : Core) (s : State) : Host.Outcome State Fault Refusal :=
  let x := s.core c
  match x.pipe with
  | [] => idle s
  | t :: rest =>
    let r := if t.chain then x.chainReg t.pos else x.reg t.bank t.pos
    if r.sweepDue then idle s
    else
      let y := r.land t.what
      let x := { x with pipe := rest }
      let x := if t.chain then x.setChainReg t.pos y.1 else x.setReg t.bank t.pos y.1
      let p := partOfCore s c
      .next (settle (y.2.foldl (fun s b => setStatus s p b) (s.setCore c x)) c)

/-- Sweep every register of a bank; of a chain, every chained register. -/
def CoreX.sweepBank (x : CoreX) (b : Fin 2) (chain : Bool) : CoreX :=
  if chain then { x with chain := tmap (fun _ => LongReg.chainZero) (fun _ r => r.sweep) x.chain }
  else { x with crib := tmap (fun _ => {}) (fun k r => if k % 2 = b.val then r.sweep else r) x.crib }

/-- SWEEP: the positions of a bank sweep together once the insertion count calls for it. -/
def execSweep (c : Core) (bank : Fin 2) (s : State) : Host.Outcome State Fault Refusal :=
  let x := s.core c
  let chain := x.isChain bank
  let due := if chain then x.chain.any (fun e => e.2.sweepDue)
    else x.crib.any fun e => e.1 % 2 == bank.val && e.2.sweepDue
  if due then .next (s.setCore c (x.sweepBank bank chain)) else idle s

/-! ### Readouts asked for by a word -/

/-- A block left open by a drain without its own MMA closes, and the feed releases slots that it had begun
(05 R105). -/
def closeForDrain (s : State) (c : Core) (w : WordX) : State :=
  let x := s.core c
  let k := x.bank w.bank
  let a := feedSlot s c k.ringA k.curA
  let b := feedSlot s c k.ringB k.curB
  let terms := match windowWeight a.d.fmt b.d.fmt with
    | some weight => closeBlock (feedOf s c w { a with cur := k.curA - 1 } { b with cur := k.curB - 1 }) weight 0 k.windows
    | none => []
  let x := if k.curA = 0 then x else x.releaseSlot k.ringA a.d
  let x := if k.curB = 0 then x else x.releaseSlot k.ringB b.d
  let x := x.setBank w.bank { k with windows := [], blockPos := 0, curA := 0, curB := 0 }
  s.setCore c { x with pipe := x.pipe ++ terms }

/-- The readout that a word asks for, under what the word took as it issued. Whether the tile is an INT tile, and the channels
that scale it, are those of the last MMA word into the bank since its clear; a bank that RESTORE has filled without one is
scaled by none. DESIGN CHOICE, log 143. -/
def askReadout (s : State) (c : Core) (w : WordX) (kind : ReadKind) : State :=
  let x := s.core c
  let p := w.p s c
  let k := x.bank w.bank
  let cd := w.cTaken s c
  let r : Readout :=
    { id := x.nextOp, kind := kind, bank := w.bank, chain := x.isChain w.bank, word := w.raw, row := w.addr, pval := p
      handle := (w.hC p).getD 0, cdesc := cd.1, ext := cd.2, bias := if kind = .drain then w.biasTaken s c else none
      chanA := k.chanA, chanB := k.chanB, intPair := k.intPair }
  s.setCore c { x with readouts := x.readouts ++ [r], nextOp := x.nextOp + 1 }

/-- DRN: the tile is complete; a readout to the epilogue follows. -/
def execDrn (c : Core) (s : State) : Host.Outcome State Fault Refusal :=
  atPart s c .m (fun w d => w.drn && issued w d && !d.drn && (!w.clr || d.clr) && (w.mop == 0 || d.mxu)) fun w =>
    let s := if w.mop == 0 then closeForDrain s c w else s
    markDone (askReadout s c w .drain) c .m fun d => { d with drn := true }

/-- The entry of the list that a LIFT names is the one after the active one (09 R199). -/
def liftEarly (s : State) (w : WordX) : Bool :=
  let g := w.xtag % 16
  fget s .xceCstatInst g + 1 == w.xtag / 16

/-- LIFT: readout of the bank to the XCE. One that names the next entry waits, with SLIP. -/
def execLift (c : Core) (s : State) : Host.Outcome State Fault Refusal :=
  match atWord s c .m true with
  | .notThere => idle s
  | .refusedAs a ch => .next (refuse s c .m a ch)
  | .word w =>
    let d := (s.core c).sm.done
    if w.mop == 2 && issued w d && !d.mxu then
      if liftEarly s w then .next (setStatus s (partOfCore s c) .slip)
      else .next (markDone (askReadout s c w .lift) c .m fun d => { d with mxu := true })
    else idle s

/-- SPILL: readout of the bank to the S engine as records. -/
def execSpill (c : Core) (s : State) : Host.Outcome State Fault Refusal :=
  atPart s c .m (fun w d => w.mop == 3 && issued w d && !d.mxu) fun w =>
    markDone (askReadout s c w .spill) c .m fun d => { d with mxu := true }

/-- The registers of restored records. -/
def restored (rs : List (Option LongReg)) : List (Nat × LongReg) :=
  List.zip (span 0 rs.length) (rs.map fun r => r.getD {})

/-- The effect of a RESTORE on its core (06 R146, 03 R451). Records of one bank, put into a bank of a chain that the word
does not clear, replace what this bank holds and leave the chained registers and the other bank's kind as they are: the spec
does not say what becomes of the chain. DESIGN CHOICE, log 115. -/
def restoreEffect (s : State) (c : Core) (w : WordX) (h : Nat) : State :=
  let d := Desc.of (descOf s c h)
  let rs := restored (restoreRecords s c h)
  let s := sramRead s c [(larderOff + (feedSlot s c h 0).base + 128, d.recordBytes)]
  let x := (s.core c).releaseSlot h d
  if d.fmtCode = 5 then
    let x := { x with chain := [] }
    let x := rs.foldl (fun x r => x.setChainReg r.1 r.2) x
    s.setCore c ((x.setBank 0 { x.bank 0 with kind := .chain }).setBank 1 { x.bank 1 with kind := .chain })
  else
    let x := { x with crib := tdrop (fun k => k % 2 == w.bank.val) x.crib }
    let x := rs.foldl (fun x r => x.setReg w.bank r.1 r.2) x
    let t2 := rs.any fun r => r.2.t2
    s.setCore c (x.setBank w.bank { x.bank w.bank with kind := if t2 then .t2 else .ordinary })

/-- RESTORE: records from the next slot of AH's ring into the bank. -/
def execRestore (c : Core) (s : State) : Host.Outcome State Fault Refusal :=
  let x := s.core c
  bankPart s c true (fun w d => w.mop == 4 && issued w d && !d.mxu && (!w.clr || d.clr) && (w.hA (w.p s c)).isSome)
    (fun w => (Desc.of (descOf s c ((w.hA (w.p s c)).getD 0))).fmtCode == 5 || x.isChain w.bank)
    fun w => markDone (restoreEffect s c w ((w.hA (w.p s c)).getD 0)) c .m fun d => { d with mxu := true }

end Sys2Proof.Machine
end

