-- ==== Sys2Proof/Machine/Drain.lean ====
section
/-! DEFINITION. Reading a bank out: the sweep, the residue check and the take; the epilogue; spilled records; the MSE
record and the shadow report; TILE_DONE (04 R88 to R98, 05 R128, 06 R146, 10 R240, R241). -/

namespace Sys2Proof.Machine

/-! ### The take (04 R95, R98) -/

/-- Positions of a bank, or of a chain. -/
def positionCount (chain : Bool) : Nat := if chain then 1024 else 4096

/-- The saturated register (03 R69). -/
def LongReg.atSaturation (r : LongReg) : LongReg :=
  let n := 64 * r.digit.length
  let neg := decide (r.guard < 0)
  let v : Int := if neg then -(2 ^ (n - 1) : Int) else 2 ^ (n - 1) - 1
  { r with digit := limbsOf r.digit.length v, carry := guardLast r.digit.length (if neg then -1 else 0), sat := true }

/-- A register after the readout of a drain or a lift: swept, and saturated when its value left the image. -/
def LongReg.afterReadout (r : LongReg) : LongReg × Bool :=
  let x := r.sweep
  if x.readout.2 then (x.atSaturation, true) else (x, false)

/-- The listed registers of a bank or chain, by position. -/
def CoreX.bankRegs (x : CoreX) (b : Fin 2) (chain : Bool) : List (Nat × LongReg) :=
  if chain then x.chain
  else (x.crib.filter fun e => e.1 % 2 == b.val).map fun e => (e.1 / 2, e.2)

/-- Store the registers of a bank or chain. -/
def CoreX.setBankRegs (x : CoreX) (b : Fin 2) (chain : Bool) (rs : List (Nat × LongReg)) : CoreX :=
  rs.foldl (fun x r => if chain then x.setChainReg r.1 r.2 else x.setReg b r.1 r.2) x

/-- The residue check of every register: CHECKSUM and a record per mismatch (03 R71, R72). -/
def residueCheck (s : State) (c : Core) (r : Readout) (rs : List (Nat × LongReg)) : State :=
  let p := partOfCore s c
  rs.foldl (fun s e =>
    if e.2.resOk then s
    else setStatus (record s .core (if p.isSome then .step else .info) p (.core c) (.addr r.row) 0
      (.names 72 [c.val, r.bank.val, e.1])) p .checksum) s

/-- A register of a take: the default of a position that is not listed. -/
def Taken.reg (t : Taken) (pos : Nat) : LongReg :=
  tget (fun _ => if t.req.chain then LongReg.chainZero else { t2 := t.t2 }) t.regs pos

/-- A word's tile index: bits [63:32] of P[PSEL] (06 R138). -/
def Readout.tile (r : Readout) : Nat := bits r.pval 32 32
def Readout.desc (r : Readout) : Desc := Desc.of r.cdesc
def Readout.wordX (r : Readout) : WordX := ⟨.m, r.row, r.word⟩

/-! ### Steps 1 to 5 of the epilogue (04 R88) -/

/-- A bias element by the column coordinate `x` of the output: read under the bias descriptor and decoded (04 R89); an
element past the bias tensor's extent is exact zero, as a masked lane is (06 R142). -/
def biasAt (s : State) (c : Core) (bias : Option (Nat × Nat)) (x : Nat) : State × XVal :=
  match bias with
  | none => (s, XVal.zero)
  | some (raw, n) =>
    if n ≤ x then (s, XVal.zero)
    else
      let d := Desc.of raw
      let p := partOfCore s c
      let at' := d.bitAt x 0 0
      let r := memRead s (.core c) p (at' / 8) (ceilDiv (at' % 8 + d.w) 8)
      let code := (leNat r.2.1 >>> (at' % 8)) % 2 ^ d.w
      let s := r.1
      if d.fmt.isInt then
        let sc := scaleReg s c (d.sbase + x).toNat
        (s, intValue d.fmt code (scaleS sc) (scaleZ sc))
      else if d.hastab && (d.fmt.isBlock || d.fmt.isF8) then
        let e := memRead s (.core c) p (d.entryAt x 0 0) 2
        (e.1, underScale (d.fmt.raw code) (leNat e.2.1 % 256))
      else if d.fmt.isBlock then (s, underScale (d.fmt.raw code) 127)
      else (s, d.fmt.raw code)

/-- The bytes of memory that bias elements from column `x` on take (04 R89): their codes, and their table entries. -/
def biasRuns (bias : Option (Nat × Nat)) (x n : Nat) : List (Nat × Nat) :=
  match bias with
  | none => []
  | some (raw, len) =>
    let d := Desc.of raw
    let n := min n (len - x)
    if n = 0 then []
    else
      let at' := d.bitAt x 0 0
      (at' / 8, ceilDiv (at' % 8 + n * d.w) 8) ::
        (if d.hastab && (d.fmt.isBlock || d.fmt.isF8) then
          [(d.stab + 2 * (x / 32), 2 * (ceilDiv (x + n) 32 - x / 32))] else [])

/-- Adding the bias: a special element combines with the lane; a saturated register with a finite bias stays saturated
(04 R89, R90). -/
def addBias (v : CVal) (b : XVal) : CVal :=
  match v.sat with
  | some _ => if b.isFin then { v with x := XVal.add v.x b } else ⟨b, none⟩
  | none => ⟨XVal.add v.x b, none⟩

/-- The channel scales of an INT tile (04 R88, 02 R39). -/
def channelScale (s : State) (c : Core) (r : Readout) (i j : Nat) (v : CVal) : CVal × Bool :=
  let sa := scaleS (scaleReg s c (r.chanA + i).toNat)
  let sb := scaleS (scaleReg s c (r.chanB + j).toNat)
  if validScale sa && validScale sb then
    ({ v with x := XVal.mul v.x (XVal.mul (f32.decode sa) (f32.decode sb)) }, false)
  else (⟨.nan, none⟩, true)

/-- The activation of a value (04 R91), with the flags of a rounding to F32. NONE leaves a COMPAT_T2 value of -0 as it is (03
R64; log 152, DEDUCED). -/
def activate (act : Nat) (v : CVal) : CVal × Flags :=
  match act with
  | 0 => (v, {})
  | 1 =>
    match v.sat with
    | some true => (⟨XVal.zero, none⟩, {})
    | some false => (v, {})
    | none =>
      match v.x with
      | .nan => (⟨.nan, none⟩, {})
      | .inf neg => (⟨if neg then XVal.zero else .inf false, none⟩, {})
      | .fin m _ _ => (if 0 < m then v else ⟨XVal.zero, none⟩, {})
  | a =>
    let f := convFloat f32 v
    let x := f32.decode f.1
    let y := match a with
      | 2 => gelu32 x
      | 3 => silu32 x
      | 4 => tanh32 x
      | _ => sigmoid32 x
    (⟨if y.isZero then XVal.zero else y, none⟩, f.2)

/-- What enters the conversion for element (i, j): the value, the flags of step 4, NaN and infinity that arose, and a
saturation of the register. -/
structure EpiVal where
  v : CVal
  flags : Flags
  nan : Bool
  inf : Bool
  deriving DecidableEq, Repr

/-- Steps 1 to 5 for element (i, j), given the bias element of its column. -/
def epilogueValue (s : State) (c : Core) (t : Taken) (bias : XVal) (i j : Nat) : EpiVal :=
  let r := t.req
  let v0 := (t.reg (if r.chain then i * 32 + j else i * 64 + j)).readout.1
  let hasBias := r.bias.isSome
  let scaled := if r.intPair then channelScale s c r i j v0 else (v0, false)
  let v := if hasBias then addBias scaled.1 bias else scaled.1
  let a := activate (bits r.word 80 4) v
  ⟨a.1, a.2, scaled.2 || (hasBias && v.x.isNan && !scaled.1.x.isNan), hasBias && v.x.isInf && !scaled.1.x.isInf⟩

/-! ### Step 6, row by row -/

/-- The rows and the columns of positions that are real in C: row i runs along dim1 of C, and along dim0 when C is transposed
(06 R143). -/
def Readout.rowsOut (r : Readout) : Nat :=
  min ((tileOf r.desc r.ext r.tile).rows r.desc r.ext) (if r.chain then 32 else 64)
def Readout.lanes (r : Readout) : Nat :=
  min ((tileOf r.desc r.ext r.tile).ks r.desc r.ext) (if r.chain then 32 else 64)

/-- The rows of positions that one run of memory takes. The epilogue delivers row 0 first (04 R95). Each row is a run of C; of a
transposed C it is a column, and the run is complete with its storage block (04 R79), or its byte. -/
def Readout.group (r : Readout) : Nat :=
  if !r.desc.xpose then 1
  else
    match ScaleSrc.ofCode (bits r.word 94 2) with
    | .computed | .table => 32
    | _ => if r.desc.w = 4 then 2 else 1

/-- A run of memory that a drain writes: its first element by dim0 and dim1 offset in the tile, and its length. -/
structure RunX where
  a : Nat
  b : Nat
  n : Nat
  deriving DecidableEq, Repr

/-- The runs that row `k` of positions completes. -/
def Readout.runs (r : Readout) (k : Nat) : List RunX :=
  if !r.desc.xpose then (if r.lanes = 0 then [] else [⟨0, k, r.lanes⟩])
  else if (k + 1) % r.group = 0 ∨ k + 1 = r.rowsOut then
    let first := k - k % r.group
    (span 0 r.lanes).map fun j => ⟨first, j, k + 1 - first⟩
  else []

/-- The row of positions of lane `l` of a run. -/
def Readout.rowOf (r : Readout) (u : RunX) (l : Nat) : Nat := if r.desc.xpose then u.a + l else u.b

/-- The values of a run, given the rows of positions from its first on. -/
def Readout.runVals (r : Readout) (u : RunX) (rows : List (List CVal)) : List CVal :=
  if r.desc.xpose then rows.map fun v => v.getD u.b ⟨XVal.zero, none⟩ else rows.getLastD []

/-- The scale registers that a row of positions takes: of its row and columns for an INT tile, of its row under CHANNEL
(04 R82). -/
def rowScales (r : Readout) (i : Nat) : List (Nat × Nat) :=
  let tile := tileOf r.desc r.ext r.tile
  let reg := fun (n : Int) => (scaleOff + 16 * n.toNat, 16)
  (span 0 r.lanes).flatMap fun (j : Nat) =>
    (if r.intPair then [reg (r.chanA + i), reg (r.chanB + j)] else []) ++
      (if bits r.word 94 2 = 3 then [reg (r.desc.sbase + tile.ch0 r.desc + i)] else [])

/-- The step-status bits of conversion flags. -/
def setFlags (s : State) (p : Option Part) (f : Flags) : State :=
  setStatusIf (setStatusIf (setStatusIf (setStatusIf s p .nan f.nan) p .inf f.inf) p .convovf f.convovf) p .sat f.sat

/-- What a row sets in the step status before its conversion: NaN and infinities that arose, and the rounding to F32. -/
def valueFlags (s : State) (p : Option Part) (vs : List EpiVal) : State :=
  vs.foldl (fun s e => setFlags (setStatusIf (setStatusIf s p .nan e.nan) p .inf e.inf) p e.flags) s

/-- Values of a row, with the bias elements and the scale registers read: anew for each row, as it is written. DESIGN CHOICE,
log 116. -/
def rowValues (s : State) (c : Core) (t : Taken) (i : Nat) : State × List EpiVal :=
  let r := t.req
  let tile := tileOf r.desc r.ext r.tile
  (span 0 r.lanes).foldl (fun (a : State × List EpiVal) j =>
    let b := biasAt a.1 c r.bias (colCoord r.desc tile + j)
    (b.1, a.2 ++ [epilogueValue b.1 c t b.2 i j])) (sramRead s c (rowScales r i), [])

/-- The bytes of memory that row `k` of positions needs before it can go on: bias elements, and under TABLE the entries of the
runs that it completes. -/
def rowNeeds (r : Readout) (k : Nat) : List (Nat × Nat) :=
  let d := r.desc
  let tile := tileOf d r.ext r.tile
  biasRuns r.bias (colCoord d tile) r.lanes ++
    (match ScaleSrc.ofCode (bits r.word 94 2) with
      | .table => (r.runs k).map fun u => (d.entryAt (tile.x0 d + u.a) (tile.x1 d + u.b) tile.c2, 2 * ceilDiv u.n 32)
      | _ => [])

/-- Lists of at most 32 from a list. -/
def blocks32 {α : Type} : Nat → List α → List (List α)
  | 0, _ => []
  | n + 1, l => if l.isEmpty then [] else l.take 32 :: blocks32 n (l.drop 32)

/-- A converted run: its codes, the table entries it writes, the single bytes it sets, the flags, and for each lane
the scale in force. -/
structure RowOut where
  codes : List Nat
  entries : List (Nat × Bytes)
  flags : Flags
  scales : List Nat
  deriving DecidableEq, Repr

/-- The conversion of a run of values into the output format under the word's scale source (04 R92, 02 R43 to R49). -/
def convertRow (s : State) (c : Core) (r : Readout) (u : RunX) (vs : List CVal) : State × RowOut :=
  let d := r.desc
  let f := d.fmt
  let tile := tileOf d r.ext r.tile
  let x0 := tile.x0 d + u.a
  let x1 := tile.x1 d + u.b
  let bl := blocks32 (vs.length + 1) vs
  match ScaleSrc.ofCode (bits r.word 94 2) with
  | .none =>
    let o := vs.map fun v => match f.layout with | some l => convFloat l v | none => (0, {})
    (s, ⟨o.map (·.1), [], o.foldl (fun a e => a.or e.2) {}, vs.map fun _ => 127⟩)
  | .computed =>
    let o := bl.map (convBlock f)
    (s, ⟨(o.map (·.1)).flatten,
      (List.zip (span 0 o.length) o).map fun e => (d.entryAt (x0 + 32 * e.1) x1 tile.c2, leBytes 2 e.2.2.1),
      o.foldl (fun a e => a.or e.2.2) {}, (o.map fun e => e.1.map fun _ => e.2.1 % 256).flatten⟩)
  | .table =>
    let p := partOfCore s c
    (List.zip (span 0 bl.length) bl).foldl (fun (a : State × RowOut) b =>
      let at' := d.entryAt (x0 + 32 * b.1) x1 tile.c2
      let e := memRead a.1 (.core c) p at' 2
      let S := leNat e.2.1 % 256
      let o := b.2.map (convTable f S)
      let fl := o.foldl (fun a e => a.or e.2) {}
      (e.1, ⟨a.2.codes ++ o.map (·.1), a.2.entries ++ (if fl.ovf then [(at' + 1, [1])] else []), a.2.flags.or fl,
        a.2.scales ++ b.2.map fun _ => S⟩)) (s, ⟨[], [], {}, []⟩)
  | .channel =>
    let o := (List.zip (span 0 vs.length) vs).map fun v =>
      let sc := scaleReg s c (d.sbase + tile.ch0 d + r.rowOf u v.1).toNat
      convInt f (scaleS sc) (scaleZ sc) v.2
    (s, ⟨o.map (·.1), [], o.foldl (fun a e => a.or e.2) {}, vs.map fun _ => 127⟩)

/-- The value that a written code of row `i` of positions decodes to (04 R93). The NaN that a bad channel gives an INT code (02
R39) sets nothing here, in an MSE sum or in a shadow comparison: it enters no output. DESIGN CHOICE, log 144. -/
def decodeWritten (s : State) (c : Core) (r : Readout) (i code S : Nat) : XVal :=
  let d := r.desc
  let f := d.fmt
  if f.isInt then
    let tile := tileOf d r.ext r.tile
    let sc := scaleReg s c (d.sbase + tile.ch0 d + i).toNat
    intValue f code (scaleS sc) (scaleZ sc)
  else if f.isBlock || f.isF8 then underScale (f.raw code) S
  else f.raw code

/-- The MSE sums after a run: exact sum, elements summed, elements excluded (04 R93). -/
def mseRow (s : State) (c : Core) (r : Readout) (u : RunX) (vs : List CVal) (o : RowOut) (acc : XVal × Nat × Nat) :
    XVal × Nat × Nat :=
  (List.zip (span 0 vs.length) (List.zip vs (List.zip o.codes o.scales))).foldl (fun (a : XVal × Nat × Nat) e =>
    let x := e.2.1.x
    let dv := decodeWritten s c r (r.rowOf u e.1) e.2.2.1 e.2.2.2
    if x.isFin && dv.isFin then
      let y := XVal.add dv x.negate
      (XVal.add a.1 (XVal.mul y y), a.2.1 + 1, a.2.2)
    else (a.1, a.2.1, a.2.2 + 1)) acc

/-- A run of a drain is converted: its bytes with the padding of its last block, and its table entries, are to be written. -/
def drainRun (c : Core) (rows : List (List CVal)) (x : State × Taken × List (Nat × Bytes)) (u : RunX) :
    State × Taken × List (Nat × Bytes) :=
  let t := x.2.1
  let r := t.req
  let d := r.desc
  let tile := tileOf d r.ext r.tile
  let vs := r.runVals u rows
  let o := convertRow x.1 c r u vs
  let x0 := tile.x0 d + u.a
  let pad := if x0 + u.n = r.ext.1 then min (d.padTo r.ext) (tile.x0 d + d.t0) - r.ext.1 else 0
  let run := (d.bitAt x0 (tile.x1 d + u.b) tile.c2 / 8, packCodes d.w (o.2.codes ++ List.replicate pad 0))
  let m := if bit r.word 75 then mseRow o.1 c r u vs o.2 (t.mse, t.mseIn, t.mseOut) else (t.mse, t.mseIn, t.mseOut)
  (setFlags o.1 (partOfCore o.1 c) o.2.flags, { t with mse := m.1, mseIn := m.2.1, mseOut := m.2.2 },
    x.2.2 ++ run :: o.2.entries)

/-- One row of positions of a drain: its values are formed, and the runs of memory that it completes are converted. -/
def drainRow (s : State) (c : Core) (t : Taken) : State × Taken × List (Nat × Bytes) :=
  let r := t.req
  let v := rowValues s c t t.row
  let rows := t.held ++ [v.2.map (·.v)]
  let us := r.runs t.row
  us.foldl (drainRun c rows)
    (valueFlags v.1 (partOfCore s c) v.2, { t with row := t.row + 1, held := if us.isEmpty then rows else [] }, [])

/-- A record written where a pointer register points, which then moves on; one outside the partition is not written,
and a PROTECT record says so (04 R94, 10 R241). -/
def pointerRecord (s : State) (c : Core) (row : Nat) (f : Field) (b : Bytes) : State × List (Nat × Bytes) :=
  let p := partOfCore s c
  let a := fget s f c.val
  let s := fset s f c.val (a + b.length)
  match p with
  | some q =>
    if grantedRun s q a b.length then (s, [(a, b)])
    else (record s .protect .info p (.core c) (.addr row) 0 (.names 94 [a]), [])
  | none => (record s .protect .info p (.core c) (.addr row) 0 (.names 94 [a]), [])

/-- The MSE record of a tile (04 R94). -/
def mseRecord (s : State) (c : Core) (t : Taken) : State × List (Nat × Bytes) :=
  if bit t.req.word 75 then
    pointerRecord s c t.req.row .coreEpiMsePtrAddr
      (leBytes 8 (f64.encode t.mse).1 ++ leBytes 4 t.mseIn ++ leBytes 4 t.mseOut)
  else (s, [])

/-- Records that a spill writes with one row of positions (06 R146). -/
def spillRow (t : Taken) : List (Nat × Bytes) :=
  let r := t.req
  let n := if r.chain then 32 else 64
  let size := if r.chain then 568 else 88
  let base := r.desc.base + r.tile * r.desc.recordBytes
  let b := ((span (t.row * n) n).map fun pos => (t.reg pos).record).flatten
  [(base + t.row * n * size, b)]

/-! ### Shadow drains (10 R240, R241) -/

/-- The narrow tile's element (i, j) as it stands in memory, decoded. -/
def narrowValue (s : State) (c : Core) (r : Readout) (i j : Nat) : State × XVal :=
  let d := r.desc
  let p := partOfCore s c
  let tile := tileOf d r.ext r.tile
  let l := if d.xpose then i else j
  let k := if d.xpose then j else i
  let at' := d.bitAt (tile.x0 d + l) (tile.x1 d + k) tile.c2
  let m := memRead s (.core c) p (at' / 8) (ceilDiv (at' % 8 + d.w) 8)
  let code := (leNat m.2.1 >>> (at' % 8)) % 2 ^ d.w
  if d.hastab && (d.fmt.isBlock || d.fmt.isF8) then
    let e := memRead m.1 (.core c) p (d.entryAt (tile.x0 d + l) (tile.x1 d + k) tile.c2) 2
    (e.1, decodeWritten e.1 c r i code (leNat e.2.1 % 256))
  else (m.1, decodeWritten m.1 c r i code 127)

/-- The bytes of memory that a shadow drain reads: the bias elements, the narrow lanes, their table entries. -/
def shadowNeeds (r : Readout) : List (Nat × Nat) :=
  let d := r.desc
  let tile := tileOf d r.ext r.tile
  let n := if d.xpose then r.rowsOut else r.lanes
  biasRuns r.bias (colCoord d tile) r.lanes ++
    (span 0 (if d.xpose then r.lanes else r.rowsOut)).flatMap fun k =>
      if n = 0 then []
      else
        let at' := d.bitAt (tile.x0 d) (tile.x1 d + k) tile.c2
        (at' / 8, ceilDiv (at' % 8 + n * d.w) 8) ::
          (if d.hastab && (d.fmt.isBlock || d.fmt.isF8) then
            [(d.entryAt (tile.x0 d) (tile.x1 d + k) tile.c2, 2 * (ceilDiv (tile.x0 d + n) 32 - tile.x0 d / 32))] else [])

/-- The pairs (d, x) of a shadow tile, row by row of positions. Steps 1 to 5 set what they set in any drain (10 R240). -/
def shadowPairs (s : State) (c : Core) (t : Taken) : State × List (XVal × XVal) :=
  let r := t.req
  (span 0 r.rowsOut).foldl (fun (a : State × List (XVal × XVal)) k =>
    let v := rowValues a.1 c t k
    (List.zip (span 0 v.2.length) v.2).foldl (fun (b : State × List (XVal × XVal)) e =>
      let n := narrowValue b.1 c r k e.1
      (n.1, b.2 ++ [(n.2, e.2.v.x)])) (valueFlags v.1 (partOfCore s c) v.2, a.2)) (s, [])

/-- |d − x| of finite values. -/
def gap (e : XVal × XVal) : XVal := (XVal.add e.1 e.2.negate).abs

/-- An element exceeds: against the largest |x| scaled by 2^−K, or by a difference of the non-finite (10 R240). -/
def exceeds (limit : XVal) (e : XVal × XVal) : Bool :=
  if e.1.isFin && e.2.isFin then limit.lt (gap e)
  else if e.1.isFin || e.2.isFin then true
  else decide (e.1 ≠ e.2)

/-- The largest of values. -/
def largest (l : List XVal) : XVal := l.foldl (fun a v => if a.lt v then v else a) XVal.zero

/-- Compare a recomputed tile: SHADOW and a report when more than NMAX elements exceed. The largest difference is open
when some element of the tile is not finite, for which no rule gives a difference. -/
def shadowCompare (s : State) (c : Core) (t : Taken) : State × List (Nat × Bytes) :=
  let r := t.req
  let p := partOfCore s c
  let q := shadowPairs s c t
  let K := r.desc.shtol % 256
  let nmax := r.desc.shtol / 256
  let A := largest ((q.2.filter fun e => !e.2.isNan).map fun e => e.2.abs)
  let many := (q.2.filter (exceeds (A.scale (-(K : Int))))).length
  let s := q.1
  if nmax < many then
    let s := setStatus s p .shadow
    let open' := q.2.any fun e => !(e.1.isFin && e.2.isFin)
    let z := draw s
    let worst := if open' then z.2 % 2 ^ 64 else (f64.encode (largest (q.2.map gap))).1
    let s := if open' then z.1 else s
    let step := match p with | some p => fget s .updStepStep p.val | none => 0
    pointerRecord s c r.row .coreEpiShadowPtrAddr
      (leBytes 8 step ++ leBytes 4 r.tile ++ leBytes 2 (bits r.pval 10 16) ++ leBytes 1 c.val ++ [0] ++ leBytes 4 many ++
        leBytes 4 q.2.length ++ leBytes 8 worst)
  else (s, [])

/-! ### READOUT and DRAIN_ROW_WRITE -/

/-- Completed tiles without TILE_DONE leave the list by themselves. -/
def CoreX.prune (x : CoreX) : CoreX :=
  { x with finished := x.finished.filter fun t => !t.acked || t.req.wordX.tileDone }

/-- A tile is finished: only its acknowledgements are awaited. -/
def finishTile (s : State) (c : Core) (t : Taken) : State :=
  let x := s.core c
  settle (s.setCore c { x with finished := x.finished ++ [t] }.prune) c

/-- What a readout needs of memory as a whole: a shadow drain compares its tile at once. -/
def Readout.needs (r : Readout) : List (Nat × Nat) := if r.kind = .drain ∧ bit r.word 74 then shadowNeeds r else []

/-- A readout takes its bank: the registers are swept and checked, and by a drain or a lift saturated where their value left the
image; `rest` are the readouts that still wait. With the state, the tile that was taken. -/
def takeBank (s : State) (c : Core) (r : Readout) (rest : List Readout) : State × Taken :=
  let x := s.core c
  let swept := (x.bankRegs r.bank r.chain).map fun e => (e.1, e.2.sweep)
  let s := residueCheck s c r swept
  let after := if r.kind = .spill then swept.map fun e => (e.1, e.2, false)
    else swept.map fun e => (e.1, e.2.afterReadout)
  let s := setStatusIf s (partOfCore s c) .sat (after.any fun e => e.2.2)
  let regs := after.map fun e => (e.1, e.2.1)
  let t2 := (x.bank r.bank).kind == .t2
  let regs := if t2 then regs.map fun e => (e.1, { e.2 with t2 := true }) else regs
  (s.setCore c { (x.setBankRegs r.bank r.chain regs) with readouts := rest },
    { req := r, t2 := t2, regs := regs, row := 0, left := 0, mse := XVal.zero, mseIn := 0, mseOut := 0 })

/-- A tile joins those whose rows go through the epilogue. -/
def joinTaken (s : State) (c : Core) (t : Taken) : State :=
  s.setCore c { s.core c with taken := (s.core c).taken ++ [t] }

/-- READOUT: the bank at the front is swept, checked and taken. A shadow drain waits for what it reads of host memory. The
next readout may begin while the rows of the tile before it still go through the epilogue (04 R95); it waits while the
epilogue holds rows for want of drain tags, and while two tiles are taken. -/
def execReadout (c : Core) (s : State) : Host.Outcome State Fault Refusal :=
  let x := s.core c
  match x.readouts with
  | [] => idle s
  | r :: rest =>
    let die := (dieOf c).val
    let queue := tget (fun _ => []) s.lifts die
    if bankInPipe x r.bank r.chain || decide (2 ≤ x.taken.length) || drainFull x || (r.kind == .lift && liftFull s c r) then
      idle s
    else
     match stageHost s (partOfCore s c) .event r.needs with
     | some t => .next t
     | none =>
      let k := takeBank s c r rest
      match r.kind with
      | .lift =>
        let l : LiftX := { core := c, xtag := bits r.word 176 16, cdesc := BitVec.ofNat 512 r.cdesc, ext := r.ext
                           tile := r.tile, regs := k.2.regs }
        .next (finishTile { k.1 with lifts := tset (fun _ => []) k.1.lifts die (queue ++ [l]) } c k.2)
      | .spill => .next (joinTaken k.1 c k.2)
      | .drain =>
        if bit r.word 74 then
          let q := shadowCompare k.1 c k.2
          .next (drainsOn (finishTile (unstage q.1 r.needs) c (k.2.ask q.2)) c)
        else .next (joinTaken k.1 c k.2)

/-- The rows that a take still has to write. -/
def Taken.rowsLeft (t : Taken) : Nat :=
  (match t.req.kind with
    | .spill => if t.req.chain then 32 else 64
    | _ => t.req.rowsOut) - t.row

/-- What the next row needs of memory. -/
def Taken.needs (t : Taken) : List (Nat × Nat) :=
  if t.rowsLeft = 0 ∨ t.req.kind = .spill then [] else rowNeeds t.req t.row

/-- The next row of a take leaves for memory, or after the last its MSE record. A wholly masked tile has no rows, and its MSE
record has counts of zero (DESIGN CHOICE, log 117). -/
def writeRow (s : State) (c : Core) (t : Taken) : State :=
  if t.rowsLeft = 0 then
    let m := mseRecord s c t
    let y := m.1.core c
    drainsOn (finishTile (m.1.setCore c { y with taken := y.taken.tail }) c (t.ask m.2)) c
  else
    let o := match t.req.kind with
      | .spill => (s, { t with row := t.row + 1 }, spillRow t)
      | _ => drainRow s c t
    let u := unstage o.1 t.needs
    let y := u.core c
    drainsOn (u.setCore c { y with taken := o.2.1.ask o.2.2 :: y.taken.tail }) c

/-- DRAIN_ROW_WRITE: the next row of the oldest tile leaves for memory under the C descriptor; the MSE record follows the last.
The epilogue holds its rows while writes wait for a drain tag, and a row waits for what it reads of host memory. -/
def execDrainRowWrite (c : Core) (s : State) : Host.Outcome State Fault Refusal :=
  let x := s.core c
  match x.taken with
  | [] => idle s
  | t :: _ =>
    if drainFull x then idle s
    else
      match stageHost s (partOfCore s c) .event t.needs with
      | some u => .next u
      | none => .next (writeRow s c t)

/-- TILE_DONE: the last byte is acknowledged, or the bank is taken by the XCE. The tile is posted to the die's XCE and
the word's SIGNAL is made (05 R128). -/
def execTileDone (c : Core) (s : State) : Host.Outcome State Fault Refusal :=
  let x := s.core c
  match x.finished.find? (·.acked) with
  | none => idle s
  | some t =>
    let w := t.req.wordX
    let s := s.setCore c { x with finished := dropFirst (·.acked) x.finished }
    let s := if w.tileDone then
        let die := (dieOf c).val
        let post : TilePost := { core := c, handle := t.req.handle, tile := t.req.tile }
        { s with posts := tset (fun _ => []) s.posts die (tget (fun _ => []) s.posts die ++ [post]) }
      else s
    let s := if w.tileDone && w.signal && w.op != 6 && w.op != 7 then signalFlag s c w.sflag else s
    .next (settle s c)

end Sys2Proof.Machine
end

