-- ==== Sys2Proof/Machine/Coll.lean ====
section
/-! DEFINITION. The Exact Collective Engines: entries and their fetch, lifts, block packets and their forms, windows and
extents, residue checksums, delivery, and the collectives that move bytes (09). -/

namespace Sys2Proof.Machine

/-! ### Groups (09 R190 to R192) -/

def grpSize (s : State) (g : Group) : Nat := fget s .xceGroupSizem1 g.val + 1
def grpRank (s : State) (g : Group) : Nat := fget s .xceGroupRank g.val
def grpPart (s : State) (g : Group) : Option Part := partOfGroup s g.val

/-- The entries of a group's list in a step. -/
def grpCount (s : State) (g : Group) : Nat := fget s .xceListCount g.val

def grpAgent (s : State) (g : Group) : MemAgent := .xce (grpServe s g)

/-- The device of rank `r`, as the XCE reads it from the member table. -/
def memberDev (s : State) (g : Group) (r : Nat) : State × Nat :=
  let x := memRead s (grpAgent s g) (grpPart s g) (fget s .xceMembersAddr g.val + 4 * r) 4
  (x.1, leNat x.2.1 % 2 ^ 17)

/-- The first of some ranks whose device is `dev`. -/
def memberRank (g : Group) (dev : Nat) : List Nat → State → State × Option Nat
  | [], s => (s, none)
  | r :: rest, s =>
    let m := memberDev s g r
    if m.2 = dev then (m.1, some r) else memberRank g dev rest m.1

/-- Blocks of a shard: SB, and the range that rank `j` owns. -/
def shardBlocks (count size : Nat) : Nat := ceilDiv count size
def ownerOf (count size b : Nat) : Nat := b / shardBlocks count size
def shardFirst (count size j : Nat) : Nat := min (j * shardBlocks count size) count
def shardLen (count size j : Nat) : Nat := min ((j + 1) * shardBlocks count size) count - shardFirst count size j

/-- HOPS of shard `j` on arrival at rank `r` (09 R202). -/
def hopsAt (size r j : Nat) : Nat := (r + 2 * size - j - 1) % size

/-! ### Entries (09 R193, R194) -/

/-- An entry as its 64 bytes give it. -/
def collEntryOf (b : Bytes) : CollEntry :=
  let v := leNat (slice b 0 64)
  let f := bits v
  { op := f 0 4, agreed := f 4 1 == 1, ver := f 5 2, orec := f 7 1 == 1, fmt := f 8 4, scsrc := f 12 2, inst := f 16 12
    sflag := f 28 12, count := f 64 32, contrib := f 96 16, peer := f 128 17, scale := f 128 48, src := f 192 48
    dst := f 256 48, wtab := f 320 48, vlog := f 384 48, vhdr := f 448 48 }

/-- Bytes of one output block. -/
def CollEntry.outBytes (e : CollEntry) : Nat :=
  if e.orec then 2816 else 4 * ((Fmt.ofCode e.fmt).getD .f32).width

/-- Bytes that rank `j`'s shard has in the gathered result, and where they begin. -/
def CollEntry.shardBytes (e : CollEntry) (size j : Nat) : Nat :=
  if e.op = 1 then e.count else shardLen e.count size j * e.outBytes
def CollEntry.shardAt (e : CollEntry) (size j : Nat) : Nat :=
  if e.op = 1 then e.dst + j * e.count else e.dst + j * shardBlocks e.count size * e.outBytes

/-- The memory that an entry names, with the byte offset of its field: what the partition's grants must hold. -/
def CollEntry.needs (e : CollEntry) (size rank : Nat) : List (Nat × Nat × Nat) :=
  if e.reduces then
    (if e.scsrc = 0 then [] else [(16, e.scale, if e.scsrc = 3 then 8 * e.count else 2 * e.count)]) ++
      (if e.contrib = 0 then [(24, e.src, 2816 * e.count)] else []) ++
      [(32, e.dst, (if e.op = 2 then e.count else shardLen e.count size rank) * e.outBytes), (40, e.wtab, 16 * e.count)]
  else
    (match e.op with
      | 1 => [(24, e.src, e.count), (32, e.dst, size * e.count)] ++
          (if e.ver = 0 then [] else [(48, e.vlog, 16 * size), (56, e.vhdr, 16)])
      | 3 => (if e.peer = rank then [(24, e.src, e.count)] else []) ++ [(32, e.dst, e.count)]
      | 4 => [(24, e.src, size * e.count), (32, e.dst, size * e.count)]
      | 5 => [(24, e.src, e.count)]
      | _ => [(32, e.dst, e.count)])

/-- The scale source fits the output format (09 R209). -/
def CollEntry.scaleOk (e : CollEntry) : Bool :=
  match Fmt.ofCode e.fmt with
  | some f => scaleFits (ScaleSrc.ofCode e.scsrc) f (e.scsrc != 0)
  | none => false

/-- The flag that an entry signals, if it is a die or device flag of the partition. -/
def sflagRef (s : State) (g : Group) (id : Nat) : Option FlagRef :=
  match flagRef ⟨(grpServe s g).val * 64, by have := (grpServe s g).isLt; omega⟩ id with
  | some (.loc _ _) => none
  | some f => if flagAssigned s (grpPart s g) f then some f else none
  | none => none

/-- The byte offset of the first offending field of an entry, if one offends (09 R194, R209, R212). FMT of an entry that does
not reduce names a format and nothing more: a reserved code is unfit, and FMASK is asked of neither kind (log 146, DESIGN
CHOICE). -/
def entryFault (s : State) (g : Group) (v : Nat) (e : CollEntry) (index : Nat) : Option Nat :=
  let size := grpSize s g
  let rank := grpRank s g
  let bad := fun (b : Bool) (off : Nat) => if b then [off] else []
  let grant := fun (r : Nat × Nat × Nat) =>
    match grpPart s g with
    | some p => if grantedRun s p r.2.1 r.2.2 then [] else [r.1]
    | none => [r.1]
  let faults :=
    bad (decide (6 < e.op)) 0 ++ bad (e.ver == 3) 0 ++ bad (e.orec && !e.reduces) 0 ++
    bad (e.reduces && !e.scaleOk) 1 ++ bad (!e.reduces && (e.scsrc != 0 || (Fmt.ofCode e.fmt).isNone)) 1 ++ bad (bits v 14 2 != 0) 1 ++
    bad (e.inst != index) 2 ++ bad (e.sflag != 0xFFF && (sflagRef s g e.sflag).isNone) 3 ++
    bad (bits v 40 24 != 0) 5 ++ bad (bits v 112 16 != 0) 14 ++
    bad (e.reduces && e.scsrc == 0 && e.scale != 0) 16 ++
    bad (e.reduces && e.scsrc != 0 && (e.scale == 0 || e.scale % 8 != 0)) 16 ++
    bad ((e.op == 3 || e.op == 5 || e.op == 6) && decide (size ≤ e.peer)) 16 ++
    bad ((e.op == 5 || e.op == 6) && e.peer == rank) 16 ++ bad (!e.reduces && bits v 145 31 != 0) 16 ++
    bad (bits v 176 16 != 0) 22 ++ bad (bits v 240 16 != 0) 30 ++ bad (bits v 304 16 != 0) 38 ++
    bad (bits v 368 16 != 0) 46 ++ bad (bits v 432 16 != 0) 54 ++ bad (bits v 496 16 != 0) 62 ++
    (e.needs size rank).flatMap grant
  match faults with
  | [] => none
  | x :: r => some (r.foldl min x)

/-! ### Packet headers (09 R200, R201) -/

structure XHdr where
  kind : Nat
  esc : Bool
  st : Bool
  half : Bool
  poison : Bool
  v : Bool
  xtag : Nat
  block : Nat
  w : Nat
  form : Nat
  ext : ExtentX
  cks : Nat
  hops : Nat
  eschop : Nat
  step : Nat
  deriving DecidableEq, Repr

def XHdr.group (h : XHdr) : Nat := h.xtag % 16
def XHdr.inst (h : XHdr) : Nat := h.xtag / 16

def xhdrOf (b : Bytes) : XHdr :=
  let f := field b
  let e := f 12 4
  { kind := f 0 1, esc := bit (f 1 1) 0, st := bit (f 1 1) 1, half := bit (f 1 1) 2, poison := bit (f 1 1) 3
    v := bit (f 1 1) 4, xtag := f 2 2, block := f 4 4, w := bits (f 8 2) 0 10, form := bits (f 8 2) 10 2
    ext := { xhi := bits e 0 10, xlo := bits e 10 10, nz := bit e 20, esc := false }
    cks := f 16 8, hops := f 24 3, eschop := f 27 3, step := f 30 2 }

/-- An extent as a header and a notice give it. -/
def ExtentX.code (e : ExtentX) : Nat := e.xhi % 1024 + e.xlo % 1024 * 2 ^ 10 + ofBool e.nz * 2 ^ 20 + ofBool e.esc * 2 ^ 21
def extentOf (v : Nat) : ExtentX := ⟨bits v 0 10, bits v 10 10, bit v 20, bit v 21⟩

def XHdr.bytes (h : XHdr) : Bytes :=
  leBytes 1 h.kind ++
    leBytes 1 (ofBool h.esc + 2 * ofBool h.st + 4 * ofBool h.half + 8 * ofBool h.poison + 16 * ofBool h.v) ++
    leBytes 2 h.xtag ++ leBytes 4 h.block ++ leBytes 2 (h.w + h.form * 1024) ++ leBytes 2 0 ++
    leBytes 4 ({ h.ext with esc := false } : ExtentX).code ++ leBytes 8 h.cks ++ leBytes 3 h.hops ++ leBytes 3 h.eschop ++
    leBytes 2 h.step

/-- The largest W of a form. -/
def wMax : Nat → Nat
  | 0 => 576 | 1 => 512 | _ => 0

/-- Payload bytes of a form, without the state array. -/
def formBytes : Nat → Nat
  | 0 => 256 | 1 => 512 | _ => 1312

/-- The payload breaks a rule that needs no state to see (09 R200 to R202). -/
def xceMalformed (b : Bytes) : Bool :=
  let h := xhdrOf b
  let body := b.length - 32
  decide (b.length < 32) || h.kind == 0 || decide (6 < h.kind) || bits (field b 1 1) 5 3 != 0 ||
    bits (field b 8 2) 12 4 != 0 || field b 10 2 != 0 || bits (field b 12 4) 21 11 != 0 || bits h.cks 61 3 != 0 ||
    decide (2 ^ 17 ≤ h.hops) || decide (2 ^ 17 ≤ h.eschop) ||
    (match h.kind with
      | 1 => h.form == 3 || decide (wMax h.form < h.w) || (h.half && h.form != 2) ||
          body != formBytes h.form + (if h.st then 16 else 0)
      | 2 => decide (2048 < body - (if h.v then 16 else 0)) || (h.v && decide (body < 16))
      | 6 => body != 0
      | _ => h.hops == 0 || decide (512 < h.hops) || body != 4 * h.hops)

/-! ### Elements and residues (09 R198, R201, R210) -/

def zeroElem : ElemX := ⟨0, .none, false, false⟩
def ElemX.sat (x : ElemX) : Bool := x.satp || x.satn
/-- The four state bits of an element. -/
def ElemX.code (x : ElemX) : Nat := x.lane.code + 4 * ofBool x.satp + 8 * ofBool x.satn

/-- q = 2^61 − 1. -/
def ckMod : Nat := 2 ^ 61 - 1

/-- CK of elements whose index within the block starts at `from'`. -/
def ckOf (from' : Nat) (l : List ElemX) : Nat :=
  (List.zip (span from' l.length) l).foldl (fun a e =>
    if e.2.sat then a else (a + (e.1 + 1) * (e.2.n % (ckMod : Int)).toNat) % ckMod) 0

/-- The weighted residue of one element. -/
def ckElem (i : Nat) (x : ElemX) : Nat := if x.sat then 0 else (i + 1) * (x.n % (ckMod : Int)).toNat % ckMod

/-- The checksum of 64-bit words. -/
def ckWords (b : Bytes) : Nat :=
  (span 0 (ceilDiv b.length 8)).foldl (fun a i => (a + (i + 1) * (field b (8 * i) 8 % ckMod)) % ckMod) 0

/-- What a swept register contributes as an element. -/
def elemOf (r : LongReg) : ElemX := ⟨r.ext, r.lane, r.sat && decide (0 ≤ r.ext), r.sat && decide (r.ext < 0)⟩

/-- The sum of two elements: states combine, and a sum outside the 656-bit range saturates (09 R209). -/
def addElem (a b : ElemX) : ElemX :=
  let n := a.n + b.n
  let gone := decide (n < -(2 ^ 655 : Int) ∨ (2 ^ 655 : Int) ≤ n)
  { n := if gone then 0 else n, lane := laneAfter b.lane a.lane
    satp := a.satp || b.satp || (gone && decide (0 < n)), satn := a.satn || b.satn || (gone && decide (n < 0)) }

/-- Bits of the magnitude: the highest 1, and the lowest 1 of a nonzero value. -/
def highBit (n : Int) : Nat := n.natAbs.log2
def lowBitGo : Nat → Nat → Nat → Nat
  | 0, _, k => k
  | f + 1, n, k => if n % 2 = 1 then k else lowBitGo f (n / 2) (k + 1)
def lowBit (n : Int) : Nat := lowBitGo 656 n.natAbs 0

/-- Take values into an extent. -/
def ExtentX.take (e : ExtentX) (l : List ElemX) : ExtentX :=
  l.foldl (fun e x =>
    if x.n = 0 then e
    else if e.nz then { e with xhi := max e.xhi (highBit x.n), xlo := min e.xlo (lowBit x.n) }
    else { e with xhi := highBit x.n, xlo := lowBit x.n, nz := true }) e

/-- Two extents together. -/
def ExtentX.merge (a b : ExtentX) : ExtentX :=
  if !a.nz then { b with esc := a.esc || b.esc }
  else if !b.nz then { a with esc := a.esc || b.esc }
  else ⟨max a.xhi b.xhi, min a.xlo b.xlo, true, a.esc || b.esc⟩

/-- The window of an extent under margins (09 R205): form and W. -/
def chooseWindow (e : ExtentX) (mhi mlo : Nat) : Nat × Nat :=
  if !e.nz then (0, 272)
  else
    let top := e.xhi + mhi
    let bot := e.xlo - mlo
    if top ≤ bot + 62 then (0, min (top - 62) 576)
    else if top ≤ bot + 126 then (1, min (top - 126) 512)
    else (2, 0)

/-- Every element fits a form at W. -/
def fitsForm (l : List ElemX) (form w : Nat) : Bool :=
  form == 2 || (decide (w ≤ wMax form) && l.all fun x =>
    let m := if form = 0 then 63 else 127
    x.n % (2 ^ w : Int) == 0 && decide (-(2 ^ m : Int) ≤ x.n / 2 ^ w) && decide (x.n / 2 ^ w < 2 ^ m))

/-- The state array. -/
def stateBytes (l : List ElemX) : Bytes :=
  leBytes 16 ((List.zip (span 0 32) l).foldl (fun a e => a + e.2.code * 2 ^ (4 * e.1)) 0)

/-- The payload of a block, or of half `h` of a WIDE block, without the state array. -/
def packElems (l : List ElemX) (form w h : Nat) : Bytes :=
  match form with
  | 0 => (l.map fun x => leBytes 8 (wrap 64 (x.n / 2 ^ w))).flatten
  | 1 => (l.map fun x => leBytes 16 (wrap 128 (x.n / 2 ^ w))).flatten
  | _ =>
    let part := (l.drop (16 * h)).take 16
    (part.map fun x => leBytes 2 (wrap 16 (x.n / 2 ^ 640))).flatten ++
      (part.map fun x => leBytes 80 (wrap 640 x.n)).flatten

/-- The elements of a payload: 32, or the 16 of a half; `st` is the state array as a number. -/
def unpackElems (b : Bytes) (form w h : Nat) (st : Nat) : List ElemX :=
  let state := fun e n =>
    let c := bits st (4 * e) 4
    ({ n := n, lane := Lane.ofCode (c % 4), satp := bit c 2, satn := bit c 3 } : ElemX)
  match form with
  | 0 => (span 0 32).map fun e => state e (sext 64 (field b (8 * e) 8) * 2 ^ w)
  | 1 => (span 0 32).map fun e => state e (sext 128 (field b (16 * e) 16) * 2 ^ w)
  | _ => (span 0 16).map fun k =>
      state (16 * h + k) (sext 16 (field b (2 * k) 2) * 2 ^ 640 + (field b (32 + 80 * k) 80 : Int))

/-! ### Poison and faults (09 R194, R211, R454) -/

/-- A record of class COLLECTIVE. -/
def collRecord (s : State) (g : Group) (sev : Sev) (code xtag block from' detail : Nat) : State :=
  record s .collective sev (grpPart s g) (.xce (grpServe s g)) (.code 6) code
    (.bytes (leBytes 2 xtag ++ leBytes 4 block ++ leBytes 3 from' ++ leBytes 3 (grpRank s g) ++ leBytes 1 detail ++
      leBytes 11 0))

/-- The XTAG of the active entry. -/
def xtagOf (s : State) (g : Group) : Nat := g.val + 16 * grpInst s g

/-- The active collective is poisoned: CHECKSUM, a record of the cause, STATE POISONED. -/
def poison (s : State) (g : Group) (code xtag block from' detail : Nat) : State :=
  let s := collRecord s g .step code xtag block from' detail
  let s := setStatus s (grpPart s g) .checksum
  if grpActive s g then
    fset (s.setGroup g { s.group g with poisoned := true }) .xceCstatState g.val 2
  else s

/-- Poison seen of an entry that this device has completed: CHECKSUM and the record, but nothing to stop (R194). -/
def seePoison (s : State) (g : Group) (code xtag block from' : Nat) : State :=
  setStatus (collRecord s g .step code xtag block from' 0) (grpPart s g) .checksum

/-- The predecessor's rank. -/
def predRank (s : State) (g : Group) : Nat := (grpRank s g + grpSize s g - 1) % grpSize s g

/-- A residue fault: 0 LINK, 1 LOCAL, 2 ADD. It loads XCE_CKFAULT and poisons the collective. -/
def residueFault (s : State) (g : Group) (kind block : Nat) : State :=
  let rank := grpRank s g
  let from' := if kind = 0 then predRank s g else rank
  let s := fset s .xceCkfaultXtag 0 (xtagOf s g)
  let s := fset s .xceCkfaultBlock 0 block
  let s := fset s .xceCkfaultKind 0 kind
  let s := fset s .xceCkfaultFrom 0 from'
  let s := fset s .xceCkfaultAt 0 rank
  poison s g kind (xtagOf s g) block from' kind

/-! ### Sending (09 R190, R200) -/

/-- An XCE packet of a group to a device, with the sender's step number. -/
def xcePacket (s : State) (g : Group) (mc : Bool) (dev : Nat) (h : XHdr) (body : Bytes) : Packet :=
  let p := grpPart s g
  let step := match p with | some p => fget s .updStepStep p.val % 65536 | none => 0
  let job := match p with | some p => (s.part p).img.job | none => 0
  { blankReq tXCE (256 + (grpServe s g).val) dev 256 g.val job 0 0 (({ h with step := step } : XHdr).bytes ++ body) with mc := mc }

/-- Send an XCE packet of the active entry to a device: its acknowledgement is awaited. A stopped entry sends none. -/
def xceSend (s : State) (g : Group) (mc : Bool) (dev : Nat) (h : XHdr) (body : Bytes) : State :=
  let x := s.group g
  sendReq (s.setGroup g { x with unacked := x.unacked + 1 }) (grpPart s g) (.coll g)
    (xcePacket s g mc dev { h with poison := x.poisoned } body)

/-- A header with nothing in it. -/
def blankHdr (s : State) (g : Group) (kind block hops : Nat) : XHdr :=
  { kind := kind, esc := false, st := false, half := false, poison := false, v := false, xtag := xtagOf s g
    block := block, w := 0, form := 0, ext := {}, cks := 0, hops := hops, eschop := 0x1FFFF, step := 0 }

def succDev (s : State) (g : Group) : Nat := fget s .xceGroupSucc g.val

/-- Notices of consecutive blocks, at most 512 records in each packet. -/
def sendNotices (s : State) (g : Group) (kind : Nat) (dev : Nat) : Nat → Nat → List ExtentX → State
  | 0, _, _ => s
  | n + 1, first, l =>
    if l.isEmpty then s
    else
      let part := l.take 512
      let s' := xceSend s g false dev (blankHdr s g kind first part.length)
        (part.map fun e => leBytes 4 e.code).flatten
      sendNotices s' g kind dev n (first + part.length) (l.drop 512)

/-! ### Contributions (09 R189, R198, R211) -/

/-- This rank's contribution to a block is complete. -/
def ownReady (s : State) (g : Group) (e : CollEntry) (b : Nat) : Bool :=
  e.contrib == 0 || (tget (fun _ => ({} : AccX)) (s.group g).acc b).lifts == e.contrib

/-- This rank's contribution to a block: its elements and its residue. Records are read from memory. -/
def ownPart (s : State) (g : Group) (e : CollEntry) (b : Nat) : State × List ElemX × Nat :=
  if e.contrib = 0 then
    let r := memRead s (grpAgent s g) (grpPart s g) (e.src + 2816 * b) 2816
    let l := (span 0 32).map fun i =>
      let rec' := slice r.2.1 (88 * i) 88
      let tag := field rec' 80 8
      let n := sext 16 tag * 2 ^ 640 + (field rec' 0 80 : Int)
      let sat := bit tag 49
      ({ n := n, lane := Lane.ofCode (bits tag 47 2), satp := sat && decide (0 ≤ n), satn := sat && decide (n < 0) } : ElemX)
    (r.1, l, ckOf 0 l)
  else
    let a := tget (fun _ => ({} : AccX)) (s.group g).acc b
    (s, (span 0 32).map fun i => a.elems.getD i zeroElem, a.residue)

/-! ### Window tables (09 R203, R206) -/

/-- The address of a block's window entry in a plane. -/
def windowAt (e : CollEntry) (plane b : Nat) : Nat := e.wtab + 8 * e.count * plane + 8 * b

/-- The plane in force in the running step. -/
def planeNow (s : State) (g : Group) : Nat :=
  match grpPart s g with | some p => fget s .updStepStep p.val % 2 | none => 0

/-- The window in force for a block. -/
def windowNow (s : State) (g : Group) (e : CollEntry) (b : Nat) : State × Nat × Nat :=
  let r := memRead s (grpAgent s g) (grpPart s g) (windowAt e (planeNow s g) b) 8
  let v := leNat r.2.1
  let w := bits v 0 10
  let f := bits v 10 2
  (r.1, if !bit v 34 || f == 3 || decide (wMax f < w) then (2, 0) else (f, w))

/-- Record a block's extent in the plane not in force. -/
def storeWindow (s : State) (g : Group) (e : CollEntry) (b : Nat) (x : ExtentX) : State :=
  let w := chooseWindow x (fget s .xceWinCtrlMhi 0) (fget s .xceWinCtrlMlo 0)
  let v := w.2 + w.1 * 2 ^ 10 + x.xhi * 2 ^ 12 + x.xlo * 2 ^ 22 + ofBool x.nz * 2 ^ 32 + ofBool x.esc * 2 ^ 33 + 2 ^ 34
  agentWrite s (grpAgent s g) (grpPart s g) (windowAt e (1 - planeNow s g) b) (leBytes 8 v)

def storeWindows (s : State) (g : Group) (e : CollEntry) (first : Nat) (l : List ExtentX) : State :=
  (List.zip (span first l.length) l).foldl (fun s x => storeWindow s g e x.1 x.2) s

/-! ### Delivery at the owner (09 R209) -/

/-- An element as it enters the conversion, and the status bits it sets. -/
def deliverVal (x : ElemX) : CVal × Flags :=
  let edge := fun (neg : Bool) => (XVal.fin (if neg then -(2 ^ 639 : Int) else 2 ^ 639 - 1) (-304) false)
  match x.lane with
  | .nan => (⟨.nan, none⟩, { nan := true })
  | .pinf => (⟨.inf false, none⟩, { inf := true })
  | .ninf => (⟨.inf true, none⟩, { inf := true })
  | .none =>
    if x.satp && x.satn then (⟨.nan, none⟩, { nan := true })
    else if x.sat then (⟨edge x.satn, some x.satn⟩, { sat := true })
    else if x.n < -(2 ^ 639 : Int) ∨ (2 ^ 639 : Int) ≤ x.n then
      (⟨edge (decide (x.n < 0)), some (decide (x.n < 0))⟩, { sat := true })
    else (⟨.fin x.n (-304) false, none⟩, {})

/-- The record of an element. -/
def elemRecord (x : ElemX) : Bytes :=
  leBytes 80 (wrap 640 x.n) ++
    leBytes 8 (wrap 16 (x.n / 2 ^ 640) + (x.n % (resP : Int)).toNat * 2 ^ 16 + x.lane.code * 2 ^ 47 + ofBool x.sat * 2 ^ 49)

/-- Bytes written to host memory that the collective still has to read stay at hand. -/
def holdBytes (s : State) (a : Nat) (b : Bytes) : State :=
  match placeOf a with
  | .host _ _ => { s with net := { s.net with
      staged := tsetAll (fun _ => none) s.net.staged (List.zip (span a b.length) (b.map some)) } }
  | _ => s

/-- Deliver a block of this rank's shard. -/
def deliverBlock (s : State) (g : Group) (e : CollEntry) (b : Nat) (l : List ElemX) : State :=
  let p := grpPart s g
  let ag := grpAgent s g
  let size := grpSize s g
  let rank := grpRank s g
  let at' := (if e.op = 2 then e.shardAt size rank else e.dst) + (b - shardFirst e.count size rank) * e.outBytes
  let vals := l.map deliverVal
  let fl := vals.foldl (fun (a : Flags) v => a.or v.2) {}
  let keep := fun (s : State) (b : Bytes) => if e.op = 2 then holdBytes s at' b else s
  let s :=
    if e.orec then
      let b := (l.map elemRecord).flatten
      keep (agentWrite (setFlags s p fl) ag p at' b) b
    else
      let f := (Fmt.ofCode e.fmt).getD .f32
      let vs := vals.map (·.1)
      let put := fun (s : State) (o : List (Nat × Flags)) =>
        let b := packCodes f.width (o.map (·.1))
        keep (agentWrite (setFlags s p (o.foldl (fun (a : Flags) v => a.or v.2) fl)) ag p at' b) b
      match ScaleSrc.ofCode e.scsrc with
      | .none => put s (vs.map fun v => match f.layout with | some y => convFloat y v | none => (0, {}))
      | .computed =>
        let o := convBlock f vs
        let out := packCodes f.width o.1
        let s := keep (agentWrite (setFlags s p (fl.or o.2.2)) ag p at' out) out
        agentWrite s ag p (e.scale + 2 * b) (leBytes 2 o.2.1)
      | .table =>
        let r := memRead s ag p (e.scale + 2 * b) 2
        let o := vs.map (convTable f (leNat r.2.1 % 256))
        let s := put r.1 o
        if (o.foldl (fun (a : Flags) v => a.or v.2) {}).ovf then agentWrite s ag p (e.scale + 2 * b + 1) [1] else s
      | .channel =>
        let r := memRead s ag p (e.scale + 8 * b) 8
        let v := leNat r.2.1
        put r.1 (vs.map (convInt f (bits v 0 32) (bits v 32 8)))
  fbump s .xceCstatBlocks g.val 1

/-! ### The hop (09 R208) -/

/-- The lowest bit in use, or 0 when all are zero. -/
def lowestOf (l : List ElemX) : Nat := (({} : ExtentX).take l).xlo

/-- The form and W in which a sum goes on, and whether it escaped. -/
def hopForm (own sum : List ElemX) (form w : Nat) : Nat × Nat × Bool :=
  if fitsForm own form w && fitsForm sum form w then (form, w, false)
  else
    let w' := min w (lowestOf (sum ++ own))
    if form = 0 ∧ fitsForm own 1 w' ∧ fitsForm sum 1 w' then (1, w', true) else (2, 0, true)

/-- Send a block on: one packet, or the two halves of a WIDE block. -/
def sendBlock (s : State) (g : Group) (h : XHdr) (l : List ElemX) : State :=
  let st := l.any fun x => x.code != 0
  let body := fun k => (if st then stateBytes l else []) ++ packElems l h.form h.w k
  if h.form = 2 then
    let s := xceSend s g false (succDev s g) { h with st := st, cks := ckOf 0 (l.take 16) } (body 0)
    xceSend s g false (succDev s g) { h with st := st, half := true, cks := ckOf 16 (l.drop 16) } (body 1)
  else xceSend s g false (succDev s g) { h with st := st, cks := ckOf 0 l } (body 0)

/-- This rank adds its contribution to a block and delivers it or sends it on. -/
def hopBlock (s : State) (g : Group) (e : CollEntry) (h : HeldBlock) : State :=
  let size := grpSize s g
  let rank := grpRank s g
  let b := h.block
  let o := ownPart s g e b
  let s := o.1
  let own := o.2.1
  let s := if ckOf 0 own = o.2.2 then s else residueFault s g 1 b
  let arr := (span 0 32).map fun i => h.elems.getD i zeroElem
  let sum := (List.zip arr own).map fun x => addElem x.1 x.2
  let gone := (List.zip (span 0 32) (List.zip sum (List.zip arr own))).foldl (fun a x =>
    if x.2.1.sat then a + ckElem x.1 x.2.2.1 + ckElem x.1 x.2.2.2 else a) 0
  let want := (h.cks + o.2.2 + 64 * ckMod - gone) % ckMod
  let s := if ckOf 0 sum = want then s else residueFault s g 2 b
  let x := s.group g
  let s := s.setGroup g { x with acc := tdrop (· == b) x.acc, sent := x.sent ++ [b] }
  if ownerOf e.count size b = rank then
    let s := if h.ext.esc then fbump (setStatus s (grpPart s g) .escaped) .xceEscTallyEscRecv g.val 1 else s
    let s := deliverBlock s g e b sum
    let y := s.group g
    s.setGroup g { y with extents := tset (fun _ => {}) y.extents b (h.ext.take own) }
  else
    let f := hopForm own sum h.form h.w
    let s := if f.2.2 then fbump (setStatus s (grpPart s g) .escaped) .xceEscTallyEscMade g.val 1 else s
    let ext := h.ext.take (sum ++ own)
    sendBlock s g
      { blankHdr s g 1 b (h.hops + 1) with
        form := f.1, w := f.2.1, ext := ext, esc := h.ext.esc || f.2.2
        eschop := if f.2.2 && h.eschop == 0x1FFFF then rank else h.eschop } sum

/-- A complete arrived block of which this rank's contribution is there. -/
def hopDue (s : State) (g : Group) (e : CollEntry) (h : HeldBlock) : Bool :=
  (if h.form = 2 then h.halves == 3 else true) && ownReady s g e h.block

/-- The pass of a block's extents at this rank (09 R207): merged, and sent on or agreed. -/
def passExtents (s : State) (g : Group) (e : CollEntry) (first : Nat) (l : List ExtentX) : State :=
  let r := (List.zip (span first l.length) l).foldl (fun (r : State × List ExtentX) x =>
    let own := ownPart r.1 g e x.1
    (own.1, r.2 ++ [x.2.merge (({} : ExtentX).take own.2.1)])) (s, [])
  let size := grpSize s g
  let kind := if ownerOf e.count size first = grpRank s g then 5 else 4
  sendNotices r.1 g kind (succDev s g) 1 first r.2

/-- What waits at this rank for contributions goes on when they are complete. -/
def goOn (s : State) (g : Group) (e : CollEntry) : State :=
  let x := s.group g
  let s := (x.held.filter (hopDue s g e)).foldl (fun s h => hopBlock s g e h)
    (s.setGroup g { x with held := x.held.filter fun h => !hopDue s g e h })
  let x := s.group g
  let due := fun (r : Nat × List ExtentX) => (span r.1 r.2.length).all (ownReady s g e)
  (x.xheld.filter due).foldl (fun s r => passExtents s g e r.1 r.2)
    (s.setGroup g { x with xheld := x.xheld.filter fun r => !due r })

/-! ### Ends of phases -/

/-- Cut bytes into chunks of 2,048. -/
def chunksOf (n : Nat) : List (Nat × Nat) := (span 0 (ceilDiv n 2048)).map fun i => (2048 * i, min 2048 (n - 2048 * i))

/-- Send a message as DATA packets; `head` is the shard header that goes with the first chunk. -/
def sendData (s : State) (g : Group) (mc : Bool) (dev src n : Nat) (head : Option Bytes) : State :=
  (chunksOf n).foldl (fun s c =>
    let r := memRead s (grpAgent s g) (grpPart s g) (src + c.1) c.2
    let v := head.isSome && c.1 == 0
    let body := (if v then head.getD [] else []) ++ r.2.1
    let h := { blankHdr s g 2 (c.1 / 2048) 1 with v := v, cks := ckWords body }
    xceSend r.1 g mc dev h body) s

/-- The own shard is delivered: the extents go to the starter, and ALL_REDUCE gathers (09 R206, R212). -/
def shardDone (s : State) (g : Group) (e : CollEntry) : State :=
  let size := grpSize s g
  let rank := grpRank s g
  let x := s.group g
  let first := shardFirst e.count size rank
  let n := shardLen e.count size rank
  if !e.reduces || x.extentSent || !((span first n).all fun b => x.sent.contains b) then s
  else
    let l := (span first n).map fun b => tget (fun _ => ({} : ExtentX)) x.extents b
    let s := s.setGroup g { x with extentSent := true, gathering := e.op == 2 }
    let s := if e.agreed && size != 1 then s
      else if size = 1 then storeWindows s g e first l
      else sendNotices s g 3 (succDev s g) (n + 1) first l
    if e.op = 2 ∧ size ≠ 1 then sendData s g false (succDev s g) (e.shardAt size rank) (e.shardBytes size rank) none else s

/-- What follows a change at a reducing collective. -/
def settleColl (s : State) (g : Group) (e : CollEntry) : State := shardDone (goOn s g e) g e

/-! ### Lifts (09 R197 to R199) -/

/-- The contributions of a lifted tile: each block with its elements by lane. -/
def liftParts (l : LiftX) : List (Nat × List (Nat × ElemX)) :=
  let d := Desc.of l.cdesc.toNat
  let t := tileOf d l.ext l.tile
  let n0 := t.n0 d l.ext
  let n1 := t.n1 d l.ext
  (span 0 n1).flatMap fun k => (span 0 (ceilDiv n0 32)).map fun j =>
    (liftBlock l.ext.1 l.ext.2.1 (t.x0 d + 32 * j) (t.x1 d + k) t.c2,
      (span 0 (min 32 (n0 - 32 * j))).map fun i =>
        let lane := 32 * j + i
        let pos := if d.xpose then lane * 64 + k else k * 64 + lane
        (i, elemOf (tget (fun _ => LongReg.zero) l.regs pos)))

/-- Add lanes into an accumulator, weighting their residues (09 R211). -/
def addLift (a : AccX) (l : List (Nat × ElemX)) : AccX :=
  let base := (span 0 32).map fun i => a.elems.getD i zeroElem
  l.foldl (fun a x =>
    let now := a.elems.getD x.1 zeroElem
    let sum := addElem now x.2
    let res := if sum.sat then a.residue + ckMod - ckElem x.1 now else a.residue + ckElem x.1 x.2
    { a with elems := setAt a.elems x.1 sum, residue := res % ckMod }) { a with elems := base, lifts := a.lifts + 1 }

/-- A block's contribution of a lift is taken or poisons the collective. -/
def takeLift (g : Group) (e : CollEntry) (xtag : Nat) (s : State) (c : Nat × List (Nat × ElemX)) : State :=
  let x := s.group g
  if e.count ≤ c.1 then poison s g 0x13 xtag c.1 (grpRank s g) 0
  else
    let a := tget (fun _ => ({} : AccX)) x.acc c.1
    if x.sent.contains c.1 ∨ a.lifts = e.contrib then poison s g 0x12 xtag c.1 (grpRank s g) 0
    else s.setGroup g { x with acc := tset (fun _ => {}) x.acc c.1 (addLift a c.2) }

/-- LIFT_ACCUMULATE: the XCE of a die hands the oldest lifted tile in its queue to the serving XCE. -/
def execLiftAccumulate (d : Die) (s : State) : Host.Outcome State Fault Refusal :=
  match tget (fun _ => []) s.lifts d.val with
  | [] => idle s
  | l :: rest =>
    let g : Group := ⟨l.xtag % 16, Nat.mod_lt _ (by decide)⟩
    let i := l.xtag / 16
    let taken := { s with lifts := tset (fun _ => []) s.lifts d.val rest }
    let x := s.group g
    if x.discards.contains i then .next taken
    else if grpActive s g then
      match x.entry with
      | none => .next taken
      | some e =>
        if i = grpInst s g ∧ x.stopped then .next taken
        else if i = grpInst s g ∧ e.reduces ∧ e.contrib ≠ 0 then
          let parts := liftParts l
          let fresh := parts.filter fun c => decide (c.1 < e.count) && !(x.acc.any fun a => a.1 == c.1)
          if 4096 < accInUse s (grpServe s g) + fresh.length then idle s
          else .next (settleColl (parts.foldl (takeLift g e l.xtag) taken) g e)
        else if i = grpInst s g + 1 then idle s
        else .next (poison taken g 0x12 (xtagOf s g) 0 (grpRank s g) 0)
    else if grpState s g = 0 ∧ i = grpInst s g then idle s
    else .next (poison taken g 0x12 (xtagOf s g) 0 (grpRank s g) 0)

/-! ### Fetching an entry (09 R193, R194) -/

/-- Send a POISON notice to every other member. -/
def sendPoison (s : State) (g : Group) : State :=
  ((span 0 (grpSize s g)).filter (· != grpRank s g)).foldl
    (fun s r =>
      let m := memberDev s g r
      xceSend m.1 g false m.2 (blankHdr s g 6 0 0) []) s

/-- The active entry sends nothing more, and discards what names it. -/
def stopEntry (s : State) (g : Group) : State :=
  let x := s.group g
  s.setGroup g { x with stopped := true, discards := grpInst s g :: x.discards.filter (· != grpInst s g) }

/-- The entry poisons itself on fetch. -/
def fetchPoison (s : State) (g : Group) (e : CollEntry) (off : Nat) : State :=
  let bad := e.sflag != 0xFFF && (sflagRef s g e.sflag).isNone
  let s := poison s g 0x10 (xtagOf s g) 0 (grpRank s g) off
  let s := sendPoison s g
  let s := stopEntry s g
  s.setGroup g { s.group g with noFlag := bad || off == 3 }

/-- The own slot of ALL_TO_ALL, or the own shard of a gather, is copied within the device. -/
def copyOwn (s : State) (g : Group) (src dst n : Nat) : State :=
  let r := memRead s (grpAgent s g) (grpPart s g) src n
  agentWrite r.1 (grpAgent s g) (grpPart s g) dst r.2.1

/-- The shard header of this rank, when the entry moves versions. -/
def ownHeader (s : State) (g : Group) (e : CollEntry) : State × Option Bytes :=
  if e.op = 1 ∧ e.ver ≠ 0 then
    let r := memRead s (grpAgent s g) (grpPart s g) e.vhdr 16
    (r.1, some r.2.1)
  else (s, none)

/-- The version of a shard is recorded or compared (09 R214). -/
def versionCheck (s : State) (g : Group) (e : CollEntry) (r : Nat) (head : Bytes) : State :=
  let at' := e.vlog + 16 * r
  if e.ver = 1 then agentWrite s (grpAgent s g) (grpPart s g) at' head
  else if e.ver = 2 then
    let l := memRead s (grpAgent s g) (grpPart s g) at' 16
    let s := l.1
    if field l.2.1 0 8 = field head 0 8 then s
    else
      let s := setStatus s (grpPart s g) .staleShard
      record s .collective .step (grpPart s g) (.xce (grpServe s g)) (.code 6) 0x17
        (.bytes (leBytes 2 (xtagOf s g) ++ leBytes 6 (r % 2 ^ 17 + bits (field head 8 4) 0 26 * 2 ^ 17) ++
          leBytes 8 (field l.2.1 0 8) ++ leBytes 8 (field head 0 8)))
  else s

/-- What a rank sends when a collective that moves bytes becomes active (09 R212). -/
def startMove (s : State) (g : Group) (e : CollEntry) : State :=
  let size := grpSize s g
  let rank := grpRank s g
  match e.op with
  | 1 =>
    let s := copyOwn s g e.src (e.shardAt size rank) e.count
    let head := ownHeader s g e
    let s := match head.2 with | some h => versionCheck head.1 g e rank h | none => head.1
    if size = 1 then s else sendData s g false (succDev s g) e.src e.count head.2
  | 3 =>
    if rank ≠ e.peer then s
    else
      let s := copyOwn s g e.src e.dst e.count
      if size = 1 then s
      else if fbit s .xceGroupMcen g.val then sendData s g true (fget s .xceGroupMcast g.val) e.src e.count none
      else sendData s g false (succDev s g) e.src e.count none
  | 4 =>
    let s := copyOwn s g (e.src + rank * e.count) (e.dst + rank * e.count) e.count
    ((span 0 size).filter (· != rank)).foldl
      (fun s r =>
        let m := memberDev s g r
        sendData m.1 g false m.2 (e.src + r * e.count) e.count none) s
  | 5 =>
    let m := memberDev s g e.peer
    sendData m.1 g false m.2 e.src e.count none
  | _ => s

/-- An entry becomes active. -/
def activate' (s : State) (g : Group) (e : CollEntry) (fault : Option Nat) : State :=
  let x := s.group g
  let i := grpInst s g
  let s := s.setGroup g
    { entry := some e, poisonLater := x.poisonLater.filter (· != i), badLater := x.badLater.filter (·.1 != i)
      discards := x.discards, isSeal := x.isSeal }
  let s := fset (fset s .xceCstatState g.val 1) .xceCstatBlocks g.val 0
  match fault with
  | some off => fetchPoison s g e off
  | none =>
    let s := (x.badLater.filter (·.1 == i)).foldl (fun s b => poison s g 0x14 (xtagOf s g) b.2 (predRank s g) 0) s
    if x.poisonLater.contains i then stopEntry (poison s g 0x11 (xtagOf s g) 0 (predRank s g) 0) g
    else if e.reduces then settleColl s g e
    else startMove s g e

/-- The bytes of entry `i` of a group's list, when the partition's grants hold them. -/
def entryBytes (s : State) (g : Group) (i : Nat) : State × Option Bytes :=
  let at' := fget s .xceListBase g.val + 64 * i
  match grpPart s g with
  | none => (s, none)
  | some p =>
    if grantedRun s p at' 64 then
      let r := memRead s (grpAgent s g) (some p) at' 64
      (r.1, some r.2.1)
    else (s, none)

/-- A group of an enabled partition whose step runs, with an entry to fetch. -/
def fetchDue (s : State) (g : Group) : Bool :=
  match grpPart s g with
  | none => false
  | some p => grpState s g == 0 && decide (grpInst s g < grpCount s g) && decide (fget s .updSealState p.val ≤ 1) &&
      !fbit s .hstPartCtrlFence p.val

/-- The memory from which an entry reads; what of it is host memory is brought before the entry becomes active. -/
def CollEntry.reads (e : CollEntry) (size rank : Nat) : List (Nat × Nat) :=
  match e.op with
  | 1 => [(e.src, e.count)] ++ (if e.ver = 0 then [] else [(e.vhdr, 16)]) ++ (if e.ver = 2 then [(e.vlog, 16 * size)] else [])
  | 5 => [(e.src, e.count)]
  | 3 => if e.peer = rank then [(e.src, e.count)] else []
  | 4 => [(e.src, size * e.count)]
  | 6 => []
  | _ => (if e.contrib = 0 then [(e.src, 2816 * e.count)] else []) ++
      (if e.orec then [] else if e.scsrc = 2 then [(e.scale, 2 * e.count)]
        else if e.scsrc = 3 then [(e.scale, 8 * e.count)] else []) ++ [(e.wtab, 16 * e.count)]

/-- The XCE fetches the group's next entry, whose operation is `op` or reserved. -/
def fetchEntry (s : State) (g : Group) (op : Nat) : Host.Outcome State Fault Refusal :=
  if !fetchDue s g then idle s
  else
    let r := entryBytes s g (grpInst s g)
    match r.2 with
    | none => .next (activate' r.1 g (collEntryOf []) (some 0))
    | some b =>
      let e := collEntryOf b
      if e.op ≠ op ∧ e.op < 7 then idle s
      else
        match entryFault r.1 g (leNat b) e (grpInst s g) with
        | some off => .next (activate' r.1 g e (some off))
        | none =>
          match stageHost r.1 (grpPart s g) (.coll g) (e.reads (grpSize s g) (grpRank s g)) with
          | some t => .next t
          | none => .next (activate' r.1 g e none)

/-- REDUCE_SCATTER: the entry becomes active. -/
def execReduceScatter (g : Group) (s : State) : Host.Outcome State Fault Refusal := fetchEntry s g 0
/-- ALL_GATHER: the entry becomes active, and the own shard sets out round the ring. -/
def execAllGather (g : Group) (s : State) : Host.Outcome State Fault Refusal := fetchEntry s g 1
/-- ALL_REDUCE: the entry becomes active. -/
def execAllReduce (g : Group) (s : State) : Host.Outcome State Fault Refusal := fetchEntry s g 2
/-- BROADCAST: the entry becomes active, and the root sends. -/
def execBroadcast (g : Group) (s : State) : Host.Outcome State Fault Refusal := fetchEntry s g 3
/-- ALL_TO_ALL: the entry becomes active, and every slot sets out. -/
def execAllToAll (g : Group) (s : State) : Host.Outcome State Fault Refusal := fetchEntry s g 4
/-- SEND: the entry becomes active, and the message sets out. -/
def execSend (g : Group) (s : State) : Host.Outcome State Fault Refusal := fetchEntry s g 5
/-- RECV: the entry becomes active. -/
def execRecv (g : Group) (s : State) : Host.Outcome State Fault Refusal := fetchEntry s g 6

/-! ### BLOCK_READY (09 R192, R204, R207) -/

/-- The window with which the starter packs a block; none while an AGREED window is not yet known. -/
def starterWindow (s : State) (g : Group) (e : CollEntry) (b : Nat) : State × Option (Nat × Nat) :=
  if grpSize s g = 1 then (s, some (2, 0))
  else if e.agreed then (s, (s.group g).windows.find? (fun w => w.1 == b) |>.map (·.2))
  else
    let r := windowNow s g e b
    (r.1, some r.2)

/-- BLOCK_READY: the starter sends a block whose contribution is complete; under AGREED the pass of its extents goes
first. -/
def execBlockReady (g : Group) (block : Word) (s : State) : Host.Outcome State Fault Refusal :=
  let x := s.group g
  let b := block.toNat
  match x.entry with
  | none => idle s
  | some e =>
    let size := grpSize s g
    if !grpActive s g || x.stopped || !e.reduces || decide (e.count ≤ b) || x.sent.contains b ||
        (ownerOf e.count size b + 1) % size != grpRank s g || !ownReady s g e b then idle s
    else
      let w := starterWindow s g e b
      match w.2 with
      | some w' =>
        let h : HeldBlock :=
          { block := b, form := w'.1, w := w'.2, elems := [], cks := 0, ext := {}, hops := 0, eschop := 0x1FFFF, halves := 3 }
        .next (settleColl (hopBlock w.1 g e h) g e)
      | none =>
        if x.xsent.contains b then idle s
        else
          let own := ownPart (s.setGroup g { x with xsent := x.xsent ++ [b] }) g e b
          .next (sendNotices own.1 g 4 (succDev s g) 1 b [({} : ExtentX).take own.2.1])

end Sys2Proof.Machine
end

