-- ==== Sys2Proof/Machine/Seq.lean ====
section
/-! DEFINITION. The sequencer: starting and stopping a core, the sequencer operations of the four streams, waits,
PFENCE, MARK, SEAL, flags and work counters (05, 06 R150 to R152). -/

namespace Sys2Proof.Machine

/-! ### RUN (05 R100, R134) -/

/-- A core belongs to a core group of its partition; one in no group stays in CORE reset (12 R298). -/
def inCoreGroup (s : State) (c : Core) : Bool :=
  match partOfCore s c with
  | some p => (s.part p).img.groups.any fun m => bit m c.val
  | none => false

/-- The core's slot is retired, and held in CORE reset (17 R424). -/
def onRetired (s : State) (c : Core) : Bool := fbit s .pwrSlotRetired (68 * (dieOf c).val + fget s .rotCoreMapSlot c.val)

/-- The stream at its first word. -/
def StreamX.startAt (pc : Nat) : StreamX := { pc := pc, run := .running }

/-- The claims of a core go on to the counter, but nobody takes their answers. -/
def orphanClaims (c : Core) (q : List (Nat × CtrAsk)) : List (Nat × CtrAsk) :=
  q.map fun e =>
    match e.2 with
    | .claim c' _ n => if c' = c then (e.1, .orphan n) else e
    | _ => e

/-- The partition takes its snapshot of UPD_LIST at the first RUN after a reset (10 R219). Until its first release after the
reset, each core that starts counts among those that the step's gather waits for; after it, those that were RUNNING at the
release do (10 R218). DEDUCED, log 120. -/
def joinStep (s : State) (c : Core) : State :=
  match partOfCore s c with
  | none => s
  | some p =>
    let x := s.part p
    let x := if x.snapTaken then x
      else { x with snapTaken := true, snapList := (fget s .updListBase p.val, fget s .updListCount p.val) }
    s.setPart p { x with running :=
      if x.running.contains c || !x.history.isEmpty then x.running else x.running ++ [c] }

/-- RUN changes from 0 to 1 (05 R100). A LOST mark that waited for the next record goes with CORE_MARK_LOST: what was dropped
before RUN is not told of after it (05 R126 does not say). DESIGN CHOICE, log 145. -/
def startCore (s : State) (c : Core) : State :=
  let x := s.core c
  let s := s.setCore c { x with
    sm := .startAt (fget s .coreSeqCtrlStart c.val), sl := .startAt 0, ss := .startAt 0, sc := .startAt 0
    flags := [], answers := [], sealPhase := .none, sealWait := [], markLost := false }
  let s := { s with ctrQueue := orphanClaims c s.ctrQueue }
  let s := fclear s .coreIssueErrCode c.val
  let s := fclear s .coreIssueErrStream c.val
  let s := fclear s .coreIssueErrAddr c.val
  let s := fclear s .coreIssueErrField c.val
  let s := fclear s .coreMarkLostLost c.val
  let s := fset s .coreSeqStatusState c.val 1
  let s := joinStep s c
  allStreams.foldl (fun s st => reach s c st) s

/-- A write of CORE_SEQ_CTRL: START is stored; RUN starts the core on a change to 1 and stops issue on a 0. -/
def writeSeqCtrl (s : State) (c : Core) (run : Bool) (start : Nat) : State :=
  let s := fset s .coreSeqCtrlStart c.val start
  let was := fbit s .coreSeqCtrlRun c.val
  let s := fset s .coreSeqCtrlRun c.val (ofBool run)
  if run && !was && inCoreGroup s c && !onRetired s c then startCore s c
  else if !run && running s c then stopCore s c
  else s

/-! ### The sequencer operations (05 R102, R103, R113, R115, R121) -/

/-- Opening a loop: past the body for a count of 0, else into it with a new level. -/
def openLoop (x : StreamX) (imm count : Nat) : Nat × List LoopX :=
  if count = 0 then (imm + 1, x.loops) else (x.pc + 1, ⟨x.pc + 1, imm, count⟩ :: x.loops)

/-- The end of the innermost body: back while iterations are left. -/
def endLoop (x : StreamX) : Nat × List LoopX :=
  match x.loops with
  | [] => (x.pc + 1, [])
  | l :: r => if 1 < l.remain then (l.first, { l with remain := l.remain - 1 } :: r) else (x.pc + 1, r)

/-- The levels that a taken branch leaves open: those whose body contains the target. -/
def loopsAfterBranch (loops : List LoopX) (target : Nat) : List LoopX :=
  loops.filter fun l => decide (l.first ≤ target ∧ target ≤ l.last)

/-- The count of a LOOP (05 R102). -/
def loopCount (s : State) (c : Core) (w : WordX) (loops : List LoopX) : Nat :=
  match w.cond with
  | 0 => w.psel
  | 1 => bits (w.p s c) 0 32
  | _ => w.lcTaken s c

/-- The condition of a BR (05 R103). -/
def branchTaken (cond p : Nat) : Bool :=
  match cond with
  | 0 => true
  | 1 => p == 0
  | 2 => p != 0
  | 3 => decide (2 ^ 63 ≤ p)
  | _ => bits p 0 32 == 0xFFFF_FFFF

/-- The value that SETP writes (05 R102). -/
def setpValue (cond imm old : Nat) : Nat :=
  match cond with
  | 0 => wrap 64 (sext 16 imm)
  | k => putBits old (16 * k) 16 imm

def doNext (s : State) (c : Core) (st : Stream) : Host.Outcome State Fault Refusal :=
  seqOp s c st 0 fun w x => closeWord s c w (signalsNow w) id (x.pc + 1) x.loops false

/-- NEXT: continue at the next row. -/
def execNext (c : Core) (s : State) : Host.Outcome State Fault Refusal := doNext s c .m

/-- SNOP: flags only. -/
def execSnop (c : Core) (st : Stream) (s : State) : Host.Outcome State Fault Refusal :=
  if st = .m then idle s else doNext s c st

/-- LOOP: open a loop or skip its body. -/
def execLoop (c : Core) (st : Stream) (s : State) : Host.Outcome State Fault Refusal :=
  seqOp s c st 1 fun w x =>
    let t := openLoop x w.imm (loopCount s c w x.loops)
    closeWord s c w (signalsNow w) id t.1 t.2 false

/-- ENDL: the last word of the innermost body. -/
def execEndl (c : Core) (st : Stream) (s : State) : Host.Outcome State Fault Refusal :=
  seqOp s c st 2 fun w x =>
    let t := endLoop x
    closeWord s c w (signalsNow w) id t.1 t.2 false

/-- BR: continue at IMM if the condition holds. -/
def execBr (c : Core) (st : Stream) (s : State) : Host.Outcome State Fault Refusal :=
  seqOp s c st 3 fun w x =>
    if branchTaken w.cond (w.p s c) then
      closeWord s c w (signalsNow w) id w.imm (loopsAfterBranch x.loops w.imm) false
    else closeWord s c w (signalsNow w) id (x.pc + 1) x.loops false

/-- SETP: write P[PSEL] from IMM. -/
def execSetp (c : Core) (st : Stream) (s : State) : Host.Outcome State Fault Refusal :=
  seqOp s c st 4 fun w x =>
    closeWord s c w (signalsNow w) (fun t => pset t c w.psel (setpValue w.cond w.imm (w.p s c))) (x.pc + 1) x.loops false

/-- ADDP: add IMM to P[PSEL]. -/
def execAddp (c : Core) (st : Stream) (s : State) : Host.Outcome State Fault Refusal :=
  seqOp s c st 5 fun w x =>
    closeWord s c w (signalsNow w) (fun t => pset t c w.psel (wrap 64 ((w.p s c : Int) + sext 16 w.imm))) (x.pc + 1)
      x.loops false

/-- WORK: the claim goes to the counter; the word closes with the answer. -/
def execWork (c : Core) (st : Stream) (s : State) : Host.Outcome State Fault Refusal :=
  seqOp s c st 6 fun w _ =>
    let s := markDone s c st fun d => { d with claimed := true }
    { s with ctrQueue := s.ctrQueue ++ [(w.wcid, .claim c st w.imm)] }

/-- HALT: stop this stream after this word. -/
def execHalt (c : Core) (st : Stream) (s : State) : Host.Outcome State Fault Refusal :=
  seqOp s c st 7 fun w x => closeWord s c w true id x.pc x.loops true

/-- SETLC: CORE_LC[n].COUNT becomes IMM. -/
def execSetlc (c : Core) (s : State) : Host.Outcome State Fault Refusal :=
  seqOp s c .m 8 fun w x =>
    closeWord s c w (signalsNow w) (fun t => fset t .coreLcCount (c.val * 8 + w.cond) w.imm) (x.pc + 1) x.loops false

/-! ### Waits and the rendezvous (05 R119, R122) -/

/-- The stream's wait is the first at the flag's unit. -/
def firstWaiter (s : State) (f : FlagRef) (c : Core) (st : Stream) : Bool :=
  match f with
  | .loc _ _ => true
  | _ =>
    match s.waiters.find? (fun w => w.1 == f) with
    | some w => w.2.1 == c && w.2.2 == st
    | none => false

/-- The waits of one cycle at a local flag are served in the order M, L, S, C (05 R120). -/
def earlierLocal (s : State) (f : FlagRef) (c : Core) (st : Stream) : Bool :=
  match f with
  | .loc _ _ => allStreams.any fun st' => decide (streamNum st' < streamNum st) &&
      (match atWord s c st' true with
        | .word w => w.wait && !((s.core c).stream st').done.waited && flagRef c w.wflag == some f &&
            (w.wslack == 0 || w.wslack == 255)
        | _ => false)
  | _ => false

/-- The word's WAIT can be satisfied now, `cycles` after it reached issue. -/
def waitReady (s : State) (c : Core) (st : Stream) (cycles : Nat) (w : WordX) (d : WordDone) : Bool :=
  w.wait && !d.waited &&
    (match flagRef c w.wflag with
      | some f => decide (1 ≤ flagGet s f) && firstWaiter s f c st && !earlierLocal s f c st
      | none => false) &&
    (w.wslack == 255 || decide (w.wslack ≤ cycles))

/-- The flag is decremented, and SLIP is set after the slack. A word that then needs no rendezvous, no tracked slot and no room in
its engine has issued (06 R147, R153). -/
def waitEffect (s : State) (c : Core) (st : Stream) (cycles : Nat) (w : WordX) (f : FlagRef) : State :=
  let s := flagPut s f (flagGet s f - 1)
  let s := dropWaiter s c st
  let s := setStatusIf s (partOfCore s c) .slip (w.wslack != 255 && decide (w.wslack < cycles))
  let x := (s.core c).stream st
  let s := s.setCore c ((s.core c).setStream st { x with lastAnswer := flagGet s f })
  let now := !w.pfence && !(st == .m && feedDue s c w) && !(w.moves && !engineRoom s c w)
  let s := markReady s c st fun d => { d with waited := true }
  if now then issueWord s c w else s

/-- WAIT_SATISFIED: the flag is at least 1 and is decremented. The word's slack decides when it may issue and whether
SLIP is set; `cycles` have passed since the word reached issue. A word that would be refused as it issues is refused
here, and its flag keeps its value. -/
def execWaitSatisfied (c : Core) (st : Stream) (cycles : Nat) (s : State) : Host.Outcome State Fault Refusal :=
  match atWord s c st true with
  | .notThere => idle s
  | .refusedAs a ch => .next (refuse s c st a ch)
  | .word w =>
    let d := ((s.core c).stream st).done
    match flagRef c w.wflag with
    | none => idle s
    | some f =>
      if !waitReady s c st cycles w d then idle s
      else if w.pfence then .next (waitEffect s c st cycles w f)
      else
        match chooseCharge (allCharges s c st w (!(st == .m && feedDue s c w))) with
        | some ch => .next (refuse s c st w.addr ch)
        | none => .next (waitEffect s c st cycles w f)

/-- A stream stands at a word with PFENCE whose WAIT is satisfied. -/
def atFence (s : State) (c : Core) (st : Stream) : Bool :=
  match atWord s c st true with
  | .word w => let d := ((s.core c).stream st).done
    w.pfence && !d.fenced && (!w.wait || d.waited)
  | _ => false

/-- The rendezvous is made on one stream. -/
def fenceStream (c : Core) (s : State) (st : Stream) : State :=
  if ((s.core c).stream st).run = .halted then s else markReady s c st fun d => { d with fenced := true }

/-- Every dirty shadow entry is copied into its live register (05 R119). -/
def copyShadows (s : State) (c : Core) : State :=
  let s := (s.core c).dirty.foldl (fun s n => pset s c n (fget s .corePshadowValue (c.val * 256 + n))) s
  fset (s.setCore c { s.core c with dirty := [] }) .coreParamReadyReady c.val 0

/-- PFENCE_RENDEZVOUS: all four streams are there and READY is 1. -/
def execPfenceRendezvous (c : Core) (s : State) : Host.Outcome State Fault Refusal :=
  atPart s c .m
    (fun w d => w.pfence && !d.fenced && (!w.wait || d.waited) && fbit s .coreParamReadyReady c.val &&
      [Stream.l, Stream.s, Stream.c].all fun st => ((s.core c).stream st).run == .halted || atFence s c st)
    (fun _ => allStreams.foldl (fenceStream c) (copyShadows s c))

/-- FEED_SLOT_READY: the mark of the tracked slot that the feed enters is set. A mark found late sets SLIP unless
RSLACK is 255 (06 R147). `b` names the operand B. -/
def execFeedSlotReady (c : Core) (b : Bool) (cycles : Nat) (s : State) : Host.Outcome State Fault Refusal :=
  match atWord s c .m false with
  | .notThere => idle s
  | .refusedAs a ch => .next (refuse s c .m a ch)
  | .word w =>
    let x := s.core c
    let h := if b then w.hB (w.p s c) else w.hA (w.p s c)
    let enters := if b then entersB x w && !x.sm.done.feedB else entersA x w && !x.sm.done.feedA
    match h with
    | none => idle s
    | some h =>
      let d := Desc.of (descOf s c h)
      let r := x.ring h
      if issued w x.sm.done && enters && d.rtrack && r.full.contains r.feed && (d.rslack == 255 || d.rslack == 0 || decide (d.rslack ≤ cycles)) then
        let s := setStatusIf s (partOfCore s c) .slip (d.rslack != 255 && decide (d.rslack < cycles))
        .next (markReady s c .m fun d => if b then { d with feedB := true } else { d with feedA := true })
      else idle s

/-! ### MARK and SEAL (05 R126, R127; 14 R348) -/

/-- The service controller of a partition: that of the die of its lowest quarter. -/
def scOf (s : State) (p : Part) : Sc := ⟨(quartersOf s p).headD 0 / 4 % 4, Nat.mod_lt _ (by decide)⟩

/-- The 16 bytes of a MARK record. -/
def MarkRec.bytes (r : MarkRec) (c : Core) : Bytes :=
  leBytes 8 r.time ++ leBytes 2 r.addr ++ leBytes 2 r.imm ++ leBytes 1 c.val ++
    leBytes 1 (streamNum r.stream + 128 * ofBool r.lost) ++ leBytes 2 (r.step % 65536)

/-- A partition's loop ends with its call, by an error that a transfer for it met (13 R329; 14 R340). -/
def failLoop (s : State) (p : Part) (code detail : Nat) : State :=
  match (s.part p).loop with
  | none => s
  | some l =>
    finishCall (fset (s.setPart p { s.part p with loop := none }) .svcLoopLoop p.val 0) l.fn l.slot code detail []

/-- MARK_RECORD_PASS: the oldest record goes to the hub, which logs it while a loop runs and discards it otherwise. -/
def execMarkRecordPass (c : Core) (s : State) : Host.Outcome State Fault Refusal :=
  match (s.core c).marks with
  | [] => idle s
  | r :: rest =>
    let s := s.setCore c { s.core c with marks := rest }
    match partOfCore s c with
    | none => .next s
    | some p =>
      match (s.part p).loop with
      | none => .next s
      | some l =>
        if l.plogn = 0 then .next s
        else
          let k := fget s .svcLoopPlogcnt p.val
          let a := l.plog + 16 * (k % l.plogn)
          let t := fset (agentWrite s (.sc (scOf s p)) (some p) a (r.bytes c)) .svcLoopPlogcnt p.val (k + 1)
          .next (if hostTakes s a 16 then t else failLoop t p sDMAERR (lastSeq t))

/-- SEAL_WORD: the word with SEAL has issued. The core waits for what it issued before, and its partition drains. -/
def execSealWord (c : Core) (s : State) : Host.Outcome State Fault Refusal :=
  let x := s.core c
  if x.sealPhase ≠ .due then idle s
  else
    let s := s.setCore c { x with sealPhase := .held, sealWait := opsOut x }
    match partOfCore s c with
    | none => .next s
    | some p => .next (if fget s .updSealState p.val = 0 then fset s .updSealState p.val 1 else s)

/-- SEAL_REPORT: all of it has completed; the core reports its step status. -/
def execSealReport (c : Core) (s : State) : Host.Outcome State Fault Refusal :=
  let x := s.core c
  if x.sealPhase = .held ∧ (x.sealWait.any fun i => (opsOut x).contains i) = false ∧ x.pipe = [] then
    let s := s.setCore c { x with sealPhase := .reported, sealWait := [] }
    match partOfCore s c with
    | none => .next s
    | some p =>
      let y := s.part p
      .next (s.setPart p { y with reported := if y.reported.contains c then y.reported else y.reported ++ [c] })
  else idle s

/-- DIE_OR_DEVICE_FLAG_SIGNAL: the oldest signal on its way reaches its unit. A device flag fires the interrupts routed
to it (18 R434). -/
def execDieOrDeviceFlagSignal (s : State) : Host.Outcome State Fault Refusal :=
  match s.signals with
  | [] => idle s
  | f :: rest =>
    let s := flagAdd { s with signals := rest } f
    .next (match f with
      | .dev i => raise s (.flag i)
      | _ => s)

/-! ### Work counters (06 R150, R151) -/

/-- Take the first entry of a counter's queue. -/
def popCtr (w : Ctr) (q : List (Nat × CtrAsk)) : Option (CtrAsk × List (Nat × CtrAsk)) :=
  match q.find? fun e => e.1 == w.val with
  | some e => some (e.2, dropFirst (fun e => e.1 == w.val) q)
  | none => none

/-- One claim of `n`: the answer, and NEXT after it. -/
def fetchAdd (next limit n : Nat) : Nat × Nat :=
  if next < limit then (next, min (next + n) limit) else (0xFFFF_FFFF, next)

/-- NEXT becomes BASE. -/
def armCounter (s : State) (w : Nat) : State := fset s .hstWorkNext w (fget s .hstWorkBase w)

/-- The arms at the front of a counter's queue take effect. -/
def drainArms (w : Ctr) : Nat → State → State
  | 0, s => s
  | n + 1, s =>
    match popCtr w s.ctrQueue with
    | some (.arm, q) => drainArms w n (armCounter { s with ctrQueue := q } w.val)
    | _ => s

/-- One claim of `n` served: NEXT moves, and the answer goes to the core that asked, if it still waits. -/
def serveClaim (s : State) (w : Ctr) (n : Nat) (asker : Option (Core × Stream)) : State :=
  let a := fetchAdd (fget s .hstWorkNext w.val) (fget s .hstWorkLimit w.val) n
  let s := fset s .hstWorkNext w.val a.2
  match asker with
  | some (c, st) => s.setCore c { s.core c with answers := (s.core c).answers ++ [(st, a.1)] }
  | none => s

/-- WORK_FETCHADD: the counter serves the claim at the front of its queue, and the arms that stood behind it. -/
def execWorkFetchadd (w : Ctr) (s : State) : Host.Outcome State Fault Refusal :=
  let s := drainArms w s.ctrQueue.length s
  match popCtr w s.ctrQueue with
  | some (.claim c st n, q) => .next (drainArms w q.length (serveClaim { s with ctrQueue := q } w n (some (c, st))))
  | some (.orphan n, q) => .next (drainArms w q.length (serveClaim { s with ctrQueue := q } w n none))
  | _ => .next s

/-- WORK_ANSWER: the answer is written into P[PSEL] and the word closes. -/
def execWorkAnswer (c : Core) (st : Stream) (s : State) : Host.Outcome State Fault Refusal :=
  let x := s.core c
  match x.answers.find? (fun a => a.1 == st), fetchWord s c st (x.stream st).pc with
  | some a, some w =>
    if (x.stream st).done.claimed then
      let s := s.setCore c { x with answers := dropFirst (fun a => a.1 == st) x.answers }
      let s := pset s c w.psel a.2
      let s := if w.signal then signalFlag s c w.sflag else s
      let s := if w.seal then s.setCore c { s.core c with sealPhase := .due } else s
      .next (advance s c st ((x.stream st).pc + 1) (x.stream st).loops false)
    else idle s
  | _, _ => idle s

/-- An arm joins the counter's queue, and takes effect at once when nothing stands before it (06 R151). -/
def queueArm (s : State) (w : Ctr) : State :=
  let s := { s with ctrQueue := s.ctrQueue ++ [(w.val, .arm)] }
  drainArms w s.ctrQueue.length s

/-! ### The shadow set (05 R118) -/

/-- A write of CORE_PSHADOW[n]: stored and marked dirty, or discarded and logged while READY is 1. -/
def writeShadow (s : State) (c : Core) (n : Byte) (v off : Nat) : State :=
  if fbit s .coreParamReadyReady c.val then logRegister s (partOfCore s c) (.core c) off
  else
    let s := fset s .corePshadowValue (c.val * 256 + n.toNat) v
    let x := s.core c
    s.setCore c { x with dirty := if x.dirty.contains n.toNat then x.dirty else x.dirty ++ [n.toNat] }

/-- A write of CORE_PARAM_READY. -/
def writeReady (s : State) (c : Core) (ready : Bool) : State := fset s .coreParamReadyReady c.val (ofBool ready)

end Sys2Proof.Machine
end

