-- ==== Sys2Proof/Machine/Seal.lean ====
section
/-! DEFINITION. Sealing a step: the gather, the verdict, LOST and the queries to rank 0, and what follows a verdict
(10 R217 to R224, R455; 09 R215; 14 R346, R349; 16 R403). -/

namespace Sys2Proof.Machine

/-! ### Collectives discarded (09 R215) -/

def partGroups (s : State) (p : Part) : List Group := groupRange.filter fun g => grpPart s g == some p

/-- The host bytes brought for a group's active entry are used up. -/
def unstageEntry (s : State) (g : Group) : State :=
  match (s.group g).entry with
  | some e => if (s.group g).stopped then s
      else unstage s (e.reads (grpSize s g) (grpRank s g) ++
        (e.needs (grpSize s g) (grpRank s g)).map fun (r : Nat × Nat × Nat) => r.2)
  | none => s

/-- A group returns to entry 0 with nothing in flight. -/
def resetGroup (s : State) (g : Group) : State :=
  let s := unstageEntry s g
  let s := s.setGroup g {}
  fset (fset (fset s .xceCstatInst g.val 0) .xceCstatState g.val 0) .xceCstatBlocks g.val 0

/-- A reason for a request that is none of the groups'. -/
def orphaned (gs : List Group) (w : ReqFor) : ReqFor :=
  match w with
  | .coll g => if gs.contains g then .event else w
  | _ => w

/-- A packet of one of the groups' collectives. -/
def ofGroups (gs : List Group) (job : Nat) (q : Packet) : Bool :=
  q.type == tXCE && q.job.toNat == job && gs.any fun g => g.val == q.vc.toNat

/-- Every collective in flight on a partition is discarded: its lifts, and its packets that wait to leave this device or to be
taken here, are dropped. -/
def discardColl (s : State) (p : Part) : State :=
  let gs := partGroups s p
  let drops := ofGroups gs (s.part p).img.job
  let s := gs.foldl resetGroup s
  { s with
    lifts := tmap (fun _ => []) (fun _ l => l.filter fun x => !(gs.any fun g => g.val == x.xtag % 16)) s.lifts
    net := { s.net with
      held := s.net.held.filter fun h => orphaned gs h.2.2.1 == h.2.2.1
      inbox := s.net.inbox.filter fun e => !drops e.1
      inject := s.net.inject.filter fun q => !drops q
      out := (s.net.out.filter fun o => !(drops o.2.pkt && s.net.inject.contains o.2.pkt)).map fun o =>
        (o.1, { o.2 with why := orphaned gs o.2.why })
      dma := s.net.dma.map fun d => { d with why := orphaned gs d.why } } }

/-! ### The verdict (10 R217, R221, R224) -/

def sealState (s : State) (p : Part) : Nat := fget s .updSealState p.val
def setSealState (s : State) (p : Part) (v : Nat) : State := fset s .updSealState p.val v
def sealGroup (s : State) (p : Part) : Group := ⟨fget s .updSealSgrp p.val % 16, Nat.mod_lt _ (by decide)⟩

/-- The mask as it reads: bits 7 and 8 are 1, bits 3, 5, 6 and 10 are 0. -/
def fatalMask (v : Nat) : Nat :=
  let v := v % 2048 ||| 0x180
  v - (v &&& 0x468)
def maskOf (s : State) (p : Part) : Nat := fatalMask (fget s .updSealFatal p.val)

/-- A sum, given as an F64 code, is the number `n`. -/
def sumIs (code n : Nat) : Bool := (XVal.add (f64.decode code) (.fin (-(n : Int)) 0 false)).isZero

/-- The integer value of a sum. -/
def sumNat (code : Nat) : Nat :=
  match f64.decode code with
  | .fin m e _ => (rneInt m e).toNat
  | _ => 0

def PartX.sum (x : PartX) (e : Nat) : Nat := x.sums.getD e 0

/-- s_14 = P × m and s_15 = P × m². -/
def masksAgree (x : PartX) (size m : Nat) : Bool := sumIs (x.sum 14) (size * m) && sumIs (x.sum 15) (size * m * m)

/-- The rule of R221. -/
def cleanBy (x : PartX) (size m : Nat) : Bool :=
  sumIs (x.sum 13) size && sumIs (x.sum 12) size && sumIs (x.sum 11) 0 &&
    ((span 0 11).all fun b => !bit m b || sumIs (x.sum b) 0) && masksAgree x size m

/-- The summary of an ABORT (R224). -/
def abortSummary (s : State) (p : Part) : Bytes :=
  let x := s.part p
  let m := maskOf s p
  leBytes 2 ((span 0 16).foldl (fun a e => a + ofBool (!(f64.decode (x.sum e)).isZero) * 2 ^ e) 0) ++
    leBytes 3 (sumNat (x.sum 11) % 2 ^ 18) ++ leBytes 3 (sumNat (x.sum 12) % 2 ^ 18) ++
    leBytes 3 (sumNat (x.sum 13) % 2 ^ 18) ++
    leBytes 1 (ofBool (masksAgree x (grpSize s (sealGroup s p)) m) + 2 * ofBool x.fromRank0) ++ leBytes 2 m ++
    leBytes 10 0

/-- A partition's loop, SEAL or REPLAY ends: its results stand for CALL_COMPLETE to write (14 R346, R349, R354).
END is 0 STEPS, 1 CANCELLED, 2 HELD, 3 DATA. -/
def endLoopSvc (s : State) (p : Part) (ending : Nat) : State :=
  let x := s.part p
  match x.loop with
  | none => s
  | some l =>
    let step := fget s .updStepStep p.val
    let v := fget s .updSealVerdict p.val
    let out :=
      if l.replay then leBytes 1 v ++ leBytes 7 0 ++ leBytes 8 l.cks ++ leBytes 8 step
      else if l.single then leBytes 8 x.lastStep ++ leBytes 8 v
      else leBytes 8 l.committed ++ leBytes 8 step ++ leBytes 1 v ++ leBytes 1 ending ++ leBytes 6 0
    let s := s.setPart p { x with loop := none }
    finishCall (fset s .svcLoopLoop p.val 0) l.fn l.slot sOK 0 out

/-- The partitions whose commit is made by the Update Engine of a die, in order. -/
def engineOf (s : State) (p : Part) : Die := scOf s p

/-- What an Update Engine shows: the partition whose commit is its next one. -/
def showEngine (s : State) (d : Die) : State :=
  match s.hub.commits.find? fun q => if h : q < 16 then engineOf s ⟨q, h⟩ == d else false with
  | some q => fset (fset s .updEngineState d.val 2) .updEnginePart d.val q
  | none => fset s .updEngineState d.val 0

/-- CKWAIT ends once the buddy slot of the previous commit is VALID and no checkpoint runs (R224, R245; 14 R352); a fence holds
the partition in it (16 R395, R400). -/
def leaveCkwait (s : State) (p : Part) : State :=
  let x := s.part p
  if fbit s .hstPartCtrlFence p.val then s
  else if sealState s p = 3 ∧ (fbit s .updSealCken p.val = false ∨ x.buddyCopy = none) ∧ x.ckptBusy = false then
    let s := setSealState s p 4
    showEngine { s with hub := { s.hub with commits := s.hub.commits ++ [p.val] } } (engineOf s p)
  else s

/-- A notice that stands for the partition's job (16 R403). -/
def noticeStands (s : State) (p : Part) : Bool := s.hub.notices.any fun n => n.2 == (s.part p).img.job

/-- The batch at the cursor is fetched again (14 R350); past the end of the list there is none (14 R351). -/
def refetch (s : State) (p : Part) : State :=
  let x := s.part p
  let k := fget s .svcLoopCursor p.val
  match x.ingest with
  | none => s
  | some i => if i.nbatch ≤ k then s else
      s.setPart p { x with ingest := some { i with
        landed := i.landed.filter (· != k), fetching := k :: i.fetching.filter (· != k)
        entries := i.entries.filter fun e => e.1 != k } }

/-- What the loop makes of an ABORT (14 R346). -/
def loopAfterAbort (s : State) (p : Part) : State :=
  let x := s.part p
  match x.loop with
  | none => s
  | some l =>
    if l.cancelled then endLoopSvc s p 1
    else if !l.single && l.onabort && decide (l.tries < l.retries) then
      refetch (s.setPart p { x with loop := some { l with tries := l.tries + 1 }, releaseDue := some 1 }) p
    else endLoopSvc s p 2

/-- The result block of the seal collective has reached this rank: delivered by the owner, or landed in the gather. -/
def sumsHere (s : State) (p : Part) : Bool :=
  let g := sealGroup s p
  let x := s.group g
  x.isSeal && (if grpRank s g = 0 then x.sent.contains 0 else x.chunks.contains (0, 0))

/-- The sums that this rank received, as they stand at SBUF + 2,816 (R220, R224). -/
def takeSums (s : State) (p : Part) : State :=
  if sumsHere s p then
    let r := memRead s (.sc (scOf s p)) (some p) (fget s .updSealSbuf p.val + 2816) 256
    r.1.setPart p { r.1.part p with sums := (span 0 32).map fun e => field r.2.1 (8 * e) 8 }
  else s

/-- The verdict is ABORT: collectives are discarded, a record is written, and the partition waits in HELD. -/
def decideAbort (s : State) (p : Part) : State :=
  let s := takeSums s p
  let s := s.setPart p { s.part p with lastStep := fget s .updStepStep p.val, gathered := false, notYet := false }
  let s := fset (discardColl s p) .updSealVerdict p.val 2
  let s := record s .step .stop (some p) (.part p) .none 0 (.bytes (abortSummary s p))
  let s := setSealState s p 5
  let s := pfEvent s 1 p.val
  let vf := (s.part p).vf
  let s := if h : 0 < vf ∧ vf < 16 then msix s ⟨vf, h.2⟩ 1 else s
  loopAfterAbort (raise s (.held p)) p

/-- The verdict is CLEAN: the partition moves to CKWAIT. -/
def decideClean (s : State) (p : Part) : State :=
  let x := s.part p
  let s := s.setPart p { x with
    lastStep := fget s .updStepStep p.val, gathered := false, notYet := false
    loop := x.loop.map fun l => { l with ending := l.cancelled } }
  leaveCkwait (setSealState (fset s .updSealVerdict p.val 1) p 3) p

/-! ### LOST (10 R222, R455) -/

/-- Ask rank 0 for the verdict. -/
def askVerdict (s : State) (p : Part) : State :=
  let m := memberDev s (sealGroup s p) 0
  sendReq m.1 (some p) .event
    (blankReq tSVC (264 + (scOf s p).val) m.2 264 22 (s.part p).img.job 0 0x20
      (leBytes 8 (fget s .updStepStep p.val) ++ leBytes 8 0))

/-- The seal reached this rank damaged: rank 0 decides ABORT, any other rank enters LOST. -/
def enterLost (s : State) (p : Part) : State :=
  if grpRank s (sealGroup s p) = 0 then decideAbort s p
  else if noticeStands s p then decideAbort s p
  else askVerdict (setSealState (s.setPart p { s.part p with notYet := false }) p 6) p

/-- The seal collective has completed at this rank, and the sums that reached it are taken. -/
def sealDone (s : State) (p : Part) (poisoned : Bool) : State :=
  if sealState s p ≠ 2 then s
  else if poisoned then enterLost s p
  else if cleanBy (s.part p) (grpSize s (sealGroup s p)) (maskOf s p) then decideClean s p
  else decideAbort s p

/-! ### The gather (10 R218, R220) -/

/-- A core has sealed, halted or stopped (10 R218). -/
def coreDone (s : State) (p : Part) (c : Core) : Bool := (s.part p).reported.contains c || !running s c

/-- The XCE has reported: every listed collective of the step has completed (09 R195). -/
def xceReported (s : State) (p : Part) : Bool :=
  (partGroups s p).all fun g => !grpActive s g && decide (grpCount s g ≤ grpInst s g)

/-- The partition is ready to gather. -/
def readyToGather (s : State) (p : Part) : Bool :=
  let x := s.part p
  x.loop.isSome && x.releaseDue == none && decide (sealState s p ≤ 1) && !x.gathered && (x.prep.isSome || x.prepFailed) &&
    (x.running.all (coreDone s p)) && xceReported s p && !fbit s .hstPartCtrlFence p.val

/-- c_e of R220. -/
def contributions (s : State) (p : Part) : List Nat :=
  let x := s.part p
  let m := maskOf s p
  (span 0 11).map (fun b => bits (fget s .updStatusStatus p.val) b 1) ++
    [ofBool x.stopped, ofBool (!x.prepFailed), 1, m, m * m] ++ List.replicate 16 0

/-- The entry of the seal collective (R220). -/
def sealEntry (s : State) (p : Part) : CollEntry :=
  let b := fget s .updSealSbuf p.val
  { op := 2, agreed := true, ver := 0, orec := false, fmt := Fmt.f64.code, scsrc := 0, inst := grpCount s (sealGroup s p)
    sflag := 0xFFF, count := 1, contrib := 0, peer := 0, scale := 0, src := b, dst := b + 2816, wtab := b + 5120
    vlog := 0, vhdr := 0 }

/-- SEAL_GATHER: the records are written at SBUF and the seal collective becomes active. Under a standing FENCED notice
the verdict is ABORT at once. -/
def execSealGather (p : Part) (s : State) : Host.Outcome State Fault Refusal :=
  if !readyToGather s p then idle s
  else
    let s := s.setPart p { s.part p with gathered := true, sums := [], fromRank0 := false }
    let s := setSealState s p 2
    if noticeStands s p then .next (decideAbort s p)
    else
      let g := sealGroup s p
      let e := sealEntry s p
      let recs := ((contributions s p).map fun (c : Nat) => elemRecord ⟨(c : Int) * 2 ^ 304, .none, false, false⟩).flatten
      let fault := ((e.needs (grpSize s g) (grpRank s g)).find? fun r => !grantedRun s p r.2.1 r.2.2).map (·.1)
      let s := if fault.isNone then holdBytes (agentWrite s (.sc (scOf s p)) (some p) e.src recs) e.src recs else s
      let s := s.setGroup g { s.group g with isSeal := true }
      .next (activate' s g e fault)

/-! ### Verdicts over the fabric (10 R455) -/

/-- What rank 0 answers: 1 CLEAN, 2 ABORT, 0 NOT_YET, 3 OTHER. -/
def verdictFor (s : State) (p : Part) (step : Nat) : Nat :=
  let now := fget s .updStepStep p.val
  let v := fget s .updSealVerdict p.val
  if sealState s p = 2 ∧ now = step then 0
  else if v ≠ 0 ∧ (s.part p).lastStep = step then v
  else 3

/-- An SVC request at this device with the given operation: refused, or acknowledged and handed to a partition. -/
def svcFor (s : State) (q : Packet) (op : Nat) (act : State → Part → State) : Host.Outcome State Fault Refusal :=
  if q.type ≠ tSVC ∨ q.aux.toNat % 256 ≠ op ∨ !isForUs s q ∨ q.job.toNat = 0 then idle s
  else
    match destCheck s q (decide (q.data.length ≠ 16)) with
    | some code => .next (nak s q code)
    | none =>
      match partOfJob s q.job.toNat with
      | some p => .next (act (ackTo s q) p)
      | none => .next (nak s q nJOB)

/-- VERDICT_QUERY: the controller sends its verdict to the asking device. -/
def execVerdictQuery (q : Packet) (s : State) : Host.Outcome State Fault Refusal :=
  svcFor s q 0x20 fun s p =>
    let step := field q.data 0 8
    sendReq s (some p) .event
      (blankReq tSVC (264 + (scOf s p).val) q.srcDev.toNat 264 22 (s.part p).img.job 0 0x21
        (leBytes 8 step ++ leBytes 1 (verdictFor s p step) ++ leBytes 7 0))

/-- VERDICT_ANSWER: a rank in LOST adopts the verdict, asks again later, or stays LOST. -/
def execVerdictAnswer (q : Packet) (s : State) : Host.Outcome State Fault Refusal :=
  svcFor s q 0x21 fun s p =>
    if sealState s p = 6 ∧ field q.data 0 8 = fget s .updStepStep p.val then
      let from0 := fun (s : State) => s.setPart p { s.part p with fromRank0 := true }
      match field q.data 8 1 with
      | 1 => decideClean (from0 s) p
      | 2 => decideAbort (from0 s) p
      | 0 => s.setPart p { s.part p with notYet := true }
      | _ => s.setPart p { s.part p with notYet := false }
    else s

/-- VERDICT_QUERY_RETRY: on NOT_YET the rank asks again every 100 µs. -/
def execVerdictQueryRetry (p : Part) (elapsedUs : Nat) (s : State) : Host.Outcome State Fault Refusal :=
  if sealState s p = 6 ∧ (s.part p).notYet = true ∧ 100 ≤ elapsedUs then
    .next (askVerdict (s.setPart p { s.part p with notYet := false }) p)
  else idle s

end Sys2Proof.Machine
end

