-- ==== Sys2Proof/Machine/CollNet.lean ====
section
/-! DEFINITION. Collective packets as they arrive, and the completion of a collective (09 R190, R194, R195, R202, R206 to
R208, R212 to R215). -/

namespace Sys2Proof.Machine

/-! ### The common part of an arrival -/

/-- A packet that breaks a rule of the running collective: NAK MALFORMED, and the collective is poisoned (R202). -/
def badPacket (s : State) (q : Packet) (g : Group) (h : XHdr) : State :=
  let s := nak s q nMALFORMED
  poison s g 0x14 h.xtag h.block (predRank s g) 0

/-- A packet whose payload is malformed by itself poisons the collective it names, when the packet comes from the
group's own job and of this step: the active one now, one not yet active when it becomes so, and of one that this device
has completed the device sees the poison. -/
def badPayload (s : State) (q : Packet) (h : XHdr) : State :=
  let g : Group := ⟨h.group, Nat.mod_lt _ (by decide)⟩
  let own := match grpPart s g with
    | some p => (s.part p).img.job == q.job.toNat && h.step == fget s .updStepStep p.val % 65536
    | none => false
  let s' := nak s q nMALFORMED
  if !(own && q.pcrcOk && !q.malformed && h.group == q.vc.toNat && decide (32 ≤ q.data.length)) then s'
  else if h.inst < grpInst s g then seePoison s' g 0x14 h.xtag h.block (predRank s g)
  else if grpActive s g && grpInst s g == h.inst then poison s' g 0x14 h.xtag h.block (predRank s g) 0
  else
    let x := s'.group g
    if x.badLater.any (·.1 == h.inst) then s' else s'.setGroup g { x with badLater := x.badLater ++ [(h.inst, h.block)] }

/-- A packet with POISON set poisons the collective here too (R194). -/
def takePoison (s : State) (g : Group) (h : XHdr) : State :=
  if h.poison && !(s.group g).poisoned then
    poison s g 0x11 h.xtag h.block (predRank s g) 0
  else s

/-- A packet with a STEP that the device does not hold is dropped and counted; it damages a seal that is being gathered
(R215, 10 R222). -/
def staleStep (s : State) (q : Packet) (g : Group) (p : Part) : State :=
  let s := fbump (doneWith s q) .xceDropTallyDropped 0 1
  if sealState s p = 2 ∧ sealGroup s p = g then enterLost s p else s

/-- A RECV whose bytes do not fit COUNT poisons the collective here and, by a notice, at its partner (R212). It runs to its end:
bytes that still come and fit are written, but it awaits none (R194). -/
def wrongCount (s : State) (g : Group) (e : CollEntry) (block : Nat) : State :=
  if (s.group g).counted then s
  else
    let s := poison s g 0x16 (xtagOf s g) block (predRank s g) 0
    let m := memberDev (s.setGroup g { s.group g with counted := true }) g e.peer
    xceSend m.1 g false m.2 (blankHdr s g 6 0 0) []

/-- Every chunk of a message of `n` bytes from a rank has landed. -/
def landed (x : GroupX) (owner n : Nat) : Bool := (span 0 (ceilDiv n 2048)).all fun i => x.chunks.contains (owner, i)

/-- A packet of a later entry from the partner of the active RECV shows that the partner's SEND is complete: every
packet of it was acknowledged before (R193, R195), so bytes that have not come will not come. The packet itself waits. -/
def senderDone (q : Packet) (s : State) (g : Group) (h : XHdr) : Option State :=
  match (s.group g).entry with
  | some e =>
    if grpActive s g ∧ !(s.group g).stopped ∧ !(s.group g).counted ∧ e.op = 6 ∧ grpInst s g < h.inst ∧
        !landed (s.group g) e.peer e.count then
      let m := memberDev s g e.peer
      if m.2 = q.srcDev.toNat then some (wrongCount m.1 g e 0) else none
    else none
  | none => none

/-- A collective packet of one KIND at this device. `active` is its effect on the active entry, `past` on one that has
completed, `early` on one not yet active; none leaves the packet waiting. -/
def xceArrive (s : State) (q : Packet) (kind : Nat) (active : State → Group → CollEntry → XHdr → State)
    (past : State → Group → XHdr → State) (early : State → Group → XHdr → Option State) :
    Host.Outcome State Fault Refusal :=
  let h := xhdrOf q.data
  let bad := xceMalformed q.data
  if q.type ≠ tXCE ∨ !isForUs s q ∨ !(h.kind == kind || (kind == 1 && (h.kind == 0 || decide (6 < h.kind)))) then idle s
  else
    match destCheck s q bad with
    | some code => .next (if code = nMALFORMED then badPayload s q h else nak s q code)
    | none =>
      let g : Group := ⟨h.group, Nat.mod_lt _ (by decide)⟩
      if h.group ≠ q.vc.toNat then .next (nak s q nVC)
      else
        match grpPart s g with
        | none => .next (nak s q nJOB)
        | some p =>
          if h.step ≠ fget s .updStepStep p.val % 65536 then .next (staleStep s q g p)
          else if (s.group g).discards.contains h.inst then .next (ackTo s q)
          else if h.inst < grpInst s g then
            .next (past (if h.poison then seePoison s g 0x11 h.xtag h.block (predRank s g) else s) g h)
          else if grpInst s g < h.inst ∨ !grpActive s g then
            match early s g h with
            | some t => .next t
            | none =>
              match senderDone q s g h with
              | some t => .next t
              | none => idle s
          else
            match (s.group g).entry with
            | none => idle s
            | some e => .next (active s g e h)

/-- What a packet of a completed entry gets when nothing can use it: it is malformed, and the device sees the poison of the
collective that it names (R202). -/
def lateNak (q : Packet) (s : State) (g : Group) (h : XHdr) : State :=
  seePoison (nak s q nMALFORMED) g 0x14 h.xtag h.block (predRank s g)

/-- A packet of an entry not yet active waits. -/
def waitsEarly (_ : State) (_ : Group) (_ : XHdr) : Option State := none

/-! ### BLOCK packets (R202, R208) -/

/-- The packet's block may arrive at this hop. -/
def blockFits (s : State) (g : Group) (e : CollEntry) (h : XHdr) : Bool :=
  let size := grpSize s g
  let rank := grpRank s g
  let x := s.group g
  let due := hopsAt size rank (ownerOf e.count size h.block)
  e.reduces && decide (h.block < e.count) && h.hops == due && due != 0 && !x.sent.contains h.block &&
    (match x.held.find? fun b => b.block == h.block with
      | some b => h.form == 2 && b.form == 2 && !bit b.halves (ofBool h.half)
      | none => true)

/-- The packet's elements, its place among held blocks, and its LINK check. -/
def holdBlock (s : State) (g : Group) (h : XHdr) (body : Bytes) : State :=
  let st := if h.st then leNat (slice body 0 16) else 0
  let data := if h.st then body.drop 16 else body
  let half := ofBool h.half
  let l := unpackElems data h.form h.w half st
  let s := if ckOf (16 * half) l = h.cks then s else residueFault s g 0 h.block
  let x := s.group g
  let ext : ExtentX := { h.ext with esc := h.esc }
  let b : HeldBlock := (x.held.find? fun b => b.block == h.block).getD
    { block := h.block, form := h.form, w := h.w, elems := List.replicate 32 zeroElem, cks := 0, ext := ext
      hops := h.hops, eschop := h.eschop, halves := 0 }
  let elems := if h.form = 2 then
      (if h.half then b.elems.take 16 ++ l else l ++ b.elems.drop 16)
    else l
  let b := { b with elems := elems, cks := (b.cks + h.cks) % ckMod, halves := b.halves ||| 2 ^ half }
  s.setGroup g { x with held := x.held.filter (fun y => y.block != h.block) ++ [b] }

/-- BLOCK_PACKET: the block is checked, summed with this rank's contribution once that is complete, and goes on or is
delivered. -/
def execBlockPacket (q : Packet) (s : State) : Host.Outcome State Fault Refusal :=
  xceArrive s q 1 (fun s g e h =>
    if blockFits s g e h then settleColl (holdBlock (takePoison (ackTo s q) g h) g h (q.data.drop 32)) g e
    else badPacket s q g h) (lateNak q) waitsEarly

/-! ### Notices (R206, R207) -/

/-- The records of a notice. -/
def noticeRecords (q : Packet) (h : XHdr) : List ExtentX := (span 0 h.hops).map fun i => extentOf (field q.data (32 + 4 * i) 4)

/-- The blocks of a notice lie in the shard of rank `j`. -/
def inShard (s : State) (g : Group) (e : CollEntry) (j : Nat) (h : XHdr) : Bool :=
  let size := grpSize s g
  let a := shardFirst e.count size j
  e.reduces && decide (a ≤ h.block ∧ h.block + h.hops ≤ a + shardLen e.count size j)

/-- An EXTENT notice is recorded by the starter. -/
def takeExtents (q : Packet) (s : State) (g : Group) (e : CollEntry) (h : XHdr) : State :=
  storeWindows (ackTo s q) g e h.block (noticeRecords q h)

/-- EXTENT_NOTICE: the starter records the extents of its predecessor's shard in the plane not in force. -/
def execExtentNotice (q : Packet) (s : State) : Host.Outcome State Fault Refusal :=
  xceArrive s q 3 (fun s g e h =>
    if inShard s g e (predRank s g) h && !e.agreed then takeExtents q (takePoison s g h) g e h else badPacket s q g h)
    (fun s g h =>
      let r := entryBytes s g h.inst
      match r.2 with
      | some b =>
        let e := collEntryOf b
        if inShard r.1 g e (predRank s g) h && !e.agreed then takeExtents q r.1 g e h else lateNak q r.1 g h
      | none => lateNak q r.1 g h) waitsEarly

/-- XREC: a pass of extents takes this rank's contributions in, once they are complete, and goes on. -/
def execXrec (q : Packet) (s : State) : Host.Outcome State Fault Refusal :=
  xceArrive s q 4 (fun s g e h =>
    let j := ownerOf e.count (grpSize s g) h.block
    if inShard s g e j h && e.agreed && (j + 1) % grpSize s g != grpRank s g then
      let s := takePoison (ackTo s q) g h
      let x := s.group g
      settleColl (s.setGroup g { x with xheld := x.xheld ++ [(h.block, noticeRecords q h)] }) g e
    else badPacket s q g h) (lateNak q) waitsEarly

/-- ceil(log2 n). -/
def ceilLog2 (n : Nat) : Nat := if n ≤ 1 then 0 else (n - 1).log2 + 1

/-- AGREED_NOTICE: the starter takes the windows, and records the extents. -/
def execAgreedNotice (q : Packet) (s : State) : Host.Outcome State Fault Refusal :=
  xceArrive s q 5 (fun s g e h =>
    if inShard s g e (predRank s g) h && e.agreed then
      let l := noticeRecords q h
      let s := storeWindows (takePoison (ackTo s q) g h) g e h.block l
      let x := s.group g
      let ws := (List.zip (span h.block l.length) l).map fun r => (r.1, chooseWindow r.2 (ceilLog2 (grpSize s g) + 1) 0)
      s.setGroup g { x with windows := x.windows ++ ws }
    else badPacket s q g h) (lateNak q) waitsEarly

/-! ### DATA packets (R212, R214) -/

/-- The rank whose bytes a DATA packet carries, their address here and how many there are. A multicast reaches the root too
(11 R268). -/
def dataPlace (s : State) (g : Group) (e : CollEntry) (q : Packet) (h : XHdr) : State × Option (Nat × Nat × Nat) :=
  let size := grpSize s g
  let rank := grpRank s g
  let ring := decide (1 ≤ h.hops ∧ h.hops < size)
  let owner := (rank + size - h.hops) % size
  match e.op with
  | 1 => (s, if ring then some (owner, e.shardAt size owner, e.count) else none)
  | 2 => (s, if ring then some (owner, e.shardAt size owner, e.shardBytes size owner) else none)
  | 3 => (s, if rank = e.peer ∧ fbit s .xceGroupMcen g.val = false then none else some (e.peer, e.dst, e.count))
  | 4 =>
    let m := memberRank g q.srcDev.toNat ((span 0 size).filter (· != rank)) s
    (m.1, m.2.map fun r => (r, e.dst + r * e.count, e.count))
  | 6 =>
    let m := memberDev s g e.peer
    (m.1, if m.2 = q.srcDev.toNat then some (e.peer, e.dst, e.count) else none)
  | _ => (s, none)

/-- A DATA packet goes on round the ring. -/
def dataGoesOn (s : State) (g : Group) (e : CollEntry) (h : XHdr) : Bool :=
  let size := grpSize s g
  match e.op with
  | 1 | 2 => decide (h.hops + 1 < size)
  | 3 => !fbit s .xceGroupMcen g.val && (grpRank s g + 1) % size != e.peer
  | _ => false

/-- More bytes for a RECV that this device has completed: the poison is seen here and goes to the partner (R212). -/
def lateSurplus (s : State) (g : Group) (e : CollEntry) (h : XHdr) : State :=
  let s := seePoison s g 0x16 h.xtag h.block (predRank s g)
  let m := memberDev (s.setGroup g { s.group g with discards := h.inst :: (s.group g).discards }) g e.peer
  sendReq m.1 (grpPart s g) .event
    (xcePacket m.1 g false m.2 { blankHdr s g 6 0 0 with xtag := h.xtag, poison := true } [])

/-- A chunk of `n` bytes at `off` of a message of `total`. -/
def chunkFits (off n total : Nat) : Bool := decide (off < total) && n == min 2048 (total - off)

/-- The bytes of a DATA packet are checked, written, and sent on. -/
def landData (s : State) (g : Group) (e : CollEntry) (q : Packet) (h : XHdr) (dest : Nat × Nat × Nat) : State :=
  let body := q.data.drop 32
  let chunk := if h.v then body.drop 16 else body
  let s := takePoison (ackTo s q) g h
  let s := if ckWords body = h.cks then s else residueFault s g 0 h.block
  let s := agentWrite s (grpAgent s g) (grpPart s g) (dest.2.1 + 2048 * h.block) chunk
  let s := if h.v && e.op == 1 then versionCheck s g e dest.1 (slice body 0 16) else s
  let x := s.group g
  let s := if x.chunks.contains (dest.1, h.block) then s
    else fbump (s.setGroup g { x with chunks := x.chunks ++ [(dest.1, h.block)] }) .xceCstatBlocks g.val 1
  if dataGoesOn s g e h then xceSend s g false (succDev s g) { h with hops := h.hops + 1 } body else s

/-- A DATA packet of an entry that this device has completed: from the partner of a RECV it is a byte too many. -/
def lateData (q : Packet) (s : State) (g : Group) (h : XHdr) : State :=
  let r := entryBytes s g h.inst
  match r.2 with
  | some b =>
    let e := collEntryOf b
    let m := memberDev r.1 g e.peer
    if e.op = 6 ∧ m.2 = q.srcDev.toNat then lateSurplus (ackTo m.1 q) g e h else lateNak q m.1 g h
  | none => lateNak q r.1 g h

/-- DATA_PACKET: LINK check, write, and on round the ring unchanged. -/
def execDataPacket (q : Packet) (s : State) : Host.Outcome State Fault Refusal :=
  xceArrive s q 2 (fun s g e h =>
    let place := dataPlace s g e q h
    match place.2 with
    | none => badPacket place.1 q g h
    | some dest =>
      let n := q.data.length - 32 - (if h.v then 16 else 0)
      if chunkFits (2048 * h.block) n dest.2.2 then landData place.1 g e q h dest
      else if e.op = 6 then wrongCount (ackTo place.1 q) g e h.block
      else badPacket place.1 q g h) (lateData q) waitsEarly

/-! ### POISON notices (R194) -/

/-- POISON_NOTICE: the entry is poisoned and sends nothing more; for an entry not yet active the notice is kept. -/
def execPoisonNotice (q : Packet) (s : State) : Host.Outcome State Fault Refusal :=
  xceArrive s q 6 (fun s g _ h =>
    let s := ackTo s q
    let s := if (s.group g).poisoned then s else poison s g 0x11 h.xtag h.block (predRank s g) 0
    stopEntry s g) (fun s g h =>
      let s := ackTo (if h.poison then s else seePoison s g 0x11 h.xtag h.block (predRank s g)) q
      s.setGroup g { s.group g with discards := h.inst :: (s.group g).discards })
    (fun s g h =>
      let s := ackTo ((senderDone q s g h).getD s) q
      let x := s.group g
      some (if x.poisonLater.contains h.inst then s
        else s.setGroup g { x with poisonLater := x.poisonLater ++ [h.inst] }))

/-! ### Completion (R193, R195) -/

/-- The device has delivered or written everything it receives and sent every notice it owes. -/
def allReceived (s : State) (g : Group) (e : CollEntry) : Bool :=
  let x := s.group g
  let size := grpSize s g
  let rank := grpRank s g
  let others := (span 0 size).filter (· != rank)
  match e.op with
  | 0 => x.extentSent && (span 0 e.count).all x.sent.contains
  | 1 => others.all fun r => landed x r e.count
  | 2 => x.extentSent && (span 0 e.count).all x.sent.contains && others.all fun r => landed x r (e.shardBytes size r)
  | 3 => rank == e.peer || landed x e.peer e.count
  | 4 => others.all fun r => landed x r e.count
  | 6 => x.counted || landed x e.peer e.count
  | _ => true

/-- COLLECTIVE_COMPLETE: SFLAG is signalled and the VC moves to the next entry; the seal collective gives the verdict. -/
def execCollectiveComplete (g : Group) (s : State) : Host.Outcome State Fault Refusal :=
  let x := s.group g
  match x.entry with
  | none => idle s
  | some e =>
    if !grpActive s g || x.unacked != 0 || !(x.stopped || allReceived s g e) then idle s
    else
      let s := match if x.noFlag || e.sflag == 0xFFF then none else sflagRef s g e.sflag with
        | some f => { s with signals := s.signals ++ [f] }
        | none => s
      let s := match x.isSeal, grpPart s g with
        | true, some p => takeSums s p
        | _, _ => s
      let s := (unstageEntry s g).setGroup g
        { poisonLater := x.poisonLater, badLater := x.badLater
          discards := if x.counted then grpInst s g :: x.discards else x.discards }
      let s := fset s .xceCstatInst g.val (grpInst s g + 1)
      let s := fset s .xceCstatState g.val (if grpCount s g ≤ grpInst s g then 3 else 0)
      .next (match x.isSeal, grpPart s g with
        | true, some p => sealDone s p x.poisoned
        | _, _ => s)

end Sys2Proof.Machine
end

