-- ==== Sys2Proof/Machine/Link.lean ====
section
/-! DEFINITION. The links: flits and retry, flow control, lanes, training, and fabric time (11 R246 to R256, R272,
R273, R276 to R281). -/

namespace Sys2Proof.Machine

def portState (s : State) (n : Port) : Nat := fget s .sklPortStatusState n.val

/-- A port enters a state; a change of state is an event (18 R434). -/
def setPortState (s : State) (n : Port) (v : Nat) : State :=
  if portState s n = v then s else raise (fset s .sklPortStatusState n.val v) (.port n)

/-- A record about a link that is no violation (11 R256, R273, R279). -/
def linkRecord (s : State) (n : Port) (rule : Nat) (what : List Nat) : State :=
  record s .fabric .info none (.port n) .none 0 (.names rule what)

/-! ### The grandmaster (11 R278, R279) -/

/-- One grandmaster is better than another: lower priority number, then lower device ID. -/
def gmBetter (a b : Nat × Nat) : Bool := decide (a.1 < b.1 ∨ a.1 = b.1 ∧ a.2 < b.2)

/-- The port on which the best grandmaster is heard: then by the fewest hops, then by the lowest number. -/
def bestPort (s : State) : Option Port :=
  portRange.foldl (fun best n =>
    let x := s.port n
    if !x.heard || x.lastGmpri == 255 then best
    else match best with
      | none => some n
      | some m =>
        let y := s.port m
        if gmBetter (x.lastGmpri, x.lastGmid) (y.lastGmpri, y.lastGmid) ||
            (x.lastGmpri == y.lastGmpri && x.lastGmid == y.lastGmid && decide (x.lastHops < y.lastHops)) then some n
        else best) none

/-- The device itself may be grandmaster. -/
def ownGm (s : State) : Option (Nat × Nat) :=
  if fget s .sklTimeCtrlGmpri 0 = 255 ∨ devValid s = false then none else some (fget s .sklTimeCtrlGmpri 0, devId s)

/-- The parent port, if the best grandmaster is another device. -/
def parentPort (s : State) : Option Port :=
  match bestPort s, ownGm s with
  | some n, some me => if gmBetter ((s.port n).lastGmpri, (s.port n).lastGmid) me then some n else none
  | b, none => b
  | none, _ => none

/-- The choice of the grandmaster and of the parent. -/
def electGm (s : State) : State :=
  match parentPort s, ownGm s with
  | some n, _ =>
    let x := s.port n
    fset (fset (fset (fset s .sklTimeCtrlGm 0 0) .sklTimeCtrlParent 0 n.val) .sklTimeCtrlHops 0
      (min 255 (x.lastHops + 1))) .sklTimeCtrlGmid 0 x.lastGmid
  | none, some me =>
    fset (fset (fset (fset s .sklTimeCtrlGm 0 1) .sklTimeCtrlParent 0 0) .sklTimeCtrlHops 0 0) .sklTimeCtrlGmid 0 me.2
  | none, none =>
    fset (fset (fset (fset s .sklTimeCtrlGm 0 0) .sklTimeCtrlParent 0 0) .sklTimeCtrlHops 0 0) .sklTimeCtrlGmid 0 0

/-! ### Losing a link and retraining (11 R249, R256, R276) -/

/-- The port is lost: the requests it holds are answered NAK LINKDOWN, the answers are dropped and logged, the link starts
afresh, and a grandmaster heard on it is heard there no more (R276, R278). -/
def portLost (s : State) (n : Port) : State :=
  let x := s.port n
  let s := s.setPort n { x with
    nextTx := 0, expectRx := 0, retryWanted := false, resent := (0, 0), buffer := [], xoff := 0, flowDue := false
    queue := [], pkts := [], gotFlit := false, received := [], rxOpen := none, sentT1 := [], heard := false }
  let s := (span 0 48).foldl
    (fun s c => fset (fset s .sklChanOcc (chanIx n c) 0) .sklChanXoff (chanIx n c) 0) s
  let s := (x.pkts.map (·.2) ++ x.queue.map (·.pkt)).foldl (fun s p => nakAt s p nLINKDOWN n.val) s
  let s := x.queue.foldl (fun s w => leaveBuffer s w.hold) s
  if x.heard then electGm s else s

/-- The port goes DOWN or FAILED. -/
def portDown (s : State) (n : Port) (v : Nat) : State := portLost (setPortState s n v) n

/-- Training begins: TRAIN flits carry the device ID and the port number. -/
def beginTraining (s : State) (n : Port) : State :=
  emit (setPortState s n 1) (.link n 4 [devId s, n.val])

/-- The port retrains, and a record is written (11 R282). -/
def retrain (s : State) (n : Port) : State :=
  beginTraining (linkRecord (s.setPort n { s.port n with resent := (0, 0) }) n 256 [n.val]) n

/-- The optics are on: the port is enabled and shedding is below stage 5 (11 R281). -/
def opticsOn (s : State) (n : Port) : Bool := fabricOn s && fbit s .sklPortCtrlEn n.val && decide (fget s .pwrStatusStage 0 < 5)

/-- A port that is DOWN with light goes to TRAINING. -/
def lightUp (s : State) (n : Port) : State :=
  if portState s n = 0 ∧ (s.port n).light = true ∧ opticsOn s n = true then beginTraining s n else s

/-- The reservations do not fit the measured round trip (11 R273). -/
def resTooLarge (s : State) (n : Port) : Bool :=
  decide (8192 < ((span 0 48).foldl (fun a c => a + fget s .sklChanRes (chanIx n c)) 0) + fget s .sklPortStatusHead n.val)
    || decide (520 < fget s .sklPortStatusRtt n.val)

/-! ### Retry (11 R255, R256) -/

/-- Send a held flit again, with the acknowledgement of now. -/
def resendOne (n : Port) (s : State) (f : Nat × Flit) : State :=
  let x := s.port n
  emit s (.flit n (mkFlit f.1 f.2.ftype.toNat ((x.expectRx + 16383) % 16384) x.gotFlit f.2.sop f.2.content))

/-- Resend from an FSEQ on. -/
def resendFrom (s : State) (n : Port) (fseq : Nat) : State :=
  ((s.port n).buffer.dropWhile (·.1 != fseq)).foldl (resendOne n) s

/-- RETRY: the sender resends; the sixteenth resend of the same FSEQ makes the port retrain. -/
def execRetry (n : Port) (fseq : BitVec 14) (s : State) : Host.Outcome State Fault Refusal :=
  let x := s.port n
  if !portUp s n || !(x.buffer.any (·.1 == fseq.toNat)) then idle s
  else
    let k := if x.resent.1 = fseq.toNat then x.resent.2 + 1 else 1
    let s := resendFrom (s.setPort n { x with resent := (fseq.toNat, k) }) n fseq.toNat
    .next (if 16 ≤ k then retrain s n else s)

/-- The receiver asks for the flit it expects. -/
def askRetry (s : State) (n : Port) : State :=
  let x := s.port n
  fbump (emit (s.setPort n { x with retryWanted := true }) (.link n 1 [x.expectRx])) .sklLinkTallyRetry n.val 1

/-- RETRY_REPEAT: the receiver repeats RETRY every microsecond until the flit comes. -/
def execRetryRepeat (n : Port) (elapsedNs : Nat) (s : State) : Host.Outcome State Fault Refusal :=
  if portUp s n && (s.port n).retryWanted && decide (1000 ≤ elapsedNs) then .next (askRetry s n) else idle s

/-- An acknowledgement frees the flits it covers. -/
def takeAck (s : State) (n : Port) (f : Flit) : State :=
  let x := s.port n
  if f.ackv && x.buffer.any (·.1 == f.ackseq.toNat) then
    let rest := (x.buffer.dropWhile (·.1 != f.ackseq.toNat)).drop 1
    s.setPort n { x with
      buffer := rest, pkts := x.pkts.filter fun p => rest.any (·.1 == p.1)
      resent := if rest.any (·.1 == x.resent.1) then x.resent else (0, 0) }
  else s

/-- What may go now that there is room or a channel is XON. -/
def portRun (s : State) (n : Port) : State :=
  portGo (if (s.port n).flowDue then flowOut s n else s) n

/-- The flow channel that a packet's first flit names. -/
def Flit.chanOf (f : Flit) : Nat := 2 * (field f.content 14 1 % 32) + bits (field f.content 1 1) 2 1

/-- A flit in its place: FLOW gives the peer's XOFF state, DATA fills its channel. Flits of a packet that the router has
taken already are discarded up to the next SOP, as are those on a VC that does not exist (R282). -/
def takeFlit (s : State) (n : Port) (f : Flit) : State :=
  let x := s.port n
  let x := { x with expectRx := (x.expectRx + 1) % 16384, gotFlit := true, retryWanted := false }
  if f.ftype = 2 then s.setPort n { x with xoff := field f.content 0 6 }
  else if f.sop then
    let c := Flit.chanOf f
    if c < 48 then
      chanFill (s.setPort n { x with
        received := x.received ++ [{ id := x.rxCount, chan := c, flits := 1 }], rxCount := x.rxCount + 1, rxOpen := some x.rxCount }) n c
    else s.setPort n { x with rxOpen := none }
  else
    match x.received.find? fun r => some r.id == x.rxOpen && !r.taken with
    | some r => chanFill (s.setPort n { x with
        received := mapFirst (fun r' => r'.id == r.id) (fun r' => { r' with flits := r'.flits + 1 }) x.received }) n r.chan
    | none => s.setPort n x

/-- FLIT_RECEIVE: a sequenced flit is taken only if it is the next expected and intact; otherwise it is discarded and
RETRY is sent. An intact flit acknowledges. An IDLE flit acknowledges what has been taken when no other flit goes out. -/
def execFlitReceive (n : Port) (f : Flit) (s : State) : Host.Outcome State Fault Refusal :=
  if !portUp s n then idle s
  else
    let ok := f.crcOk && f.decoded
    let next := (s.port n).nextTx
    let taken := (f.ftype == 0 || f.ftype == 2) && ok && f.fseq.toNat == (s.port n).expectRx
    let s := if ok then takeAck s n f else s
    let s :=
      if taken then takeFlit s n f
      else if (f.ftype = 0 ∨ f.ftype = 2) ∧ (s.port n).retryWanted = false then askRetry s n
      else s
    let s := portRun s n
    .next (if taken && (s.port n).nextTx == next then sendIdle s n else s)

/-- FLOW: the peer's XOFF state of every channel. -/
def execFlow (n : Port) (xoff : BitVec 48) (s : State) : Host.Outcome State Fault Refusal :=
  if portUp s n then .next (portRun (s.setPort n { s.port n with xoff := xoff.toNat }) n) else idle s

/-! ### Spare lanes (11 R251, R252) -/

/-- SKL_SPARE_MAP of one direction and spare. -/
def setSpareMap (s : State) (n : Port) (tx : Bool) (spare lane : Nat) (en : Bool) : State :=
  let v := ofBool en
  match tx, spare with
  | true, 0 => fset (fset s .sklSpareMapTx0 n.val lane) .sklSpareMapTx0en n.val v
  | true, _ => fset (fset s .sklSpareMapTx1 n.val lane) .sklSpareMapTx1en n.val v
  | false, 0 => fset (fset s .sklSpareMapRx0 n.val lane) .sklSpareMapRx0en n.val v
  | false, _ => fset (fset s .sklSpareMapRx1 n.val lane) .sklSpareMapRx1en n.val v

/-- Spares may be put to use: shedding below stage 2 (11 R281). -/
def sparesOn (s : State) : Bool := decide (fget s .pwrStatusStage 0 < 2)

/-- SKL_SPARE_MAP of one direction shows the substitutions in force. -/
def showSpares (s : State) (n : Port) (tx : Bool) : State :=
  let l := if tx then (s.port n).swapsTx else (s.port n).swapsRx
  [0, 1].foldl (fun s k =>
    match l.find? fun w => w.spare == k && w.active with
    | some w => setSpareMap s n tx k w.lane true
    | none => setSpareMap s n tx k 0 false) s

/-- LANESWAP: the transmitter carries the lane on the spare as well. A substitution asked for or in force already, a
spare in use, and spares powered down change nothing. -/
def execLaneswap (n : Port) (lane : Fin 32) (spare : Fin 2) (count : BitVec 10) (s : State) :
    Host.Outcome State Fault Refusal :=
  let x := s.port n
  if !portUp s n || !sparesOn s || x.lanesTx.contains (32 + spare.val) || x.swapsTx.any (fun w => w.spare == spare.val) then
    idle s
  else .next (s.setPort n { x with
    swapsTx := (x.swapsTx.filter fun w => w.active || w.lane != lane.val) ++ [{ lane := lane.val, spare := spare.val, count := count.toNat, active := false }] })

/-- LANESWAP_REPEAT: the receiver repeats its request every 4 µs. -/
def execLaneswapRepeat (n : Port) (elapsedNs : Nat) (s : State) : Host.Outcome State Fault Refusal :=
  if portUp s n ∧ 4000 ≤ elapsedNs then
    .next (((s.port n).swapsRx.filter fun w => !w.active).foldl
      (fun s w => emit s (.link n 2 [w.lane, w.spare, w.count])) s)
  else idle s

/-- The substitutions after one of them takes force: its lane leaves the spare on which it was. -/
def swapOn (l : List SwapX) (w : SwapX) : List SwapX := (l.filter fun y => y.lane != w.lane) ++ [{ w with active := true }]

/-- The receiver's physical lane that a physical lane of the peer lights: its own number, but for a cable that permutes
fibres (19 R445). -/
def PortX.fibre (x : PortX) (lane : Nat) : Nat := x.fibres.getD lane lane

/-- LANE_SWITCH: at the interval whose CWC is the switch count, the lane moves to the spare. -/
def execLaneSwitch (n : Port) (tx : Bool) (spare : Fin 2) (cwc : BitVec 10) (s : State) :
    Host.Outcome State Fault Refusal :=
  let x := s.port n
  let mine := fun (w : SwapX) => w.spare == spare.val && !w.active && w.count == cwc.toNat
  let l := if tx then x.swapsTx else x.swapsRx
  match portUp s n, l.find? mine with
  | true, some w =>
    let s := s.setPort n (if tx then
        { x with swapsTx := swapOn l w, lanesTx := setAt x.lanesTx w.lane (32 + w.spare) }
      else { x with swapsRx := swapOn l w, lanesRx := setAt x.lanesRx w.lane (x.fibre (32 + w.spare)) })
    .next (showSpares s n tx)
  | _, _ => idle s

/-- LLANE as this receiver sees it on a physical lane: the logical lane whose codewords the lane carries, or is about to carry
(R247, R251). The peer's lanes 32 and 33 are the spares. -/
def laneCarried (x : PortX) (lane : Nat) : Option Nat :=
  match x.swapsRx.find? fun w => !w.active && x.fibre (w.spare + 32) == lane with
  | some w => some w.lane
  | none => (span 0 x.lanesRx.length).find? fun i => x.lanesRx.getD i 0 == lane

/-- LANE_FAIL: a lane that lost its lock, exceeds the skew of 16 codewords or counts too many corrected symbols fails.
The receiver asks for a spare, or the port retrains. -/
def execLaneFail (n : Port) (lane : Fin 34) (lockLost : Bool) (skew corrected : Nat) (cwc : BitVec 10) (s : State) :
    Host.Outcome State Fault Refusal :=
  if !portUp s n then idle s
  else
    let s := fbump s .sklLinkTallyCsym n.val corrected
    let bad := lockLost || decide (16 < skew) || decide (fget s .sklPortCtrlSpthr n.val < corrected)
    let x := s.port n
    if !bad || x.badRx.contains lane.val then .next s
    else
      let x := { x with badRx := sortSet (lane.val :: x.badRx) }
      match laneCarried x lane.val with
      | none => .next (s.setPort n x)
      | some l =>
        let free := [0, 1].find? fun k =>
          !x.badRx.contains (x.fibre (32 + k)) && !x.lanesRx.contains (x.fibre (32 + k)) &&
            !x.swapsRx.any fun w => w.spare == k
        match free, sparesOn s with
        | some k, true =>
          let c := (cwc.toNat + 64) % 1024
          let s := s.setPort n { x with
            swapsRx := (x.swapsRx.filter fun w => w.active || w.lane != l) ++ [{ lane := l, spare := k, count := c, active := false }] }
          .next (emit s (.link n 2 [l, k, c]))
        | _, _ => .next (retrain (s.setPort n x) n)

/-! ### Training (11 R249, R250, R272, R273) -/

/-- TRAIN: the peer's ID and port and the round trip are recorded, with the headroom that the round trip needs. -/
def execTrain (n : Port) (peerDev : BitVec 17) (peerPort : BitVec 3) (rttNs : Nat) (s : State) :
    Host.Outcome State Fault Refusal :=
  if portState s n ≠ 1 then idle s
  else
    let rtt := min rttNs 1023
    let s := fset (fset s .sklPortStatusPeerdev n.val peerDev.toNat) .sklPortStatusPeerport n.val peerPort.toNat
    .next (fset (fset s .sklPortStatusRtt n.val rtt) .sklPortStatusHead n.val (ceilDiv (rtt * 25) 4 + 18))

/-- LIGHT_DETECT: an enabled port that is DOWN begins to train. -/
def execLightDetect (n : Port) (s : State) : Host.Outcome State Fault Refusal :=
  .next (lightUp (s.setPort n { s.port n with light := true }) n)

/-- LIGHT_LOSS: the port goes DOWN; a FAILED port stays FAILED. -/
def execLightLoss (n : Port) (s : State) : Host.Outcome State Fault Refusal :=
  let s := s.setPort n { s.port n with light := false }
  .next (if portState s n = 0 ∨ portState s n = 5 then s else portDown s n 0)

/-- What a port does on coming UP: the retry buffer is resent, then what waits goes. -/
def portCameUp (s : State) (n : Port) : State := portRun ((s.port n).buffer.foldl (resendOne n) s) n

/-- The lanes that training may use: the good ones; of the spares, under shedding stage 2, only those in use (11 R281). -/
def usableLanes (s : State) (good : Nat) (swaps : List SwapX) : List Nat :=
  (span 0 34).filter fun i => bit good i && (decide (i < 32) || sparesOn s || swaps.any fun w => w.active && w.spare + 32 == i)

/-- The physical lane of each logical lane: 32 of them, each on its own lane or, where that is bad, on the next spare; or
16 of them, on the good lanes in order. -/
def placeLanes (l : List Nat) (full : Bool) : List Nat :=
  if full then
    let gone := (span 0 32).filter fun i => !l.contains i
    (span 0 32).map fun i => if l.contains i then i else (l.filter (32 ≤ ·)).getD (gone.findIdx (· == i)) i
  else l.take 16

/-- The substitutions that a placement makes. -/
def placedSwaps (l : List Nat) : List SwapX :=
  ((span 0 l.length).filter fun i => decide (32 ≤ l.getD i 0)).map fun i =>
    { lane := i, spare := l.getD i 0 - 32, count := 0, active := true }

/-- The peer's physical lanes that arrive good. -/
def RxLanes.lit (r : RxLanes) : Nat :=
  (span 0 34).foldl (fun a i => a + ofBool (bit r.good.toNat (r.fibres.getD i i)) * 2 ^ i) 0

/-- TRAINING_DONE: with 32 good lanes in each direction the port is UP, with 16 UP16; it is in CONFIG_ERR when its
reservations do not fit the round trip. -/
def execTrainingDone (n : Port) (goodTx : BitVec 34) (seen : RxLanes) (s : State) : Host.Outcome State Fault Refusal :=
  let tx := usableLanes s goodTx.toNat (s.port n).swapsTx
  let rx := usableLanes s (RxLanes.lit seen) (s.port n).swapsRx
  let good := min tx.length rx.length
  if portState s n ≠ 1 ∨ good < 16 then idle s
  else
    let full := decide (32 ≤ good) && !fbit s .sklPortCtrlForce16 n.val
    let s := s.setPort n { s.port n with
      fails := 0, badRx := (span 0 34).filter fun i => !bit seen.good.toNat i, fibres := seen.fibres
      lanesTx := placeLanes tx full, lanesRx := (placeLanes rx full).map fun l => seen.fibres.getD l l
      swapsTx := placedSwaps (placeLanes tx full), swapsRx := placedSwaps (placeLanes rx full) }
    let s := showSpares (showSpares s n true) n false
    if resTooLarge s n then
      .next (linkRecord (setPortState s n 4) n 273 [n.val, fget s .sklPortStatusRtt n.val])
    else
      .next (portCameUp (setPortState s n (if full then 2 else 3)) n)

/-- TRAINING_TIMEOUT: after 20 ms without success the port is DOWN, and FAILED the eighth time in a row. -/
def execTrainingTimeout (n : Port) (elapsedUs : Nat) (s : State) : Host.Outcome State Fault Refusal :=
  if portState s n ≠ 1 ∨ elapsedUs < 20000 then idle s
  else
    let k := (s.port n).fails + 1
    let s := s.setPort n { s.port n with fails := if 8 ≤ k then 0 else k }
    .next (portDown s n (if 8 ≤ k then 5 else 0))

/-! ### Fabric time (11 R277 to R279) -/

/-- Fabric time in quarters of a nanosecond, in which the timestamps of beacons are taken (11 R277). -/
def timeQuarters (s : State) : Int := 4 * (timeNow s : Int) + s.net.slewPart / 250

/-- Twice the offset, in quarters of a nanosecond, that a parent's beacon at T4 gives, when it answers a beacon of this device's own. -/
def offset2 (x : PortX) (b : BeaconMsg) : Option Int :=
  match tget (fun _ => 0) x.sentT1 b.rseq.toNat with
  | 0 => none
  | t1 + 1 =>
    let t2 : Int := b.t2.toNat
    let t3 : Int := b.t3.toNat
    let t4 : Int := b.t4.toNat
    some (2 * t3 + ((t4 - t1) - (t3 - t2)) - 2 * t4)

/-- The device steers toward its parent's time: in one step before the first lock, by slewing after it. -/
def steer (s : State) (n : Port) (b : BeaconMsg) : State :=
  match offset2 (s.port n) b with
  | none => s
  | some d =>
    if fbit s .sklTimeCtrlLocked 0 then { s with net := { s.net with slew := d * 125 } }
    else
      let t := (timeNow s : Int) * 1000 + s.net.slewPart + d * 125
      fset (fset { s with net := { s.net with slewPart := t % 1000 } } .sklTimeNow 0 (t / 1000).toNat) .sklTimeCtrlLocked 0 1

/-- BEACON: what it says is kept, the grandmaster is chosen anew, and a parent's beacon steers the counter. -/
def execBeacon (n : Port) (b : BeaconMsg) (s : State) : Host.Outcome State Fault Refusal :=
  if !portUp s n then idle s
  else
    let s := s.setPort n { s.port n with
      heard := true, lastBseq := b.bseq.toNat, lastGmpri := b.gmpri.toNat, lastGmid := b.gmid.toNat
      lastHops := b.hops.toNat, lastRx := b.t4.toNat }
    let s := electGm s
    .next (if parentPort s = some n then steer s n b else s)

/-- BEACON_SEND: the port sends its beacon (R277). -/
def execBeaconSend (n : Port) (s : State) : Host.Outcome State Fault Refusal :=
  if !portUp s n then idle s
  else
    let x := s.port n
    let k := (x.bseq + 1) % 256
    let t := (timeQuarters s).toNat
    let gm := match parentPort s, ownGm s with
      | some m, _ => ((s.port m).lastGmpri, (s.port m).lastGmid, min 255 ((s.port m).lastHops + 1))
      | none, some me => (me.1, me.2, 0)
      | none, none => (255, 0, 0)
    let s := s.setPort n { x with bseq := k, sentT1 := tset (fun _ => 0) x.sentT1 k (t + 1) }
    .next (sendLink s n ([3] ++ leBytes 1 gm.1 ++ leBytes 3 gm.2.1 ++ leBytes 1 gm.2.2 ++ leBytes 1 k ++
      leBytes 1 x.lastBseq ++ leBytes 8 t ++ leBytes 8 x.lastRx))

/-- GRANDMASTER_ELECTION: the grandmaster's beacons have been absent for 64 µs, and a new election runs. -/
def execGrandmasterElection (silentNs : Nat) (s : State) : Host.Outcome State Fault Refusal :=
  match parentPort s with
  | some n =>
    if silentNs < 64000 then idle s
    else
      let gm := ((s.port n).lastGmpri, (s.port n).lastGmid)
      .next (electGm (portRange.foldl (fun s m =>
        let x := s.port m
        if x.heard && (x.lastGmpri, x.lastGmid) == gm then s.setPort m { x with heard := false } else s) s))
  | none => idle s

/-- TIME_OFFSET_ALARM: an offset of more than 1 µs that lasts 1 ms is recorded. -/
def execTimeOffsetAlarm (offsetNs : Int) (lastedUs : Nat) (s : State) : Host.Outcome State Fault Refusal :=
  if 1000 < offsetNs.natAbs ∧ 1000 ≤ lastedUs then
    .next (record s .fabric .info none .router .none 0 (.names 279 [offsetNs.natAbs]))
  else idle s

end Sys2Proof.Machine
end

