-- ==== Sys2Proof/Machine/Fabric.lean ====
section
/-! DEFINITION. Packets at the router and at this device's endpoints, the answers to its requests, epochs, and notices of
fences (11 R257 to R269, R274, R276, R282; 16 R396, R402, R403). -/

namespace Sys2Proof.Machine

/-! ### Routing -/

/-- The router takes the first packet of a flow channel that an input port's buffer holds. -/
def takeHeld (s : State) (n : Port) (c : Nat) : State × Option (Port × Nat) :=
  match (s.port n).received.find? fun r => r.chan == c && !r.taken with
  | none => (s, none)
  | some r =>
    (s.setPort n { s.port n with
      received := mapFirst (fun r' => r'.id == r.id) (fun r' => { r' with taken := true }) (s.port n).received }, some (n, r.id))

/-- What the router does with a packet that an input port's buffer holds. A packet too long or not ended where LEN says, and
one on a disabled channel, go no further (11 R273, R282). -/
def judgeHeldPacket (s : State) (n : Port) (p : Packet) (hold : Option (Port × Nat)) (xoffNs : List Nat) : State :=
  if 2112 < p.len.toNat ∨ p.ends = false then nakAt s p nMALFORMED n.val
  else if p.chan < 48 ∧ fget s .sklChanRes (chanIx n p.chan) = 0 then nakAt s p nVC n.val
  else route s (.port n) p hold xoffNs

/-- A packet from a port: the buffer holds it until it has gone where it goes (11 R272). -/
def fromPort (s : State) (n : Port) (p : Packet) (xoffNs : List Nat) : State :=
  let h := takeHeld s n p.chan
  leaveBuffer (judgeHeldPacket h.1 n p h.2 xoffNs) h.2

/-- PACKET_ROUTE: a packet of the device's own enters in its channel's order; one from a port stands in its buffer. -/
def execPacketRoute (src : Ingress) (p : Packet) (xoffNs : List Nat) (s : State) : Host.Outcome State Fault Refusal :=
  match src with
  | .port n => .next (fromPort s n p xoffNs)
  | .own =>
    if s.net.inject.find? (fun q => q.chan == p.chan) = some p then
      .next (route { s with net := { s.net with inject := dropFirst (· == p) s.net.inject } } .own p none xoffNs)
    else idle s

/-! ### Requests at an endpoint -/

/-- The partition whose status a fabric access concerns. -/
def accessPart (s : State) (q : Packet) : Option Part := destPart s q

/-- WRITE: checked, written, and acknowledged once the memory has acknowledged. -/
def execWrite (q : Packet) (s : State) : Host.Outcome State Fault Refusal :=
  if q.type ≠ tWRITE ∨ !isForUs s q then idle s
  else
    match destCheck s q false with
    | some code => .next (nak s q code)
    | none => .next (ackTo (agentWrite s .fabric (accessPart s q) q.addr.toNat q.data) q)

/-- READ: checked, read, and answered with the data, or with NAK UNCORRECTABLE. Host memory is asked first. -/
def execRead (q : Packet) (s : State) : Host.Outcome State Fault Refusal :=
  if q.type ≠ tREAD ∨ !isForUs s q then idle s
  else
    match destCheck s q false with
    | some code => .next (nak s q code)
    | none =>
      let p := accessPart s q
      let runs := [(q.addr.toNat, q.aux.toNat)]
      match stageHost s p .event runs with
      | some t => .next t
      | none =>
        let r := memRead s .fabric p q.addr.toNat q.aux.toNat
        let s := unstage r.1 runs
        .next (if r.2.2 then nak s q nUNCORRECTABLE else answer s q tREADDATA 0 r.2.1)

/-- SVC_REQUEST: a request to a service controller that has no command of its own is checked and acknowledged. -/
def execSvcRequest (q : Packet) (s : State) : Host.Outcome State Fault Refusal :=
  if q.type ≠ tSVC ∨ !isForUs s q ∨ [0x20, 0x21, 0x10, 0x12].contains (q.aux.toNat % 256) then idle s
  else
    match destCheck s q false with
    | some code => .next (nak s q code)
    | none =>
      if q.job = 0 ∧ !(q.vc.toNat == 22 && isFm s q.srcDev.toNat q.srcEp.toNat) then .next (nak s q nNOTOWNER)
      else .next (ackTo s q)

/-! ### Notices of fences (16 R402, R403) -/

/-- A notice has come to a partition's job: a gather and a wait in LOST end in ABORT. -/
def noticeHits (s : State) (job : Nat) : State :=
  partRange.foldl (fun s p =>
    if (s.part p).enabled && (s.part p).img.job == job && (sealState s p == 2 || sealState s p == 6) then decideAbort s p
    else s) s

/-- A notice is accepted from the registered fabric manager alone. -/
def noticeAt (s : State) (q : Packet) (op : Nat) (act : State → Nat → Nat → State) : Host.Outcome State Fault Refusal :=
  if q.type ≠ tSVC ∨ !isForUs s q ∨ q.aux.toNat % 256 ≠ op then idle s
  else
    match destCheck s q (decide (q.data.length ≠ 16)) with
    | some code => .next (nak s q code)
    | none =>
      if q.job ≠ 0 ∨ q.vc.toNat ≠ 22 ∨ !isFm s q.srcDev.toNat q.srcEp.toNat then .next (nak s q nNOTOWNER)
      else
        let dev := field q.data 0 4 % 2 ^ 17
        let s := ackTo s q
        .next (if devValid s && dev == devId s then s else act s dev (field q.data 4 2))

/-- FENCED_NOTICE: the notice stands until lifted. -/
def execFencedNotice (q : Packet) (s : State) : Host.Outcome State Fault Refusal :=
  noticeAt s q 0x10 fun s dev job =>
    let s := { s with hub := { s.hub with notices := (dev, job) :: s.hub.notices.filter (· != (dev, job)) } }
    noticeHits s job

/-- UNFENCED_NOTICE: it ends the notice of the same device and job. -/
def execUnfencedNotice (q : Packet) (s : State) : Host.Outcome State Fault Refusal :=
  noticeAt s q 0x12 fun s dev job =>
    { s with hub := { s.hub with notices := s.hub.notices.filter (· != (dev, job)) } }

/-! ### Answers (11 R259, R269, R274, R276, R282) -/

/-- Where the bytes that a partition reads over the fabric are kept until they are used. -/
def fabKey (p : Part) (a : Nat) : Nat := (p.val + 1) * 2 ^ 60 + a

/-- Put bytes with the staged ones. -/
def stageBytes (s : State) (key : Nat) (b : Bytes) : State :=
  { s with net := { s.net with
      staged := tsetAll (fun _ => none) s.net.staged ((List.zip (span key b.length) b).map fun e => (e.1, some e.2)) } }

/-- A NAK on behalf of a running step: a record, and CHECKSUM (11 R276). -/
def stepNak (s : State) (p : Option Part) (code : Nat) (q : Packet) : State :=
  setStatus (record s .fabric .step p .router (.code q.type.toNat) code (.names 276 [q.tag.toNat])) p .checksum

/-- What a NAK does to the requester. -/
def takeNak (s : State) (o : OutReq) (code : Nat) : State :=
  match o.why with
  | .coll g =>
    let s := stepNak s o.part code o.pkt
    let h := xhdrOf o.pkt.data
    poison s g 0x15 h.xtag h.block (grpRank s g) code
  | .engine _ _ _ => stepNak s o.part code o.pkt
  | .buddy p =>
    match (s.part p).buddyCopy with
    | some b => s.setPart p { s.part p with buddyCopy := some { b with failed := true } }
    | none => s
  | .call f k =>
    if code = nUNCORRECTABLE then
      let s := record s .fabric .info o.part .router (.code o.pkt.type.toNat) code (.names 276 [o.pkt.tag.toNat])
      finishCall s f k sMEMERR (lastSeq s) []
    else finishCall s f k sNOTFOUND 0 []
  | .probe f k r => onCall s f k fun c => { c with probe := c.probe.filter fun e => e.1 != r }
  | _ => s

/-- A request is answered for good. -/
def requestOver (s : State) (o : OutReq) : State :=
  match o.why with
  | .coll g => s.setGroup g { s.group g with unacked := (s.group g).unacked - 1 }
  | .buddy p =>
    match (s.part p).buddyCopy with
    | some b => s.setPart p { s.part p with buddyCopy := some { b with left := b.left - 1 } }
    | none => s
  | .call f k => onCall s f k fun c => { c with waiting := c.waiting - 1 }
  | .probe f k r => onCall s f k fun c => { c with
      probe := c.probe.map fun e => if e.1 = r ∧ e.2.2 = 0 then (r, e.2.1, timeNow s - e.2.1 + 1) else e }
  | _ => s

/-- What an answer brings. -/
def takeData (s : State) (o : OutReq) (q : Packet) : State :=
  if q.type = tNAK then takeNak s o q.aux.toNat
  else if q.type = tREADDATA then
    match o.why, o.part with
    | .call _ _, some p => stageBytes s (fabKey p o.pkt.addr.toNat) q.data
    | _, _ => s
  else s

/-- A congestion mark is counted, and the rate of the VC is halved, to a floor of 1/64 of one port's rate, below which a
rate stays as it is; VC22 and VC23 are never throttled (11 R274). -/
def takeMark (s : State) (q : Packet) : State :=
  if q.type = tACK ∧ bit q.aux.toNat 0 = true then
    let v := q.vc.toNat
    let r := fget s .sklInjRate v
    fbump (if v < 22 then fset s .sklInjRate v (max (min r 97) (r / 2)) else s) .sklInjMarks v 1
  else s

/-- The outstanding request of a tag. -/
def outOf (s : State) (tag : Nat) : Option OutReq := (s.net.out.find? fun o => o.1 == tag).map (·.2)
def dropOut (s : State) (tag : Nat) : State :=
  { s with net := { s.net with out := s.net.out.filter fun o => o.1 != tag } }

/-- An answer at the requester: a tag not outstanding or quarantined makes it a stray. -/
def takeAnswer (s : State) (q : Packet) (type : Byte) : Host.Outcome State Fault Refusal :=
  if q.type ≠ type ∨ !isForUs s q then idle s
  else
    match destCheck s q false with
    | some code => .next (nak s q code)
    | none =>
      let tag := q.tag.toNat
      match outOf s tag with
      | none => .next (doneWith (fabViol s nSTRAY (cameBy s q) q) q)
      | some o =>
        if o.quarantine ≠ 0 then
          let s := doneWith (fabViol s nSTRAY (cameBy s q) q) q
          if o.quarantine = 1 then .next (pump (dropOut s tag)) else .next s
        else
          let s := takeMark (takeData (doneWith s q) o q) q
          if 1 < o.leaves then
            .next { s with net := { s.net with
              out := mapFirst (fun e => e.1 == tag) (fun e => (tag, { o with leaves := o.leaves - 1 })) s.net.out } }
          else .next (pump (requestOver (dropOut s tag) o))

/-- READ_DATA at the requester. -/
def execReadData (q : Packet) (s : State) : Host.Outcome State Fault Refusal := takeAnswer s q tREADDATA

/-- ACK at the requester. -/
def execAck (q : Packet) (s : State) : Host.Outcome State Fault Refusal := takeAnswer s q tACK

/-- NAK at the requester. -/
def execNak (q : Packet) (s : State) : Host.Outcome State Fault Refusal := takeAnswer s q tNAK

/-- An outstanding request is answered locally with NAK TIMEOUT, and its tag is quarantined: 1 by a fence, 2 at a drain
limit (11 R267, 16 R395, R396). -/
def localNak (s : State) (tag kind : Nat) : State :=
  match outOf s tag with
  | none => s
  | some o =>
    let s := { s with net := { s.net with
      out := mapFirst (fun e => e.1 == tag) (fun e => (tag, { o with quarantine := kind })) s.net.out } }
    requestOver (takeNak (fbump s .sklViolTallyCount nTIMEOUT 1) o nTIMEOUT) o

/-- QUARANTINE_EXPIRE: a tag answered at a fence is free again after 100 ms. -/
def execQuarantineExpire (tag : BitVec 13) (elapsedMs : Nat) (s : State) : Host.Outcome State Fault Refusal :=
  match outOf s tag.toNat with
  | some o => if o.quarantine = 1 ∧ 100 ≤ elapsedMs then .next (pump (dropOut s tag.toNat)) else idle s
  | none => idle s

/-! ### Epochs (11 R265 to R267) -/

/-- The tags that await an answer. -/
def awaited (s : State) : List Nat := (s.net.out.filter fun o => o.2.quarantine == 0).map (·.1)

/-- The epoch turns: tags quarantined by the drain before are free, DONE goes to the fabric manager, and injection
resumes. `keep` are the tags that this drain has quarantined. -/
def flipEpoch (s : State) (keep : List Nat) : State :=
  let e := !epochNow s
  let s := fset (fset s .sklEpochEpoch 0 (ofBool e)) .sklEpochDraining 0 0
  let s := { s with net := { s.net with
    out := s.net.out.filter fun o => o.2.quarantine != 2 || keep.contains o.1 } }
  if fmKnown s then
    let done := blankReq tEPOCH 268 (fget s .hstOwnPolicyFmdev 0) (fget s .hstOwnPolicyFmep 0) 23 0 0 (ofBool e + 2) []
    pump { s with net := { s.net with held := (done, none, .event, 1) :: s.net.held } }
  else pump s

/-- EPOCH_FLIP: every request of the epoch in force has been answered. -/
def execEpochFlip (s : State) : Host.Outcome State Fault Refusal :=
  if draining s && (awaited s).isEmpty then .next (flipEpoch s []) else idle s

/-- DRAIN_LIMIT: the drain has lasted its limit; what is outstanding is answered locally and the epoch flips. Shedding
stage 4 holds the packets, and the drain waits under the same limit. -/
def execDrainLimit (elapsedUs : Nat) (s : State) : Host.Outcome State Fault Refusal :=
  if !draining s || decide (elapsedUs < fget s .sklEpochDrainLimit 0) then idle s
  else
    let tags := awaited s
    let s := fset s .sklEpochExpired 0 (satAdd 16 (fget s .sklEpochExpired 0) tags.length)
    let s := record s .fabric .info none .router .none nTIMEOUT (.names 267 [tags.length])
    .next (flipEpoch (tags.foldl (fun s t => localNak s t 2) s) tags)

/-- An EPOCH packet of a KIND at this device, from the fabric manager. -/
def epochAt (s : State) (q : Packet) (kind : Nat) (act : State → Bool → Option State) : Host.Outcome State Fault Refusal :=
  if q.type ≠ tEPOCH ∨ !isForUs s q ∨ bits q.aux.toNat 1 2 ≠ kind then idle s
  else
    match destCheck s q false with
    | some code => .next (nak s q code)
    | none =>
      if !isFm s q.srcDev.toNat q.srcEp.toNat then .next (nak s q nNOTOWNER)
      else
        match act s (bit q.aux.toNat 0) with
        | some t => .next (ackTo t q)
        | none => .next (nak s q nMALFORMED)

/-- EPOCH_ARM: the drain toward the epoch named begins. -/
def execEpochArm (q : Packet) (s : State) : Host.Outcome State Fault Refusal :=
  epochAt s q 0 fun s e =>
    if e = epochNow s ∨ draining s = true then some s
    else if bankState s e ≠ 2 then none
    else some (fset s .sklEpochDraining 0 1)

/-- EPOCH_DONE: this device takes none. -/
def execEpochDone (q : Packet) (s : State) : Host.Outcome State Fault Refusal := epochAt s q 1 fun _ _ => none

/-- Set the state of a routing bank. -/
def setBank (s : State) (e : Bool) (v : Nat) : State :=
  if e then fset s .sklEpochBank1 0 v else fset s .sklEpochBank0 0 v

/-- EPOCH_RETIRE: the bank of the epoch not in force is RETIRED. -/
def execEpochRetire (q : Packet) (s : State) : Host.Outcome State Fault Refusal :=
  epochAt s q 2 fun s e =>
    if e = epochNow s ∨ draining s = true ∨ bankState s e = 1 ∨ bankState s e = 3 then none
    else some (setBank s e 0)

/-- INJECTION_RATE_RAISE: after 5 µs without a mark, the rate rises by 1/64 of a port's rate, up to CAP. -/
def execInjectionRateRaise (vc : Vc) (sinceCmeNs : Nat) (s : State) : Host.Outcome State Fault Refusal :=
  if vc.val < 22 ∧ 5000 ≤ sinceCmeNs then
    .next (fset s .sklInjRate vc.val (min (fget s .sklInjRate vc.val + 97) (fget s .sklInjCap vc.val)))
  else idle s

end Sys2Proof.Machine
end

