-- ==== Sys2Proof/Machine/Crypto.lean ====
section
/-! DEFINITION. The cryptographic functions that the root of trust names by their standards (15 R362 to R364, R377): SHA-384
and what is built on it, and the two signature schemes as constants without a value. -/

namespace Sys2Proof.Machine

/-! ### SHA-384 (FIPS 180-4) -/

/-- The primes below 410, 80 of them: none of the numbers up to 20 divides them but themselves. -/
def somePrimes : List Nat := (span 2 408).filter fun n => (span 2 19).all fun d => n % d != 0 || n == d

/-- The largest number of `n` more bits above `r` whose power `k` is at most `x`. -/
def rootFrom (k x : Nat) : Nat → Nat → Nat
  | 0, r => r
  | n + 1, r => rootFrom k x n (if (r + 2 ^ n) ^ k ≤ x then r + 2 ^ n else r)

/-- The first 64 bits of the fraction of the `k`th root of a number below 512. -/
def rootFraction (k p : Nat) : BitVec 64 := BitVec.ofNat 64 (rootFrom k (p * 2 ^ (64 * k)) 69 0)

/-- The round constants, from the cube roots of the first 80 primes. -/
def shaRoundConst : List (BitVec 64) := somePrimes.map (rootFraction 3)

/-- The initial hash value of SHA-384, from the square roots of the ninth to the sixteenth prime. -/
def shaInit : List (BitVec 64) := ((somePrimes.drop 8).take 8).map (rootFraction 2)

/-- The message schedule, newest word first. -/
def shaSchedule : Nat → List (BitVec 64) → List (BitVec 64)
  | 0, r => r
  | n + 1, r =>
    let a := r.getD 14 0
    let b := r.getD 1 0
    let s0 := a.rotateRight 1 ^^^ a.rotateRight 8 ^^^ a >>> 7
    let s1 := b.rotateRight 19 ^^^ b.rotateRight 61 ^^^ b >>> 6
    shaSchedule n ((s1 + r.getD 6 0 + s0 + r.getD 15 0) :: r)

/-- One round. -/
def shaRound (h : List (BitVec 64)) (kw : BitVec 64 × BitVec 64) : List (BitVec 64) :=
  match h with
  | [a, b, c, d, e, f, g, x] =>
    let t1 := x + (e.rotateRight 14 ^^^ e.rotateRight 18 ^^^ e.rotateRight 41) + ((e &&& f) ^^^ (~~~e &&& g)) + kw.1 + kw.2
    let t2 := (a.rotateRight 28 ^^^ a.rotateRight 34 ^^^ a.rotateRight 39) + ((a &&& b) ^^^ (a &&& c) ^^^ (b &&& c))
    [t1 + t2, a, b, c, d + t1, e, f, g]
  | h => h

/-- One block of 128 bytes. -/
def shaBlock (h : List (BitVec 64)) (b : Bytes) : List (BitVec 64) :=
  let w := (span 0 16).map fun i => BitVec.ofNat 64 (beNat (slice b (8 * i) 8))
  let w := (shaSchedule 64 w.reverse).reverse
  List.zipWith (· + ·) h ((List.zip shaRoundConst w).foldl shaRound h)

/-- Fold the blocks of a padded message. -/
def shaBlocks : Nat → List (BitVec 64) → Bytes → List (BitVec 64)
  | 0, h, _ => h
  | n + 1, h, b => shaBlocks n (shaBlock h (b.take 128)) (b.drop 128)

def sha384 (b : Bytes) : Bytes :=
  let z := (239 - b.length % 128) % 128
  let m := b ++ [0x80] ++ List.replicate z 0 ++ beBytes 16 (8 * b.length)
  ((shaBlocks (m.length / 128) shaInit m).map fun w => beBytes 8 w.toNat).flatten.take 48

/-! ### HMAC and HKDF (RFC 2104, RFC 5869) -/

def hmac384 (key msg : Bytes) : Bytes :=
  let k := slice (if 128 < key.length then sha384 key else key) 0 128
  sha384 (k.map (· ^^^ 0x5C) ++ sha384 (k.map (· ^^^ 0x36) ++ msg))

/-- The first output block of HKDF-Expand, 48 bytes. -/
def hkdf384 (prk info : Bytes) : Bytes := hmac384 prk (info ++ [1])

/-- The bytes of an ASCII text. -/
def ascii (t : String) : Bytes := t.toList.map fun c => BitVec.ofNat 8 c.toNat

end Sys2Proof.Machine
end

