-- ==== Sys2Proof/Machine/Trust.lean ====
section
/-! DEFINITION. Signed images, keys, fuses and flash contents (15 R360 to R369, R379, R380, R384). -/

namespace Sys2Proof.Machine

/-! ### Image types (15 R365) -/

def iBOOT : Nat := 1
def iFIRMWARE : Nat := 2
def iSTRUCTURE : Nat := 3
def iTESTS : Nat := 4
def iPOLICY : Nat := 5
def iENROL : Nat := 6
def iREVOKE : Nat := 7

/-- The reason codes of ROT_BOOT_STATUS. -/
def rFORMAT : Nat := 1
def rDIGEST : Nat := 2
def rKEYHASH : Nat := 3
def rREVOKED : Nat := 4
def rED25519 : Nat := 5
def rMLDSA : Nat := 6
def rCOUNTER : Nat := 7
def rROLLBACK : Nat := 8
def rSLOT : Nat := 9
def rSHEDDING : Nat := 10
def rINTERRUPTED : Nat := 11
def rRANGE : Nat := 12

def targetId : Nat := 0x06400004

/-! ### The header of an image (15 R362) -/

def imgSvn (b : Bytes) : Nat := field b 12 4
def imgPlen (b : Bytes) : Nat := field b 16 4
def imgSigoff (b : Bytes) : Nat := field b 20 4
def imgPayload (b : Bytes) : Bytes := slice b 128 (imgPlen b)
def imgBuild (b : Bytes) : Nat := field b 24 8
def imgTbs (b : Bytes) : Bytes := sha384 (slice b 0 128)
/-- Signature block `k`. -/
def sigBlock (b : Bytes) (k : Nat) : Bytes := slice b (imgSigoff b + 5376 * k) 5376
/-- The bytes that an image takes, by its header. -/
def imgSize (b : Bytes) : Nat := imgSigoff b + 5376 * field b 7 1

/-- The header obeys R362, and the padding up to the signatures is zero. -/
def headerOk (b : Bytes) (type : Nat) : Bool :=
  let nsig := field b 7 1
  field b 0 4 == 0x49535645 && field b 4 2 == 1 && field b 6 1 == type && (nsig == 1 || nsig == 2) &&
    field b 8 4 == targetId && decide (imgSvn b ≤ 64) && decide (imgPlen b ≤ 2 ^ 24) &&
    imgSigoff b == ceilDiv (128 + imgPlen b) 16 * 16 && field b 80 48 == 0 &&
    field b (128 + imgPlen b) (imgSigoff b - 128 - imgPlen b) == 0 &&
    (!(type == iENROL || type == iREVOKE) || imgSvn b == 0)

/-! ### Signature blocks (15 R363) -/

def blkKind (s : Bytes) : Nat := field s 0 1
def blkSlot (s : Bytes) : Nat := field s 1 1
def blkEdKey (s : Bytes) : Bytes := slice s 16 32
def blkMlKey (s : Bytes) : Bytes := slice s 48 1952
def keyHash (s : Bytes) : Nat := leNat (sha384 (slice s 16 1984))
/-- The block obeys R363. -/
def blkOk (s : Bytes) : Bool :=
  field s 2 14 == 0 && field s 5373 3 == 0 && decide (blkSlot s < 4) && (blkKind s != 2 || blkSlot s == 0)
def edOk (s tbs : Bytes) : Bool := Config.ed25519Verify (blkEdKey s) tbs (slice s 2000 64)
def mlOk (s tbs : Bytes) : Bool := Config.mldsaVerify (blkMlKey s) tbs (slice s 2064 3309)

/-! ### Keys in force (15 R366, R367) -/

def FuseX.ownerSlot (f : FuseX) : Option Nat :=
  [3, 2, 1, 0].find? fun k => bit f.ownerEnrolled k && !bit f.ownerRevoked k
def FuseX.ownerKey (f : FuseX) : Option Nat := f.ownerSlot.map fun k => f.ownerHash.getD k 0
def FuseX.vendorKey (f : FuseX) (k : Nat) : Nat := f.vendorHash.getD k 0
/-- The SVN counter of a type. -/
def FuseX.svnOf (f : FuseX) (type : Nat) : Nat :=
  match type with
  | 1 => f.svnBoot
  | 2 => f.svnFw
  | 4 => f.svnTests
  | 3 => f.svnStruct
  | 5 => f.svnStruct
  | _ => 0

/-- The KIND that must sign an image first: 1 VENDOR, 2 SELF, 3 OWNER. -/
def primaryKind (type : Nat) (b : Bytes) : Nat :=
  if type = iBOOT ∨ type = iFIRMWARE ∨ type = iTESTS then 1
  else if type = iREVOKE then (if field (imgPayload b) 0 1 = 3 then 3 else 1)
  else 2

/-- The type needs the owner's countersignature when an owner key is in force. -/
def needsCounter (type : Nat) (b : Bytes) : Bool := !(type == iREVOKE && field (imgPayload b) 0 1 == 3)

/-- The checks of R364 in their order: the reason of the first that fails, or 0. -/
def verifyImage (f : FuseX) (type : Nat) (b : Bytes) : Nat :=
  let b0 := sigBlock b 0
  let b1 := sigBlock b 1
  let tbs := imgTbs b
  let t1 := sha384 (tbs ++ b0)
  let kind := blkKind b0
  if !headerOk b type || b.length < imgSize b then rFORMAT
  else if sha384 (imgPayload b) ≠ slice b 32 48 then rDIGEST
  else if kind ≠ primaryKind type b ∨ blkOk b0 = false then rFORMAT
  else if kind = 1 ∧ bit f.vendorRevoked (blkSlot b0) then rREVOKED
  else if kind = 1 ∧ keyHash b0 ≠ f.vendorKey (blkSlot b0) then rKEYHASH
  else if kind = 3 ∧ some (keyHash b0) ≠ f.ownerKey then rKEYHASH
  else if !edOk b0 tbs then rED25519
  else if !mlOk b0 tbs then rMLDSA
  else if f.ownerKey.isSome && needsCounter type b &&
      (field b 7 1 < 2 || blkKind b1 != 3 || some (keyHash b1) != f.ownerKey || !(edOk b1 t1 && mlOk b1 t1)) then rCOUNTER
  else if imgSvn b < f.svnOf type then rROLLBACK
  else 0

/-! ### The flash (15 R360, R361) -/

/-- An erased byte of flash holds 0xFF. -/
def flashDefault (_ : Nat) : Byte := 0xFF
def flashBytes (s : State) (off n : Nat) : Bytes := (span off n).map (tget flashDefault s.flash.cells)
def flashPut (s : State) (off : Nat) (b : Bytes) : State :=
  { s with flash := { s.flash with cells := tsetAll flashDefault s.flash.cells (cellsAt off b) } }

def bankBase (b : Bool) : Nat := if b then 0x01E00000 else 0
def bankSize : Nat := 30 * 2 ^ 20

/-- The directory entries of a bank: type, offset, length. -/
def directory (s : State) (bank : Bool) : List (Nat × Nat × Nat) :=
  (span 0 16).filterMap fun i =>
    let e := flashBytes s (bankBase bank + 16 * i) 16
    if field e 0 1 = 0 then none else some (field e 0 1, field e 4 4, field e 8 4)

/-- The directory obeys R361: no type twice, and every other byte of an entry 0. -/
def directoryOk (s : State) (bank : Bool) : Bool :=
  let types := (directory s bank).map (·.1)
  (sortSet types).length == types.length &&
    (span 0 16).all fun i =>
      let e := flashBytes s (bankBase bank + 16 * i) 16
      field e 1 3 == 0 && field e 12 4 == 0 &&
        decide (field e 4 4 + field e 8 4 ≤ bankSize ∨ field e 0 1 = 0)

/-- The image of a type in a bank. -/
def bankImage (s : State) (bank : Bool) (type : Nat) : Option Bytes :=
  match (directory s bank).find? fun e => e.1 == type with
  | some e => if directoryOk s bank then some (flashBytes s (bankBase bank + e.2.1) e.2.2) else none
  | none => none

/-! ### Fuses as they read (15 R366, R367) -/

/-- ROT_FUSE_STATE follows the fuses in force since boot, and PENDING the fuses blown since. -/
def showFuses (s : State) : State :=
  let f := s.rot.fuseAtBoot
  let s := fset (fset s .rotFuseStateSvnBoot 0 f.svnBoot) .rotFuseStateSvnFw 0 f.svnFw
  let s := fset (fset s .rotFuseStateSvnTests 0 f.svnTests) .rotFuseStateSvnStruct 0 f.svnStruct
  let s := fset (fset s .rotFuseStateVrevoked 0 f.vendorRevoked) .rotFuseStateOenrolled 0 f.ownerEnrolled
  let s := fset (fset s .rotFuseStateOrevoked 0 f.ownerRevoked) .rotFuseStateOslot 0 (f.ownerSlot.getD 0)
  let s := fset (fset s .rotFuseStateOwned 0 (ofBool f.ownerSlot.isSome)) .rotFuseStateLifecycle 0 f.lifecycle
  fset s .rotFuseStatePending 0 (ofBool (decide (f ≠ s.fuses)))

/-- The 64 bits of ROT_FUSE_STATE. -/
def fuseWord (s : State) : Nat :=
  fget s .rotFuseStateSvnBoot 0 + fget s .rotFuseStateSvnFw 0 * 2 ^ 7 + fget s .rotFuseStateSvnTests 0 * 2 ^ 14 +
    fget s .rotFuseStateSvnStruct 0 * 2 ^ 21 + fget s .rotFuseStateVrevoked 0 * 2 ^ 28 +
    fget s .rotFuseStateOenrolled 0 * 2 ^ 32 + fget s .rotFuseStateOrevoked 0 * 2 ^ 36 +
    fget s .rotFuseStateOslot 0 * 2 ^ 40 + fget s .rotFuseStateOwned 0 * 2 ^ 42 + fget s .rotFuseStatePending 0 * 2 ^ 43 +
    fget s .rotFuseStateLifecycle 0 * 2 ^ 44

/-- At boot, every enrolled owner slot below the one in force is revoked. -/
def FuseX.tidy (f : FuseX) : FuseX :=
  match f.ownerSlot with
  | none => f
  | some k => { f with ownerRevoked := (span 0 k).foldl (fun r i =>
      if bit f.ownerEnrolled i then r ||| 2 ^ i else r) f.ownerRevoked }

/-! ### Measurements (15 R379, R380) -/

def measure (s : State) (i : Nat) : Bytes := tget (fun _ => List.replicate 48 0) s.rot.measures i

/-- A log record, or a count of those lost once the log is full. BUILD of a measured image is echoed (R362) in the bytes that
R380 leaves free, which hold its low half. -/
def logMeasure (s : State) (i event build : Nat) (d : Bytes) : State :=
  if s.rot.log.length < 256 then
    let r := leBytes 1 i ++ leBytes 1 event ++ leBytes 2 s.rot.logSeq ++ leBytes 4 build ++ leBytes 8 (recTime s) ++ slice d 0 48
    { s with rot := { s.rot with log := s.rot.log ++ [r], logSeq := s.rot.logSeq + 1 } }
  else fbump s .rotBootStatusMlost 0 1

/-- A measurement takes its value, and the log says so. -/
def putMeasure (s : State) (i event build : Nat) (value logged : Bytes) : State :=
  logMeasure { s with rot := { s.rot with measures := tset (fun _ => List.replicate 48 0) s.rot.measures i value } } i event build
    logged

def setMeasure (s : State) (i : Nat) (d : Bytes) : State := putMeasure s i 0 0 d d

/-- A measurement is set to an image's TBS. -/
def measureTbs (s : State) (i : Nat) (img : Bytes) : State := putMeasure s i 0 (imgBuild img) (imgTbs img) (imgTbs img)

/-- M7 is extended by an image's TBS. -/
def extendMeasure (s : State) (img : Bytes) : State :=
  putMeasure s 7 1 (imgBuild img) (sha384 (measure s 7 ++ imgTbs img)) (imgTbs img)

/-- A failure is kept as REASON and RTYPE. -/
def bootReason (s : State) (reason type : Nat) : State :=
  fset (fset s .rotBootStatusReason 0 reason) .rotBootStatusRtype 0 type

end Sys2Proof.Machine
end

