-- ==== Sys2Proof/Machine/Image.lean ====
section
/-! DEFINITION. Structure images as they are read and checked (12 R284 to R308). -/

namespace Sys2Proof.Machine

/-! ### The payload -/

/-- A section: its TYPE, COUNT, OFFSET, SLEN, and where its table entry stands. -/
structure Sect where
  type : Nat
  count : Nat
  off : Nat
  len : Nat
  row : Nat
  deriving DecidableEq, Repr

/-- An offence: the code of R289, section type, record index and payload offset. -/
structure Offence where
  code : Nat
  sect : Nat
  rec' : Nat
  off : Nat
  deriving DecidableEq, Repr

def oSIGNATURE : Nat := 1
def oHEADER : Nat := 2
def oTARGET : Nat := 3
def oLENGTH : Nat := 4
def oSECTCRC : Nat := 5
def oBASEID : Nat := 6
def oSCOPE : Nat := 7
def oFIELD : Nat := 8
def oCONFLICT : Nat := 9
def oHWFAIL : Nat := 10
def oNOTQUIET : Nat := 11
def oREADERR : Nat := 12

/-- An offence where a condition holds. -/
def offend (on : Bool) (code sect rec' off : Nat) : List Offence := if on then [⟨code, sect, rec', off⟩] else []

def simgKind (p : Bytes) : Nat := field p 6 1
def simgScope (p : Bytes) : Nat := field p 7 1
def simgIndex (p : Bytes) : Nat := field p 8 1
def simgLength (p : Bytes) : Nat := field p 16 4
def simgNsect (p : Bytes) : Nat := field p 20 2
def simgStoff (p : Bytes) : Nat := field p 24 4
def simgId (p : Bytes) : Nat := field p 32 8
def simgBase (p : Bytes) : Nat := field p 40 8
def isFull (p : Bytes) : Bool := simgKind p == 0

def sectAt (p : Bytes) (i : Nat) : Sect :=
  let o := simgStoff p + 16 * i
  { type := field p o 1, count := field p (o + 2) 2, off := field p (o + 4) 4, len := field p (o + 8) 4, row := o }
def sects (p : Bytes) : List Sect := (span 0 (simgNsect p)).map (sectAt p)
def sectOf (p : Bytes) (type : Nat) : Option Sect := (sects p).find? fun x => x.type == type

/-- The first byte of a run that is not zero. -/
def nonzeroAt (p : Bytes) (off n : Nat) : Option Nat := (span off n).find? fun i => field p i 1 != 0

/-- The offence of a reserved run that is not zero. -/
def reserved (p : Bytes) (code sect rec' off n : Nat) : List Offence :=
  match nonzeroAt p off n with
  | some i => [⟨code, sect, rec', i⟩]
  | none => []

/-- The bytes of one record, or none where records differ in length. -/
def recSize : Nat → Option Nat
  | 1 => some 16 | 2 => some 16 | 3 => some 16 | 4 => some 16 | 5 => some 16 | 6 => some 640 | 7 => some 16
  | 9 => some 4 | 10 => some 128 | 11 => some 8 | 12 => some 16 | 13 => some 112 | _ => none

/-- The COUNT that a section must have, where it is fixed. -/
def fixedCount : Nat → Option Nat
  | 1 => some 16 | 2 => some 1 | 3 => some 1 | 4 => some 1 | 9 => some 24 | _ => none

/-- Where the RINGS records begin: each takes 32 + 4P bytes, rounded up to 16. -/
def ringOffs (p : Bytes) : Nat → Nat → List Nat
  | 0, _ => []
  | n + 1, o => o :: ringOffs p n (o + ceilDiv (32 + 4 * (field p (o + 8) 4 % 2 ^ 18)) 16 * 16)

/-- The records of a section: index and payload offset. -/
def recOffs (p : Bytes) (x : Sect) : List (Nat × Nat) :=
  match recSize x.type with
  | some n => (span 0 x.count).map fun i => (i, x.off + n * i)
  | none => if x.type = 8 then List.zip (span 0 x.count) (ringOffs p x.count x.off) else []

/-- The records of the section of a type. -/
def recsOf (p : Bytes) (type : Nat) : List (Nat × Nat) :=
  match sectOf p type with
  | some x => recOffs p x
  | none => []

/-! ### Header, lengths, sections (12 R284 to R286) -/

def checkHeader (p : Bytes) (boot : Bool) : List Offence :=
  let k := simgKind p
  let sc := simgScope p
  let lim := match sc with | 1 => 16 | 3 => 6 | 0 => 1 | _ => 4
  offend (field p 0 4 != 0x44524C43) oHEADER 0 0 0 ++ offend (field p 4 2 != 1) oHEADER 0 0 4 ++
    offend (decide (1 < k) || (k == 0) != boot) oHEADER 0 0 6 ++
    offend (decide (4 < sc) || (k == 0 && sc != 0) || (k == 1 && sc == 0)) oHEADER 0 0 7 ++
    offend (decide (lim ≤ simgIndex p)) oHEADER 0 0 8 ++ reserved p oHEADER 0 0 9 7 ++ reserved p oHEADER 0 0 22 2 ++
    offend (simgId p == 0) oHEADER 0 0 32 ++ reserved p oHEADER 0 0 48 12 ++
    ((sects p).take 13).flatMap (fun x => reserved p oHEADER x.type 0 (x.row + 1) 1) ++ offend (field p 60 4 != crc32c (slice p 0 60)) oHEADER 0 0 60

/-- Two runs overlap. -/
def runsMeet (a n b m : Nat) : Bool := decide (a < b + m ∧ b < a + n ∧ 0 < n ∧ 0 < m)

/-- The offence of a section that does not lie in its place or does not fit its COUNT. -/
def sectLength (p : Bytes) (x : Sect) (i : Nat) (before : List Sect) : List Offence :=
  let size := match recSize x.type with
    | some n => n * x.count
    | none => match (recOffs p x).getLast? with
      | some r => r.2 + ceilDiv (32 + 4 * (field p (r.2 + 8) 4 % 2 ^ 18)) 16 * 16 - x.off
      | none => 0
  let known := decide (1 ≤ x.type ∧ x.type ≤ 13)
  offend (x.off % 16 != 0 || decide (simgLength p < x.off + x.len) || runsMeet x.off x.len 0 64 ||
      runsMeet x.off x.len (simgStoff p) (16 * simgNsect p) || before.any (fun y => runsMeet x.off x.len y.off y.len))
    oLENGTH x.type i (x.row + 4) ++
  offend (known && size != x.len) oLENGTH x.type i (x.row + 8) ++
  offend (match fixedCount x.type with | some n => x.count != n | none => false) oLENGTH x.type i (x.row + 2)

/-- Check each element of a list beside those before it. -/
def withBefore {α : Type} (f : α → Nat → List α → List Offence) : List α → Nat → List α → List Offence
  | _, _, [] => []
  | before, i, x :: r => f x i before ++ withBefore f (before ++ [x]) (i + 1) r

def checkLength (p : Bytes) : List Offence :=
  let n := simgLength p
  let table := simgStoff p
  offend (decide (2097152 < n) || n % 16 != 0 || n != p.length) oLENGTH 0 0 16 ++
    offend (simgNsect p == 0 || decide (13 < simgNsect p)) oLENGTH 0 0 20 ++
    offend (table % 16 != 0 || decide (table < 64) || decide (n < table + 16 * simgNsect p)) oLENGTH 0 0 24 ++
    withBefore (sectLength p) [] 0 (sects p)

def checkSectCrc (p : Bytes) : List Offence :=
  (sects p).flatMap fun x => offend (field p (x.row + 12) 4 != crc32c (slice p x.off x.len)) oSECTCRC x.type 0 (x.row + 12)

/-- The section types that an image may hold. -/
def allowedType (p : Bytes) (type : Nat) : Bool :=
  match simgScope p with
  | 0 => decide (1 ≤ type ∧ type ≤ 13)
  | 1 => decide (5 ≤ type ∧ type ≤ 8)
  | 3 => type == 10
  | _ => type == 13

/-- The partition, die or port that a record names, and where. -/
def recNames (p : Bytes) (type o : Nat) : Option (Nat × Nat) :=
  match type with
  | 5 => some (field p o 1, o)
  | 6 => some (field p o 1, o)
  | 7 => some (bits (field p (o + 10) 1) 4 4, o + 10)
  | 8 => some (field p (o + 1) 1, o + 1)
  | 10 => some (field p o 1, o)
  | 13 => some (field p o 1, o)
  | _ => none

def enabledIn (p : Bytes) (i : Nat) : Bool := bit (field p (((recsOf p 1).getD i (0, 0)).2 + 2) 1) 0

def checkScope (p : Bytes) : List Offence :=
  withBefore (fun x i before =>
      offend (!allowedType p x.type || before.any (fun y => y.type == x.type)) oSCOPE x.type i x.row) [] 0 (sects p) ++
    (if isFull p then
      [1, 2, 3, 4, 6].flatMap (fun t => offend (sectOf p t).isNone oSCOPE t 0 (simgStoff p)) ++
        (span 0 16).flatMap fun i => offend (enabledIn p i && !(recsOf p 6).any fun r => field p r.2 1 == i) oSCOPE 6
          (recsOf p 6).length (simgStoff p)
    else
      (match simgScope p with
        | 1 => []
        | 3 => offend (recsOf p 10).isEmpty oSCOPE 10 0 (simgStoff p)
        | _ => offend (recsOf p 13).isEmpty oSCOPE 13 0 (simgStoff p)) ++
      (sects p).flatMap fun x => (recOffs p x).flatMap fun r =>
        match recNames p x.type r.2 with
        | some (v, o) => offend (v != simgIndex p) oSCOPE x.type r.1 o
        | none => [])

/-! ### What the image makes of each partition -/

/-- A partition as the image leaves it: enabled, QMASK, VF, and the state of its sections. -/
structure PartPlan where
  en : Bool
  qmask : Nat
  vf : Nat
  img : PartImg
  deriving DecidableEq, Repr

/-- The core groups' masks of a CORES record. -/
def coreMasks (p : Bytes) (o : Nat) : List Nat := (span 0 (field p (o + 1) 1)).map fun i => field p (o + 128 + 32 * i) 32

def planCores (p : Bytes) (i : PartImg) (o : Nat) : PartImg :=
  let sl := field p (o + 4) 1
  let devf := field p (o + 40) 4
  { i with
    groups := coreMasks p o, job := field p (o + 2) 2, sgrp := bits sl 0 4, cken := bit sl 4
    buddy := bits (field p (o + 8) 4) 0 17, ckbase := field p (o + 16) 6, cklen := field p (o + 24) 8
    wcmask := field p (o + 32) 8, devFirst := bits devf 0 10, devCount := bits devf 10 11
    dieFlags := (span 0 4).map fun d => (bits (field p (o + 48 + 4 * d) 4) 0 8, bits (field p (o + 48 + 4 * d) 4) 8 9) }

/-- LEN of a CARVE record, in units of 64 KiB: bits [79:48]. -/
def carveLen (p : Bytes) (o : Nat) : Nat := field p (o + 6) 4

def planRing (p : Bytes) (o : Nat) : RingRec :=
  let serv := field p (o + 2) 1
  { g := field p o 1, serv := bits serv 0 2, mcen := bit serv 2, mcast := bits (field p (o + 4) 2) 0 12
    rank := bits (field p (o + 12) 4) 0 17, mtaddr := field p (o + 16) 6
    members := (span 0 (field p (o + 8) 4 % 2 ^ 18)).map fun r => bits (field p (o + 32 + 4 * r) 4) 0 17 }

/-- The state of partition `i` after the image's sections: those carried replace what was. -/
def planImg (p : Bytes) (i : Nat) (was : PartImg) : PartImg :=
  let x := match (recsOf p 5).find? fun r => field p r.2 1 == i with
    | some r => { was with fmask := field p (r.2 + 2) 2 }
    | none => was
  let x := match (recsOf p 6).find? fun r => field p r.2 1 == i with
    | some r => planCores p x r.2
    | none => x
  let x := if (sectOf p 7).isSome then
      { x with carve := ((recsOf p 7).filter fun r => bits (field p (r.2 + 10) 1) 4 4 == i).map fun r =>
          { base := field p r.2 6, len := carveLen p r.2 * 65536, use := bits (field p (r.2 + 10) 1) 0 4 } }
    else x
  if (sectOf p 8).isSome then
    let l := ((recsOf p 8).filter fun r => field p (r.2 + 1) 1 == i).map fun r => planRing p r.2
    { x with rings := l, pgroups := l.map (·.g) }
  else x

def plans (s : State) (p : Bytes) : List PartPlan :=
  partRange.map fun i =>
    if isFull p then
      let o := ((recsOf p 1).getD i.val (0, 0)).2
      let w := field p (o + 2) 1
      let img := planImg p i.val {}
      { en := bit w 0, qmask := field p o 2, vf := bits w 1 4, img := img }
    else
      let x := s.part i
      { en := x.enabled, qmask := fget s .rotPmapQmask i.val, vf := x.vf
        img := if simgScope p = 1 ∧ simgIndex p = i.val then planImg p i.val x.img else x.img }

def planOf (l : List PartPlan) (i : Nat) : PartPlan := l.getD i { en := false, qmask := 0, vf := 0, img := {} }

/-- The device's own ID under the image. -/
def planDev (s : State) (p : Bytes) : Nat :=
  match recsOf p 4 with
  | r :: _ => bits (field p r.2 4) 0 17
  | [] => devId s

/-- An address lies in the Granary dies and half-stacks of a QMASK. -/
def inQuarters (qmask a : Nat) : Bool :=
  match placeOf a with
  | .granary q => bit qmask q.val
  | .hbm _ => bit qmask (halfStackOf a)
  | _ => false

/-- A run lies within the Granary dies or half-stacks of a QMASK. Dies and half-stacks are both aligned to 4 GiB, so the
run is inside when each 4 GiB from its first byte on is, and its last byte. -/
def runInQuarters (qmask a n : Nat) : Bool :=
  n != 0 && inQuarters qmask a && inQuarters qmask (a + n - 1) &&
    (placeOf a == placeOf (a + n - 1) || decide (a < hbmBase) == decide (a + n - 1 < hbmBase)) &&
    (span 0 (n / 2 ^ 32 + 1)).all fun k => decide (n ≤ k * 2 ^ 32) || inQuarters qmask (a + k * 2 ^ 32)

/-- A run touches no CARVE region but LOCAL ones. -/
def runLocal (img : PartImg) (a n : Nat) : Bool :=
  img.carve.all fun r => r.use == 0 || !runsMeet a n r.base r.len

/-! ### FIELD (12 R291 to R306) -/

/-- A bit field of a record that must be zero, by the first byte that holds a bit of it that is not. -/
def zeroBits (p : Bytes) (sect i o lo w : Nat) : List Offence :=
  let v := bits (field p o 16) lo w
  match (span 0 w).find? (bit v) with
  | some k => [⟨oFIELD, sect, i, o + (lo + k) / 8⟩]
  | none => []

def fieldPartition (p : Bytes) (i o : Nat) : List Offence :=
  let en := bit (field p (o + 2) 1) 0
  let q := field p o 2
  let vf := bits (field p (o + 2) 1) 1 4
  offend (en == (q == 0)) oFIELD 1 i o ++ offend (!en && vf != 0) oFIELD 1 i (o + 2) ++ zeroBits p 1 i o 21 107

def fieldClock (p : Bytes) (i o : Nat) : List Offence :=
  let m := field p o 1
  let init := bits m 4 2
  offend (!bit m 0 || !bit m 2) oFIELD 3 i o ++ offend (bit m 3) oFIELD 3 i o ++
    offend (init == 3 || !bit m init) oFIELD 3 i o ++ zeroBits p 3 i o 6 122

def fieldFabric (p : Bytes) (i o : Nat) : List Offence :=
  zeroBits p 4 i o 18 6 ++ offend (field p (o + 3) 1 == 0) oFIELD 4 i (o + 3) ++ zeroBits p 4 i o 40 88

def fieldFormats (l : List PartPlan) (p : Bytes) (i o : Nat) : List Offence :=
  let m := field p (o + 2) 2
  offend (isFull p && !(planOf l (field p o 1)).en) oFIELD 5 i o ++ reserved p oFIELD 5 i (o + 1) 1 ++
    offend (!bit m 4) oFIELD 5 i (o + 2) ++ zeroBits p 5 i (o + 2) 11 5 ++ reserved p oFIELD 5 i (o + 4) 12

/-- A core group's mask stays within the cores of a QMASK. -/
def maskInQuarters (qmask m : Nat) : Bool :=
  (span 0 16).all fun q => bit qmask q || bits m (16 * q) 16 == 0

def fieldCores (s : State) (l : List PartPlan) (p : Bytes) (i o : Nat) : List Offence :=
  let x := planOf l (field p o 1)
  let ng := field p (o + 1) 1
  let cken := bit (field p (o + 4) 1) 4
  let devf := field p (o + 40) 4
  let masks := (span 0 16).map fun k => (k, field p (o + 128 + 32 * k) 32)
  offend (isFull p && !x.en) oFIELD 6 i o ++ offend (decide (16 < ng)) oFIELD 6 i (o + 1) ++
    offend (field p (o + 2) 2 == 0) oFIELD 6 i (o + 2) ++ zeroBits p 6 i (o + 4) 5 3 ++ reserved p oFIELD 6 i (o + 5) 3 ++
    zeroBits p 6 i (o + 8) 17 15 ++ reserved p oFIELD 6 i (o + 12) 4 ++
    offend (cken && bits (field p (o + 8) 4) 0 17 == planDev s p) oFIELD 6 i (o + 8) ++
    offend (field p (o + 16) 1 % 64 != 0 || (cken && (match placeOf (field p (o + 16) 6) with | .hbm _ => false | _ => true)))
      oFIELD 6 i (o + 16) ++
    reserved p oFIELD 6 i (o + 22) 2 ++ offend (cken && field p (o + 24) 8 == 0) oFIELD 6 i (o + 24) ++
    offend (decide (1024 < bits devf 10 11) || decide (1024 < bits devf 0 10 + bits devf 10 11)) oFIELD 6 i (o + 40) ++
    zeroBits p 6 i (o + 40) 21 11 ++ reserved p oFIELD 6 i (o + 44) 4 ++
    (span 0 4).flatMap (fun d =>
      let w := field p (o + 48 + 4 * d) 4
      offend (decide (256 < bits w 0 8 + bits w 8 9) || (bits w 8 9 != 0 && bits x.qmask (4 * d) 4 == 0)) oFIELD 6 i
        (o + 48 + 4 * d) ++ zeroBits p 6 i (o + 48 + 4 * d) 17 15) ++
    reserved p oFIELD 6 i (o + 64) 64 ++
    masks.flatMap fun (k, m) =>
      offend ((decide (ng ≤ k) && m != 0) || !maskInQuarters x.qmask m ||
        (masks.take k).any (fun y => y.2 &&& m != 0)) oFIELD 6 i (o + 128 + 32 * k)

def fieldCarve (l : List PartPlan) (p : Bytes) (i o : Nat) (before : List (Nat × Nat)) : List Offence :=
  let pn := bits (field p (o + 10) 1) 4 4
  let base := field p o 6
  let x := planOf l pn
  offend (base % 65536 != 0) oFIELD 7 i o ++
    offend (carveLen p o == 0 || !runInQuarters x.qmask base (carveLen p o * 65536)) oFIELD 7 i (o + 6) ++
    offend (decide (4 < bits (field p (o + 10) 1) 0 4) || (isFull p && !x.en) ||
      decide (64 ≤ (before.filter fun r => bits (field p (r.2 + 10) 1) 4 4 == pn).length)) oFIELD 7 i (o + 10) ++
    reserved p oFIELD 7 i (o + 11) 5

def fieldRing (s : State) (l : List PartPlan) (p : Bytes) (i o : Nat) : List Offence :=
  let pn := field p (o + 1) 1
  let x := planOf l pn
  let r := planRing p o
  let size := field p (o + 8) 4
  let twice := (sortSet r.members).length != r.members.length
  offend (decide (15 < field p o 1)) oFIELD 8 i o ++ offend (isFull p && !x.en) oFIELD 8 i (o + 1) ++
    offend (decide (8 ≤ field p (o + 2) 1) || bits x.qmask (4 * r.serv) 4 == 0) oFIELD 8 i (o + 2) ++
    reserved p oFIELD 8 i (o + 3) 1 ++ zeroBits p 8 i (o + 4) 12 4 ++
    reserved p oFIELD 8 i (o + 6) 2 ++ offend (bits size 0 18 == 0 || decide (131072 < bits size 0 18)) oFIELD 8 i (o + 8) ++
    zeroBits p 8 i (o + 8) 18 14 ++ offend (decide (size ≤ r.rank)) oFIELD 8 i (o + 12) ++ zeroBits p 8 i (o + 12) 17 15 ++
    offend (r.mtaddr % 64 != 0 || !runInQuarters x.qmask r.mtaddr (4 * size) || !runLocal x.img r.mtaddr (4 * size))
      oFIELD 8 i (o + 16) ++
    reserved p oFIELD 8 i (o + 22) 10 ++
    (span 0 r.members.length).flatMap (fun k =>
      offend ((k == r.rank && r.members[k]? != some (planDev s p)) ||
        (twice && (r.members.take k).contains (r.members.getD k 0))) oFIELD 8 i (o + 32 + 4 * k) ++
      zeroBits p 8 i (o + 32 + 4 * k) 17 15) ++
    reserved p oFIELD 8 i (o + 32 + 4 * size) ((16 - (32 + 4 * size) % 16) % 16)

def fieldVcmap (l : List PartPlan) (p : Bytes) (i o : Nat) : List Offence :=
  let w := field p o 4
  offend (decide (16 ≤ i ∧ i < 20) && bit w 4 && !(planOf l (bits w 0 4)).en) oFIELD 9 i o ++
    offend (bits w 5 3 != 0) oFIELD 9 i o ++ offend (decide (i < 22) && bits w 8 8 == 0) oFIELD 9 i (o + 1) ++
    zeroBits p 9 i o 16 16

def fieldPort (p : Bytes) (i o : Nat) : List Offence :=
  offend (decide (5 < field p o 1)) oFIELD 10 i o ++ offend (decide (4 ≤ field p (o + 1) 1)) oFIELD 10 i (o + 1) ++
    reserved p oFIELD 10 i (o + 4) 28 ++
    (span 0 48).flatMap fun c =>
      let r := field p (o + 32 + 2 * c) 2
      let n := bits r 0 14
      offend (decide (8192 < n) || decide (0 < n ∧ n < 18) || (decide (44 ≤ c) && n == 0)) oFIELD 10 i (o + 32 + 2 * c) ++
        zeroBits p 10 i (o + 32 + 2 * c) 14 2

def routeFirst (p : Bytes) (o : Nat) : Nat := bits (field p o 8) 0 17
def routeCount (p : Bytes) (o : Nat) : Nat := bits (field p o 8) 17 18

def fieldRoute (p : Bytes) (i o : Nat) (before : List (Nat × Nat)) : List Offence :=
  let n := routeCount p o
  offend (match before.getLast? with | some r => decide (routeFirst p o < routeFirst p r.2) | none => false) oFIELD 11 i o ++
    offend (n == 0 || decide (131072 < n) || decide (131072 < routeFirst p o + n)) oFIELD 11 i (o + 2) ++
    zeroBits p 11 i o 38 26

def fieldMcast (p : Bytes) (i o : Nat) : List Offence := zeroBits p 12 i o 45 83

/-- The slot that the map in force gives a logical core. -/
def slotOf (s : State) (d i : Nat) : Nat := fget s .rotCoreMapSlot (64 * d + i)
def slotRetired (s : State) (d k : Nat) : Bool := fbit s .pwrSlotRetired (68 * d + k)
def slotCalibrated (s : State) (d k : Nat) : Bool := fbit s .pwrSlotCal (68 * d + k)
def physAt (p : Bytes) (o i : Nat) : Nat := field p (o + 16 + i) 1
def gsbAt (p : Bytes) (o j : Nat) : Nat := field p (o + 80 + 2 * j) 2
/-- The spare-bank entry in force, as a GSB word. -/
def gsbNow (s : State) (d j : Nat) : Nat :=
  fget s .grnSparebankBank (16 * d + j) + fget s .grnSparebankEn (16 * d + j) * 256

/-- The spare-bank entries that the last self-test of a die enabled: the GSB word of entry `j` of compute die `d` (07 R170). -/
def selfGsb (s : State) (d j : Nat) : Option Nat :=
  if h : 4 * d + j / 4 < 16 then
    (((s.grnDie ⟨4 * d + j / 4, h⟩).selfSpares.find? fun e => e.1 == j % 4)).map fun e => e.2 + 256
  else none

/-- A GSB word puts a spare bank in place that the map in force does not. -/
def gsbNew (s : State) (p : Bytes) (o d j : Nat) : Bool := bit (gsbAt p o j) 8 && gsbNow s d j != gsbAt p o j

/-- The entries of the spare map that a SPARE record changes: logical cores, and GSB words. -/
def spareChanges (s : State) (p : Bytes) (o : Nat) : List Nat × List Nat :=
  let d := field p o 1
  ((span 0 64).filter fun k => slotOf s d k != physAt p o k, (span 0 16).filter fun j => gsbNow s d j != gsbAt p o j)

def fieldSpare (s : State) (p : Bytes) (i o : Nat) : List Offence :=
  let d := field p o 1
  offend (decide (3 < d)) oFIELD 13 i o ++ reserved p oFIELD 13 i (o + 1) 15 ++
    (span 0 64).flatMap (fun k =>
      let v := physAt p o k
      offend (decide (67 < v) || (span 0 k).any (fun j => physAt p o j == v) ||
        (slotRetired s d v && slotOf s d k == v)) oFIELD 13 i (o + 16 + k)) ++
    (span 0 16).flatMap (fun j =>
      let g := gsbAt p o j
      offend (match selfGsb s d j with | some v => bits g 0 9 != v | none => false) oFIELD 13 i (o + 80 + 2 * j) ++
        zeroBits p 13 i (o + 80 + 2 * j) 9 7) ++
    (let c := spareChanges s p o
     offend (simgScope p == 4 && !(c.1.length + c.2.length == 1 && c.2.all fun j => gsbNew s p o d j && !bit (gsbNow s d j) 8))
       oFIELD 13 i (o + 16))

def checkField (s : State) (p : Bytes) : List Offence :=
  let l := plans s p
  let each := fun (t : Nat) (f : Nat → Nat → List Offence) => (recsOf p t).flatMap fun r => f r.1 r.2
  each 1 (fieldPartition p) ++ each 2 (fun i o => zeroBits p 2 i o 1 127) ++ each 3 (fieldClock p) ++
    each 4 (fieldFabric p) ++ each 5 (fieldFormats l p) ++ each 6 (fieldCores s l p) ++
    withBefore (fun r _ before => fieldCarve l p r.1 r.2 before) [] 0 (recsOf p 7) ++ each 8 (fieldRing s l p) ++
    each 9 (fieldVcmap l p) ++ each 10 (fieldPort p) ++
    withBefore (fun r _ before => fieldRoute p r.1 r.2 before) [] 0 (recsOf p 11) ++ each 12 (fieldMcast p) ++
    each 13 (fieldSpare s p)

/-! ### CONFLICT (12 R289) -/

/-- The first overlap of a partition's flags and counters with those of another. -/
def clash (l : List PartPlan) (a b : Nat) : Option Nat :=
  let x := (planOf l a).img
  let y := (planOf l b).img
  if x.job = y.job then some 2
  else if x.wcmask &&& y.wcmask ≠ 0 then some 32
  else if runsMeet x.devFirst x.devCount y.devFirst y.devCount then some 40
  else ((span 0 4).find? fun d =>
    let u := x.dieFlags.getD d (0, 0)
    let v := y.dieFlags.getD d (0, 0)
    runsMeet u.1 u.2 v.1 v.2).map fun d => 48 + 4 * d

/-- The partitions that a CORES record is held against: those whose own record comes earlier, and, for a partial image,
every other enabled partition. -/
def rivals (l : List PartPlan) (p : Bytes) (pn : Nat) (before : List (Nat × Nat)) : List Nat :=
  (span 0 16).filter fun q => q != pn && (planOf l q).en && (!isFull p || before.any fun r => field p r.2 1 == q)

def checkConflict (s : State) (p : Bytes) : List Offence :=
  let l := plans s p
  withBefore (fun r i before =>
      let q := field p r.2 2
      let vf := bits (field p (r.2 + 2) 1) 1 4
      offend (before.any fun y => field p y.2 2 &&& q != 0) oCONFLICT 1 i r.2 ++
        offend (vf != 0 && before.any fun y => bits (field p (y.2 + 2) 1) 1 4 == vf) oCONFLICT 1 i (r.2 + 2))
    [] 0 (recsOf p 1) ++
  withBefore (fun r i before => offend (before.any fun y => field p y.2 1 == field p r.2 1) oCONFLICT 5 i r.2)
    [] 0 (recsOf p 5) ++
  withBefore (fun r i before =>
      offend (before.any fun y => field p y.2 1 == field p r.2 1) oCONFLICT 6 i r.2 ++
        ((rivals l p (field p r.2 1) before).filterMap fun q => clash l (field p r.2 1) q).map fun o =>
          ⟨oCONFLICT, 6, i, r.2 + o⟩)
    [] 0 (recsOf p 6) ++
  withBefore (fun r i before => offend (before.any fun y =>
      runsMeet (field p r.2 6) (carveLen p r.2 * 65536) (field p y.2 6) (carveLen p y.2 * 65536)) oCONFLICT 7 i r.2)
    [] 0 (recsOf p 7) ++
  withBefore (fun r i before =>
      let g := field p r.2 1
      offend (before.any (fun y => field p y.2 1 == g) ||
        (!isFull p && (span 0 16).any fun q => q != simgIndex p && (planOf l q).en && (planOf l q).img.pgroups.contains g))
        oCONFLICT 8 i r.2)
    [] 0 (recsOf p 8) ++
  withBefore (fun r i before => offend (before.any fun y => field p y.2 1 == field p r.2 1) oCONFLICT 10 i r.2)
    [] 0 (recsOf p 10) ++
  withBefore (fun r i before => offend (match before.getLast? with
      | some y => decide (routeFirst p r.2 < routeFirst p y.2 + routeCount p y.2)
      | none => false) oCONFLICT 11 i r.2)
    [] 0 (recsOf p 11) ++
  withBefore (fun r i before => offend (before.any fun y => field p y.2 2 % 4096 == field p r.2 2 % 4096) oCONFLICT 12 i r.2)
    [] 0 (recsOf p 12) ++
  withBefore (fun r i before => offend (before.any fun y => field p y.2 1 == field p r.2 1) oCONFLICT 13 i r.2)
    [] 0 (recsOf p 13)

/-! ### HWFAIL and NOTQUIET (12 R289, R306, R307) -/

/-- A quarter's Granary die or half-stack is FAILED (07 R170, 08 R185). -/
def quarterFailed (s : State) (q : Nat) : Bool :=
  fget s .grnStatusState q == 3 || fget s .hbmStatusState (q / 2) == 3

/-- The lowest free spare slot of a die under a map of its logical cores: named by no entry, calibrated and not retired. A slot
below 64 that its core has left is one too (12 R295, R309). -/
def spareUnder (s : State) (d : Nat) (map : List Nat) : Option Nat :=
  (span 0 68).find? fun k => !slotRetired s d k && slotCalibrated s d k && !map.contains k

/-- Each logical core on a retired slot moves to the lowest free spare, in order (12 R295). -/
def moveMap (s : State) (d : Nat) (map : List Nat) : List Nat :=
  (span 0 64).foldl (fun m i =>
    if slotRetired s d (m.getD i 0) then
      match spareUnder s d m with
      | some k => m.set i k
      | none => m
    else m) map

/-- The slots of a die's logical cores under the image: its SPARE record, or the map in force; boot moves the cores on retired
slots after a full image. -/
def mapUnder (s : State) (p : Bytes) (d : Nat) : List Nat :=
  let m := match (recsOf p 13).find? fun r => field p r.2 1 == d with
    | some r => (span 0 64).map (physAt p r.2)
    | none => (span 0 64).map (slotOf s d)
  if isFull p then moveMap s d m else m

/-- A logical core's slot under the image is retired, or the core has none (17 R424). -/
def coreHasNoSlot (s : State) (maps : List (List Nat)) (c : Nat) : Bool :=
  slotRetired s (c / 64) ((maps.getD (c / 64) []).getD (c % 64) 0)

def checkHw (s : State) (p : Bytes) : List Offence :=
  let maps := (span 0 4).map (mapUnder s p)
  (recsOf p 1).flatMap (fun r => offend ((span 0 16).any fun q => bit (field p r.2 2) q && quarterFailed s q)
      oHWFAIL 1 r.1 r.2) ++
    (recsOf p 6).flatMap (fun r => (List.zip (span 0 16) (coreMasks p r.2)).flatMap fun m =>
      offend ((span 0 256).any fun c => bit m.2 c && coreHasNoSlot s maps c) oHWFAIL 6 r.1 (r.2 + 128 + 32 * m.1)) ++
    (recsOf p 13).flatMap fun r => (span 0 64).flatMap fun k =>
      let d := field p r.2 1
      let v := physAt p r.2 k
      offend (slotOf s d k != v && (slotRetired s d v || !slotCalibrated s d v)) oHWFAIL 13 r.1 (r.2 + 16 + k)

/-- A partition is fenced, its drain complete. -/
def isFenced (s : State) (p : Part) : Bool := fbit s .hstPartCtrlFenced p.val

def checkQuiet (s : State) (p : Bytes) : List Offence :=
  let no := fun (on : Bool) => offend on oNOTQUIET 0 0 8
  let d := simgIndex p
  match simgScope p with
  | 1 =>
    if h : d < 16 then
      let i : Part := ⟨d, h⟩
      no (!((s.part i).enabled && ((coresOf s i).all (fun c => !running s c) || isFenced s i) &&
        ((partGroups s i).all fun g => fget s .xceCstatState g.val == 0 || fget s .xceCstatState g.val == 3) &&
        [0, 5, 7].contains (sealState s i)))
    else []
  | 2 => no (partRange.any fun i => (quartersOf s i).any (fun q => q / 4 == d) && !isFenced s i)
  | 4 =>
    match recsOf p 13 with
    | [] => []
    | r :: _ =>
      let c := spareChanges s p r.2
      let holder := fun (q : Nat) => match partOfQuarter s q with
        | some i => isFenced s i
        | none => true
      no (c.1.any (fun k => !holder (4 * d + k / 16)) || c.2.any (fun j => !holder (4 * d + j / 4)))
  | _ => []

/-! ### The order of the checks (12 R289) -/

/-- The offence at the lowest offset. -/
def firstOf : List Offence → Option Offence
  | [] => none
  | a :: r => match firstOf r with
    | none => some a
    | some b => some (if b.off < a.off then b else a)

/-- The first check that finds an offence, in the order of the table. -/
def firstFail : List (List Offence) → Option Offence
  | [] => none
  | c :: r => match firstOf c with
    | some o => some o
    | none => firstFail r

/-- The checks of a payload, in their order. -/
def checkImage (s : State) (p : Bytes) (boot : Bool) : Option Offence :=
  let hard := firstFail [
    checkHeader p boot, offend (field p 28 4 != targetId) oTARGET 0 0 28, checkLength p, checkSectCrc p,
    offend (simgBase p != (if isFull p then 0 else fget s .rotSimgIdFullid 0)) oBASEID 0 0 40, checkScope p]
  match hard with
  | some o => some o
  | none => firstFail [checkField s p, checkConflict s p, checkHw s p, checkQuiet s p]

end Sys2Proof.Machine
end

