-- ==== Sys2Proof/Machine/MemUnits.lean ====
section
/-! DEFINITION. The memory units: the Granary's schedule, slots, refresh, clears and self-test (07 R156 to R170), and the
HBM queues, refresh, scrub, temperature reports and injection (08 R180 to R186, R452). -/

namespace Sys2Proof.Machine

/-! ### The Granary schedule (07 R157 to R160) -/

/-- An agent code that an entry below 63 can store. -/
def grnCodeOk (v : Nat) : Bool := decide (v ≤ 0x102) || v == 0x1FF

/-- The schedule as written keeps a SHARED or IDLE entry among T[0] to T[62] when entry `i` becomes `v`. -/
def schedKeepsShared (s : State) (q : MemDie) (i v : Nat) : Bool :=
  (span 0 63).any fun j =>
    let o := if j = i then v else fget s .grnSchedOwner (q.val * 64 + j)
    o == 0x102 || o == 0x1FF

/-- A write of GRN_SCHED[q][i], in force at the next frame boundary. -/
def writeSched (s : State) (q : MemDie) (i : Nat) (v off : Nat) : State :=
  if i = 63 then s
  else
    let v := v % 512
    let s := if grnCodeOk v then s else logRegister s none (.grn q) off
    let v := if grnCodeOk v then v else 0x1FF
    if schedKeepsShared s q i v then
      let x := s.grnDie q
      (fset s .grnSchedOwner (q.val * 64 + i) v).setGrnDie q
        { x with written := tset (fun _ => 0x200) x.written i v }
    else logRegister s none (.grn q) off

/-- SCHED_FRAME_APPLY: at the frame boundary the entries written come into force. -/
def execSchedFrameApply (q : MemDie) (s : State) : Host.Outcome State Fault Refusal :=
  let x := s.grnDie q
  .next (s.setGrnDie q
    { x with written := [], table := tsetAll (fun i => if i = 63 then 0x103 else 0x1FF) x.table x.written })

/-- A core owns an entry of the die's table. -/
def ownsEntry (s : State) (q : MemDie) (c : Core) : Bool := (span 0 63).any fun i => grnOwner s q i == c.val

/-- The slot of an owner serves a request: its agent's own slot, or a SHARED or IDLE slot for an agent without one. Only the
engines of the cores queue; every other agent's access takes effect as it is made (`arrive`), so the slots of the XCE and
the UPD find nothing to serve. -/
def slotServes (s : State) (q : MemDie) (owner : Nat) (r : MemReq) : Bool :=
  if owner < 256 then r.core.val == owner
  else (owner == 0x102 || owner == 0x1FF) && !ownsEntry s q r.core

/-- A request waits at a bank of a die. -/
def atBank (q : MemDie) (bank : Nat) (r : MemReq) : Bool :=
  placeOf r.addr == .granary q && bankOf r.addr == bank

/-- GRANARY_ACCESS: slot `slot` of a bank serves the oldest request of its owner. -/
def execGranaryAccess (q : MemDie) (bank : Byte) (slot : Fin 64) (s : State) : Host.Outcome State Fault Refusal :=
  let owner := grnOwner s q ((slot.val + 256 - bank.toNat) % 64)
  let pick := fun r => atBank q bank.toNat r && slotServes s q owner r
  match s.grnQueue.find? pick with
  | none => idle s
  | some r => .next (serve { s with grnQueue := dropFirst pick s.grnQueue } r)

/-! ### Refresh (07 R161, R164) -/

/-- The bank of addresses that a bank of the array holds: a spare bank stands for the bank it replaces, and a replaced
bank holds none (07 R169). -/
def bankHolds (s : State) (q : MemDie) (b : Nat) : Option Nat :=
  if 256 ≤ b then
    if fbit s .grnSparebankEn (q.val * 4 + (b - 256)) then some (fget s .grnSparebankBank (q.val * 4 + (b - 256))) else none
  else if (span 0 4).any fun k => fbit s .grnSparebankEn (q.val * 4 + k) && fget s .grnSparebankBank (q.val * 4 + k) == b
  then none
  else some b

/-- The row of addresses that a row of the array holds: rows from 8,192 on are the spare rows (07 R168). -/
def rowHolds (s : State) (q : MemDie) (b r : Nat) : Option Nat :=
  let at' := fun e => (q.val * 260 + b) * 16 + e
  if 8192 ≤ r then
    if fbit s .grnRemapEn (at' (r - 8192)) then some (fget s .grnRemapRow (at' (r - 8192))) else none
  else if (span 0 16).any fun e => fbit s .grnRemapEn (at' e) && fget s .grnRemapRow (at' e) == r then none
  else some r

/-- One byte is refreshed: a correctable error is written back corrected, an uncorrectable one is reported. -/
def refreshByte (q : MemDie) (s : State) (e : Nat × Nat) : State :=
  let r := hammingRead (mget s e.1) e.2
  if r.2.2 then grnFault s q e.1 .refresh none
  else
    let s := fbump (mset s e.1 r.1) .grnErrTallyCe q.val 1
    { s with grnSyn := tset (fun _ => 0) s.grnSyn e.1 0 }

/-- GRANARY_REFRESH: the bank refreshes its next row. -/
def execGranaryRefresh (q : MemDie) (bank : Fin 260) (s : State) : Host.Outcome State Fault Refusal :=
  let x := s.grnDie q
  let r := tget (fun _ => 0) x.refresh bank.val
  let s := s.setGrnDie q { x with refresh := tset (fun _ => 0) x.refresh bank.val ((r + 1) % 8208) }
  match bankHolds s q bank.val, rowHolds s q bank.val r with
  | some b, some row =>
    let bad := s.grnSyn.filter fun e => placeOf e.1 == .granary q && bankOf e.1 == b && rowOf e.1 == row
    .next (bad.foldl (refreshByte q) s)
  | _, _ => .next s

/-! ### Clears and the self-test (07 R167, R169, R170) -/

/-- An address lies in a memory die. -/
def inDie (q : MemDie) (a : Nat) : Bool := placeOf a == .granary q

/-- Every valid bit of a die becomes 0. -/
def clearValid (s : State) (q : MemDie) : State :=
  { s with grnValid := tdrop (fun l => inDie q (l * 32)) s.grnValid }

/-- A flash clear starts. -/
def startClear (s : State) (q : MemDie) : State :=
  fset (fset s .grnStatusState q.val 1) .grnCtrlBusy q.val 1

/-- The state of a die that has nothing under way. -/
def grnRest (s : State) (q : MemDie) : State :=
  let s := fset s .grnCtrlBusy q.val 0
  let s := fset s .grnCtrlClear q.val 0
  let s := fset s .grnCtrlSelftest q.val 0
  fset s .grnStatusState q.val (if (s.grnDie q).failed then 3 else 0)

/-- FLASH_CLEAR_DONE: the clear is complete. -/
def execFlashClearDone (q : MemDie) (s : State) : Host.Outcome State Fault Refusal :=
  if fget s .grnStatusState q.val = 1 then .next (grnRest (clearValid s q) q) else idle s

/-- The self-test starts. -/
def startSelftest (s : State) (q : MemDie) : State :=
  fset (fset (fset s .grnStatusState q.val 2) .grnCtrlBusy q.val 1) .grnCtrlSelftest q.val 1

/-- The failing rows of a bank, each once, in rising order. Rows from 8,192 on of a finding are the bank's spare rows. -/
def badRows (f : SelfTestFinding) (b : Nat) : List Nat :=
  sortSet ((f.rows.filter fun r => r.1 == b && decide (r.2 < 8192)).map (·.2))

/-- The spare rows of a bank that do not fail themselves. -/
def goodSpareRows (f : SelfTestFinding) (b : Nat) : List Nat := (span 0 16).filter fun e => !f.rows.contains (b, 8192 + e)

/-- A bank that the remap table cannot mend. A failing spare row mends nothing: DEDUCED, log 122. -/
def badBank (f : SelfTestFinding) (b : Nat) : Bool :=
  decide ((goodSpareRows f b).length < (badRows f b).length) || f.banks.contains b

/-- Store the remap entries of a bank, on the spare rows that do not fail. -/
def storeRemap (q : MemDie) (f : SelfTestFinding) (s : State) (b : Nat) : State :=
  (List.zip (goodSpareRows f b) (badRows f b)).foldl (fun s e =>
    let i := (q.val * 260 + b) * 16 + e.1
    fset (fset s .grnRemapRow i e.2) .grnRemapEn i 1) s

/-- The remap tables and the spare-bank map of a die as the self-test leaves them. -/
def storeFindings (s : State) (q : MemDie) (f : SelfTestFinding) : State :=
  let s := fclearWhere s fun g i =>
    (g == .grnRemapRow || g == .grnRemapEn) && i / (260 * 16) == q.val ||
      (g == .grnSparebankBank || g == .grnSparebankEn) && i / 4 == q.val
  let bad := (span 0 256).filter (badBank f)
  let spare := (span 0 4).filter fun k => !badBank f (256 + k)
  let banks := sortSet (f.rows.map (·.1))
  let s := (banks.filter fun b => !badBank f b).foldl (storeRemap q f) s
  let s := (List.zip spare bad).foldl (fun s e =>
    let i := q.val * 4 + e.1
    fset (fset s .grnSparebankBank i e.2) .grnSparebankEn i 1) s
  let s := fset s .grnStatusRows q.val ((banks.filter fun b => !badBank f b).map fun b => (badRows f b).length).sum
  let s := fset s .grnStatusSpares q.val (min spare.length bad.length)
  s.setGrnDie q { s.grnDie q with failed := f.validBad || decide (spare.length < bad.length), selfSpares := List.zip spare bad }

/-- The spare-bank map of every die is the one of its last self-test again (07 R170). -/
def reapplySpares (s : State) : State :=
  (List.finRange 16).foldl (fun s (q : MemDie) =>
    let l := (s.grnDie q).selfSpares
    let s := l.foldl (fun s e =>
      fset (fset s .grnSparebankBank (q.val * 4 + e.1) e.2) .grnSparebankEn (q.val * 4 + e.1) 1) s
    fset s .grnStatusSpares q.val l.length) s

/-- The self-test of a die ends with a flash clear; what its patterns left in the array is cleared (07 R170). -/
def endSelftest (s : State) (q : MemDie) (f : SelfTestFinding) : State :=
  let s := storeFindings s q f
  let s := clearValid { s with mem := tdrop (inDie q) s.mem, grnSyn := tdrop (inDie q) s.grnSyn } q
  grnRest s q

/-- SELFTEST_DONE: the test ends, having found what it found. -/
def execSelftestDone (q : MemDie) (found : SelfTestFinding) (s : State) : Host.Outcome State Fault Refusal :=
  if fget s .grnStatusState q.val = 2 then .next (endSelftest s q found) else idle s

/-- A write of GRN_CTRL: CLEAR starts a flash clear, SELFTEST the self-test. -/
def writeGrnCtrl (s : State) (q : MemDie) (v : Nat) : State :=
  if bit v 2 then startSelftest s q
  else if bit v 0 then fset (startClear s q) .grnCtrlClear q.val 1
  else s

/-! ### HBM -/

/-- The stack of a pseudo-channel. -/
def stackOf (pc : PChan) : Stack := ⟨pc.val / 64, by have := pc.isLt; omega⟩

/-- HBM_ACCESS: the oldest request at a pseudo-channel is performed, and the next one that waits at the hub for the
controller is accepted (08 R182). -/
def execHbmAccess (pc : PChan) (s : State) : Host.Outcome State Fault Refusal :=
  if !hbmReady s (stackOf pc) then idle s
  else
    let pick := fun (r : MemReq) => pchanOf r.addr == pc.val
    match (accepted s (stackOf pc)).find? pick with
    | none => idle s
    | some r => .next (serve (acceptHbm { s with hbmQueue := dropFirst pick s.hbmQueue }) r)

/-- HBM_REFRESH: a bank refreshes its next row, which changes no bit (08 R183). -/
def execHbmRefresh (pc : PChan) (bank : Fin 64) (s : State) : Host.Outcome State Fault Refusal :=
  let k := stackOf pc
  if !hbmReady s k then idle s
  else
    let x := s.stack k
    let i := pc.val % 64 * 64 + bank.val
    .next (s.setStack k { x with refresh := tset (fun _ => 0) x.refresh i ((tget (fun _ => 0) x.refresh i + 1) % 16384) })

/-- The address of granule `n` of a pseudo-channel, in address order (08 R176). -/
def granuleAddr (pc : PChan) (n : Nat) : Nat :=
  let o := pc.val / 64 * 2 ^ 36 + pc.val % 64 / 32 * 2 ^ 35 + n * 2 ^ 11
  hbmBase + o + (pc.val % 32 ^^^ bits o 21 5) * 64

/-- A scrub of one granule (08 R184). -/
def scrubGranule (s : State) (k : Stack) (a : Nat) : State :=
  let g := granuleOf a
  let r := granuleRead (mbytes s (64 * g) 64) (devOf s g)
  if r.2.2 then hbmFault s k a .scrub none
  else if r.2.1 then setDev (mput (fbump s .hbmErrTallyCe k.val 1) (cellsAt (64 * g) r.1)) g 0
  else s

/-- PATROL_SCRUB: the next granule of a pseudo-channel, in D0 and IDLE. -/
def execPatrolScrub (pc : PChan) (s : State) : Host.Outcome State Fault Refusal :=
  let k := stackOf pc
  if !hbmReady s k || !fbit s .hbmScrubEn k.val || decide (1 < fget s .pwrStatusPstate 0) then idle s
  else
    let x := s.stack k
    let n := tget (fun _ => 0) x.scrub (pc.val % 64)
    let s := scrubGranule (arrive s .scrub (granuleAddr pc n)) k (granuleAddr pc n)
    let x := s.stack k
    let s := s.setStack k { x with scrub := tset (fun _ => 0) x.scrub (pc.val % 64) ((n + 1) % 2 ^ 24) }
    .next (if pc.val % 64 = 0 ∧ n + 1 = 2 ^ 24 then fbump s .hbmScrubPasses k.val 1 else s)

/-- HBM_TEMP_REPORT: a stack reports its temperature in °C (08 R183). -/
def execHbmTempReport (k : Stack) (temp : Byte) (s : State) : Host.Outcome State Fault Refusal :=
  let s := fset s .hbmStatusTemp k.val temp.toNat
  let s := fset s .hbmStatusRefx2 k.val (ofBool (decide (85 < temp.toNat)))
  .next (if 100 < temp.toNat then record s .thermal .info none (.hbm k) .none 0 (.names 183 [temp.toNat]) else s)

/-- A write of HBM_INJECT[k] that carries the fields of value `v`: the offset and the count are stored, and ARM latches
(08 R452). Its unit is busy until the arm is latched (18 R428). -/
def armInject (s : State) (k : Stack) (off : Nat) : State :=
  if fget s .hbmInjectOffset k.val / 2 ^ 36 ≠ k.val then logRegister s none (.hbm k) off
  else if fget s .hbmInjectNsym k.val = 0 then s
  else
    let s := fset s .hbmInjectArm k.val 1
    s.setStack k { s.stack k with arming := true }

end Sys2Proof.Machine
end

