-- ==== Sys2Proof/Machine/Reset.lean ====
section
/-! DEFINITION. What resets clear: registers by block and unit, cores with their stores, queues (16 R392, R393, R405,
R406; 07 R174; 12 R309). -/

namespace Sys2Proof.Machine

/-- How many registers of a field belong to one unit: the product of the inner indices. -/
def Field.inner (f : Field) : Nat := (f.spec.dims.drop 1).foldl (fun a d => a * d.1) 1

/-- The register is one of unit `u` of a block. -/
def ofUnit (b : Block) (u : Nat) (f : Field) (i : Nat) : Bool := f.spec.block == b && i / Field.inner f == u

/-- A run of a core's local window returns to its reset contents, and its errors are gone. -/
def dropWindow (s : State) (c : Core) (lo n : Nat) : State :=
  let a := winAddr c lo
  { s with mem := tdrop (fun k => decide (a ≤ k ∧ k < a + n)) s.mem
           sramErr := s.sramErr.filter fun e => !decide (a ≤ 4 * e.1 ∧ 4 * e.1 < a + n) }

/-- The number of a block's view: views 0 to 16 of each block, and of each core (18 R430). -/
def viewKey (b : Block) (c : Nat) (v : Nat) : Nat := ((if b = .core then 16 + c else b.ctorIdx) * 32) + v

/-- What a core has outside itself is forgotten: its waits, its memory requests, its posts, the snapshots of its block (18
R430); its claims go to nobody. A write that a controller of HBM has accepted is made (08 R182). -/
def forgetCore (s : State) (c : Core) : State :=
  acceptHbm { s with
    snaps := tdrop (fun k => k / 32 == 16 + c.val) s.snaps
    ctrQueue := orphanClaims c s.ctrQueue
    waiters := s.waiters.filter fun w => w.2.1 != c
    signals := s.signals.filter fun f => match f with | .loc c' _ => c' != c | _ => true
    grnQueue := s.grnQueue.filter fun r => r.core != c
    hbmQueue := s.hbmQueue.filter fun r => r.core != c || r.acked
    posts := tmap (fun _ => []) (fun _ l => l.filter fun t => t.core != c) s.posts
    lifts := tmap (fun _ => []) (fun _ l => l.filter fun t => t.core != c) s.lifts }

/-- A core with its stores returns to reset: larder, control store, crib and descriptors are zero, and the scale registers
are at their reset value. -/
def coreToReset (s : State) (c : Core) : State :=
  let s := forgetCore s c
  let s := dropWindow (s.setCore c {}) c 0 holeOff
  fclearWhere s (ofUnit .core c.val)

/-- A CORE reset keeps the program state: control store, descriptors, scale registers, START, CORE_STREAM_BASE,
CORE_BAL_CTRL and the live parameters (16 R393). -/
def coreKeepProgram (s : State) (c : Core) : State :=
  let s := forgetCore s c
  let s := dropWindow (s.setCore c {}) c larderOff storeOff
  fclearWhere s fun f i => ofUnit .core c.val f i &&
    !(f == .coreSeqCtrlStart || f == .coreStreamBaseBase || f == .coreBalCtrlDynamic || f == .coreParamValue)

/-- A spare slot takes a core's place: its stores are zero, the scale registers included (12 R309). -/
def coreToSpare (s : State) (c : Core) : State :=
  let s := coreToReset s c
  (span 0 8192).foldl (fun s i => mput s (cellsAt (winAddr c (scaleOff + 16 * i)) (List.replicate 16 0))) s

/-- A die's flash clear as one act, where the clear is part of a longer one. -/
def clearDie (s : State) (q : MemDie) : State := grnRest (clearValid s q) q

end Sys2Proof.Machine
end

