-- ==== Sys2Proof/Machine/Loader.lean ====
section
/-! DEFINITION. Applying structure images, and the loader (12 R283, R287 to R309). -/

namespace Sys2Proof.Machine

/-! ### What a partition's sections change -/

/-- A group is enabled: XCE_GROUP and XCE_MEMBERS are filled and the member table is written (12 R301). -/
def enableGroup (s : State) (r : RingRec) : State :=
  let n := r.members.length
  let m := fun k => r.members.getD (k % n) 0
  let s := memWrite s .boot none r.mtaddr (r.members.map (leBytes 4)).flatten
  let s := fset (fset s .xceGroupSizem1 r.g (n - 1)) .xceGroupRank r.g r.rank
  let s := fset (fset s .xceGroupSucc r.g (m (r.rank + 1))) .xceGroupPred r.g (m (r.rank + n - 1))
  let s := fset (fset s .xceGroupServe r.g r.serv) .xceGroupMcast r.g r.mcast
  let s := fset (fset s .xceGroupMcen r.g (ofBool r.mcen)) .xceMembersAddr r.g r.mtaddr
  fset s .xceGroupEn r.g 1

/-- A partition's groups are disabled. -/
def disableGroups (s : State) (p : Part) : State :=
  (partGroups s p).foldl (fun s g => fset (resetGroup s g) .xceGroupEn g.val 0) s

/-- The cores of a partition that belong to no core group go into CORE reset (12 R298). -/
def ungroup (s : State) (p : Part) : State :=
  ((coresOf s p).filter fun c => !inCoreGroup s c).foldl coreKeepProgram s

/-- A partition takes the state that an image gives it. `rings` says that the image carries RINGS. -/
def putImg (s : State) (p : Part) (img : PartImg) (rings : Bool) : State :=
  let s := if rings then disableGroups s p else s
  let s := s.setPart p { s.part p with img := img }
  let s := fset (fset s .updSealSgrp p.val img.sgrp) .updSealCken p.val (ofBool img.cken)
  if rings then img.rings.foldl enableGroup s else s

/-! ### Ports and spares -/

/-- The default reservation of a channel (11 R273). -/
def defaultRes (c : Nat) : Nat :=
  if c < 44 then (if c % 2 = 0 then 160 else 48) else (if c % 2 = 0 then 48 else 16)

/-- A PORT record: SKL_PORT_CTRL and SKL_CHAN are written. -/
def putPort (s : State) (p : Bytes) (o : Nat) : State :=
  let n := field p o 1
  let s := fset (fset s .sklPortCtrlEn n (bits (field p (o + 1) 1) 0 1)) .sklPortCtrlForce16 n (bits (field p (o + 1) 1) 1 1)
  let s := fset s .sklPortCtrlSpthr n (field p (o + 2) 2)
  (span 0 48).foldl (fun s c => fset s .sklChanRes (n * 48 + c) (field p (o + 32 + 2 * c) 2)) s

/-- A PORT image takes its port DOWN, writes it and retrains it. -/
def loadPort (s : State) (p : Bytes) (o : Nat) : State :=
  let n := field p o 1
  if h : n < 6 then
    let s := if portState s ⟨n, h⟩ = 0 then s else portDown s ⟨n, h⟩ 0
    lightUp (putPort s p o) ⟨n, h⟩
  else s

/-- A SPARE record: cores move to other slots, and spare banks are put in place. A die whose enabled entries change is
flash-cleared (07 R169); so is one where an entry that no self-test enabled is taken back. DEDUCED, log 123. -/
def putSpare (s : State) (p : Bytes) (o : Nat) : State :=
  let d := field p o 1
  let c := spareChanges s p o
  let s := c.1.foldl (fun s k =>
    let s := if h : 64 * d + k < 256 then coreToSpare s ⟨64 * d + k, h⟩ else s
    fset s .rotCoreMapSlot (64 * d + k) (physAt p o k)) s
  c.2.foldl (fun s j =>
    let g := gsbAt p o j
    let i := 16 * d + j
    let q := 4 * d + j / 4
    let turned := bit g 8 || fbit s .grnSparebankEn i
    let s := fset (fset s .grnSparebankBank i (bits g 0 8)) .grnSparebankEn i (bits g 8 1)
    if turned then
      let s := fset s .grnStatusSpares q ((span (4 * q) 4).filter fun k => fbit s .grnSparebankEn k).length
      if h : q < 16 then clearDie s ⟨q, h⟩ else s
    else s) s

/-- The lowest free spare slot of a die. -/
def freeSpare (s : State) (d : Nat) : Option Nat := spareUnder s d ((span 0 64).map (slotOf s d))

/-- Each logical core on a retired slot moves to a free spare (12 R295). -/
def moveRetired (s : State) : State :=
  (span 0 256).foldl (fun s c =>
    if slotRetired s (c / 64) (slotOf s (c / 64) (c % 64)) then
      match freeSpare s (c / 64) with
      | some k => fset (if h : c < 256 then coreToSpare s ⟨c, h⟩ else s) .rotCoreMapSlot c k
      | none => s
    else s) s

/-! ### A full image (12 R290 to R305) -/

/-- Sections 1 to 3. -/
def putDevice (s : State) (p : Bytes) : State :=
  let l := plans s p
  let s := partRange.foldl (fun s i =>
    let x := planOf l i.val
    s.setPart i { s.part i with enabled := x.en, vf := x.vf, img := {}, full := x.img }) s
  let s := fset s .rotStructQused 0 (l.foldl (fun a x => if x.en then a ||| x.qmask else a) 0)
  let s := (recsOf p 2).foldl (fun s r => fset s .rotStructRegprot 0 (bits (field p r.2 1) 0 1)) s
  (recsOf p 3).foldl (fun s r => fset s .rotStructEnmodes 0 (bits (field p r.2 1) 0 3)) s

/-- The FABRIC section. -/
def putFabric (s : State) (p : Bytes) : State :=
  (recsOf p 4).foldl (fun s r =>
    let w := field p r.2 5
    fset (fset (fset (fset s .sklDevidDevid 0 (bits w 0 17)) .sklDevidValid 0 (bits w 17 1)) .sklDevidHoplim 0
      (bits w 24 8)) .sklTimeCtrlGmpri 0 (bits w 32 8)) s

/-- The VC map, or its default. -/
def putVcmap (s : State) (p : Bytes) : State :=
  let s := { s with net := { s.net with vcAssign := [], weights := [] } }
  (recsOf p 9).foldl (fun s r =>
    let w := field p r.2 4
    { s with net := { s.net with
      vcAssign := if 16 ≤ r.1 ∧ r.1 < 20 ∧ bit w 4 then tset (fun _ => 0) s.net.vcAssign r.1 (bits w 0 4 + 1)
        else s.net.vcAssign
      weights := tset (fun v => if v < 20 then 16 else 4) s.net.weights r.1 (bits w 8 8) } }) s

/-- A port that no PORT record lists: EN 1, FORCE16 0, SPTHR 0x40 and the reservations of R273 (12 R286). -/
def putPortDefault (s : State) (n : Nat) : State :=
  let s := fset (fset (fset s .sklPortCtrlEn n 1) .sklPortCtrlForce16 n 0) .sklPortCtrlSpthr n 0x40
  (span 0 48).foldl (fun s c => fset s .sklChanRes (n * 48 + c) (defaultRes c)) s

/-- The ports: every one at its defaults, and then those listed. -/
def putPorts (s : State) (p : Bytes) : State :=
  let s := (span 0 6).foldl putPortDefault s
  (recsOf p 10).foldl (fun s r => putPort s p r.2) s

/-- Bank 0 holds the runs listed and NONE elsewhere; it is LIVE, bank 1 RETIRED, and the epoch is 0. -/
def putRoutes (s : State) (p : Bytes) : State :=
  let s := fclearWhere s fun f i => f == .sklRouteOut && decide (i < 131072)
  let s := (recsOf p 11).foldl (fun s r =>
    (span (routeFirst p r.2) (routeCount p r.2)).foldl (fun s i => fset s .sklRouteOut i (bits (field p r.2 8) 35 3)) s) s
  fset (fset (fset s .sklEpochBank0 0 2) .sklEpochBank1 0 0) .sklEpochEpoch 0 0

/-- Multicast bank 0 holds the entries listed. -/
def putMcast (s : State) (p : Bytes) : State :=
  let s := fclearWhere s fun f i => decide (i < 4096) &&
    (f == .sklMcastPorts || f == .sklMcastLocal || f == .sklMcastEp || f == .sklMcastValid || f == .sklMcastLeaves)
  (recsOf p 12).foldl (fun s r =>
    let w := field p r.2 8
    let g := bits w 0 12
    let s := fset (fset s .sklMcastPorts g (bits w 12 6)) .sklMcastLocal g (bits w 18 1)
    fset (fset (fset s .sklMcastEp g (bits w 19 9)) .sklMcastLeaves g (bits w 28 17)) .sklMcastValid g 1) s

/-- A full image is applied in ascending TYPE order. A section that it lacks has the default of R286, after a WARM reset as
after POR: partial images are discarded by both (R308). DEDUCED, log 93. -/
def applyFull (s : State) (p : Bytes) : State :=
  let s := putFabric (putDevice s p) p
  let s := partRange.foldl (fun s i => if (s.part i).enabled then putImg s i (s.part i).full true else s) s
  let s := putMcast (putRoutes (putPorts (putVcmap s p) p) p) p
  let s := (recsOf p 13).foldl (fun s r => putSpare s p r.2) s
  moveRetired (fset (fset s .rotSimgIdFullid 0 (simgId p)) .rotSimgIdLastid 0 0)

/-! ### A partial image (12 R307, R308) -/

def applyPartial (s : State) (p : Bytes) (addr : Nat) : State :=
  let s :=
    if simgScope p = 1 then
      let i : Part := ⟨simgIndex p % 16, Nat.mod_lt _ (by decide)⟩
      let s := putImg s i (planImg p i.val (s.part i).img) (sectOf p 8).isSome
      let s := if (sectOf p 6).isSome then ungroup s i else s
      s.setPart i { s.part i with partialAddr := addr, partialId := simgId p }
    else if simgScope p = 3 then (recsOf p 10).foldl (fun s r => loadPort s p r.2) s
    else (recsOf p 13).foldl (fun s r => putSpare s p r.2) s
  fset s .rotSimgIdLastid 0 (simgId p)

/-! ### The loader (12 R287 to R290) -/

/-- The outcome of a load. A refusal writes a record of class STRUCTURE. -/
def loadStatus (s : State) (o : Option Offence) (applied : Bool) : State :=
  let x := o.getD ⟨0, 0, 0, 0⟩
  let s := fset (fset s .rotSimgStatusCode 0 x.code) .rotSimgStatusSect 0 x.sect
  let s := fset (fset s .rotSimgStatusRecord 0 x.rec') .rotSimgStatusOffset 0 x.off
  let s := fset s .rotSimgStatusApplied 0 (ofBool applied)
  match o with
  | some x => record s .structure' .info none .rot .none x.code (.names 289 [x.sect, x.rec', x.off])
  | none => s

/-- The owner may read an address: HBM, and the host windows of function 0 (15 R375). -/
def ownerReads (a : Nat) : Bool :=
  match placeOf a with
  | .host f _ => f == 0
  | .hbm _ => true
  | _ => false

/-- The bytes that the root of trust reads for the owner; none when the read meets an error. -/
def rotRead (s : State) (a n : Nat) : State × Option Bytes :=
  if !(ownerReads a && ownerReads (a + n - 1)) then (s, none)
  else
    let r := memRead s .rot none a n
    (r.1, if r.2.2 then none else some r.2.1)

/-- The signed image whose header stands at an address: asked for piece by piece where it lies in host memory. The
answer is the state to wait in, or the state and the image, none when a read meets an error. -/
def rotImage (s : State) (a : Nat) : State ⊕ (State × Option Bytes) :=
  match stageHost s none .loader [(a, 128)] with
  | some t => .inl t
  | none =>
    let h := rotRead s a 128
    match h.2 with
    | none => .inr (h.1, none)
    | some b =>
      if !headerOk b (field b 6 1) && (decide (2 ^ 24 < imgPlen b) || field b 0 4 != 0x49535645 ||
          imgSigoff b != ceilDiv (128 + imgPlen b) 16 * 16 || decide (2 < field b 7 1)) then
        .inr (h.1, some b)
      else
        match stageHost h.1 none .loader [(a, imgSize b)] with
        | some t => .inl t
        | none => .inr (rotRead h.1 a (imgSize b))

/-- The bytes brought for the root of trust are used up. -/
def rotUnstage (s : State) (a n : Nat) : State := unstage { s with rot := { s.rot with readErr := false } } [(a, n)]

/-- A load of the image whose payload stands at an address: refused, checked, or applied. -/
def loadImage (s : State) (img : Option Bytes) (addr : Nat) (checkOnly : Bool) : State :=
  match img with
  | none => loadStatus s (some ⟨oREADERR, 0, 0, 0⟩) false
  | some b =>
    let r := verifyImage s.rot.fuseAtBoot iSTRUCTURE b
    if r ≠ 0 then loadStatus (bootReason s r iSTRUCTURE) (some ⟨oSIGNATURE, 0, 0, 0⟩) false
    else
      let p := imgPayload b
      match checkImage s p false with
      | some o => loadStatus s (some o) false
      | none =>
        if checkOnly then loadStatus s none false
        else loadStatus (extendMeasure (applyPartial s p addr) b) none true

/-- STRUCT_LOAD's effect: the load begins. -/
def beginLoad (s : State) (checkOnly : Bool) : State :=
  let s := fset s .rotSimgCtrlStart 0 1
  { s with rot := { s.rot with op := some (.load (fget s .rotSimgAddrAddr 0) checkOnly), readErr := false } }

/-- The loader is idle again. -/
def endLoad (s : State) : State :=
  fset { s with rot := { s.rot with op := none, readErr := false } } .rotSimgCtrlStart 0 0

/-- The bytes of a run as they stand at hand: in memory, or brought from host memory. -/
def atHand (s : State) (a n : Nat) : Bytes :=
  match placeOf a with
  | .host _ _ => (span a n).map fun i => (tget (fun _ => none) s.net.staged i).getD 0
  | _ => mbytes s a n

/-- The image of the load under way, once all of it is at hand. -/
def imageAtHand (s : State) (a : Nat) : Option Bytes :=
  if (stageHost s none .loader [(a, 128)]).isSome then none
  else
    let n := imgSize (atHand s a 128)
    if 2 ^ 25 < n ∨ (stageHost s none .loader [(a, n)]).isSome then none else some (atHand s a n)

/-- The partition for which a load runs: its image has verified, and is a PARTITION one (12 R283, R307, 16 R394). -/
def loadFor (s : State) : Option Part :=
  match s.rot.op with
  | some (.load a false) =>
    match imageAtHand s (a - 128) with
    | none => none
    | some img =>
      if verifyImage s.rot.fuseAtBoot iSTRUCTURE img ≠ 0 then none
      else
        let b := imgPayload img
        if simgKind b = 1 ∧ simgScope b = 1 ∧ simgIndex b < 16 then some ⟨simgIndex b % 16, Nat.mod_lt _ (by decide)⟩
        else none
  | _ => none

end Sys2Proof.Machine
end

