-- ==== Sys2Proof/Machine/Holds.lean ====
section
/-! DEFINITION. The hold of a stream at its word, as CORE_WAIT_STATE shows it (05 R134, 06 R147, R153, 09 R199). -/

namespace Sys2Proof.Machine

/-! ### The hold of a stream (05 R134) -/

/-- What CORE_WAIT_STATE shows: WAITING, KIND, FLAG, VALUE. -/
structure HoldX where
  waiting : Bool := false
  kind : Nat := 0
  flag : Nat := 0
  value : Nat := 0
  deriving DecidableEq, Repr

/-- A number that tells holds apart; 0 for no hold. -/
def HoldX.key (h : HoldX) : Nat := if h.waiting then 1 + h.kind + 8 * h.flag else 0

/-- A stream spends half core cycles in a hold: they count while it stays in one hold (05 R134). -/
def StreamX.spend (x : StreamX) (h : HoldX) (n : Nat) : StreamX :=
  if h.key = 0 then { x with halfCycles := 0, holdKey := 0 }
  else if h.key = x.holdKey then { x with halfCycles := min (x.halfCycles + n) (2 ^ 65 - 1) }
  else { x with halfCycles := n, holdKey := h.key }

/-- The core cycles spent in the present hold. -/
def StreamX.heldCycles (x : StreamX) (h : HoldX) : Nat := if h.key ≠ 0 ∧ h.key = x.holdKey then x.halfCycles / 2 else 0

/-- The tracked slot that the feed waits for (06 R147). -/
def feedHold (x : CoreX) (s : State) (c : Core) (h : Option Nat) (enters done : Bool) : Option HoldX :=
  match h with
  | some h =>
    let r := x.ring h
    if enters && !done && (Desc.of (descOf s c h)).rtrack && !r.full.contains r.feed then some ⟨true, 7, h, r.feed⟩ else none
  | none => none

/-- The hold at an in-flight bound or a tracked slot, of a word that is otherwise ready (06 R147, R153): for M a bank whose
readout waits at a bound, or a LIFT that names the next instance (09 R199). -/
def boundHold (s : State) (c : Core) (st : Stream) (w : WordX) : HoldX :=
  let x := s.core c
  if st = .m then
    match feedHold x s c (w.hA (w.p s c)) (entersA x w) x.sm.done.feedA,
        feedHold x s c (w.hB (w.p s c)) (entersB x w) x.sm.done.feedB with
    | some h, _ => h
    | none, some h => h
    | none, none =>
      let held := (w.clr || w.mop == 1 || w.mop == 4) && bankHeld x w.bank (takesBoth x w) && readoutStuck s c
      let early := w.mop == 2 && liftEarly s w
      if !x.sm.done.mxu && (held || early) then ⟨true, 7, 0xFFF, 0⟩ else {}
  else if 8 ≤ w.op ∧ w.op ≤ 12 ∧ engineRoom s c w = false ∧ (x.stream st).done.bounds = false then
    let d := Desc.of (descOf s c w.handle)
    if (w.op == 8 || w.op == 9) && !slotFree s c w.handle d then ⟨true, 7, w.handle, (x.ring w.handle).fill⟩
    else ⟨true, 7, 0xFFF, 0⟩
  else {}

/-- Whether and why a stream is held at its word. -/
def holdOf (s : State) (c : Core) (st : Stream) : HoldX :=
  let y := (s.core c).stream st
  if y.run ≠ .running then {}
  else if deviceHeld s && !y.done.begun then ⟨true, 0, 0, 0⟩
  else if st = .m ∧ (s.core c).sealPhase ≠ .none then ⟨true, 5, 0, 0⟩
  else
    match fetchWord s c st y.pc with
    | none => {}
    | some w =>
      if w.wait && !y.done.waited then
        match flagRef c w.wflag with
        | some (.loc _ i) =>
          let v := (s.core c).flag i
          if v = 0 ∨ (w.wslack ≠ 0 ∧ w.wslack ≠ 255) then ⟨true, 1, w.wflag, v⟩ else {}
        | some (.die _ _) => ⟨true, 2, w.wflag, y.lastAnswer⟩
        | some (.dev _) => ⟨true, 3, w.wflag, y.lastAnswer⟩
        | none => {}
      else if w.pfence && !y.done.fenced then ⟨true, 4, 0, 0⟩
      else if y.done.claimed then ⟨true, 6, 0, 0⟩
      else boundHold s c st w

/-- A core spends half core cycles. -/
def spendCore (s : State) (c : Core) (n : Nat) (x : CoreX) : CoreX :=
  { x with sm := x.sm.spend (holdOf s c .m) n, sl := x.sl.spend (holdOf s c .l) n
           ss := x.ss.spend (holdOf s c .s) n, sc := x.sc.spend (holdOf s c .c) n }

/-- The streams of a core, by number. -/
def streamOf : Nat → Stream
  | 0 => .m | 1 => .l | 2 => .s | _ => .c

end Sys2Proof.Machine
end

