-- ==== Sys2Proof/Machine/Tick.lean ====
section
/-! DEFINITION. What passes when no command waits: ten nanoseconds, one management cycle (log entry 1). -/

namespace Sys2Proof.Machine

/-- Half core cycles in ten nanoseconds by mode: 0 E at 700 MHz, 1 T at 1,050 MHz, 2 L at 350 MHz (01 R16, 17 R414). -/
def halfCyclesOf : Nat → Nat
  | 0 => 14
  | 1 => 21
  | _ => 7

/-- The mode a die runs: the mode in force, or the slower one it still keeps (17 R414). -/
def dieMode (s : State) (d : Die) : Nat :=
  if bit (fget s .pwrStatusDieslow 0) d.val then tget (fun _ => 0) s.pwr.dieMode d.val else fget s .pwrStatusMode 0

/-- In ten nanoseconds an offset is slewed away by at most 100 ppm, a thousandth of a nanosecond (11 R279). -/
def slewStep (n : NetX) : NetX :=
  let d := clampInt (-1) 1 n.slew
  { n with slew := n.slew - d, slewPart := (n.slewPart + d) - (if n.slewPart + d ≥ 1000 then 1000 else if n.slewPart + d ≤ -1000 then -1000 else 0) }

/-- The whole nanoseconds that the slewing adds in this step. -/
def slewNs (n : NetX) : Int :=
  let d := clampInt (-1) 1 n.slew
  if n.slewPart + d ≥ 1000 then 1 else if n.slewPart + d ≤ -1000 then -1 else 0

/-- Ten nanoseconds pass: fabric time runs on (11 R277, R279), the holds of the running streams lengthen (05 R134), and an arm of
HBM_INJECT is latched (18 R428; log 126). -/
def tick (s : State) : State :=
  let s := fset s .sklTimeNow 0 (((timeNow s : Int) + 10 + slewNs s.net).toNat)
  { s with
    net := slewStep s.net
    hbm := tmap (fun _ => {}) (fun _ x => { x with arming := false }) s.hbm
    cores := tmap (fun _ => {}) (fun k x =>
      let c : Core := ⟨k % 256, Nat.mod_lt _ (by decide)⟩
      spendCore s c (halfCyclesOf (dieMode s (dieOf c))) x) s.cores }

end Sys2Proof.Machine
end

