-- ==== Sys2Proof/Machine/Update.lean ====
section
/-! DEFINITION. The Update Engine: the tensor list, update programs and their operations, BF16 weights with gleanings or
keyed stochastic rounding, the commit, scale doubling (10 R219, R228 to R238). -/

namespace Sys2Proof.Machine

/-! ### Update programs (R232 to R234) -/

/-- A program word from its parts. -/
def updWord (op dst a b c : Nat) : Dword := BitVec.ofNat 64 (op + dst * 2 ^ 8 + a * 2 ^ 16 + b * 2 ^ 24 + c * 2 ^ 32)

def uEND : Nat := 0
def uADD : Nat := 1
def uSUB : Nat := 2
def uMUL : Nat := 3
def uFMA : Nat := 4
def uDIV : Nat := 5
def uSQRT : Nat := 6
def uMAX : Nat := 7
def uMIN : Nat := 8
def uSIGN : Nat := 9
def uABS : Nat := 10
def uMOV : Nat := 11
def cG : Nat := 0x10
def cW : Nat := 0x11
def cM : Nat := 0x12
def cV : Nat := 0x13
def cH (k : Nat) : Nat := 0x20 + k
def cB1 : Nat := 0x30
def cB2 : Nat := 0x31

def adamw : List Dword :=
  [updWord uMUL 0 cM (cH 1) 0, updWord uFMA 0 cG (cH 5) 0, updWord uMUL 1 cG cG 0, updWord uMUL 2 cV (cH 2) 0,
   updWord uFMA 1 1 (cH 6) 2, updWord uDIV 2 0 cB1 0, updWord uDIV 3 1 cB2 0, updWord uSQRT 3 3 0 0,
   updWord uADD 3 3 (cH 3) 0, updWord uDIV 2 2 3 0, updWord uFMA 2 cW (cH 4) 2, updWord uMUL 2 2 (cH 0) 0,
   updWord uSUB 4 cW 2 0, updWord uMOV cM 0 0 0, updWord uMOV cV 1 0 0, updWord uMOV cW 4 0 0, updWord uEND 0 0 0 0]

def lion : List Dword :=
  [updWord uMUL 0 cM (cH 1) 0, updWord uFMA 0 cG (cH 5) 0, updWord uSIGN 0 0 0 0, updWord uFMA 0 cW (cH 4) 0,
   updWord uMUL 0 0 (cH 0) 0, updWord uSUB 1 cW 0 0, updWord uMUL 2 cM (cH 2) 0, updWord uFMA 2 cG (cH 6) 2,
   updWord uMOV cW 1 0 0, updWord uMOV cM 2 0 0, updWord uEND 0 0 0 0]

def sgdm : List Dword :=
  [updWord uFMA 0 cW (cH 4) cG, updWord uFMA 1 cM (cH 1) 0, updWord uMUL 2 1 (cH 0) 0, updWord uSUB 2 cW 2 0,
   updWord uMOV cM 1 0 0, updWord uMOV cW 2 0 0, updWord uEND 0 0 0 0]

/-- The program an entry names: a built-in one or the partition's. -/
def progWords (s : State) (p : Part) (prog : Nat) : List Dword :=
  match prog with
  | 0 => adamw
  | 1 => lion
  | 2 => sgdm
  | 3 => (span 0 128).map fun n => BitVec.ofNat 64 (fget s .updProgWord (p.val * 128 + n))
  | _ => []

/-- How many of the operands A, B and C an operation reads. -/
def updReads : Nat → Nat
  | 0 => 0
  | 4 => 3
  | 6 => 1
  | 9 => 1
  | 10 => 1
  | 11 => 1
  | _ => 2

/-- The words up to the first END, if there is one. -/
def untilEnd : List Dword → Option (List Dword)
  | [] => none
  | w :: r =>
    if bits w.toNat 0 8 = 0 then some [] else
      match untilEnd r with
      | some l => some (w :: l)
      | none => none

/-- The END word of a program. -/
def endWord (l : List Dword) : Nat := ((l.find? fun w => bits w.toNat 0 8 == 0).getD 0).toNat

/-- A source operand code that exists. -/
def srcCodeOk (c : Nat) : Bool := decide (c ≤ 0x13) || decide (0x20 ≤ c ∧ c ≤ 0x33)
/-- A destination operand code that exists. -/
def dstCodeOk (c : Nat) : Bool := decide (c ≤ 0x0F) || decide (0x11 ≤ c ∧ c ≤ 0x13)

/-- The operand codes that a word reads. -/
def wordSources (w : Nat) : List Nat := ([bits w 16 8, bits w 24 8, bits w 32 8]).take (updReads (bits w 0 8))

/-- One word of a program keeps the rules of R232 and R233. -/
def updWordOk (w : Nat) : Bool :=
  let n := updReads (bits w 0 8)
  decide (bits w 0 8 ≤ 11) && bits w 40 24 == 0 && dstCodeOk (bits w 8 8) && (wordSources w).all srcCodeOk &&
    (decide (1 ≤ n) || bits w 16 8 == 0) && (decide (2 ≤ n) || bits w 24 8 == 0) && (decide (3 ≤ n) || bits w 32 8 == 0)

/-- How often a program writes a destination. -/
def writesOf (l : List Dword) (c : Nat) : Nat := (l.filter fun w => bits w.toNat 8 8 == c).length
/-- A program reads an operand. -/
def readsOf (l : List Dword) (c : Nat) : Bool := l.any fun w => (wordSources w.toNat).contains c

/-- A program passes preparation under an entry's moments (R233). -/
def progOk (l : List Dword) (hasM hasV : Bool) : Bool :=
  match untilEnd l with
  | none => false
  | some ws =>
    endWord l == 0 && ws.all (fun w => updWordOk w.toNat) && writesOf ws cW == 1 &&
      writesOf ws cM == ofBool hasM && writesOf ws cV == ofBool hasV &&
      (hasM || !readsOf ws cM) && (hasV || !readsOf ws cV)

/-! ### The tensor list (R229, R230) -/

/-- An entry as its 64 bytes give it, without the snapshots. -/
def updEntryOf (b : Bytes) : UpdEntry :=
  let f := bits (leNat (slice b 0 64))
  { tid := f 0 16, wfmt := f 16 4, stoch := f 20 1 == 1, prog := f 21 3, hset := f 24 4, m32 := f 28 1 == 1
    nelem := f 64 32, ebase := f 96 32, waddr := f 128 48, gladdr := f 192 48, maddr := f 256 48, vaddr := f 320 48
    grad := f 384 48, vhdr := f 448 48, words := [], hyp := [], b1 := 0, b2 := 0 }

def UpdEntry.isTable (e : UpdEntry) : Bool := e.prog == 4
/-- The weight is a BF16 with a gleaning. -/
def UpdEntry.glean (e : UpdEntry) : Bool := e.wfmt == 3 && !e.stoch

/-- Bytes of a moment array with its table. -/
def UpdEntry.momentBytes (e : UpdEntry) : Nat := if e.m32 then 4 * e.nelem else 34 * ceilDiv e.nelem 32
/-- Bytes per weight. -/
def UpdEntry.wBytes (e : UpdEntry) : Nat := if e.wfmt = 3 then 2 else 4

/-- The memory an entry names, with the byte offset of its field. -/
def UpdEntry.arrays (e : UpdEntry) : List (Nat × Nat × Nat) :=
  if e.isTable then [(16, e.waddr, 2 * e.nelem)]
  else
    ([(16, e.waddr, e.wBytes * e.nelem), (24, e.gladdr, 2 * e.nelem), (32, e.maddr, e.momentBytes),
      (40, e.vaddr, e.momentBytes), (48, e.grad, 4 * e.nelem), (56, e.vhdr, 16)]).filter fun r => r.2.1 != 0

/-- The byte offsets of the fields of an entry that break a rule. A moment held in blocks is of the format BS8 or BU8, so it
breaks one where FMASK leaves that format off (log 149, DESIGN CHOICE). -/
def entryCharges (s : State) (p : Part) (v : Nat) (e : UpdEntry) (words : List Dword) : List Nat :=
  let bad := fun (b : Bool) (off : Nat) => if b then [off] else []
  let odd := fun (a off : Nat) => bad (a % 64 != 0) off
  let common :=
    bad (decide (0xFFFD < e.tid)) 0 ++ bad (decide (4 < e.prog)) 2 ++ bad (bits v 29 35 != 0) 3 ++
    odd e.waddr 16 ++ bad (bits v 176 16 != 0) 22 ++ odd e.gladdr 24 ++ bad (bits v 240 16 != 0) 30 ++ odd e.maddr 32 ++
    bad (bits v 304 16 != 0) 38 ++ odd e.vaddr 40 ++ bad (bits v 368 16 != 0) 46 ++ odd e.grad 48 ++
    bad (bits v 432 16 != 0) 54 ++ odd e.vhdr 56 ++ bad (bits v 496 16 != 0) 62 ++ bad (e.waddr == 0) 16
  let own :=
    if e.isTable then
      bad (e.wfmt != 0 || e.stoch) 2 ++ bad (e.hset != 0 || e.m32) 3 ++ bad (e.nelem == 0) 8 ++ bad (e.gladdr != 0) 24 ++
        bad (e.maddr != 0) 32 ++ bad (e.vaddr != 0) 40 ++ bad (e.grad != 0) 48 ++ bad (e.vhdr != 0) 56
    else
      bad (!(e.wfmt == 3 || e.wfmt == 4) || !fmtOn s (some p) e.wfmt || (e.wfmt == 4 && e.stoch)) 2 ++
        bad ((e.gladdr != 0) != e.glean) 24 ++
        bad (e.maddr != 0 && !e.m32 && !fmtOn s (some p) Fmt.bs8.code) 32 ++
        bad (e.vaddr != 0 && !e.m32 && !fmtOn s (some p) Fmt.bu8.code) 40 ++
        bad (e.grad == 0) 48 ++ bad (!progOk words (e.maddr != 0) (e.vaddr != 0)) 2
  common ++ own ++ e.arrays.flatMap fun r => if grantedRun s p r.2.1 r.2.2 then [] else [r.1]

/-- x^t, exact. -/
def powX (x : XVal) (t : Nat) : XVal :=
  match x with
  | .nan => .nan
  | .inf neg => .inf (neg && t % 2 == 1)
  | .fin m e nz => .fin (m ^ t) (e * t) (nz && t % 2 == 1)

/-- 1 − x^t, rounded once to F32 (R232). -/
def biasB (h t : Nat) : Nat := (f32.encode (XVal.add (.fin 1 0 false) (powX (f32.decode h) t).negate)).1

/-- An entry with the snapshot of its program, its hyperparameters and B1 and B2. -/
def UpdEntry.snap (e : UpdEntry) (s : State) (p : Part) (words : List Dword) : UpdEntry :=
  let h := fun k => fget s .updHypValue (p.val * 256 + e.hset * 16 + k)
  let t := fget s .updStepStep p.val + 1
  if e.isTable then e
  else { e with words := (untilEnd words).getD [], hyp := (span 0 16).map h, b1 := biasB (h 1) t, b2 := biasB (h 2) t }

/-- The list as prepared, or the first entry that fails with the offset of its field. -/
def prepareList (s : State) (p : Part) : List (Nat × Bytes) → Except (Nat × Nat) (List UpdEntry)
  | [] => .ok []
  | (i, b) :: r =>
    let e := updEntryOf b
    let words := progWords s p e.prog
    match entryCharges s p (leNat b) e words with
    | x :: l => .error (i, l.foldl min x)
    | [] =>
      match prepareList s p r with
      | .ok l => .ok (e.snap s p words :: l)
      | .error f => .error f

/-- Preparation fails: a record names the entry and the field, and the partition contributes READY 0. -/
def prepareFails (s : State) (p : Part) (entry off : Nat) : State :=
  let s := record s .update .info (some p) (.upd (engineOf s p)) .none 0 (.names 219 [entry, off])
  s.setPart p { s.part p with prepFailed := true }

/-- UPD_PREPARE: the engine reads the snapshot's list, checks it and takes what it names. -/
def execUpdPrepare (p : Part) (s : State) : Host.Outcome State Fault Refusal :=
  let x := s.part p
  if !x.enabled || !x.snapTaken || x.prep.isSome || x.prepFailed || decide (1 < sealState s p) ||
      fbit s .hstPartCtrlFence p.val then idle s
  else
    let base := x.snapList.1
    let n := x.snapList.2
    if n ≠ 0 ∧ grantedRun s p base (64 * n) = false then .next (prepareFails s p 0 0)
    else
      match stageHost s (some p) .event [(base, 64 * n)] with
      | some t => .next t
      | none =>
        let r := memRead s (.upd (engineOf s p)) (some p) base (64 * n)
        let s := unstage r.1 [(base, 64 * n)]
        match prepareList s p ((span 0 n).map fun i => (i, slice r.2.1 (64 * i) 64)) with
        | .ok l => .next (s.setPart p { s.part p with prep := some l })
        | .error f => .next (prepareFails s p f.1 f.2)

/-! ### One element (R231 to R237) -/

/-- The values an element's program reads and has written. -/
structure UpdEnv where
  u : List XVal
  g : XVal
  w : XVal
  m : XVal
  v : XVal
  w' : XVal
  m' : XVal
  v' : XVal
  deriving DecidableEq, Repr

/-- A source operand. -/
def UpdEnv.src (n : UpdEnv) (e : UpdEntry) (c : Nat) : XVal :=
  if c < 0x10 then n.u.getD c .zero
  else match c with
    | 0x10 => n.g
    | 0x11 => n.w
    | 0x12 => n.m
    | 0x13 => n.v
    | 0x30 => f32.decode e.b1
    | 0x31 => f32.decode e.b2
    | 0x32 => .fin 1 0 false
    | 0x33 => .zero
    | _ => f32.decode (e.hyp.getD (c - 0x20) 0)

def UpdEnv.put (n : UpdEnv) (c : Nat) (x : XVal) : UpdEnv :=
  match c with
  | 0x11 => { n with w' := x }
  | 0x12 => { n with m' := x }
  | 0x13 => { n with v' := x }
  | _ => { n with u := setAt n.u c x }

/-- SIGN (R232). -/
def signX (x : XVal) : XVal :=
  if x.isNan then .nan else if x.isZero then .zero else .fin (if x.neg? then -1 else 1) 0 false

/-- The operations of R232 on F32 values. -/
def updOp (op : Nat) (a b c : XVal) : XVal :=
  match op with
  | 1 => toF32 (a.add b)
  | 2 => toF32 (a.add b.negate)
  | 3 => toF32 (a.mul b)
  | 4 => toF32 ((a.mul b).add c)
  | 5 => toF32 (a.div b)
  | 6 => toF32 a.sqrt
  | 7 => a.max b
  | 8 => a.min b
  | 9 => signX a
  | 10 => if a.isNan then .nan else a.abs
  | _ => a

/-- Run a program on one element. -/
def runProg (e : UpdEntry) (n : UpdEnv) : UpdEnv :=
  e.words.foldl (fun n w =>
    let v := w.toNat
    n.put (bits v 8 8) (updOp (bits v 0 8) (n.src e (bits v 16 8)) (n.src e (bits v 24 8)) (n.src e (bits v 32 8)))) n

/-- The exponent of u for a BF16 weight: E − 23, with E = −126 for a zero or a subnormal (R235). -/
def gleanExp (hi : Nat) : Int :=
  let x := bits hi 7 8
  (if x = 0 then -126 else (x : Int) - 127) - 23

/-- W of a BF16 weight and its gleaning (R235). -/
def gleanValue (hi g : Nat) : XVal := toF32 ((bf16.decode hi).add (XVal.scale (.fin (sext 16 g) 0 false) (gleanExp hi)))

/-- The pair that a new weight gives: its rounding to BF16 and the gleaning (R235). -/
def gleanPair (x : XVal) : Nat × Nat :=
  let hi := (bf16.encode x).1
  match (x.add (bf16.decode hi).negate).scale (-(gleanExp hi)) with
  | .fin m e _ =>
    let g := rneInt m e
    (hi, wrap 16 (if g = 32768 then 32767 else g))
  | _ => (hi, 0)

/-- The keyed generator (R236). -/
def genMix (z : Nat) : Nat :=
  let z := ((z ^^^ (z >>> 31)) * 0xE4B17C935A26D8F3) % 2 ^ 64
  let z := ((z ^^^ (z >>> 29)) * 0x71D3A9C50E6B4F27) % 2 ^ 64
  z ^^^ (z >>> 32)

def rbits (step t i : Nat) : Nat :=
  let c1 := 0x8F3D61A5C2E70B19
  let k := genMix (step ^^^ (t * c1 % 2 ^ 64))
  bits (genMix ((k + (i + 1) * c1) % 2 ^ 64)) 48 16

/-- Keyed stochastic rounding of F32 bits to BF16 (R237). -/
def stochRound (b r : Nat) : Nat :=
  bits b 31 1 * 2 ^ 15 + (bits b 16 15 + ofBool (decide (2 ^ 16 ≤ bits b 0 16 + r)))

/-- What an element writes: its weight and gleaning unless it keeps them, its moments, and NAN or INF when it was kept. -/
structure UpdOut where
  weight : Option Nat
  glean : Nat
  m : XVal
  v : XVal
  kept : Option StepBit
  deriving DecidableEq, Repr

/-- Update one element (R231). A weight that rounds to a BF16 infinity sets INF alone, as step 3 has it, and not CONVOVF (log 148,
DESIGN CHOICE). -/
def updElement (e : UpdEntry) (step idx w gl g : Nat) (m v : XVal) : UpdOut :=
  let wv := if e.wfmt = 4 then f32.decode w else if e.stoch then bf16.decode w else gleanValue w gl
  let n := runProg e ⟨List.replicate 16 .zero, f32.decode g, wv, m, v, .zero, m, v⟩
  let outs := [n.w'] ++ (if e.maddr = 0 then [] else [n.m']) ++ (if e.vaddr = 0 then [] else [n.v'])
  let x := (f32.encode n.w').1
  let pair := if e.wfmt = 4 then (x, 0)
    else if e.stoch then (stochRound x (rbits step e.tid (e.ebase + idx)), 0) else gleanPair n.w'
  let tooBig := e.wfmt == 3 && decide (0x7F80 ≤ pair.1 % 2 ^ 15)
  if outs.any XVal.isNan then ⟨none, 0, m, v, some .nan⟩
  else if outs.any XVal.isInf || tooBig then ⟨none, 0, m, v, some .inf⟩
  else ⟨some pair.1, pair.2, n.m', n.v', none⟩

/-! ### A block of 32 elements (R231) -/

/-- The moments of a block: as F32, or decoded under the block's scale and converted to F32 under R43; and whether a
conversion overflowed. -/
def blockMoments (e : UpdEntry) (f : Fmt) (raw tab : Bytes) (n : Nat) : List XVal × Bool :=
  if e.m32 then ((span 0 n).map fun i => f32.decode (field raw (4 * i) 4), false)
  else
    let l := (span 0 n).map fun i => f32.encode (underScale (f.raw (field raw i 1)) (field tab 0 1))
    (l.map fun c => f32.decode c.1, l.any (·.2))

/-- Where the moments of block `k` of an array lie, and its table entry. -/
def UpdEntry.momentAt (e : UpdEntry) (a k : Nat) : Nat := if e.m32 then a + 128 * k else a + 32 * k
def UpdEntry.momentTab (e : UpdEntry) (a k : Nat) : Nat := a + 32 * ceilDiv e.nelem 32 + 2 * k

/-- Write the moments of a block under COMPUTED scale, and what the conversion flags. -/
def putMoments (s : State) (ag : MemAgent) (p : Part) (e : UpdEntry) (f : Fmt) (a k : Nat) (vs : List XVal) :
    State × Flags :=
  if a = 0 then (s, {})
  else if e.m32 then
    (agentWrite s ag (some p) (e.momentAt a k) (packCodes 32 (vs.map fun x => (f32.encode x).1)), {})
  else
    let o := convBlock f (vs.map fun x => ⟨x, none⟩)
    let codes := o.1 ++ List.replicate (32 - o.1.length) 0
    let s := agentWrite s ag (some p) (e.momentAt a k) (packCodes 8 codes)
    (agentWrite s ag (some p) (e.momentTab a k) (leBytes 2 o.2.1), o.2.2)

/-- The state of a commit under way: what it raises for the new step status. -/
structure Commit where
  s : State
  carry : List Nat

def Commit.raise (c : Commit) (b : StepBit) : Commit :=
  if c.carry.contains b.idx then c else { c with carry := c.carry ++ [b.idx] }

def Commit.flags (c : Commit) (f : Flags) : Commit :=
  let add := fun (on : Bool) (b : StepBit) (c : Commit) => if on then c.raise b else c
  add f.convovf .convovf (add f.sat .sat (add f.inf .inf (add f.nan .nan c)))

/-- Write one element's weight and gleaning. -/
def putWeight (ag : MemAgent) (p : Part) (e : UpdEntry) (c : Commit) (o : Nat × UpdOut) : Commit :=
  match o.2.weight with
  | none =>
    let c := { c with s := fbump c.s .updTallyNonfinite p.val 1 }
    match o.2.kept with
    | some b => c.raise b
    | none => c
  | some w =>
    let s := agentWrite c.s ag (some p) (e.waddr + e.wBytes * o.1) (leBytes e.wBytes w)
    { c with s := if e.gladdr = 0 then s else agentWrite s ag (some p) (e.gladdr + 2 * o.1) (leBytes 2 o.2.glean) }

/-- Commit block `k` of a shard, of which `n` elements are made; a block cut short writes no moments. -/
def commitBlock (ag : MemAgent) (p : Part) (e : UpdEntry) (step : Nat) (c : Commit) (k n : Nat) : Commit :=
  let size := min 32 (e.nelem - 32 * k)
  let rd := fun (c : State) (a n : Nat) => if a = 0 then (c, List.replicate n (0 : Byte))
    else let r := memRead c ag (some p) a n; (r.1, r.2.1)
  let rg := rd c.s (e.grad + 128 * k) (4 * size)
  let rw' := rd rg.1 (e.waddr + 32 * e.wBytes * k) (e.wBytes * size)
  let rl := if e.gladdr = 0 then (rw'.1, []) else rd rw'.1 (e.gladdr + 64 * k) (2 * size)
  let mb := if e.m32 then 4 * size else size
  let rm := if e.maddr = 0 then (rl.1, []) else rd rl.1 (e.momentAt e.maddr k) mb
  let tm := if e.maddr = 0 ∨ e.m32 = true then (rm.1, []) else rd rm.1 (e.momentTab e.maddr k) 2
  let rv := if e.vaddr = 0 then (tm.1, []) else rd tm.1 (e.momentAt e.vaddr k) mb
  let tv := if e.vaddr = 0 ∨ e.m32 = true then (rv.1, []) else rd rv.1 (e.momentTab e.vaddr k) 2
  let ms := blockMoments e .bs8 rm.2 tm.2 size
  let vs := blockMoments e .bu8 rv.2 tv.2 size
  let outs := (span 0 (min n size)).map fun i =>
    (32 * k + i, updElement e step (32 * k + i) (field rw'.2 (e.wBytes * i) e.wBytes) (field rl.2 (2 * i) 2)
      (field rg.2 (4 * i) 4) (ms.1.getD i .zero) (vs.1.getD i .zero))
  let c := (outs.foldl (putWeight ag p e) { c with s := tv.1 }).flags { convovf := ms.2 || vs.2 }
  if n < size then c
  else
    let a := putMoments c.s ag p e .bs8 e.maddr k (outs.map (·.2.m))
    let b := putMoments a.1 ag p e .bu8 e.vaddr k (outs.map (·.2.v))
    ({ c with s := b.1 }.flags a.2).flags b.2

/-- One entry of a TABLE shard (R238). -/
def doubleEntry (v : Nat) : Nat := if v / 256 % 2 = 1 ∧ v % 256 < 0xFE then v - 256 + 1 else v

/-- Double the scales of a table's first `n` entries where OVF is set. -/
def commitTable (ag : MemAgent) (p : Part) (e : UpdEntry) (c : Commit) (n : Nat) : Commit :=
  (span 0 (min n e.nelem)).foldl (fun c i =>
    let r := memRead c.s ag (some p) (e.waddr + 2 * i) 2
    let v := leNat r.2.1
    { c with s := if doubleEntry v = v then r.1 else agentWrite r.1 ag (some p) (e.waddr + 2 * i) (leBytes 2 (doubleEntry v)) }) c

/-- The endpoint of a die's Update Engine and the fabric address it writes as WRITER (09 R213). -/
def updWriter (s : State) (d : Die) : Nat := devId s * 2 ^ 9 + 260 + d.val

/-- Commit one shard, of which `n` elements are made; a whole shard takes its header. -/
def commitShard (d : Die) (p : Part) (step : Nat) (c : Commit) (e : UpdEntry) (n : Nat) : Commit :=
  let ag := MemAgent.upd d
  if e.isTable then commitTable ag p e c n
  else
    let c := (span 0 (ceilDiv (min n e.nelem) 32)).foldl (fun c k => commitBlock ag p e step c k (n - 32 * k)) c
    if n < e.nelem ∨ e.vhdr = 0 then c
    else { c with s := agentWrite c.s ag (some p) e.vhdr (leBytes 8 step ++ leBytes 4 (updWriter c.s d) ++ leBytes 4 0) }

/-- Commit the entries in list order, as far as `left` elements; none stands for all. -/
def commitList (d : Die) (p : Part) (step : Nat) (left : Option Nat) (c : Commit) (l : List UpdEntry) : Commit :=
  (l.foldl (fun (a : Option Nat × Commit) e =>
    match a.1 with
    | none => (none, commitShard d p step a.2 e e.nelem)
    | some 0 => a
    | some n => (some (n - e.nelem), commitShard d p step a.2 e n)) (left, c)).2

/-- The memory a commit reads. -/
def commitReads (l : List UpdEntry) : List (Nat × Nat) := l.flatMap fun e => e.arrays.map (·.2)

/-- The engine leaves a partition's commit. -/
def leaveEngine (s : State) (p : Part) : State :=
  showEngine { s with hub := { s.hub with commits := s.hub.commits.filter (· != p.val) } } (engineOf s p)

/-- The partition is the first of those that wait for its engine. -/
def firstOnEngine (s : State) (p : Part) : Bool :=
  (s.hub.commits.find? fun q => if h : q < 16 then engineOf s ⟨q, h⟩ == engineOf s p else false) == some p.val

/-- A fence stops a commit under way at the next element (16 R395): how many elements are behind it is open. -/
def haltCommit (s : State) (p : Part) : State :=
  let l := (s.part p).prep.getD []
  let total := (l.map (·.nelem)).sum
  if sealState s p = 4 ∧ (s.part p).committed = false ∧ firstOnEngine s p = true ∧ 0 < total ∧
      stageHost s (some p) .event (commitReads l) = none then
    let r := draw s
    (commitList (engineOf s p) p (fget s .updStepStep p.val) (some (r.2 % total)) { s := r.1, carry := [] } l).s
  else s

/-- COMMIT: the tensor list is committed; in stage 4 and under a fence it waits (17 R410, 16 R395). A mismatch of the two datapaths after `mismatch`
elements stops it and leaves the partition FAULTED (R228). -/
def execCommit (p : Part) (mismatch : Option Nat) (s : State) : Host.Outcome State Fault Refusal :=
  let x := s.part p
  let d := engineOf s p
  if sealState s p ≠ 4 ∨ x.committed = true ∨ firstOnEngine s p = false ∨ deviceHeld s = true ∨
      fbit s .hstPartCtrlFence p.val = true then idle s
  else
    let l := x.prep.getD []
    match stageHost s (some p) .event (commitReads l) with
    | some t => .next t
    | none =>
      let total := (l.map (·.nelem)).sum
      let stop := match mismatch with | some n => if n < total then some n else none | none => none
      let c := commitList d p (fget s .updStepStep p.val) stop { s := s, carry := [] } l
      let s := unstage c.s (commitReads l)
      match stop with
      | some n =>
        let s := record s .update .stop (some p) (.upd d) .none 0 (.names 228 [n])
        let s := fbump s .updEngineMismatch d.val 1
        .next (leaveEngine (setSealState s p 7) p)
      | none =>
        let s := s.setPart p { s.part p with committed := true, carry := c.carry, releaseDue := some 0 }
        .next (leaveEngine (fbump s .updTallyCommits p.val 1) p)

end Sys2Proof.Machine
end

