-- ==== Sys2Proof/Machine/Release.lean ====
section
/-! DEFINITION. A release and what goes with it: shadow offsets, batches, checkpoint slots and buddy copies, faster
clocks (10 R225, R239, R242, R244, R245; 14 R346, R347, R350, R351, R359; 17 R416). -/

namespace Sys2Proof.Machine

/-! ### What a function may reach (14 R338) -/

def mayReachAt (s : State) (f : Fn) (p : Part) (a : Nat) : Bool :=
  match placeOf a with
  | .nowhere => false
  | .host g _ => g == f
  | _ => f == 0 || granted s p a

/-- A function reaches every byte of a run: no region is smaller than 16 MiB or lies off its own alignment, so one byte in
each 16 MiB and the last byte answer for all. -/
def mayReach (s : State) (f : Fn) (p : Part) (a n : Nat) : Bool :=
  n == 0 || (decide (a + n ≤ 2 ^ 48) && ((span 0 ((n - 1) / 2 ^ 24 + 1)).all fun i => mayReachAt s f p (a + i * 2 ^ 24)) &&
    mayReachAt s f p (a + n - 1))

/-- What a service writes for a call; a transfer to the host that fails ends the call with DMAERR (14 R340). -/
def callWrite (s : State) (f : Fn) (k : SlotNo) (p : Part) (a : Nat) (b : Bytes) : State :=
  let t := agentWrite s (.sc (scOf s p)) (some p) a b
  if hostTakes s a b.length then t else finishCall t f k sDMAERR (lastSeq t) []

/-- Memory read for a call; an uncorrectable read ends it with MEMERR. -/
def callMem (s : State) (c : CallX) (p : Part) (a n : Nat) : State × Option Bytes :=
  let r := memRead s (.sc (scOf s p)) (some p) a n
  if r.2.2 then (finishCall r.1 c.fn c.slot sMEMERR (lastSeq r.1) [], none) else (r.1, some r.2.1)

/-- A controller that serves a partition on the device's own account, at a seal, a buddy copy or ingestion, reaches what the
partition's cores reach and its CKPT_IN regions (15 R375). -/
def partReach (s : State) (p : Part) (a n : Nat) : Bool :=
  n == 0 || grantedRun s p a n ||
    (s.part p).img.carve.any fun r => r.use == 3 && decide (r.base ≤ a ∧ a + n ≤ r.base + r.len)

/-! ### Ingestion (14 R350, R351) -/

/-- The copies that list entries name: source, destination and length. -/
def copiesOf (b : Bytes) : List (Nat × Nat × Nat) :=
  (span 0 (b.length / 32)).map fun k => (field b (32 * k) 6, field b (32 * k + 8) 6, field b (32 * k + 16) 4)

/-- The list entries of a batch: address and length. -/
def batchRun (i : IngestX) (b : Nat) : Nat × Nat := (i.list + 32 * b * i.epb, 32 * i.epb)

/-- The list entries of a batch, once they have been read. -/
def batchEntries (i : IngestX) (b : Nat) : Option (List (Nat × Nat × Nat)) := (i.entries.find? fun e => e.1 == b).map (·.2)

/-- The list entries of a batch are read. A read that meets an error, or that the controller may not make, has set CHECKSUM,
and the batch copies nothing. -/
def readBatch (s : State) (p : Part) (i : IngestX) (b : Nat) : State :=
  let u := batchRun i b
  let r := if partReach s p u.1 u.2 then memRead s (.sc (scOf s p)) (some p) u.1 u.2
    else (setStatus s (some p) .checksum, [], true)
  let i := { i with entries := i.entries ++ [(b, if r.2.2 then [] else copiesOf r.2.1)] }
  unstage (r.1.setPart p { r.1.part p with ingest := some i }) [u]

/-- The batches from the cursor on that should be landed or on their way. -/
def batchesDue (s : State) (p : Part) (i : IngestX) : List Nat :=
  let k := fget s .svcLoopCursor p.val
  (span 0 i.depth).filterMap fun d =>
    if k + d < i.nbatch then some (k + d)
    else if i.wrap && i.nbatch != 0 then some ((k + d) % i.nbatch) else none

/-- Ask for the sources of a batch that lie in host memory: the copies, once all have come. -/
def askSources (s : State) (p : Part) (es : List (Nat × Nat × Nat)) : State × Option (List (Nat × Nat × Nat)) :=
  match stageHost s (some p) (.ingest p) ((es.map fun e => (e.1, e.2.2)).filter fun r => partReach s p r.1 r.2) with
  | some t => (t, none)
  | none => (s, some es)

/-- Ask for what a fetch needs of host memory, its entries first: the copies, once all has come. -/
def askBatch (s : State) (p : Part) (b : Nat) : State × Option (List (Nat × Nat × Nat)) :=
  match (s.part p).ingest with
  | none => (s, none)
  | some i =>
    match batchEntries i b with
    | some es => askSources s p es
    | none =>
      match stageHost s (some p) (.ingest p) ([batchRun i b].filter fun r => partReach s p r.1 r.2) with
      | some t => (t, none)
      | none =>
        let t := readBatch s p i b
        askSources t p ((((t.part p).ingest).bind fun i => batchEntries i b).getD [])

/-- The fetches that are due begin. -/
def fillIngest (s : State) (p : Part) : State :=
  let x := s.part p
  match x.ingest with
  | none => s
  | some i =>
    let more := (batchesDue s p i).filter fun b => !i.fetching.contains b && !i.landed.contains b
    let s := s.setPart p { x with ingest := some { i with fetching := i.fetching ++ more } }
    more.foldl (fun s b => (askBatch s p b).1) s

/-- One entry of a batch is copied; one that the caller or the partition served may not reach is a failed fetch (R338; 15
R375). -/
def copyEntry (p : Part) (f : Fn) (s : State) (e : Nat × Nat × Nat) : State :=
  let ag := MemAgent.sc (scOf s p)
  if [e.1, e.2.1].all fun a => mayReach s f p a e.2.2 && partReach s p a e.2.2 then
    let r := memRead s ag (some p) e.1 e.2.2
    agentWrite r.1 ag (some p) e.2.1 r.2.1
  else setStatus s (some p) .checksum

/-- BATCH_LANDED: the oldest fetch has brought every entry; FLAG is signalled. -/
def execBatchLanded (p : Part) (s : State) : Host.Outcome State Fault Refusal :=
  match (s.part p).ingest with
  | none => idle s
  | some i =>
    match i.fetching with
    | [] => idle s
    | b :: rest =>
      match askBatch s p b with
      | (t, none) => .next t
      | (t, some es) =>
        let s := unstage (es.foldl (copyEntry p i.fn) t) (es.map fun e => (e.1, e.2.2))
        let i := ((t.part p).ingest).getD i
        let s := s.setPart p { s.part p with ingest := some { i with
          fetching := rest, landed := i.landed ++ [b], entries := i.entries.filter fun e => e.1 != b } }
        .next (match flagRef ⟨(scOf s p).val * 64, by have := (scOf s p).isLt; omega⟩ i.flag with
          | some f => { s with signals := s.signals ++ [f] }
          | none => s)

/-! ### Checkpoint slots (10 R244; 14 R352) -/

/-- The bytes of a list entry. -/
def UpdEntry.bytes (e : UpdEntry) : Bytes :=
  leBytes 64 (e.tid + e.wfmt * 2 ^ 16 + ofBool e.stoch * 2 ^ 20 + e.prog * 2 ^ 21 + e.hset * 2 ^ 24 + ofBool e.m32 * 2 ^ 28 +
    e.nelem * 2 ^ 64 + e.ebase * 2 ^ 96 + e.waddr * 2 ^ 128 + e.gladdr * 2 ^ 192 + e.maddr * 2 ^ 256 + e.vaddr * 2 ^ 320 +
    e.grad * 2 ^ 384 + e.vhdr * 2 ^ 448)

/-- The list that is in force, read for a call: as prepared, or as UPD_LIST names it. None where the call waits for it or has
ended. -/
def listInForce (s : State) (c : CallX) (p : Part) : State × Option (List UpdEntry) :=
  match (s.part p).prep with
  | some l => (s, some l)
  | none =>
    let n := fget s .updListCount p.val
    let run := (fget s .updListBase p.val, 64 * n)
    if !mayReach s c.fn p run.1 run.2 then (finishCall s c.fn c.slot sDENIED 64 [], none)
    else
      match stageHost s (some p) (.call c.fn c.slot) [run] with
      | some t => (t, none)
      | none =>
        let r := callMem s c p run.1 run.2
        (unstage r.1 [run], r.2.map fun b => (span 0 n).map fun i => updEntryOf (slice b (64 * i) 64))

/-- The first eight bytes of a payload: the fingerprint of the list and its length. -/
def fingerprint (l : List UpdEntry) : Bytes := leBytes 4 (crc32c (l.map UpdEntry.bytes).flatten) ++ leBytes 2 l.length ++ leBytes 2 0

/-- The memory that a slot holds, in order: address and length. -/
def slotRuns (s : State) (p : Part) (l : List UpdEntry) : List (Nat × Nat) :=
  (l.flatMap fun e => (e.arrays.filter fun r => r.1 != 48).map (·.2)) ++ (s.part p).ckptList

/-- One run of a payload is read. One out of `reach` delivers zeros, and a record of class PROTECT says so (log 150, DESIGN
CHOICE: 15 R375 refuses the access and does not say what the copy then holds). -/
def readRun (reach : Nat → Nat → Bool) (p : Part) (r : State × Bytes × Bool) (u : Nat × Nat) : State × Bytes × Bool :=
  if reach u.1 u.2 then
    let x := memRead r.1 (.sc (scOf r.1 p)) (some p) u.1 u.2
    (x.1, r.2.1 ++ x.2.1, r.2.2 || x.2.2)
  else
    (setStatus (record r.1 .protect .step (some p) (.sc (scOf r.1 p)) .none 0 (.names 375 [u.1, u.2])) (some p) .checksum,
      r.2.1 ++ List.replicate u.2 0, r.2.2)

/-- A payload, read from memory with the rights that `reach` gives. -/
def slotPayload (s : State) (reach : Nat → Nat → Bool) (p : Part) (l : List UpdEntry) : State × Bytes × Bool :=
  (slotRuns s p l).foldl (readRun reach p) (s, fingerprint l, false)

/-- The header of a slot. -/
def slotHead (s : State) (step len cks state : Nat) : Bytes :=
  leBytes 8 step ++ leBytes 8 len ++ leBytes 8 cks ++ leBytes 4 (devId s) ++ leBytes 1 state ++ leBytes 35 0

/-! ### Buddy copies (10 R244, R245) -/

/-- The slot of a step on the buddy. -/
def buddySlot (s : State) (p : Part) (step : Nat) : Nat := (s.part p).img.ckbase + step % 2 * (s.part p).img.cklen

/-- A write to the buddy on VC21. -/
def buddyWrite (s : State) (p : Part) (why : ReqFor) (a : Nat) (b : Bytes) : State :=
  let x := (s.part p).img
  sendReq s (some p) why (blankReq tWRITE (264 + (scOf s p).val) x.buddy 264 21 x.job a 0 b)

/-- The memory that a buddy copy reads, as far as the partition's cores reach. -/
def buddyRuns (s : State) (p : Part) : List (Nat × Nat) := (slotRuns s p (s.part p).lastList).filter fun r => partReach s p r.1 r.2

/-- The copy sets out: the header with STATE 0, then the payload. -/
def pushBuddy (s : State) (p : Part) (step : Nat) : State :=
  let r := slotPayload s (partReach s p) p (s.part p).lastList
  let s := unstage r.1 (buddyRuns s p)
  let at' := buddySlot s p step
  let parts := chunksOf r.2.1.length
  let s := buddyWrite s p (.buddy p) at' (slotHead s step r.2.1.length 0 0)
  let s := parts.foldl (fun s c => buddyWrite s p (.buddy p) (at' + 64 + c.1) (slice r.2.1 c.1 c.2)) s
  let b : BuddyX :=
    { step := step, started := true, left := parts.length + 1, failed := false, payload := r.2.1.length
      cks := ckWords r.2.1 }
  s.setPart p { s.part p with buddyCopy := some b }

/-- Shedding stage 2 suspends buddy copies (17 R408). -/
def copiesHeld (s : State) : Bool := decide (2 ≤ fget s .pwrStatusStage 0)

/-- The copy of a step sets out once the host bytes that it copies have come. -/
def stageBuddy (s : State) (p : Part) (step : Nat) : State :=
  match stageHost s (some p) .event (buddyRuns s p) with
  | some t => t
  | none => pushBuddy s p step

/-- The copy of the commit of a step begins, or waits for the stage to lift. -/
def startBuddy (s : State) (p : Part) (step : Nat) : State :=
  if !fbit s .updSealCken p.val then s
  else
    let b : BuddyX := { step := step, started := false, left := 0, failed := false, payload := 0, cks := 0 }
    let s := s.setPart p { s.part p with buddyCopy := some b }
    if copiesHeld s then s else stageBuddy s p step

/-- CKS and STATE 1 are written. -/
def sealBuddy (s : State) (p : Part) (b : BuddyX) : State :=
  buddyWrite (s.setPart p { s.part p with buddyCopy := some { b with sealing := true, failed := false, left := 1 } }) p (.buddy p)
    (buddySlot s p b.step) (slotHead s b.step b.payload b.cks 1)

/-- BUDDY_SLOT_VALID: every write of the copy is acknowledged, and CKS and STATE 1 are written; once that write is acknowledged
too the slot is VALID, and a commit that waits for it goes on. A copy that was held up or refused sets out again, and so does
the last write alone. -/
def execBuddySlotValid (p : Part) (s : State) : Host.Outcome State Fault Refusal :=
  match (s.part p).buddyCopy with
  | none => idle s
  | some b =>
    if copiesHeld s || b.left != 0 || fbit s .hstPartCtrlFence p.val then idle s
    else if b.sealing then
      if b.failed then .next (sealBuddy s p b)
      else .next (leaveCkwait (fset (s.setPart p { s.part p with buddyCopy := none }) .updCkptStep p.val b.step) p)
    else if !b.started || b.failed then .next (stageBuddy s p b.step)
    else .next (sealBuddy s p b)

/-! ### Faster clocks at a step boundary (17 R416) -/

/-- The dies on which a partition holds a quarter. -/
def diesOf (s : State) (p : Part) : List Nat := sortSet ((quartersOf s p).map (· / 4))

/-- Another partition of a die is held at KIND 5 or has no core RUNNING. -/
def atBoundary (s : State) (q : Part) : Bool :=
  (coresOf s q).all fun c => !running s c || (s.core c).sealPhase != .none

/-- A die takes the faster clock that is pending. -/
def raiseDie (p : Part) (s : State) (d : Nat) : State :=
  let slow := fget s .pwrStatusDieslow 0
  if fbit s .pwrStatusPending 0 && bit slow d && s.pwr.railsReady &&
      (partRange.all fun q => q == p || !(diesOf s q).contains d || atBoundary s q) then
    let slow := slow - 2 ^ d
    let s := { s with pwr := { s.pwr with dieMode := tdrop (· == d) s.pwr.dieMode } }
    fset (fset s .pwrStatusDieslow 0 slow) .pwrStatusPending 0 (ofBool (slow != 0))
  else s

/-! ### RELEASE -/

/-- Offsets of the shadow tags go into every core of the partition, and READY is set (14 R347). -/
def placeShadows (s : State) (p : Part) : State :=
  let tags := match (s.part p).loop with
    | some l => l.tags
    | none => []
  if tags.isEmpty then s
  else
    let step := fget s .updStepStep p.val
    (coresOf s p).foldl (fun s c =>
      writeReady (tags.foldl (fun s t => writeShadow s c (BitVec.ofNat 8 t.2) (rbits step 0xFFFE t.1 % 256) 0) s) c true) s

/-- The status is copied to PREV and cleared, and what the commit raised is set (10 R225, 18 R433). -/
def turnStatus (s : State) (p : Part) : State :=
  let x := s.part p
  let s := fset s .updStatusPrev p.val (fget s .updStatusStatus p.val)
  let s := fset s .updStatusStatus p.val (x.carry.foldl (fun a b => a ||| 2 ^ b) 0)
  s.setPart p { x with carry := [] }

/-- The M streams of a partition's cores go on: the word behind a SEAL is reached now. -/
def letGo (s : State) (p : Part) : State :=
  (coresOf s p).foldl (fun s c =>
    if (s.core c).sealPhase = .none then s
    else reach (s.setCore c { s.core c with sealPhase := .none, sealWait := [] }) c .m) s

/-- The cursor after the batch of a step has been used. -/
def nextCursor (i : IngestX) (k : Nat) : Nat := if k + 1 = i.nbatch ∧ i.wrap = true then 0 else k + 1

/-- The cursor moves on, and the next batch is fetched. -/
def advanceCursor (s : State) (p : Part) : State :=
  match (s.part p).ingest with
  | none => s
  | some i =>
    let k := fget s .svcLoopCursor p.val
    let s := s.setPart p { s.part p with ingest := some { i with landed := i.landed.filter (· != k) } }
    fset s .svcLoopCursor p.val (nextCursor i k)

/-- A partition begins its next step (10 R219, R225). -/
def openStep (s : State) (p : Part) : State :=
  let x := s.part p
  let s := match x.fatalNext with
    | some m => fset s .updSealFatal p.val m
    | none => s
  let x := { x with
    fatalNext := none, prep := none, prepFailed := false, snapTaken := true, stopped := false, reported := []
    snapList := (fget s .updListBase p.val, fget s .updListCount p.val), running := (coresOf s p).filter (running s)
    gathered := false, sums := [], fromRank0 := false, notYet := false, committed := false, releaseDue := none
    history := ((fget s .updStepStep p.val, fget s .svcLoopCursor p.val) :: x.history).take 4 }
  letGo (setSealState (s.setPart p x) p 0) p

/-- The ingestion of a partition has no batch left (14 R351). -/
def dataEnded (s : State) (p : Part) : Bool :=
  match (s.part p).ingest with
  | some i => !i.wrap && decide (i.nbatch ≤ fget s .svcLoopCursor p.val)
  | none => false

/-- What a REPLAY's loop reads for CKS, with the rights of its caller: the runs of the slot that it may reach. -/
def replayRuns (s : State) (p : Part) (l : LoopSvc) (list : List UpdEntry) : List (Nat × Nat) :=
  if l.replay then (slotRuns s p list).filter fun r => mayReach s l.fn p r.1 r.2 else []

/-- The host bytes that the release of a commit needs for CKS of a REPLAY are asked for; none once all have come. -/
def replayStage (s : State) (p : Part) : Option State :=
  match (s.part p).loop with
  | none => none
  | some l => stageHost s (some p) (.call l.fn l.slot) (replayRuns s p l ((s.part p).prep.getD []))

/-- What the loop does after the release of a commit. -/
def loopAfterCommit (s : State) (p : Part) : State :=
  let x := s.part p
  match x.loop with
  | none => s
  | some l =>
    let r := if l.replay then slotPayload s (mayReach s l.fn p) p x.lastList else (s, [], false)
    let r := (unstage r.1 (replayRuns s p l x.lastList), r.2)
    let l := { l with committed := l.committed + 1, tries := 0, cks := if l.replay then ckWords r.2.1 else 0 }
    let s := if r.2.2 then finishCall r.1 l.fn l.slot sMEMERR (lastSeq r.1) [] else r.1
    let s := s.setPart p { s.part p with loop := some l }
    if l.single || l.replay then endLoopSvc s p 0
    else if l.ending then endLoopSvc s p 1
    else if l.steps != 0 && decide (l.steps ≤ l.committed) then endLoopSvc s p 0
    else if dataEnded s p then endLoopSvc s p 3
    else s

/-- The release that is due may be made: a replay waits for its batch. -/
def releaseReady (s : State) (p : Part) : Bool :=
  let x := s.part p
  match x.releaseDue with
  | none => false
  | some 1 => match x.ingest with
    | some i => i.landed.contains (fget s .svcLoopCursor p.val) || decide (i.nbatch ≤ fget s .svcLoopCursor p.val)
    | none => true
  | some _ => true

/-- The release of a partition, by what is due: 0 after a commit, 1 a replay, 2 a resume, 3 after a restore; in the order of
R225. -/
def releasePart (s : State) (p : Part) (kind : Nat) : State :=
  let x := s.part p
  let n := fget s .updStepStep p.val
  let s := if kind = 0 then
      fset (s.setPart p { x with lastList := x.prep.getD [] }) .updStepStep p.val (n + 1)
    else s
  let s := if kind = 0 ∨ kind = 2 then advanceCursor s p else s
  let s := placeShadows s p
  let s := turnStatus s p
  let s := ((span 0 64).filter fun w => bit x.img.wcmask w && fbit s .hstWorkAuto w).foldl armCounter s
  let s := (partGroups s p).foldl resetGroup s
  let s := (diesOf s p).foldl (raiseDie p) s
  let s := openStep s p
  let s := fset s .svcPulseCount p.val (fget s .svcPulseCount p.val + 1)
  let s := fset s .svcPulseStep p.val (fget s .updStepStep p.val)
  let s := raise s (.release p)
  let s := if kind = 0 then loopAfterCommit (startBuddy s p n) p else s
  fillIngest s p

/-- RELEASE: the release that is due is made; a fence holds it (16 R395). -/
def execRelease (p : Part) (s : State) : Host.Outcome State Fault Refusal :=
  if !releaseReady s p || fbit s .hstPartCtrlFence p.val then idle s
  else
    let kind := (s.part p).releaseDue.getD 0
    match if kind = 0 then replayStage s p else none with
    | some t => .next t
    | none => .next (releasePart s p kind)

end Sys2Proof.Machine
end

