-- ==== Sys2Proof/Machine/Fence.lean ====
section
/-! DEFINITION. Fences and the resets of partitions, cores and ports (16 R392 to R401), the end of a load (12 R290), device
DMA's answers (13 R321, R329), and upsets of critical fields (16 R389, 18 R431). -/

namespace Sys2Proof.Machine

/-! ### Reads by device DMA (13 R321, R329) -/

/-- Bytes that device DMA brought reach the unit that asked. -/
def dmaArrive (s : State) (d : DmaX) (b : Bytes) : State :=
  match d.why with
  | .engine c e op => answerRead s c e op d.devAddr b
  | _ => stageBytes s d.devAddr b

/-- A read ends in an error: the reader takes zeros. -/
def dmaEnds (s : State) (d : DmaX) : State :=
  dmaArrive (dmaFailed s d.why d.fn d.part d.devAddr) d (List.replicate d.len 0)

/-- A read is over; those that wait for their turn may go. -/
def dropDma (s : State) (tag : Nat) : State :=
  pumpDma { s with net := { s.net with dma := s.net.dma.filter fun d => d.tag != tag } }

/-- The read that a tag names, sent and not over. -/
def dmaOf (s : State) (tag : Nat) : Option DmaX := s.net.dma.find? fun d => d.tag == tag && decide (tag < dmaUnsent)

/-- Reads that were not sent yet of functions that may issue no request any more end in an error (13 R321, R329). -/
def endBarred (s : State) : State :=
  let barred := fun (d : DmaX) => decide (dmaUnsent ≤ d.tag) && !(s.fn d.fn).mayIssue
  (s.net.dma.filter barred).foldl dmaEnds { s with net := { s.net with dma := s.net.dma.filter fun d => !barred d } }

/-- A read still outstanding at the end of a fence's wait ends in an error, and its tag is quarantined; one that was not
sent yet has none (16 R395, R396). -/
def quarantineDma (s : State) (tag : Nat) : State :=
  match s.net.dma.find? fun d => d.tag == tag && !d.quarantine with
  | none => s
  | some d =>
    if dmaUnsent ≤ tag then dmaEnds (dropDma s tag) d
    else
      dmaEnds (pumpDma { s with net := { s.net with
        dma := mapFirst (fun e => e.tag == tag) (fun e => { e with quarantine := true }) s.net.dma } }) d

/-! ### Fencing (16 R394, R395, R397) -/

/-- The fence causes of R399. -/
def fOWNER : Nat := 1
def fFLR : Nat := 2
def fVFDISABLE : Nat := 3
def fREGPROT : Nat := 4

/-- A byte of a queued call's message as it stands; none while it lies in host memory and has not come. -/
def callByte (s : State) (c : CallX) (i : Nat) : Option Nat :=
  match placeOf c.addr with
  | .host _ _ => (tget (fun _ => none) s.net.staged (c.addr + i)).map (·.toNat)
  | _ => some (mget s (c.addr + i)).toNat

/-- The partition of a call: as read, or as the message stands while the call is queued. -/
def callPart (s : State) (c : CallX) : Option Nat :=
  if c.fn ≠ 0 then (partOfFn s c.fn).map (·.val)
  else if c.started then some c.part
  else callByte s c 8

/-- The service of a call: as read, or as the message stands while the call is queued. -/
def callService (s : State) (c : CallX) : Option Nat :=
  if c.started then some c.service
  else (callByte s c 0).bind fun a => (callByte s c 1).map fun b => a + 256 * b

/-- MARGIN_CAL and CANCEL wait for no partition's turn. -/
def callWide (s : State) (c : CallX) : Bool := callService s c == some 9 || callService s c == some 12

/-- Every call of a partition ends with ABORTED (14 R343), CANCEL among them; MARGIN_CAL is on no partition. A queued call
whose message has not come yet ends so when its message says that it is one. -/
def abortCalls (s : State) (p : Part) : State :=
  let s := s.setPart p { s.part p with abortBelow := s.hub.callOrder }
  { s with hub := { s.hub with calls := s.hub.calls.map fun c =>
      if c.finished.isNone && callPart s c == some p.val && callService s c != some 9 then
        { c with started := true, finished := some (sABORTED, 0, []) }
      else c } }

/-- t0 of a fence. -/
def beginFence (s : State) (p : Part) (cause : Nat) : State :=
  let s := haltCommit s p
  let x := s.part p
  let s := fset (fset s .hstPartCtrlFence p.val 1) .hstPartCtrlFenced p.val 0
  let s := fset (fset s .hstPartCtrlBusy p.val 1) .hstPartCtrlCause p.val cause
  let s := s.setPart p { x with
    fenceDue := none, loop := none, ingest := none, buddyCopy := none, releaseDue := none
    fence := some { step := fget s .updStepStep p.val, cursor := fget s .svcLoopCursor p.val, sealState := sealState s p } }
  let s := fset (fset s .svcLoopLoop p.val 0) .svcLoopIngest p.val 0
  let s := abortCalls s p
  let s := ((coresOf s p).filter (running s)).foldl stopCore s
  let s := discardColl s p
  let s := { s with net := { s.net with held := s.net.held.filter fun h => h.2.2.1 != .buddy p } }
  leaveEngine s p

/-- The load under way is for a partition, or may prove to be: its image has not all come yet. DEDUCED, log 153. -/
def loadMayBeFor (s : State) (p : Part) : Bool :=
  match s.rot.op with
  | some (.load a false) =>
    decide (a % 64 = 0 ∧ 128 ≤ a) && ((imageAtHand s (a - 128)).isNone || loadFor s == some p)
  | _ => false

/-- A fence is asked for. A fenced partition stays as it is; a load for the partition comes first (16 R394). -/
def startFence (s : State) (p : Part) (cause : Nat) : State :=
  if fbit s .hstPartCtrlFence p.val then s
  else if loadMayBeFor s p then
    let x := s.part p
    s.setPart p { x with fenceDue := some (x.fenceDue.getD cause) }
  else beginFence s p cause

/-- The fences begin that waited for a load which is seen to be for another partition. -/
def settleFences (s : State) : State :=
  partRange.foldl (fun s p => match (s.part p).fenceDue with
    | some c => if loadMayBeFor s p then s else beginFence s p c
    | none => s) s

/-! ### Device DMA answered (13 R321, R329) -/

/-- DMA_COMPLETION: the completion of a read. One that fails its integrity check, or comes on a stream that is Insecure,
is discarded (13 R322). -/
def execDmaCompletion (tag : Nat) (cpl : Cpl) (data : Bytes) (s : State) : Host.Outcome State Fault Refusal :=
  let status := cpl.status
  let head : Tlp := { kind := .sound, header := cpl.header }
  match dmaOf s tag with
  | none => .next (linkViolation s 0 0x0B [tag] head)
  | some d =>
    if status = .broken ∨ (ideOf s d.fn).any (fun x => !x.secure) then .next (linkViolation (ideBroken s d.fn) d.fn 0x08 [tag] head)
    else if d.quarantine then .next (linkViolation (dropDma s tag) d.fn 0x0B [tag] head)
    else if status = .sc ∧ data.length ≠ d.len then .next (linkViolation s d.fn 0x01 [tag] head)
    else if status = .sc then .next (settleFences (dmaArrive (dropDma s tag) d data))
    else .next (settleFences (dmaEnds (dropDma s tag) d))

/-- DMA_TIMEOUT: no completion within 50 ms, or a quarantine of 100 ms is over. -/
def execDmaTimeout (tag elapsedMs : Nat) (s : State) : Host.Outcome State Fault Refusal :=
  match dmaOf s tag with
  | none => idle s
  | some d =>
    if d.quarantine then (if 100 ≤ elapsedMs then .next (dropDma s tag) else idle s)
    else if 50 ≤ elapsedMs then .next (settleFences (dmaEnds (dropDma s tag) d)) else idle s

/-! ### The drain of a fence (16 R395 to R397) -/

/-- The tags of a partition's fabric requests that await an answer. -/
def tagsOfPart (s : State) (p : Part) : List Nat :=
  (s.net.out.filter fun o => o.2.part == some p && o.2.quarantine == 0).map (·.1)

/-- The tags of a partition's device DMA that awaits completion. -/
def dmaOfPart (s : State) (p : Part) : List Nat :=
  (s.net.dma.filter fun d => d.part == some p && !d.quarantine).map (·.tag)

/-- Requests of a partition that have not been injected are answered as the others are. -/
def dropHeld (s : State) (p : Part) : State :=
  let mine := s.net.held.filter fun h => h.2.1 == some p
  let s := { s with net := { s.net with held := s.net.held.filter fun h => h.2.1 != some p } }
  mine.foldl (fun s h =>
    let o : OutReq := { pkt := h.1, part := h.2.1, why := h.2.2.1, leaves := 1, quarantine := 1 }
    requestOver (takeNak s o nTIMEOUT) o) s

/-- The tags of a core's device DMA that awaits completion. -/
def dmaOfCore (s : State) (c : Core) : List Nat :=
  (s.net.dma.filter fun d => !d.quarantine && (match d.why with | .engine c' _ _ => c' == c | _ => false)).map (·.tag)

/-- The device DMA of a partition's cores in CORE reset: they drain as a fence does (16 R393). -/
def dmaOfResets (s : State) (p : Part) : List Nat :=
  ((coresOf s p).filter fun c => (s.core c).resetting.isSome).flatMap (dmaOfCore s)

/-- FENCE_TIMEOUT: 150 µs after t0, what is outstanding is answered locally; t0 is that of the partition's fence, or of the
CORE resets of its cores. DESIGN CHOICE, log 154. -/
def execFenceTimeout (p : Part) (elapsedUs : Nat) (s : State) : Host.Outcome State Fault Refusal :=
  if elapsedUs < 150 then idle s
  else if fbit s .hstPartCtrlFence p.val && !fbit s .hstPartCtrlFenced p.val then
    let s := dropHeld s p
    let s := (tagsOfPart s p).foldl (fun s t => localNak s t 1) s
    .next ((dmaOfPart s p).foldl quarantineDma s)
  else .next ((dmaOfResets s p).foldl quarantineDma s)

/-- Nothing of the partition is outstanding. -/
def drained (s : State) (p : Part) : Bool :=
  (tagsOfPart s p).isEmpty && (dmaOfPart s p).isEmpty && !(s.net.held.any fun h => h.2.1 == some p) &&
    !((s.grnQueue ++ s.hbmQueue).any fun r => partOfCore s r.core == some p)

/-! ### PART reset (16 R392, R398) -/

/-- The partition's flags and work counters, its fields and its memory dies' fields return to reset; so do the windows
and the mailbox of its VF, but for the slots whose calls have still to end with ABORTED. -/
def clearFields (s : State) (p : Part) : State :=
  let img := (s.part p).img
  let vf := (s.part p).vf
  let gs := (partGroups s p).map (·.val)
  let qs := quartersOf s p
  let live := fun (i : Nat) => s.hub.calls.any fun c => c.fn.val == i / 4 && c.slot.val == i % 4
  let s := { s with
    dieFlags := tdrop (fun k => flagAssigned s (some p) (.die ⟨k / 256 % 4, Nat.mod_lt _ (by decide)⟩ (k % 256))) s.dieFlags
    devFlags := tdrop (fun k => flagAssigned s (some p) (.dev k)) s.devFlags
    signals := s.signals.filter fun f => (match f with | .loc _ _ => true | _ => !flagAssigned s (some p) f)
    ctrQueue := s.ctrQueue.filter fun e => !bit img.wcmask e.1
    hub := { s.hub with sealStage := tdrop (fun k => k == p.val) s.hub.sealStage }
    net := { s.net with staged := s.net.staged.filter fun e =>
      !(decide (e.1 / 2 ^ 60 = p.val + 1)) && !(vf != 0 && decide ((e.1 - hostBase) / 2 ^ 38 = vf ∧ hostBase ≤ e.1)) } }
  fclearWhere s fun f i =>
    (f.spec.block == .upd && f != .updEngineState && f != .updEnginePart && f != .updEngineMismatch && i / Field.inner f == p.val) ||
    ((f == .xceListBase || f == .xceListCount || f == .xceCstatInst || f == .xceCstatState || f == .xceCstatBlocks ||
      f == .xceEscTallyEscMade || f == .xceEscTallyEscRecv) && gs.contains i) ||
    ((f == .svcPulseCount || f == .svcPulseStep || f == .svcLoopCursor || f == .svcLoopIngest || f == .svcLoopLoop ||
      f == .svcLoopPlogcnt) && i == p.val) ||
    ((f == .svcSlotAddr || f == .svcSlotState || f == .svcSlotCode || f == .svcSlotTag || f == .svcSlotDetail) &&
      vf != 0 && i / 4 == vf && !live i) ||
    ((f == .hstHwinHaddr || f == .hstHwinLen || f == .hstHwinEn) && vf != 0 && i / 16 == vf) ||
    ((f == .hstWorkNext || f == .hstWorkLimit || f == .hstWorkBase || f == .hstWorkAuto) && bit img.wcmask i) ||
    ((f == .grnSchedOwner || f == .grnErrTallyCe || f == .grnErrTallyUe) && qs.contains (i / Field.inner f))

/-- A partition's service state is forgotten; its image, its fence and what it was loaded from stay. -/
def PartX.wiped (x : PartX) : PartX :=
  { enabled := x.enabled, vf := x.vf, img := x.img, full := x.full, partialAddr := x.partialAddr, partialId := x.partialId
    fence := x.fence, fenceDue := x.fenceDue, resetDue := x.resetDue, imageId := x.imageId, abortBelow := x.abortBelow }

/-- Steps 1 and 2: cores, fields and flags are reset, and the flash clear of the partition's memory dies starts. -/
def resetSteps (s : State) (p : Part) : State :=
  let s := (coresOf s p).foldl coreToReset (abortCalls s p)
  let s := clearFields s p
  let s := s.setPart p (s.part p).wiped
  let s := (quartersOf s p).foldl (fun s q => if h : q < 16 then
      startClear (s.setGrnDie ⟨q, h⟩ { s.grnDie ⟨q, h⟩ with written := [], table := [] }) ⟨q, h⟩ else s) s
  fset s .hstPartCtrlBusy p.val 1

/-- A PART reset ends the CORE resets of the partition's cores: their remaining work is not done (16 R394). -/
def supersede (s : State) (p : Part) : State :=
  ((coresOf s p).filter fun c => (s.core c).resetting.isSome).foldl (fun s c =>
    fset (s.setCore c { s.core c with resetting := none }) .coreResetBusy c.val 0) s

/-- A PART reset is asked for. One under way makes a second one void, and so does a fence drain where the request is a
write of RESET; the request is logged, with class REGISTER where an access to a register is its cause (16 R385, R394). -/
def partReset (s : State) (p : Part) (cause : Nat) : State :=
  if cause = fOWNER ∧ fbit s .hstPartCtrlBusy p.val then logRegister s (some p) .hst (0x500 + 8 * p.val)
  else if (s.part p).resetDue then
    record s (if cause = fREGPROT then .core else .register) .info (some p) .hst .none 0 (.names 394 [p.val])
  else
    let s := supersede s p
    let s := s.setPart p { s.part p with resetDue := true }
    if !fbit s .hstPartCtrlFence p.val then startFence s p cause
    else if fbit s .hstPartCtrlFenced p.val then resetSteps s p
    else s

/-- FENCED: the partition is empty. -/
def execFenced (p : Part) (s : State) : Host.Outcome State Fault Refusal :=
  if fbit s .hstPartCtrlFence p.val && !fbit s .hstPartCtrlFenced p.val && drained s p then
    let due := (s.part p).resetDue
    let s := fset (fset s .hstPartCtrlFenced p.val 1) .hstPartCtrlBusy p.val (ofBool due)
    let s := record s .reset .stop (some p) (.part p) .none 1 (.bytes (slice (leBytes 1 (fget s .hstPartCtrlCause p.val)) 0 24))
    let s := fenceEvent s p 0x10
    .next (if due then resetSteps s p else s)
  else idle s

/-- No memory die of the partition is being cleared. -/
def diesClear (s : State) (p : Part) : Bool := (quartersOf s p).all fun q => fget s .grnStatusState q != 1

/-- The SYNDROME of a PART_DONE record (R399). -/
def partDoneSynd (s : State) (p : Part) (imageId : Nat) : Bytes :=
  let f := ((s.part p).fence).getD {}
  leBytes 8 f.step ++ leBytes 4 f.cursor ++ leBytes 1 f.sealState ++ leBytes 1 (fget s .hstPartCtrlCause p.val) ++
    leBytes 8 imageId ++ leBytes 2 0

/-- The partial image last applied to a partition is loaded again: the state to wait in, or the state with the IMAGEID
reapplied. -/
def reapply (s : State) (p : Part) : State ⊕ (State × Nat) :=
  let a := (s.part p).partialAddr
  if (s.part p).partialId = 0 then .inr (s, 0)
  else if s.rot.op.isSome then .inl s
  else
    match rotImage s (a - 128) with
    | .inl t => .inl t
    | .inr (t, img) =>
      let t := loadImage t (if t.rot.readErr then none else img) a false
      let done := fbit t .rotSimgStatusApplied 0
      let t := rotUnstage t (a - 128) ((img.map imgSize).getD 128)
      .inr (t, if done then (t.part p).partialId else 0)

/-- PART_DONE: the full image's state is back, and the partial image is reapplied. -/
def execPartDone (p : Part) (s : State) : Host.Outcome State Fault Refusal :=
  let x := s.part p
  if x.resetDue && fbit s .hstPartCtrlFenced p.val && diesClear s p then
    match reapply (putImg s p x.full true) p with
    | .inl t => .next t
    | .inr (t, id) =>
      let t := record t .reset .stop (some p) (.part p) .none 2 (.bytes (partDoneSynd t p id))
      let t := fset t .hstPartCtrlBusy p.val 0
      let y := t.part p
      let t := t.setPart p { y with resetDue := false, imageId := id, fence := y.fence.map fun f => { f with done := true } }
      .next (fenceEvent t p 0x11)
  else idle s

/-- The fence is lifted: by 1 the owner, 2 the tenant. -/
def liftFence (s : State) (p : Part) (who : Nat) : State :=
  let s := fset (fset s .hstPartCtrlFence p.val 0) .hstPartCtrlFenced p.val 0
  let s := record s .reset .info (some p) (.part p) .none 3 (.bytes (slice (leBytes 1 who) 0 24))
  let s := fenceEvent s p 0x12
  s.setPart p { s.part p with fence := none }

/-- A write of 0 to FENCE lifts a fence once a PART reset has completed; otherwise it is ignored and logged. -/
def unfence (s : State) (p : Part) (who off : Nat) : State :=
  match (s.part p).fence with
  | some f => if f.done && !(s.part p).resetDue then liftFence s p who else logRegister s (some p) .hst off
  | none => logRegister s (some p) .hst off

/-! ### The end of a load (12 R290) -/

/-- The fences that waited for the loader begin. -/
def dueFences (s : State) : State :=
  partRange.foldl (fun s p => match (s.part p).fenceDue with
    | some c => beginFence s p c
    | none => s) s

/-- STRUCT_LOAD_DONE: the image has been read and is refused, checked or applied. -/
def execStructLoadDone (s : State) : Host.Outcome State Fault Refusal :=
  match s.rot.op with
  | some (.load a checkOnly) =>
    if a % 64 ≠ 0 ∨ a < 128 then .next (dueFences (endLoad (loadImage s none a checkOnly)))
    else
      match rotImage s (a - 128) with
      | .inl t => .next t
      | .inr (t, img) =>
        let t := loadImage t (if t.rot.readErr then none else img) a checkOnly
        .next (dueFences (endLoad (rotUnstage t (a - 128) ((img.map imgSize).getD 128))))
  | _ => idle s

/-! ### CORE and PORT resets (16 R392 to R394) -/

/-- The core counts in STOPPED of its partition (R393). -/
def stopStep (s : State) (c : Core) : State :=
  match partOfCore s c with
  | some p => s.setPart p { s.part p with stopped := true }
  | none => s

/-- A CORE reset begins: by 1 the owner, 2 the tenant. -/
def startCoreReset (s : State) (c : Core) (who off : Nat) : State :=
  let busy := fbit s .coreResetBusy c.val ||
    (match partOfCore s c with | some p => (s.part p).resetDue | none => false)
  if busy then logRegister s (partOfCore s c) (.core c) off
  else
    let mpc := (s.core c).sm.pc
    let s := if running s c then stopCore s c else s
    let s := stopStep s c
    fset (s.setCore c { s.core c with resetting := some (decide (who = 2), mpc) }) .coreResetBusy c.val 1

/-- CORE_DONE: the core has drained, and is reset but for its program. -/
def execCoreDone (c : Core) (s : State) : Host.Outcome State Fault Refusal :=
  match (s.core c).resetting with
  | none => idle s
  | some (tenant, mpc) =>
    if ((s.grnQueue ++ s.hbmQueue).any fun r => r.core == c) || !(dmaOfCore s c).isEmpty then idle s
    else
      let s := coreKeepProgram s c
      .next (record s .reset .stop (partOfCore s c) (.core c) .none 4
        (.bytes (slice (leBytes 1 (if tenant then 2 else 1) ++ leBytes 2 mpc) 0 24)))

/-- A PORT reset: the port goes DOWN, its status, tallies and occupancy are reset, and it retrains. -/
def resetPort (s : State) (n : Port) : State :=
  let s := portDown s n 0
  let s := fclearWhere s fun f i =>
    (f == .sklLinkTallyCsym || f == .sklLinkTallyRetry) && i == n.val ||
      (f == .sklChanOcc || f == .sklChanXoff) && i / 48 == n.val
  let s := record s .reset .info none (.port n) .none 5 (.bytes (slice (leBytes 1 n.val) 0 24))
  lightUp s n

/-! ### Upsets of critical fields (16 R389, 18 R431) -/

/-- The unit that a register belongs to. -/
def unitOf (s : State) (f : Field) (i : Nat) : UnitRef :=
  let u := i / Field.inner f
  match f.spec.block with
  | .hst => .hst
  | .rot => .rot
  | .pwr => .pwr
  | .err => .err
  | .svc => .sc 0
  | .skl => if f.spec.dims.length = 0 then .router else
      match f with
      | .sklPortCtrlEn | .sklPortCtrlForce16 | .sklPortCtrlSpthr => .port ⟨u % 6, Nat.mod_lt _ (by decide)⟩
      | _ => .router
  | .xce => .xce (grpServe s ⟨u % 16, Nat.mod_lt _ (by decide)⟩)
  | .upd => .upd (engineOf s ⟨u % 16, Nat.mod_lt _ (by decide)⟩)
  | .hbm => .hbm ⟨u % 8, Nat.mod_lt _ (by decide)⟩
  | .grn => .grn ⟨u % 16, Nat.mod_lt _ (by decide)⟩
  | .core => .core ⟨u % 256, Nat.mod_lt _ (by decide)⟩

/-- The scope of a critical field (18 R431): the device, a partition, or nobody, where its row names the partition of a
VF, group or core that has none. -/
inductive CritScope where
  | device
  | part (p : Part)
  | nobody
  deriving DecidableEq, Repr

def CritScope.ofPart : Option Part → CritScope
  | some p => .part p
  | none => .nobody

def CritScope.owner : CritScope → Option Part
  | .part p => some p
  | _ => none

/-- The scope of a critical field; none for a field that is not critical. -/
def criticalScope (s : State) (f : Option Field) (i : Nat) : Option CritScope :=
  let part := fun (k : Nat) => if h : k < 16 then some (.part (⟨k, h⟩ : Part)) else none
  match f with
  | none => part i
  | some f =>
    match f with
    | .rotPmapQmask | .rotPmapHwin | .rotPmapValid | .rotPmapLockLock | .rotStructRegprot | .rotStructEnmodes
    | .rotStructQused | .rotCoreMapSlot | .hstOwnPolicyOrder | .hstOwnPolicyElig | .hstOwnPolicySecure
    | .hstOwnPolicyWindow | .hstOwnPolicyFmdev | .hstOwnPolicyFmep | .hstOwnPolicyLock | .hstOwnStatusState
    | .hstOwnStatusOwner | .hstOwnStatusSucc | .hstBar2BaseBase | .sklDevidDevid | .sklDevidValid | .sklDevidHoplim
    | .sklEpochEpoch | .sklEpochBank0 | .sklEpochBank1 | .pwrModeCtrlSel | .pwrSlotVsetE | .pwrSlotVsetT => some .device
    | .hstHwinHaddr | .hstHwinLen | .hstHwinEn =>
      if i < 16 then some .device
      else if i < 256 then some (.ofPart (partOfFn s ⟨i / 16 % 16, Nat.mod_lt _ (by decide)⟩)) else none
    | .hstPartCtrlFence | .hstPartCtrlCause | .updStepStep | .updSealState | .updSealFatal | .updSealSgrp
    | .updSealCken => part i
    | .xceGroupSizem1 | .xceGroupRank | .xceGroupSucc | .xceGroupPred | .xceGroupServe | .xceGroupMcast | .xceGroupMcen
    | .xceGroupEn => if i < 16 then some (.ofPart (partOfGroup s i)) else none
    | .coreSeqCtrlStart => if h : i < 256 then some (.ofPart (partOfCore s ⟨i, h⟩)) else none
    | .coreStreamBaseBase => if h : i / 3 < 256 then some (.ofPart (partOfCore s ⟨i / 3, h⟩)) else none
    | _ => none

/-- REGISTER_UPSET: the copies of a critical field disagree. Under TRIPLE the vote restores it; otherwise the field's
scope is fenced. A field whose scope is nobody has its record, and nothing to fence: DEDUCED, log 155. -/
def execRegisterUpset (f : Option Field) (idx : Nat) (allDiffer : Bool) (s : State) : Host.Outcome State Fault Refusal :=
  match criticalScope s f idx with
  | none => idle s
  | some scope =>
    let u := match f with | some g => unitOf s g idx | none => .rot
    let what := Synd.names 389 [match f with | some g => Field.key g idx | none => idx]
    if fget s .rotStructRegprot 0 = 0 ∧ allDiffer = false then
      .next (record s .register .corrected scope.owner u .none 0 what)
    else
      let s := record s .register .stop scope.owner u .none 0 what
      match scope with
      | .part p => .next (partReset s p fREGPROT)
      | .nobody => .next s
      | .device =>
        let s := fset s .hstDevStatusDevfault 0 1
        .next ((partRange.filter fun p => (s.part p).enabled).foldl (fun s p => startFence s p fREGPROT) s)

end Sys2Proof.Machine
end

