-- ==== Sys2Proof/Machine/Margins.lean ====
section
/-! DEFINITION. Margin records and what PWR plans from them (17 R421 to R425). -/

namespace Sys2Proof.Machine

/-- The die rail of a mode in mV: 0 E, 1 T, 2 L (R421). -/
def dieRail (mode : Nat) : Nat := if mode = 0 then 850 else if mode = 1 then 1000 else 700

/-- Vcap of a mode: the die rail less the LDO dropout of 50 mV. -/
def vcap (mode : Nat) : Nat := dieRail mode - 50
abbrev vcapE : Nat := vcap 0
abbrev vcapT : Nat := vcap 1

/-- The margin below which a slot is retired. -/
def marginFloor : Nat := 18

/-- Bytes [11:0] of a record (R425). -/
def MarginRec.body (r : MarginRec) : Bytes :=
  leBytes 2 r.mE ++ leBytes 2 r.mT ++ leBytes 2 r.vE ++ leBytes 2 r.vT ++ leBytes 3 r.hours ++
    leBytes 1 (ofBool r.retired + 2 * ofBool r.tValid)

/-- The 16 bytes of a record as the record area holds them. -/
def MarginRec.bytes (r : MarginRec) : Bytes := r.body ++ leBytes 4 r.crc

/-- Where the record area holds entry `k` of the ring of slot `i` = 68 d + s. -/
def marginPlace (i k : Nat) : Nat := 128 * i + 16 * k

/-- The record's CRC is valid. -/
def MarginRec.sound (r : MarginRec) : Bool := r.crc == crc32c r.body

/-- A record holds an E margin. -/
def MarginRec.hasE (r : MarginRec) : Bool := r.vE != 0

/-- Quotient of integers rounded to nearest, ties away from zero. -/
def divAway (n : Int) (d : Nat) : Int :=
  let q : Int := ((2 * n.natAbs + d) / (2 * d) : Nat)
  if n < 0 then -q else q

/-- The least-squares slope of E margin against hours over the last 8 records, in 0.1 mV per 1,000 h (R423). -/
def trendOf (l : List MarginRec) : Int :=
  let l := (l.drop (l.length - 8)).filter MarginRec.hasE
  let n := l.length
  let sx := (l.map (·.hours)).sum
  let sy := (l.map (·.mE)).sum
  let sxx := (l.map fun r => r.hours * r.hours).sum
  let sxy := (l.map fun r => r.hours * r.mE).sum
  let hi := (l.map (·.hours)).foldl max 0
  let lo := (l.map (·.hours)).foldl min hi
  let den := n * sxx - sx * sx
  if hi - lo < 1000 ∨ den = 0 then 0
  else divAway (((n * sxy : Nat) : Int) * 10000 - ((sx * sy : Nat) : Int) * 10000) den

/-- The guard band in mV. -/
def guardBand (trend : Int) : Nat := 25 + (if trend < 0 then min 40 (ceilDiv (8 * trend.natAbs) 10) else 0)

/-- The set point for a lowest passing voltage; a slot without one runs at Vcap. -/
def setPoint (vpass vcap : Nat) (trend : Int) : Nat := if vpass = 0 then vcap else min (vpass + guardBand trend) vcap

/-- What PWR_SLOT shows of a slot. -/
structure SlotPlan where
  vsetE : Nat
  vsetT : Nat
  /-- of L, which no register shows: the E set point less 60 mV -/
  vsetL : Nat
  mE : Nat
  mT : Nat
  trend : Int
  cal : Bool
  retired : Bool

/-- The plan of a slot from its ring of records, oldest first; a record whose CRC is wrong counts for nothing. `tOn` says
that the structure image enables T. -/
def planSlot (l : List MarginRec) (tOn : Bool) : SlotPlan :=
  let l := l.filter MarginRec.sound
  let t := trendOf l
  let e := (l.filter MarginRec.hasE).getLast?
  let m := (l.filter (·.tValid)).getLast?
  let vE := setPoint ((e.map (·.vE)).getD 0) vcapE t
  { vsetE := vE
    vsetT := setPoint ((m.map (·.vT)).getD 0) vcapT t
    vsetL := vE - 60
    mE := min 255 ((e.map (·.mE)).getD 0)
    mT := min 255 ((m.map (·.mT)).getD 0)
    trend := t
    cal := e.isSome && (!tOn || m.isSome)
    retired := (l.getLast?.map (·.retired)).getD false }

/-- The records of a slot. -/
def slotRecords (s : State) (i : Nat) : List MarginRec := tget (fun _ => []) s.flash.margins i

/-- PWR_SLOT of slot `i` follows its records. -/
def showSlot (tOn : Bool) (s : State) (i : Nat) : State :=
  let p := planSlot (slotRecords s i) tOn
  let s := fset (fset s .pwrSlotVsetE i p.vsetE) .pwrSlotVsetT i p.vsetT
  let s := fset (fset s .pwrSlotME i p.mE) .pwrSlotMT i p.mT
  let s := fset s .pwrSlotTrend i (wrap 16 p.trend)
  fset (fset s .pwrSlotCal i (ofBool p.cal)) .pwrSlotRetired i (ofBool p.retired)

/-- A new record takes the next entry of the ring of 8, that of the oldest once the ring is full, with its CRC-32C. -/
def storeMargin (s : State) (i : Nat) (r : MarginRec) : State :=
  let old := slotRecords s i
  let r := { r with entry := match old.getLast? with | some x => (x.entry + 1) % 8 | none => 0 }
  let l := old ++ [{ r with crc := crc32c r.body }]
  { s with flash := { s.flash with margins := tset (fun _ => []) s.flash.margins i (l.drop (l.length - 8)) } }

end Sys2Proof.Machine
end

