-- ==== Sys2Proof/Machine/Boot.lean ====
section
/-! DEFINITION. POR and WARM: what they clear and the stages of boot (15 R360 to R379; 16 R392, R405, R406; 12 R295). -/

namespace Sys2Proof.Machine

/-! ### The boot record (15 R384) -/

/-- The copy in force: valid, with the higher sequence number. Without a valid copy bank A is active. -/
def bootRecord (s : State) : BootRec :=
  let a := s.flash.boot0
  let b := s.flash.boot1
  if a.valid && b.valid then (if a.seq < b.seq then b else a)
  else if a.valid then a else if b.valid then b else {}

/-- A new record overwrites the older copy. -/
def writeBootRecord (s : State) (r : BootRec) : State :=
  let old := bootRecord s
  let r := { r with seq := (old.seq + 1) % 2 ^ 32, valid := true }
  if s.flash.boot0.valid ∧ s.flash.boot0 = old then { s with flash := { s.flash with boot1 := r } }
  else { s with flash := { s.flash with boot0 := r } }

def showBootRecord (s : State) : State :=
  let r := bootRecord s
  fset (fset s .rotBootStatusTrial 0 (ofBool r.trial)) .rotBootStatusTries 0 r.tries

/-- The bank that the ROM selects: a trial counts, and one that has been tried three times falls back. -/
def selectBank (s : State) : State × Bool :=
  let r := bootRecord s
  if r.trial && decide (r.tries < 3) then
    (showBootRecord (writeBootRecord s { r with tries := r.tries + 1 }), r.active)
  else if r.trial then
    let s := writeBootRecord s { r with active := !r.active, trial := false, tries := 0 }
    (fset (showBootRecord s) .rotBootStatusFellback 0 1, !r.active)
  else (showBootRecord s, r.active)

/-! ### What is wrong with a bank (15 R361, R371) -/

/-- The fault of an image in a bank: reason and type. -/
def imageFault (s : State) (bank required : Bool) (type : Nat) : Option (Nat × Nat) :=
  match bankImage s bank type with
  | none => if required then some (rFORMAT, type) else none
  | some b =>
    let r := verifyImage s.rot.fuseAtBoot type b
    if r = 0 then none else some (r, type)

/-- A POLICY payload is 16 bytes with LOCK 0 and its reserved bits 0 (R373). -/
def policyFault (s : State) (bank : Bool) : Option (Nat × Nat) :=
  match bankImage s bank iPOLICY with
  | none => none
  | some b =>
    let p := imgPayload b
    if p.length = 16 ∧ field p 0 8 < 2 ^ 50 ∧ field p 8 8 = 0 then none else some (rFORMAT, iPOLICY)

/-- Why a bank cannot be booted. -/
def bankFault (s : State) (bank : Bool) : Option (Nat × Nat) :=
  if !directoryOk s bank then some (rFORMAT, iBOOT)
  else
    ([imageFault s bank true iBOOT, imageFault s bank true iFIRMWARE,
      if (bankImage s bank iSTRUCTURE).isNone then some (rFORMAT, iSTRUCTURE) else none,
      imageFault s bank false iTESTS, imageFault s bank false iPOLICY, policyFault s bank].filterMap id).head?

/-! ### Identity (15 R377) -/

def cdi0 (s : State) : Bytes := hmac384 (leBytes 32 s.fuses.uds) (ascii "evteora-devid")
def edSeed (cdi : Bytes) : Bytes := (hkdf384 cdi (ascii "ed25519")).take 32
def mlSeed (cdi : Bytes) : Bytes := (hkdf384 cdi (ascii "mldsa65")).take 32

/-- DEVICE_ID. -/
def deviceId (s : State) : Nat :=
  leNat ((sha384 (Config.ed25519Public (edSeed (cdi0 s)) ++ Config.mldsaPublic (mlSeed (cdi0 s)))).take 16)

/-- What the Alias keys depend on and their certificates name: M2, M3 and M8 (15 R377, R378). -/
def certMeasures (s : State) : Bytes := measure s 2 ++ measure s 3 ++ measure s 8

/-- The Alias keys follow the measurements of BOOT, FIRMWARE and the fuses. -/
def deriveAlias (s : State) : State :=
  let cdi1 := hmac384 (cdi0 s) (certMeasures s)
  { s with rot := { s.rot with alias25519 := edSeed cdi1, aliasMl := mlSeed cdi1 } }

/-- Both public Alias keys, the private ones being their seeds. -/
def aliasEd (s : State) : Bytes := Config.ed25519Public s.rot.alias25519
def aliasMlKey (s : State) : Bytes := Config.mldsaPublic s.rot.aliasMl

/-- The key store signs with the DeviceID keys, in both algorithms; once in a boot, and then it refuses them. -/
def signDeviceId (s : State) (ed ml : Bytes) : State × Option (Bytes × Bytes) :=
  if s.rot.deviceSigned then (s, none)
  else
    ({ s with rot := { s.rot with deviceSigned := true } },
      some (Config.ed25519Sign (edSeed (cdi0 s)) ed, Config.mldsaSign (mlSeed (cdi0 s)) [] ml))

/-- The BOOT stage has the Alias certificates signed by the DeviceID keys (15 R370, R378). -/
def issueAlias (s : State) : State :=
  let s := deriveAlias s
  let ed := Config.aliasTbs false (aliasEd s) (certMeasures s)
  let ml := Config.aliasTbs true (aliasMlKey s) (certMeasures s)
  match signDeviceId s ed ml with
  | (t, none) => t
  | (t, some sig) =>
    { t with rot := { t.rot with certEd := Config.aliasCert false ed sig.1, certMl := Config.aliasCert true ml sig.2 } }

/-! ### Clearing (16 R405, R406) -/

/-- Fields that a WARM reset keeps: those in the loft, and the remap entries of the Granary self-test. -/
def keepsWarm (f : Field) : Bool :=
  f.spec.kept == .l || f.spec.kept == .s || f == .grnRemapRow || f == .grnRemapEn || f == .grnStatusRows

/-- The stacks complete every accepted write (08 R186). -/
def drainHbm (s : State) : State :=
  (s.hbmQueue.filter (·.acked)).foldl serve { s with hbmQueue := [] }

/-- The stacks enter self-refresh. -/
def hbmRest (s : State) : State :=
  (span 0 8).foldl (fun s k => if fget s .hbmStatusState k = 1 then fset s .hbmStatusState k 2 else s) s

/-- The loft's part of a port, and the cable before it: its light, how its fibres lie, the lanes found bad and the substitutions in force. -/
def PortX.loft (x : PortX) : PortX :=
  { light := x.light, fibres := x.fibres, badRx := x.badRx, lanesTx := x.lanesTx, lanesRx := x.lanesRx
    swapsTx := x.swapsTx.filter (·.active), swapsRx := x.swapsRx.filter (·.active) }

/-- What a WARM reset leaves, but for the registers that follow it: the loft and HBM contents. -/
def warmKeep (s : State) : State :=
  let s := hbmRest (drainHbm s)
  let hbmState := (span 0 8).map fun k => fget s .hbmStatusState k
  let s := fclearWhere s fun f _ => !keepsWarm f
  let s := (List.zip (span 0 8) hbmState).foldl (fun s e => fset s .hbmStatusState e.1 e.2) s
  { pending := s.pending, sent := s.sent, regs := s.regs
    mem := tdrop (fun a => match placeOf a with | .hbm _ => false | _ => true) s.mem
    hbmSyn := s.hbmSyn, scrambled := s.scrambled
    grn := tmap (fun _ => {}) (fun _ x => { failed := x.failed, selfSpares := x.selfSpares }) s.grn
    hbm := tmap (fun _ => {}) (fun _ x => { scrub := x.scrub }) s.hbm
    ports := tmap (fun _ => {}) (fun _ x => x.loft) s.ports
    hub := { perst := s.hub.perst, perstHeld := s.hub.perstHeld }
    fuses := s.fuses, flash := s.flash, rot := { fuseAtBoot := s.rot.fuseAtBoot }
    pwr := { cold := s.pwr.cold }
    errQueue := s.errQueue, fresh := s.fresh }

/-- A WARM reset clears everything but the loft and HBM contents. The self-test's map of spare banks applies again. -/
def warmClear (s : State) : State := reapplySpares (warmKeep s)

/-- POR clears everything but the fuses, the flash and what comes from outside. Claims and writes that came while boot
was due belong to this boot: the claims are kept for judgement, the writes stay counted. WINDOW has not begun. -/
def coldClear (s : State) : State :=
  let clear : State :=
    { pending := s.pending, sent := s.sent
      ports := tmap (fun _ => {}) (fun _ x => { light := x.light, fibres := x.fibres }) s.ports
      hub := { perst := s.hub.perst, perstHeld := s.hub.perstHeld, claims := s.hub.claims }
      fuses := s.fuses, flash := s.flash, pwr := { cold := false }, fresh := s.fresh }
  fset clear .rotBootStatusEarlyw 0 (fget s .rotBootStatusEarlyw 0)

/-! ### The structure image at boot (12 R295) -/

/-- PWR_SLOT of every slot follows the flash. -/
def showSlots (s : State) (tOn : Bool) : State := (span 0 272).foldl (showSlot tOn) s

/-- CLOCK of a full image: the enabled modes and the initial mode. -/
def clockOf (p : Bytes) : Nat × Nat :=
  match recsOf p 3 with
  | r :: _ => (bits (field p r.2 1) 0 3, bits (field p r.2 1) 4 2)
  | [] => (0, 0)

/-- The full image of a bank is tried; false when it is refused. -/
def tryStructure (s : State) (bank cold : Bool) : State × Bool :=
  match bankImage s bank iSTRUCTURE with
  | none => (loadStatus s (some ⟨oREADERR, 0, 0, 0⟩) false, false)
  | some b =>
    let r := verifyImage s.rot.fuseAtBoot iSTRUCTURE b
    if r ≠ 0 then (loadStatus (bootReason s r iSTRUCTURE) (some ⟨oSIGNATURE, 0, 0, 0⟩) false, false)
    else
      let p := imgPayload b
      let s := showSlots s (bit (clockOf p).1 1)
      match checkImage s p true with
      | some o => (loadStatus s (some o) false, false)
      | none =>
        let s := measureTbs (loadStatus (applyFull s p) none true) 6 b
        let m := (clockOf p).2
        let s := fset (fset s .pwrModeCtrlSel 0 m) .pwrStatusMode 0 m
        ({ s with rot := { s.rot with bootSvn := s.rot.bootSvn ++ [(iSTRUCTURE, imgSvn b)] } }, true)

/-- The image of the booted bank, or else of the other, is applied; with none, every partition stays disabled. Beside the
state stands the payload that was applied. -/
def loadStructure (s : State) (bank cold : Bool) : State × Option Bytes :=
  let a := tryStructure s bank cold
  if a.2 then (a.1, (bankImage s bank iSTRUCTURE).map imgPayload)
  else
    let b := tryStructure a.1 (!bank) cold
    if b.2 then (b.1, (bankImage s (!bank) iSTRUCTURE).map imgPayload)
    else
      let s := partRange.foldl (fun s p => s.setPart p {}) (showSlots b.1 false)
      (fset s .sklDevidValid 0 0, none)

/-! ### The protection map and the policy (15 R373, R374, R379) -/

/-- The fields of HST_OWN_POLICY take a value. -/
def putPolicy (s : State) (v : Nat) : State :=
  let s := fset (fset s .hstOwnPolicyOrder 0 (bits v 0 6)) .hstOwnPolicyElig 0 (bits v 6 3)
  let s := fset (fset s .hstOwnPolicySecure 0 (bits v 9 3)) .hstOwnPolicyWindow 0 (bits v 12 12)
  fset (fset s .hstOwnPolicyFmdev 0 (bits v 24 17)) .hstOwnPolicyFmep 0 (bits v 41 9)

/-- HST_OWN_POLICY and ROT_PMAP[p] as they read. -/
def policyWord (s : State) : Nat :=
  fget s .hstOwnPolicyOrder 0 + fget s .hstOwnPolicyElig 0 * 2 ^ 6 + fget s .hstOwnPolicySecure 0 * 2 ^ 9 +
    fget s .hstOwnPolicyWindow 0 * 2 ^ 12 + fget s .hstOwnPolicyFmdev 0 * 2 ^ 24 + fget s .hstOwnPolicyFmep 0 * 2 ^ 41 +
    fget s .hstOwnPolicyLock 0 * 2 ^ 63
def pmapWord (s : State) (p : Nat) : Nat :=
  fget s .rotPmapQmask p + fget s .rotPmapHwin p * 2 ^ 16 + fget s .rotPmapValid p * 2 ^ 20

/-- ROT_PMAP follows the PARTITION section in force. -/
def putPmap (s : State) (p : Bytes) : State :=
  (plans s p).zipIdx.foldl (fun s x =>
    fset (fset (fset s .rotPmapQmask x.2 x.1.qmask) .rotPmapHwin x.2 x.1.vf) .rotPmapValid x.2 (ofBool x.1.en)) s

/-- The policy is written and locked, and then the map, from the payload of the full image that was applied. -/
def lockAll (s : State) (bank : Bool) (full : Option Bytes) : State :=
  let s := match bankImage s bank iPOLICY with
    | some b => putPolicy s (field (imgPayload b) 0 8)
    | none => s
  let s := fset s .hstOwnPolicyLock 0 1
  let s := match full with
    | some p => putPmap s p
    | none => s
  let s := fset s .rotPmapLockLock 0 1
  setMeasure s 9 (sha384 ((span 0 16).flatMap (fun p => leBytes 8 (pmapWord s p)) ++ leBytes 8 (policyWord s)))

/-! ### The stages (15 R370, R371) -/

/-- A bank's image of a type is measured, and its SVN kept. -/
def measureImage (s : State) (bank : Bool) (type index : Nat) : State :=
  match bankImage s bank type with
  | none => s
  | some b =>
    let s := measureTbs s index b
    { s with rot := { s.rot with bootSvn := s.rot.bootSvn ++ [(type, imgSvn b)] } }

/-- Every stack applies the repair list, and counts its rows (08 R185, R186). -/
def applyRepairs (s : State) : State :=
  (span 0 8).foldl (fun s k => fset s .hbmStatusRepairs k (min 255 (s.flash.repairs.filter fun r => r.1 == k).length)) s

/-- The compute dies, the Granary and the stacks come up. At POR the self-test and the HBM training have found what they
found; at WARM their results come from the loft. The stacks apply the repair list either way. -/
def bringUp (s : State) (cold : Bool) (found : List SelfTestFinding) (hbmFailed : Byte) : State :=
  let s := applyRepairs s
  if cold then
    let s := (List.finRange 16).foldl (fun s (q : MemDie) =>
      endSelftest s q (found.getD q.val { rows := [], banks := [], validBad := false })) s
    (span 0 8).foldl (fun s k => fset s .hbmStatusState k (if bit hbmFailed.toNat k then 3 else 1)) s
  else
    let s := (List.finRange 16).foldl grnRest s
    (span 0 8).foldl (fun s k => if fget s .hbmStatusState k = 2 then fset s .hbmStatusState k 1 else s) s

/-- BOOTFAIL: the reset policy is locked, and WINDOW counts from this moment (R371). -/
def bootFail (s : State) : State :=
  let s := { s with hub := { s.hub with windowDone := false } }
  judgeHeld (fset (fset s .rotBootStatusStage 0 3) .hstOwnPolicyLock 0 1)

/-- The BOOT stage of a bank, and the start of the firmware. -/
def bootStage (s : State) (bank cold : Bool) (found : List SelfTestFinding) (hbmFailed : Byte) : State :=
  let s := measureImage (fset s .rotBootStatusBank 0 (ofBool bank)) bank iBOOT 2
  let s := setMeasure s 8 (sha384 (leBytes 8 (fuseWord s)))
  let s := bringUp s cold found hbmFailed
  let s := measureImage (measureImage (measureImage s bank iFIRMWARE 3) bank iTESTS 4) bank iPOLICY 5
  let l := loadStructure s bank cold
  let s := issueAlias (lockAll l.1 bank l.2)
  judgeHeld (electGm (portRange.foldl lightUp (fset s .rotBootStatusStage 0 2)))

/-- The ROM: fuses, boot record, bank, identity. -/
def runBoot (s : State) (cold : Bool) (found : List SelfTestFinding) (hbmFailed : Byte) : State :=
  let s := { s with fuses := s.fuses.tidy }
  let s := { s with rot := { fuseAtBoot := s.fuses, debugClosed := s.fuses.lifecycle == 1 } }
  let s := showFuses (fset s .pwrHoursHours 0 s.flash.hours)
  let s := fset s .rotDeviceIdId 0 (deviceId s)
  let s := setMeasure s 1 (sha384 Config.rom)
  let b := selectBank s
  match bankFault b.1 b.2 with
  | none => bootStage b.1 b.2 cold found hbmFailed
  | some f =>
    let s := fset (bootReason b.1 f.1 f.2) .rotBootStatusFellback 0 1
    match bankFault s (!b.2) with
    | none => bootStage s (!b.2) cold found hbmFailed
    | some g => bootFail (setMeasure (bootReason s g.1 g.2) 8 (sha384 (leBytes 8 (fuseWord s))))

/-! ### POR, WARM and PERST# (16 R392, 19 R440) -/

/-- POR: applies to a module whose boot is due. Where PERST# was asserted during it, the module is then held in the WARM reset
that supersedes that boot (19 R440; 16 R394). -/
def execPor (found : List SelfTestFinding) (hbmFailed : Byte) (s : State) : Host.Outcome State Fault Refusal :=
  if s.pwr.cold && !s.pwr.off && !s.pwr.inrush then
    let t := runBoot (coldClear s) true found hbmFailed
    .next (if s.hub.perstHeld then warmClear t else t)
  else idle s

/-- The boot of a WARM reset, and its record. CAUSE: 1 PERST#, 2 the owner, 3 DROWSE exit, 4 stage-5 exit, 5 thermal
level 3. -/
def warmBoot (s : State) (cause : Nat) : State :=
  record (runBoot s false [] 0) .reset .info none .hst .none 6 (.bytes (slice (leBytes 1 cause) 0 24))

/-- A WARM reset. While PERST# is asserted, the module is held in it. -/
def warmReset (s : State) (cause : Nat) : State := warmBoot (warmClear s) cause

/-- PERST: PERST# is asserted. It holds the module in the WARM reset, and with a POR's boot due it calls for one after that
boot; in stage 5 it is kept for later; while PWRGD is low for another reason it has no further effect. -/
def execPerst (s : State) : Host.Outcome State Fault Refusal :=
  let s := { s with hub := { s.hub with perst := true } }
  if s.pwr.off || s.pwr.inrush || s.pwr.safe then .next s
  else
    let s := { s with hub := { s.hub with perstHeld := true } }
    .next (if s.pwr.cold then s else warmClear s)

/-- PERST_DEASSERTION: the WARM reset that was called for begins; in stage 5, once stage 5 may be left; after the boot of a
POR, where that is still due. -/
def execPerstDeassertion (_asserted100us : Bool) (s : State) : Host.Outcome State Fault Refusal :=
  let held := s.hub.perstHeld
  let s := { s with hub := { s.hub with perst := false, perstHeld := false } }
  if s.pwr.safe then .next (if s.pwr.exitReady then warmReset s (if s.pwr.hot then 5 else 4) else s)
  else if held && !s.pwr.cold then .next (warmBoot s 1)
  else .next s

end Sys2Proof.Machine
end

