-- ==== Sys2Proof/Machine/Power.lean ====
section
/-! DEFINITION. Shedding, clock modes, thermal levels, low-power states and the supply (17 R408 to R420; 19 R438). -/

namespace Sys2Proof.Machine

/-! ### Clock modes (R414 to R416) -/

/-- How slow a mode is: T, E, L. -/
def slowness (m : Nat) : Nat := if m = 1 then 0 else if m = 0 then 1 else 2

/-- The slowest of the owner's selection, the shedding cap and the thermal cap. -/
def modeWanted (s : State) : Nat :=
  [fget s .pwrModeCtrlSel 0, fget s .pwrStatusShedcap 0, fget s .pwrStatusThermcap 0].foldl
    (fun a m => if slowness a < slowness m then m else a) 1

/-- The mode in force follows its three limits. A slower one reaches every die at once; a faster one waits on each die
for the rails and a release. -/
def applyMode (s : State) : State :=
  let m := modeWanted s
  let old := fget s .pwrStatusMode 0
  if m = old then s
  else if slowness old < slowness m then
    let s := fset (fset (fset s .pwrStatusMode 0 m) .pwrStatusPending 0 0) .pwrStatusDieslow 0 0
    { s with pwr := { s.pwr with dieMode := [], railsReady := false } }
  else
    let now := (List.finRange 4).map fun (d : Die) => (d.val, dieMode s d)
    let slow := now.filter fun e => slowness m < slowness e.2
    let s := fset s .pwrStatusMode 0 m
    let s := fset s .pwrStatusDieslow 0 (slow.foldl (fun a e => a + 2 ^ e.1) 0)
    let s := fset s .pwrStatusPending 0 (ofBool (!slow.isEmpty))
    { s with pwr := { s.pwr with dieMode := tsetAll (fun _ => 0) [] slow, railsReady := false } }

/-- RAIL_SETTLED: the rails have settled at the faster mode's values. -/
def execRailSettled (s : State) : Host.Outcome State Fault Refusal :=
  if fget s .pwrStatusDieslow 0 = 0 then idle s
  else .next (fset { s with pwr := { s.pwr with railsReady := true } } .pwrStatusPending 0 1)

/-- A write of PWR_MODE_CTRL: a mode that is not enabled is ignored and logged. -/
def writeMode (s : State) (sel off : Nat) : State :=
  if 3 ≤ sel ∨ bit (fget s .rotStructEnmodes 0) sel = false then logRegister s none .pwr off
  else applyMode (fset s .pwrModeCtrlSel 0 sel)

/-! ### Powering down (R412, R420) -/

/-- The compute dies, the Granary and the optics lose their power; the stacks go into self-refresh. -/
def diesOff (s : State) : State :=
  let s := hbmRest (drainHbm s)
  let s := portRange.foldl (fun s n => if portState s n = 0 then s else portDown s n 0) s
  let s := fclearWhere s fun f _ => f.spec.block == .core || f.spec.block == .upd || f.spec.block == .xce
  { s with
    mem := tdrop (fun a => match placeOf a with | .hbm _ => false | _ => true) s.mem
    grnSyn := [], grnValid := [], sramErr := [], cores := [], dieFlags := [], devFlags := [], signals := [], waiters := [], ctrQueue := []
    grnQueue := [], groups := [], lifts := [], posts := [] }

/-- The safe state of stage 5: only the loft and HBM self-refresh are powered. -/
def goSafe (s : State) (hot : Bool) : State :=
  let s := diesOff s
  let s := fset s .hstLinkStatusUp 0 0
  { s with pwr := { s.pwr with safe := true, hot := hot, exitRun := 0, retention := 0, exitReady := false, coolRun := 0 } }

/-! ### Shedding (R408 to R413) -/

/-- The threshold of a stage and the voltage that lifts it, in mV. -/
def shedBelow : Nat → Nat
  | 1 => 46000 | 2 => 44000 | 3 => 42500 | 4 => 41000 | _ => 39000
def shedLift : Nat → Nat
  | 1 => 47000 | 2 => 45000 | 3 => 43500 | _ => 42000

/-- The fastest mode that a stage allows. -/
def shedCap (stage : Nat) : Nat := if 3 ≤ stage then 2 else if 1 ≤ stage then 0 else 1

/-- SLIP in every partition with a RUNNING core (R410). -/
def slipAll (s : State) : State :=
  partRange.foldl (fun s p => setStatusIf s (some p) .slip ((coresOf s p).any (running s))) s

/-- A stage comes into force: its cap, its record, and the interrupts routed to it. -/
def setStage (s : State) (k mv : Nat) (sev : Sev) : State :=
  let old := fget s .pwrStatusStage 0
  let s := fset (fset s .pwrStatusStage 0 k) .pwrStatusShedcap 0 (shedCap k)
  let s := { s with pwr := { s.pwr with liftRun := 0 }, rot := { s.rot with risen := s.rot.risen || decide (old < k) } }
  let s := record s .power sev none .pwr .none k (.bytes (slice (leBytes 2 mv ++ leBytes 1 old) 0 24))
  raise (applyMode s) (.power 0)

/-- A deeper stage is entered, and counted. -/
def enterStage (s : State) (k mv : Nat) : State :=
  let old := fget s .pwrStatusStage 0
  let s := setStage s k mv (if k = 5 then .device else if k = 4 then .step else .info)
  let s := match k with
    | 1 => fbump s .pwrShedTallyS1 0 1
    | 2 => fbump s .pwrShedTallyS2 0 1
    | 3 => fbump s .pwrShedTallyS3 0 1
    | 4 => fbump s .pwrShedTallyS4 0 1
    | _ => s
  let s := if 4 ≤ k ∧ old < 4 then
      (if fbit s .pwrStatusQuiesced 0 then s else fset (slipAll s) .pwrStatusQuiesced 0 1)
    else s
  if k = 5 then goSafe s false else s

/-- The deepest stage whose trigger the samples meet. -/
def stageMet (x : PwrX) : Nat :=
  match [5, 4, 3, 2].find? fun k => decide (2 ≤ tget (fun _ => 0) x.belowRun k) with
  | some k => k
  | none => if 50 ≤ x.below46 then 1 else 0

/-- What one sample does to the runs of samples. -/
def countSample (x : PwrX) (stage mv : Nat) (held : Bool) : PwrX :=
  { x with
    below46 := if mv < 46000 then min (x.below46 + 1) 50 else 0
    belowRun := [2, 3, 4, 5].foldl (fun t k =>
      tset (fun _ => 0) t k (if mv < shedBelow k then min (tget (fun _ => 0) x.belowRun k + 1) 2 else 0)) []
    liftRun := if shedLift stage ≤ mv then min (x.liftRun + 1) 1000 else 0
    holdRun := if held ∧ 42000 ≤ mv then min (x.holdRun + 1) 1000 else 0
    exitRun := if x.safe ∧ 47000 ≤ mv then min (x.exitRun + 1) 10000 else 0
    retention := if x.safe ∧ mv < 36000 then min (x.retention + 1) 200000 else x.retention }

/-- The hold-up store: the switch isolates the input below 41.0 V and reconnects after 1 ms at 42.0 V or more (R411). -/
def holdUp (s : State) (mv : Nat) : State :=
  if fbit s .pwrStatusHold 0 then
    if 1000 ≤ s.pwr.holdRun then fset (fset s .pwrStatusHold 0 0) .pwrInputHoldus 0 0
    else if s.pwr.safe then s
    else fset s .pwrInputHoldus 0 (satAdd 16 (fget s .pwrInputHoldus 0) 1)
  else if mv < 41000 ∧ s.pwr.safe = false then fset (fset s .pwrStatusHold 0 1) .pwrInputHoldus 0 1
  else s

/-- INPUT_SAMPLE: one sample of the input, each microsecond. -/
def execInputSample (mv ma : Nat) (s : State) : Host.Outcome State Fault Refusal :=
  let s := fset (fset s .pwrInputVin 0 (mv / 10)) .pwrInputIin 0 (ma / 10)
  if s.pwr.off || s.pwr.inrush then .next s
  else
    let s := { s with pwr := countSample s.pwr (fget s .pwrStatusStage 0) mv (fbit s .pwrStatusHold 0) }
    let s := holdUp s mv
    if s.pwr.safe then .next s
    else
      let k := stageMet s.pwr
      .next (if fget s .pwrStatusStage 0 < k then enterStage s k mv else s)

/-- What the ports held goes on (11 R281). -/
def portsGo (s : State) : State := portRange.foldl (fun s n => if portUp s n then portGo s n else s) s

/-- SHED_STAGE_LIFT: one stage lifts after 1 ms. The device goes on when stage 4 lifts, unless the reference is lost. -/
def execShedStageLift (s : State) : Host.Outcome State Fault Refusal :=
  let k := fget s .pwrStatusStage 0
  if k = 0 ∨ 5 ≤ k ∨ s.pwr.liftRun < 1000 then idle s
  else
    let s := setStage s (k - 1) (10 * fget s .pwrInputVin 0) .info
    .next (if k = 4 ∧ fbit s .pwrStatusRefloss 0 = false then portsGo (fset s .pwrStatusQuiesced 0 0) else s)

/-- HOLDUP_EXPIRE: 2 ms on the store enter stage 5. -/
def execHoldupExpire (s : State) : Host.Outcome State Fault Refusal :=
  if 2000 ≤ fget s .pwrInputHoldus 0 ∧ fbit s .pwrStatusHold 0 ∧ fget s .pwrStatusStage 0 < 5 ∧ hubOn s then
    .next (enterStage s 5 (10 * fget s .pwrInputVin 0))
  else idle s

/-- OFF: nothing is powered; what the flash and the fuses hold remains. -/
def powerOff (s : State) : State :=
  { pending := s.pending, sent := s.sent, ports := tmap (fun _ => {}) (fun _ x => { light := x.light, fibres := x.fibres }) s.ports
    hub := { perst := s.hub.perst }, fuses := s.fuses, flash := s.flash, pwr := { off := true }, fresh := s.fresh }

/-- RETENTION_EXPIRE: 200 ms on the store in stage 5 end in OFF. -/
def execRetentionExpire (s : State) : Host.Outcome State Fault Refusal :=
  if s.pwr.safe ∧ 200000 ≤ s.pwr.retention then .next (powerOff s) else idle s

/-- STAGE5_EXIT: 10 ms at 47.0 V or more end stage 5 by a WARM reset, which waits for PERST# to be deasserted. -/
def execStage5Exit (s : State) : Host.Outcome State Fault Refusal :=
  if s.pwr.safe ∧ s.pwr.hot = false ∧ 10000 ≤ s.pwr.exitRun then
    if s.hub.perst then .next { s with pwr := { s.pwr with exitReady := true } }
    else .next (warmReset s 4)
  else idle s

/-! ### The reference (R417) -/

/-- REFCLK_LOSS: missing for 10 µs, the device quiesces. -/
def execRefclkLoss (missingUs : Nat) (s : State) : Host.Outcome State Fault Refusal :=
  if missingUs < 10 ∨ fbit s .pwrStatusRefloss 0 = true ∨ hubOn s = false then idle s
  else
    let s := if fbit s .pwrStatusQuiesced 0 then s else fset (slipAll s) .pwrStatusQuiesced 0 1
    .next (record (fset s .pwrStatusRefloss 0 1) .power .device none .pwr .none (fget s .pwrStatusStage 0)
      (.names 417 [missingUs]))

/-- REFCLK_RETURN: present for 1 ms, the quiesce ends, unless stage 4 holds. -/
def execRefclkReturn (presentUs : Nat) (s : State) : Host.Outcome State Fault Refusal :=
  if presentUs < 1000 ∨ fbit s .pwrStatusRefloss 0 = false then idle s
  else
    let s := fset s .pwrStatusRefloss 0 0
    .next (if fget s .pwrStatusStage 0 < 4 then portsGo (fset s .pwrStatusQuiesced 0 0) else s)

/-! ### Thermal levels (R418, R419) -/

/-- The highest die of a reading. -/
def ThermalReading.hottest (r : ThermalReading) : Int :=
  ([r.die1, r.die2, r.die3, r.hub] ++ r.granary).foldl max r.die0

/-- The condition of a level. -/
def atLevel (r : ThermalReading) (k : Nat) : Bool :=
  match k with
  | 1 => decide (840 ≤ ThermalReading.hottest r)
  | 2 => decide (880 ≤ ThermalReading.hottest r ∨ 100 < r.hbm)
  | _ => decide (960 ≤ ThermalReading.hottest r ∨ 105 ≤ r.hbm)

/-- Every sensor is at least 5 °C below the condition of a level. -/
def belowLevel (r : ThermalReading) (k : Nat) : Bool :=
  match k with
  | 1 => decide (ThermalReading.hottest r ≤ 800)
  | 2 => decide (ThermalReading.hottest r ≤ 840 ∧ r.hbm ≤ 95)
  | _ => true

/-- The fastest mode that a thermal level allows. -/
def thermCap (k : Nat) : Nat := match k with | 0 => 1 | 1 => 0 | _ => 2

/-- A die's temperature is sampled. -/
def putTemp (s : State) (d : Nat) (t : Int) : State :=
  let s := fset s .pwrTempTemp d (wrap 16 t)
  if sext 16 (fget s .pwrTempPeak d) < t then fset s .pwrTempPeak d (wrap 16 t) else s

/-- A thermal level comes into force. -/
def setLevel (s : State) (k : Nat) : State :=
  let s := fset (fset s .pwrStatusTlevel 0 k) .pwrStatusThermcap 0 (thermCap k)
  raise (applyMode { s with pwr := { s.pwr with dropRun := 0 } }) (.power 1)

/-- What one thermal sample does to the runs of samples. -/
def countHeat (x : PwrX) (level : Nat) (r : ThermalReading) : PwrX :=
  { x with
    thermRun := [1, 2, 3].foldl (fun t k =>
      tset (fun _ => 0) t k (if atLevel r k then min (tget (fun _ => 0) x.thermRun k + 1) 2 else 0)) []
    dropRun := if belowLevel r level then min (x.dropRun + 1) 100 else 0
    coolRun := if decide (ThermalReading.hottest r ≤ 760) && decide (r.hbm ≤ 95) then min (x.coolRun + 1) 10000 else 0 }

/-- THERMAL_SAMPLE: one sample, each 100 µs, with the means of the rail sense points (R418). -/
def execThermalSample (r : ThermalReading) (s : State) : Host.Outcome State Fault Refusal :=
  if s.pwr.off || s.pwr.inrush then idle s
  else
    let s := [(0, r.die0), (1, r.die1), (2, r.die2), (3, r.die3), (4, r.hub)].foldl (fun s e => putTemp s e.1 e.2) s
    let s : State := r.rails.zipIdx.foldl (fun s e => fset s .pwrTempVdie e.2 (min e.1 1023)) s
    let level := fget s .pwrStatusTlevel 0
    let s : State := { s with pwr := { countHeat s.pwr level r with grnTemp := r.granary } }
    let met : Nat := ([3, 2, 1].find? fun k => decide (2 ≤ tget (fun _ => 0) s.pwr.thermRun k)).getD 0
    if s.pwr.safe || decide (met ≤ level) then .next s
    else
      let s := record s .thermal (if met = 3 then .device else .info) none .pwr .none 0 (.names 419 [met])
      .next (if met = 3 then goSafe s true else setLevel s met)

/-- THERMAL_LEVEL_DROP: 10 ms at least 5 °C below. -/
def execThermalLevelDrop (s : State) : Host.Outcome State Fault Refusal :=
  let k := fget s .pwrStatusTlevel 0
  if k = 0 ∨ s.pwr.dropRun < 100 ∨ s.pwr.safe = true then idle s else .next (setLevel s (k - 1))

/-- THERMAL_COOLDOWN: after level 3, 1 s at 95 °C or less. -/
def execThermalCooldown (s : State) : Host.Outcome State Fault Refusal :=
  if s.pwr.safe ∧ s.pwr.hot ∧ 10000 ≤ s.pwr.coolRun then
    if s.hub.perst then .next { s with pwr := { s.pwr with exitReady := true } }
    else .next (warmReset s 5)
  else idle s

/-! ### Low-power states (R420) -/

/-- The condition to enter IDLE and DROWSE. -/
def mayRest (s : State) : Bool :=
  !(coreRange.any (running s)) && ((span 0 4).all fun d => fget s .updEngineState d == 0) &&
    ((span 0 16).all fun g => fget s .xceCstatState g == 0 || fget s .xceCstatState g == 3) &&
    !(s.hub.calls.any fun c => c.started && c.finished.isNone && c.service != 11)

/-- A low-power state is left for D0. -/
def wake (s : State) : State :=
  if fget s .pwrStatusPstate 0 = 1 then fset (fset s .pwrStatusPstate 0 0) .pwrStateCtrlTarget 0 0 else s

/-- A write of PWR_STATE_CTRL: a request whose condition does not hold is ignored and logged. -/
def writeTarget (s : State) (target off : Nat) : State :=
  let now := fget s .pwrStatusPstate 0
  if target = now then s
  else if target = 0 then (if now = 2 then warmReset s 3 else wake s)
  else if 3 ≤ target ∨ now = 2 ∨ mayRest s = false then logRegister s none .pwr off
  else
    let s := if target = 2 then diesOff s else s
    fset (fset s .pwrStatusPstate 0 target) .pwrStateCtrlTarget 0 target

/-! ### Power applied (19 R438) -/

/-- POWER_APPLY: 42 V or more for 20 ms close the input switch. -/
def execPowerApply (mv heldMs : Nat) (s : State) : Host.Outcome State Fault Refusal :=
  if s.pwr.off && decide (42000 ≤ mv) && decide (20 ≤ heldMs) then
    .next { s with pwr := { s.pwr with off := false, inrush := true } }
  else idle s

/-- STORE_CHARGED: POR begins. -/
def execStoreCharged (s : State) : Host.Outcome State Fault Refusal :=
  if s.pwr.inrush then .next { s with pwr := { s.pwr with inrush := false } } else idle s

end Sys2Proof.Machine
end

