-- ==== Sys2Proof/Machine/RotOps.lean ====
section
/-! DEFINITION. The root of trust's operations on fuses and flash (15 R366 to R369, R383, R384), and what firmware writes
there (17 R425). -/

namespace Sys2Proof.Machine

/-- One ROT operation runs at a time (18 R428). -/
def rotBusy (s : State) : Bool := s.rot.op.isSome

/-! ### Fuses -/

/-- A fuse operation ends with a RESULT. -/
def endFuse (s : State) (reason type : Nat) : State :=
  let s := fset (fset s .rotFuseCtrlResult 0 reason) .rotFuseCtrlStart 0 0
  let s := { s with rot := { s.rot with op := none, readErr := false } }
  showFuses (if reason = 0 then s else bootReason s reason type)

/-- START of ROT_FUSE_CTRL: refused beyond shedding stage 0, and for an OP that is none. -/
def startFuse (s : State) : State :=
  let op := fget s .rotFuseCtrlOp 0
  if 0 < fget s .pwrStatusStage 0 then endFuse s rSHEDDING 0
  else if op = 1 then
    fset { s with rot := { s.rot with
      op := some (.apply (fget s .rotFuseCtrlAddr 0)), readErr := false, risen := false } } .rotFuseCtrlStart 0 1
  else if op = 2 then
    fset { s with rot := { s.rot with
      op := some (.svn (fget s .rotFuseCtrlStype 0) (fget s .rotFuseCtrlSval 0)), readErr := false, risen := false } } .rotFuseCtrlStart 0 1
  else endFuse s rFORMAT 0

/-- An owner slot has never been used: its hash fuses are all zero. -/
def slotUnused (f : FuseX) (k : Nat) : Bool := f.ownerHash.getD k 0 == 0

/-- What R368 asks of an ENROL image. -/
def enrolFault (s : State) (b : Bytes) : Nat :=
  let p := imgPayload b
  if imgPlen b ≠ 2000 then rFORMAT
  else if (span 0 4).find? (slotUnused s.fuses) ≠ some (field p 0 1) then rSLOT
  else if slice p 16 1984 ≠ slice (sigBlock b 0) 16 1984 then rKEYHASH
  else 0

/-- What R368 asks of a REVOKE image. -/
def revokeFault (b : Bytes) : Nat :=
  let p := imgPayload b
  let kind := field p 0 1
  if (kind ≠ 1 ∧ kind ≠ 3) ∨ 3 < field p 1 1 then rFORMAT
  else if kind = 1 ∧ blkSlot (sigBlock b 0) = field p 1 1 then rSLOT
  else 0

/-- Why an image is refused, or 0. -/
def applyFault (s : State) (b : Bytes) : Nat :=
  let type := field b 6 1
  if type ≠ iENROL ∧ type ≠ iREVOKE then rFORMAT
  else
    let r := verifyImage s.rot.fuseAtBoot type b
    if r ≠ 0 then r
    else if imgSvn b ≠ 0 then rFORMAT
    else if type = iENROL then enrolFault s b
    else revokeFault b

/-- One fuse word after another: the hash of the new slot in 12 words, its ENROLLED bit, REVOKED on the slot in force. -/
def enrolWords (inForce : Option Nat) (k hash : Nat) : List (FuseX → FuseX) :=
  ((span 0 12).map fun w => fun (f : FuseX) =>
    let l := (span 0 4).map fun i => f.ownerHash.getD i 0
    { f with ownerHash := setAt l k (l.getD k 0 ||| bits hash (32 * w) 32 * 2 ^ (32 * w)) }) ++
  [fun (f : FuseX) => { f with ownerEnrolled := f.ownerEnrolled ||| 2 ^ k }] ++
  (match inForce with
    | some j => [fun (f : FuseX) => { f with ownerRevoked := f.ownerRevoked ||| 2 ^ j }]
    | none => [])

/-- The words that an accepted image blows. -/
def applyWords (s : State) (b : Bytes) : List (FuseX → FuseX) :=
  let p := imgPayload b
  if field b 6 1 = iENROL then enrolWords s.rot.fuseAtBoot.ownerSlot (field p 0 1) (keyHash (sigBlock b 0))
  else if field p 0 1 = 1 then [fun f => { f with vendorRevoked := f.vendorRevoked ||| 2 ^ field p 1 1 }]
  else [fun f => { f with ownerRevoked := f.ownerRevoked ||| 2 ^ field p 1 1 }]

/-- Blow words in order. After a rise of the shedding stage during the operation, the words up to the one being written then
are blown, the first where none is named, and the reason is INTERRUPTED (R368). -/
def blow (s : State) (l : List (FuseX → FuseX)) (words : Option Nat) (type : Nat) : State :=
  let n := if s.rot.risen then words.getD 1 else l.length
  endFuse { s with fuses := (l.take n).foldl (fun f w => w f) s.fuses } (if s.rot.risen then rINTERRUPTED else 0) type

/-- The types that a counter guards. -/
def counterTypes : Nat → List Nat
  | 0 => [iBOOT] | 1 => [iFIRMWARE] | 2 => [iTESTS] | _ => [iSTRUCTURE, iPOLICY]

/-- A counter may rise to `v` (R369). -/
def commitOk (s : State) (stype v : Nat) : Bool :=
  (counterTypes stype).all fun t =>
    (match s.rot.bootSvn.find? fun e => e.1 == t with | some e => decide (v ≤ e.2) | none => false) &&
      match bankImage s (fget s .rotBootStatusBank 0 == 0) t with
      | some b => verifyImage s.rot.fuseAtBoot t b == 0 && decide (v ≤ imgSvn b)
      | none => false

/-- A counter rises; it never falls. -/
def raiseCounter (stype v : Nat) (f : FuseX) : FuseX :=
  match stype with
  | 0 => { f with svnBoot := max f.svnBoot v }
  | 1 => { f with svnFw := max f.svnFw v }
  | 2 => { f with svnTests := max f.svnTests v }
  | _ => { f with svnStruct := max f.svnStruct v }

/-- FUSE_OP_DONE: the operation is refused, has programmed its fuses, or was interrupted. -/
def execFuseOpDone (words : Option Nat) (s : State) : Host.Outcome State Fault Refusal :=
  match s.rot.op with
  | some (.apply a) =>
    if a % 64 ≠ 0 then .next (endFuse s rFORMAT 0)
    else
      match rotImage s a with
      | .inl t => .next t
      | .inr (t, img) =>
        let bad := t.rot.readErr
        let t := rotUnstage t a ((img.map imgSize).getD 128)
        match (if bad then none else img) with
        | none => .next (endFuse t rFORMAT 0)
        | some b =>
          let r := applyFault t b
          .next (if r ≠ 0 then endFuse t r (field b 6 1) else blow t (applyWords t b) words (field b 6 1))
  | some (.svn stype v) =>
    if commitOk s stype v then .next (blow s [raiseCounter stype v] words ((counterTypes stype).headD 0))
    else .next (endFuse s rROLLBACK ((counterTypes stype).headD 0))
  | _ => idle s

/-! ### Flash -/

/-- A flash operation ends with a RESULT. -/
def endFlash (s : State) (result : Nat) : State :=
  fset (fset { s with rot := { s.rot with op := none, readErr := false } } .rotFlashCtrlResult 0 result) .rotFlashCtrlStart 0 0

/-- START of ROT_FLASH_CTRL. -/
def startFlash (s : State) : State :=
  let op := RotOp.flash (fget s .rotFlashCtrlOp 0) (fget s .rotFlashCtrlFoff 0) (fget s .rotFlashCtrlDaddr 0)
    (fget s .rotFlashCtrlLen 0)
  fset { s with rot := { s.rot with op := some op, readErr := false } } .rotFlashCtrlStart 0 1

/-- A run of flash lies in a bank. -/
def inBank (b : Bool) (off n : Nat) : Bool := decide (bankBase b ≤ off ∧ off + n ≤ bankBase b + bankSize)

/-- ERASE and PROGRAM reach only the bank not in use; in BOOTFAIL none is. -/
def mayWriteFlash (s : State) (off n : Nat) : Bool :=
  let used := fget s .rotBootStatusBank 0 == 1
  if fget s .rotBootStatusStage 0 = 3 then inBank false off n || inBank true off n else inBank (!used) off n

/-- ERASE: every byte of the sectors is erased. -/
def eraseFlash (s : State) (off n : Nat) : State :=
  { s with flash := { s.flash with cells := tdrop (fun k => decide (off ≤ k ∧ k < off + n)) s.flash.cells } }

/-- SWITCH: every image of the inactive bank must verify; then the boot record names that bank for a trial. -/
def switchBank (s : State) : State :=
  let other := fget s .rotBootStatusBank 0 == 0
  if fget s .rotBootStatusStage 0 ≠ 2 then endFlash s rFORMAT
  else
    let faults := (directory s other).filterMap (fun e => imageFault s other true e.1) ++ (bankFault s other).toList
    match faults.head? with
    | some f => endFlash (bootReason s f.1 f.2) f.1
    | none =>
      endFlash (showBootRecord (writeBootRecord s { active := other, trial := true, tries := 0 })) 0

/-- CONFIRM: the trial is over. -/
def confirmBank (s : State) : State :=
  endFlash (showBootRecord (writeBootRecord s { bootRecord s with trial := false })) 0

/-- PROGRAM: device memory is written into the flash. -/
def programFlash (s : State) (off a n : Nat) : State :=
  if !mayWriteFlash s off n then endFlash s rRANGE
  else if n = 0 then endFlash s 0
  else
    match stageHost s none .loader [(a, n)] with
    | some t => t
    | none =>
      let r := rotRead s a n
      let bad := r.1.rot.readErr
      let t := unstage r.1 [(a, n)]
      match (if bad then none else r.2) with
      | some b => endFlash (flashPut t off b) 0
      | none => endFlash t rRANGE

/-- FLASH_OP_DONE: the operation has been carried out, or refused. -/
def execFlashOpDone (s : State) : Host.Outcome State Fault Refusal :=
  match s.rot.op with
  | some (.flash op off a n) =>
    match op with
    | 0 => .next (if off % 2 ^ 16 = 0 ∧ n % 2 ^ 16 = 0 ∧ mayWriteFlash s off n = true then endFlash (eraseFlash s off n) 0
        else endFlash s rRANGE)
    | 1 => .next (programFlash s off a n)
    | 2 =>
      if (inBank false off n || inBank true off n) && (n == 0 || (ownerReads a && ownerReads (a + n - 1))) then
        .next (endFlash (agentWrite s .rot none a (flashBytes s off n)) 0)
      else .next (endFlash s rRANGE)
    | 3 => .next (switchBank s)
    | 4 => .next (confirmBank s)
    | _ => .next (endFlash s rFORMAT)
  | _ => idle s

/-! ### Firmware's writes -/

/-- The firmware runs (15 R370, 17 R420). -/
def firmwareOn (s : State) : Bool := fabricOn s && fget s .rotBootStatusStage 0 == 2

/-- HOURS_WRITE: the powered hours are written to the record area. -/
def execHoursWrite (hours : BitVec 24) (s : State) : Host.Outcome State Fault Refusal :=
  if firmwareOn s then
    .next (fset { s with flash := { s.flash with hours := hours.toNat } } .pwrHoursHours 0 hours.toNat)
  else idle s

/-- FWBEAT: one millisecond of firmware activity. -/
def execFwbeat (sc : Sc) (s : State) : Host.Outcome State Fault Refusal :=
  if firmwareOn s then .next (fset s .svcFwbeatBeat sc.val (fget s .svcFwbeatBeat sc.val + 1)) else idle s

end Sys2Proof.Machine
end

