-- ==== Sys2Proof/Machine/Calls.lean ====
section
/-! DEFINITION. Service calls: the mailbox, the message and its checks, starting and completing a call (14 R336 to R343). -/

namespace Sys2Proof.Machine

/-! ### Charges against a call (R337, R338, R340) -/

/-- A completion code with its DETAIL. -/
abbrev Finding := Nat × Nat

def blame (offends : Bool) (code detail : Nat) : List Finding := if offends then [(code, detail)] else []

/-- A reserved run of bytes holds something: BADCALL at its first nonzero byte. -/
def reservedRun (b : Bytes) (base off n : Nat) : List Finding :=
  match (span off n).find? fun i => b.getD i 0 != 0 with
  | some i => [(sBADCALL, base + i)]
  | none => []

/-- What is wrong with a message's header. -/
def headFault (h : Bytes) : Option Finding :=
  let n := field h 2 2
  let resp := field h 16 8
  (blame (n % 8 != 0 || decide (4032 < n)) sBADCALL 2 ++
    blame (field h 0 2 != 9 && decide (15 < field h 8 1)) sBADCALL 8 ++ reservedRun h 0 9 7 ++
    blame (resp % 64 != 0 || decide (2 ^ 48 ≤ resp)) sBADCALL 16 ++
    blame (resp != 0 && decide (field h 24 4 < 32)) sBADCALL 24 ++ reservedRun h 0 28 36).head?

/-- The argument bytes of a service, 0 for a code that names none. -/
def argLen : Nat → Nat
  | 1 => 16 | 2 => 48 | 3 => 8 | 4 => 24 | 5 => 24 | 6 => 24 | 7 => 32 | 8 => 48 | 9 => 40 | 10 => 16 | 11 => 24 | 12 => 8
  | _ => 0

/-- Bits past the `w` low ones of a field of `n` bytes are set. -/
def wideArg (a : Bytes) (off n w : Nat) : List Finding := blame (decide (2 ^ w ≤ field a off n)) sBADCALL (64 + off)

/-- A number is a power of two. -/
def isPow2 (n : Nat) : Bool := n != 0 && n == 2 ^ n.log2

/-- BADCALL charges by the fields of the arguments, in the order of their offsets. -/
def argFaults (s : State) (c : CallX) : List Finding :=
  let a := c.args
  let f := fun o n => field a o n
  let out := fun (b : Bool) (o : Nat) => blame b sBADCALL (64 + o)
  let p : Part := ⟨c.part % 16, Nat.mod_lt _ (by decide)⟩
  let flag := flagRef ⟨(scOf s p).val * 64, by have := (scOf s p).isLt; omega⟩ (f 20 2)
  let tags := out (decide (64 < (s.part p).shadowTags.length))
  match c.service with
  | 1 => wideArg a 0 8 48 ++ out (decide ((s.part p).img.groups.length ≤ f 8 1)) 8 ++ wideArg a 9 1 1 ++ reservedRun a 64 10 6
  | 2 => out (decide (3 < f 8 1)) 8 ++ out (decide (1 < f 9 1)) 9 ++ reservedRun a 64 11 5 ++
      out (f 16 8 % 64 != 0 || decide (2 ^ 48 ≤ f 16 8)) 16 ++
      out (!isPow2 (f 24 4) || decide (f 24 4 < 16 ∨ 2 ^ 24 < f 24 4)) 24 ++ reservedRun a 64 28 4 ++ wideArg a 32 8 48 ++
      (if f 32 8 = 0 ∨ f 40 2 = 0 then tags 32 else []) ++ out (decide (64 < f 40 2)) 40 ++ reservedRun a 64 42 6
  | 3 => out (decide (3 < f 0 1)) 0 ++ tags 0 ++ reservedRun a 64 1 7
  | 4 =>
      let on := fun (l : List Finding) => if f 8 4 = 0 then [] else l
      on (wideArg a 0 8 48 ++ out (f 12 1 == 0) 12 ++ out (decide (f 13 1 < 1 ∨ 4 < f 13 1)) 13) ++ wideArg a 14 1 1 ++
        reservedRun a 64 15 1 ++
        on (out (match flag with | some (.loc _ _) => true | some _ => false | none => true) 20) ++ reservedRun a 64 22 2
  | 5 | 6 => out (decide (2 < f 0 1)) 0 ++ reservedRun a 64 1 7 ++
      (if f 0 1 = 0 then [] else wideArg a 8 8 48 ++
        out (match placeOf (f 8 8) with | .host _ _ => f 0 1 != 2 | _ => f 0 1 == 2) 0)
  | 7 => out (decide (15 < f 0 1)) 0 ++ out (decide (2 < f 1 1)) 1 ++ reservedRun a 64 2 6 ++
      (if f 1 1 = 0 then wideArg a 8 8 48 ++ out (decide (2 ^ 12 ≤ f 16 2)) 16 else []) ++ reservedRun a 64 18 6 ++
      (if f 1 1 = 0 then out (f 24 8 % 64 != 0 || decide (2 ^ 48 ≤ f 24 8)) 24 else [])
  | 8 => out (f 32 8 % 2 ^ 18 / 2 ^ 10 % 2 ^ 6 != 0 || decide (2 ^ 18 ≤ f 32 8)) 32 ++ out (decide (2 < f 40 1)) 40 ++
      out (decide (1 < f 43 1) || bit (f 32 8) 17 && f 43 1 == 0) 43 ++ reservedRun a 64 44 4
  | 9 => out (decide (3 < f 32 1)) 32 ++ out (decide (f 33 1 < 1 ∨ 20 < f 33 1)) 33 ++ wideArg a 34 1 2 ++ reservedRun a 64 35 5
  | 10 => tags 0 ++ reservedRun a 64 12 4
  | 11 => reservedRun a 64 12 4 ++ wideArg a 16 8 48
  | 12 => out (decide (15 < f 0 1)) 0 ++ out (decide (3 < f 1 1)) 1 ++ reservedRun a 64 2 6
  | _ => []

/-- The cores that a mask of 32 bytes names. -/
def maskCores (a : Bytes) : List Core := coreRange.filter fun c => bit (field a 0 32) c.val

/-- DENIED charges: what the caller may not name or reach. -/
def rightFaults (s : State) (c : CallX) : List Finding :=
  let a := c.args
  let f := fun o n => field a o n
  let p : Part := ⟨c.part % 16, Nat.mod_lt _ (by decide)⟩
  let tenant := c.fn != 0
  let far := fun (addr n o : Nat) => blame (!mayReach s c.fn p addr n) sDENIED (64 + o)
  blame (tenant && c.service == 9) sDENIED 0 ++
  blame (tenant && (partOfFn s c.fn != some p)) sDENIED 8 ++ blame (c.resp != 0 && !mayReach s c.fn p c.resp c.respLen) sDENIED 16 ++
  (match c.service with
    | 1 => far (f 0 8) 64 0
    | 2 => far (f 16 8) (16 * f 24 4) 16 ++ (if f 32 8 = 0 then [] else far (f 32 8) (4 * f 40 2) 32)
    | 4 => if f 8 4 = 0 then [] else far (f 0 8) (32 * f 8 4 * f 12 1) 0 ++
        blame (match flagRef ⟨(scOf s p).val * 64, by have := (scOf s p).isLt; omega⟩ (f 20 2) with
          | some r => !flagAssigned s (some p) r | none => false) sDENIED 84
    | 5 | 6 => if f 0 1 = 0 then [] else far (f 8 8) (f 16 8) 8
    | 7 => if f 1 1 = 0 then far (f 8 8) (64 * f 16 2) 8 ++ far (f 24 8) (64 * f 16 2) 24 ++
          blame (!grantedRun s p (f 24 8) (64 * f 16 2) || !runLocal (s.part p).img (f 24 8) (64 * f 16 2) ||
            (match placeOf (f 24 8) with | .granary _ => false | .hbm _ => false | _ => true)) sDENIED 88 else []
    | 8 => blame (tenant && (maskCores a).any fun x => partOfCore s x != some p) sDENIED 64 ++
        blame (tenant && f 41 1 != 0) sDENIED 105
    | 11 => far (f 16 8) (64 * f 8 4) 16
    | 12 => blame (tenant && f 0 1 != c.fn.val) sDENIED 64
    | _ => [])

/-- A core's partition is fenced. -/
def coreFenced (s : State) (c : Core) : Bool :=
  match partOfCore s c with
  | some p => isFenced s p
  | none => false

/-- Every partition with a quarter on the core's die is fenced or has no core RUNNING. -/
def dieQuiet (s : State) (c : Core) : Bool :=
  (List.finRange 16).all fun (q : Fin 16) =>
    q.val / 4 != (dieOf c).val ||
      match partOfQuarter s q.val with
      | some p => isFenced s p || !(coresOf s p).any (running s)
      | none => true

/-- The partition's seal group is enabled and its own (12 R298). -/
def sealsOn (s : State) (p : Part) : Bool := partOfGroup s (sealGroup s p).val == some p

/-- STEP_LOOP and SEAL may begin with this ACTION (R346). -/
def loopMay (s : State) (p : Part) (action : Nat) : Bool :=
  sealsOn s p && (if action = 0 then decide (sealState s p ≤ 1) else sealState s p == 5)

/-- STATE charges: a precondition of the service does not hold. -/
def stateFaults (s : State) (c : CallX) : List Finding :=
  let a := c.args
  let f := fun o n => field a o n
  let p : Part := ⟨c.part % 16, Nat.mod_lt _ (by decide)⟩
  let no := fun (b : Bool) => blame b sSTATE 0
  let quiet := !(coresOf s p).any (running s)
  let fenced := fbit s .hstPartCtrlFence p.val && !([8, 9, 11, 12].contains c.service)
  no fenced ++
  (match c.service with
    | 1 => no (coreRange.any fun x => bit ((s.part p).img.groups.getD (f 8 1) 0) x.val && running s x)
    | 2 => no (!loopMay s p (f 8 1) || (f 8 1 == 3 && !fbit s .updSealCken p.val))
    | 3 => no (!loopMay s p (f 0 1) || (f 0 1 == 3 && !fbit s .updSealCken p.val))
    | 5 => no (f 0 1 == 0 && !fbit s .updSealCken p.val)
    | 6 => no ((f 0 1 == 0 && !fbit s .updSealCken p.val) || !(sealState s p == 5 || quiet))
    | 7 => no (partOfGroup s (f 0 1) != some p || grpActive s ⟨f 0 1 % 16, Nat.mod_lt _ (by decide)⟩)
    | 8 => no (!bit (fget s .rotStructEnmodes 0) (f 40 1) || !(maskCores a).all (coreFenced s))
    | 9 => no (!(maskCores a).all (coreFenced s) || decide (1 < fget s .pwrStatusStage 0) ||
        ((span 0 2).any fun m => bit (f 32 1) m && m != fget s .pwrStatusMode 0) && !(maskCores a).all (dieQuiet s))
    | 10 =>
      let now := fget s .updStepStep p.val
      no (!sealsOn s p || decide (now < f 0 8) || (if f 0 8 = now then sealState s p != 5
        else !(sealState s p == 5 || quiet) || !fbit s .updSealCken p.val))
    | _ => [])

/-- A limit of R342 is reached. -/
def busyFaults (s : State) (c : CallX) : List Finding :=
  let others := s.hub.calls.filter fun d => d.started && d.finished.isNone && !(d.fn == c.fn && d.slot == c.slot)
  blame ((c.service == 2 && others.any fun d => d.service == 2 && d.part == c.part) ||
    (c.service == 9 && others.any fun d => d.service == 9)) sBUSY 0

/-- Why a call is refused when it starts. -/
def callFault (s : State) (c : CallX) : Option Finding :=
  (blame (argLen c.service == 0) sUNKNOWN 0 ++ blame (c.args.length != argLen c.service) sBADCALL 2 ++ argFaults s c ++
    rightFaults s c ++ busyFaults s c ++ stateFaults s c).head?

/-! ### Order (R341, R342) -/

/-- The calls that a call waits for: those of its partition before it, and those that run. A call of PF0 whose message has
not come yet may be one of them. -/
def callsBefore (s : State) (c : CallX) (part : Nat) : List CallX :=
  s.hub.calls.filter fun d =>
    !(d.fn == c.fn && d.slot == c.slot) && (d.started || decide (d.order < c.order)) &&
      (callPart s d == some part || d.fn == 0 && callPart s d == none) && !callWide s d

/-- A call is first in its partition's order. Beside a STEP_LOOP run only CHECKPOINT, INGEST and ERRLOG_READ (and CANCEL). -/
def firstInOrder (s : State) (c : CallX) (service part : Nat) : Bool :=
  let before := callsBefore s c part
  before.isEmpty || ((before.all fun d => d.started && d.service == 2) && [4, 5, 11].contains service)

/-- A CHECKPOINT or RESTORE may run on its controller: two do at most, and those that wait go in the order of GO (R342). One
whose message has not come yet may be one of them. -/
def checkpointTurn (s : State) (c : CallX) (part : Nat) : Bool :=
  let sc := fun (n : Nat) => scOf s ⟨n % 16, Nat.mod_lt _ (by decide)⟩
  let ahead := s.hub.calls.filter fun d =>
    d.finished.isNone && !(d.fn == c.fn && d.slot == c.slot) && (d.started || decide (d.order < c.order)) &&
      match callService s d, callPart s d with
      | some k, some q => (k == 5 || k == 6) && sc q == sc part && (d.started || firstInOrder s d k q)
      | _, _ => true
  decide (ahead.length < 2)

/-- A call of a service may start. CANCEL and MARGIN_CAL wait for none, and a second STEP_LOOP or MARGIN_CAL is answered BUSY
at once. -/
def callMay (s : State) (c : CallX) (service part : Nat) : Bool :=
  let loops := s.hub.calls.any fun d => d.started && d.finished.isNone && d.service == 2 && d.part == part
  if service = 9 ∨ service = 12 then true
  else if service = 2 ∧ loops = true then true
  else firstInOrder s c service part && (!(service == 5 || service == 6) || checkpointTurn s c part)

/-! ### The mailbox (R336, R339) -/

def slotIdx (f : Fn) (k : SlotNo) : Nat := f.val * 4 + k.val

/-- A GO to a slot: discarded and logged while the slot is in use, else queued. -/
def submitCall (s : State) (f : Fn) (k : SlotNo) (addr off : Nat) : State :=
  let i := slotIdx f k
  let st := fget s .svcSlotState i
  if st = 1 ∨ st = 2 then logRegister s (partOfFn s f) (.sc 0) off
  else
    let s := fset (fset s .svcSlotAddr i addr) .svcSlotState i 1
    let c : CallX :=
      { fn := f, slot := k, addr := addr, order := s.hub.callOrder, started := false, service := 0, part := 0, tag := 0
        args := [], resp := 0, respLen := 0 }
    { s with hub := { s.hub with callOrder := s.hub.callOrder + 1
                                 calls := (s.hub.calls.filter fun d => !(d.fn == f && d.slot == k)) ++ [c] } }

/-- The partition that a call's accesses are made for, before its message says. -/
def callerPart (s : State) (c : CallX) : Part :=
  (partOfFn s c.fn).getD ⟨((callPart s c).getD 0) % 16, Nat.mod_lt _ (by decide)⟩

/-- Services whose GO leaves IDLE (17 R420). -/
def wakesUp (service : Nat) : Bool := [1, 2, 3, 8, 9, 10].contains service

/-- A call runs with its message read. The GO of six services leaves IDLE, whatever becomes of the call (17 R420). -/
def callRuns (s : State) (c : CallX) (h args : Bytes) : State :=
  let s := if wakesUp (field h 0 2) then wake s else s
  let s := fset (fset s .svcSlotState (slotIdx c.fn c.slot) 2) .svcSlotTag (slotIdx c.fn c.slot) (field h 4 4)
  onCall s c.fn c.slot fun d => { d with
    started := true, service := field h 0 2, part := field h 8 1, tag := field h 4 4, args := args, resp := field h 16 8
    respLen := field h 24 4 }

/-- The call whose message has been read is judged. From here on a commit waits for a CHECKPOINT (R352). -/
def judgeCall (s : State) (f : Fn) (k : SlotNo) (damaged : Bool) : State :=
  match callOf s f k with
  | none => s
  | some c =>
    if damaged then finishCall s f k sMEMERR (lastSeq s) []
    else if decide (c.order < (s.part ⟨c.part % 16, Nat.mod_lt _ (by decide)⟩).abortBelow) && c.service != 9 then
      finishCall s f k sABORTED 0 []
    else
      match callFault s c with
      | some x => finishCall s f k x.1 x.2 []
      | none =>
        let seen := fget s .svcSlotState (field c.args 0 1 * 4 + field c.args 1 1)
        if c.service = 12 then onCall s f k (fun d => { d with phase := seen })
        else if c.service = 5 then
          let p : Part := ⟨c.part % 16, Nat.mod_lt _ (by decide)⟩
          s.setPart p { s.part p with ckptBusy := true }
        else s

/-- CALL_START: the call is first in its partition's order; its message is read once. -/
def execCallStart (f : Fn) (k : SlotNo) (s : State) : Host.Outcome State Fault Refusal :=
  match callOf s f k with
  | none => idle s
  | some c =>
    if c.started || c.finished.isSome || !firmwareOn s then idle s
    else
      let p := callerPart s c
      let ag := MemAgent.sc (scOf s p)
      if !mayReach s f p c.addr 64 then .next (finishCall (callRuns s c [] []) f k sDENIED 0 [])
      else
        match stageHost s (partOfFn s f) (.call f k) [(c.addr, 64)] with
        | some t => .next t
        | none =>
          let r := memRead s ag (partOfFn s f) c.addr 64
          let h := r.2.1
          let n := field h 2 2
          let done := fun (s : State) => unstage s [(c.addr, 64 + n)]
          if r.2.2 then .next (done (finishCall (callRuns r.1 c [] []) f k sMEMERR (lastSeq r.1) []))
          else
            match headFault h with
            | some x => .next (done (finishCall (callRuns r.1 c h []) f k x.1 x.2 []))
            | none =>
              if !mayReach s f p (c.addr + 64) n then .next (done (finishCall (callRuns r.1 c h []) f k sDENIED 2 []))
              else
                match stageHost s (partOfFn s f) (.call f k) [(c.addr + 64, n)] with
                | some t => .next t
                | none =>
                  if !callMay s c (field h 0 2) (field h 8 1) then idle s
                  else
                    let a := memRead r.1 ag (partOfFn s f) (c.addr + 64) n
                    .next (judgeCall (done (callRuns a.1 c h a.2.1)) f k a.2.2)

/-- A transfer of the call still awaits its completion. -/
def callReads (s : State) (f : Fn) (k : SlotNo) : Bool := s.net.dma.any fun d => d.why == .call f k && !d.quarantine

/-- Answers to a call that has ended go to nobody. -/
def orphanCall (s : State) (f : Fn) (k : SlotNo) : State :=
  let turn := fun (w : ReqFor) => match w with
    | .call g j => if g = f ∧ j = k then .event else w
    | .probe g j _ => if g = f ∧ j = k then .event else w
    | _ => w
  { s with net := { s.net with
      held := s.net.held.map fun h => (h.1, h.2.1, turn h.2.2.1, h.2.2.2)
      out := s.net.out.map fun o => (o.1, { o.2 with why := turn o.2.why }) } }

/-- The result area: header and results, cut to RESPLEN. -/
def resultArea (s : State) (c : CallX) (code detail : Nat) (out : Bytes) : Bytes :=
  let body := out.take (c.respLen - 32)
  leBytes 4 c.tag ++ leBytes 1 code ++ leBytes 1 (ofBool (decide (body.length < out.length))) ++ leBytes 2 0 ++
    leBytes 4 detail ++ leBytes 4 body.length ++ leBytes 8 (timeNow s) ++ leBytes 8 0 ++ body

/-- The result area of a call may be written: RESP is sound and within the caller's reach. -/
def hasResult (s : State) (c : CallX) : Bool :=
  c.resp != 0 && c.resp % 64 == 0 && decide (c.resp < 2 ^ 48 ∧ 32 ≤ c.respLen) &&
    mayReach s c.fn (callerPart s c) c.resp c.respLen

/-- The host bytes that a call may have brought. -/
def callStaged (s : State) (c : CallX) : List (Nat × Nat) :=
  let f := fun o n => field c.args o n
  (c.addr, 64 + c.args.length) ::
    match c.service with
    | 1 => [(f 0 8, max 64 (field ((span (f 0 8) 12).map fun i => (tget (fun _ => none) s.net.staged i).getD 0) 8 4))]
    | 2 => [(f 32 8, 4 * f 40 2)]
    | 4 => [(f 0 8, 32 * f 8 4 * f 12 1)]
    | 6 => [(f 8 8, f 16 8)]
    | 7 => [(f 8 8, 64 * f 16 2)]
    | _ => []

/-- A commit that waited in CKWAIT for a CHECKPOINT goes on (R352). -/
def freeCommit (s : State) (c : CallX) (p : Part) : State :=
  if c.service = 5 then leaveCkwait (s.setPart p { s.part p with ckptBusy := false }) p else s

/-- CALL_COMPLETE: the result area is written; the slot is DONE and the caller is told. -/
def execCallComplete (f : Fn) (k : SlotNo) (s : State) : Host.Outcome State Fault Refusal :=
  match callOf s f k with
  | none => idle s
  | some c =>
    match c.finished with
    | none => idle s
    | some (code, detail, out) =>
      if callReads s f k || !hubOn s then idle s
      else
        let p := callerPart s c
        let area := resultArea s c code detail out
        let lost := hasResult s c && !hostTakes s c.resp area.length
        let s1 := if hasResult s c then agentWrite s (.sc (scOf s p)) (partOfFn s f) c.resp area else s
        let code := if lost then sDMAERR else code
        let detail := if lost then lastSeq s1 else detail
        let i := slotIdx f k
        let s := orphanCall (unstage s1 (callStaged s1 c)) f k
        let s := { s with hub := { s.hub with calls := s.hub.calls.filter fun d => !(d.fn == f && d.slot == k) } }
        let s := fset (fset (fset s .svcSlotState i 3) .svcSlotCode i code) .svcSlotDetail i detail
        let s := fset s .svcSlotTag i c.tag
        let s := if f = 0 then pfEvent s 2 k.val else msix s f 2
        .next (freeCommit (raise s (.slot f k)) c p)

/-! ### Calls at work -/

/-- A command of a service acts on a call that runs it. -/
def onService (f : Fn) (k : SlotNo) (service : Nat) (s : State) (act : CallX → Part → State) :
    Host.Outcome State Fault Refusal :=
  match callOf s f k with
  | some c =>
    if c.started && c.finished.isNone && c.service == service && firmwareOn s then
      .next (act c ⟨c.part % 16, Nat.mod_lt _ (by decide)⟩)
    else idle s
  | none => idle s

/-- How far a call has come. -/
def setPhase (s : State) (f : Fn) (k : SlotNo) (n : Nat) : State := onCall s f k fun c => { c with phase := n }

/-! ### ERRLOG_READ and CANCEL (R357, R358) -/

/-- The records of the ring from a sequence number on, with how many were overwritten or are not in it: numbers present. -/
def ringNumbers (s : State) (first : Nat) : List Nat × Nat :=
  let next := fget s .errSeqNext 0
  let size := if fbit s .errRingEn 0 then 2 ^ fget s .errRingLog2n 0 else 0
  let lo := max first (next - size)
  (span lo (next - lo), min next lo - first)

/-- What ERRLOG_READ has copied: the state, the records, the next number and the records lost. -/
structure LogCopy where
  s : State
  got : List Bytes
  next : Nat
  lost : Nat
  damaged : Bool

/-- One record of the ring is read, and taken when it is there and the caller may see it. -/
def takeRecord (c : CallX) (p : Part) (most : Nat) (l : LogCopy) (n : Nat) : LogCopy :=
  if most ≤ l.got.length ∨ l.damaged = true then l
  else
    let size := 2 ^ fget l.s .errRingLog2n 0
    let r := memRead l.s (.sc (scOf l.s p)) none (fget l.s .errRingBase 0 + 64 * (n % size)) 64
    let b := r.2.1
    let l := { l with s := r.1, next := n + 1, damaged := r.2.2 }
    if field b 0 8 ≠ n ∨ field b 24 1 = 0 then { l with lost := l.lost + 1 }
    else if c.fn ≠ 0 ∧ !(bit (field b 25 1) 3 && bits (field b 25 1) 4 4 == p.val) then l
    else { l with got := l.got ++ [b] }

/-- ERRLOG_READ: records are copied from the ring in the order of their numbers. -/
def execErrlogRead (f : Fn) (k : SlotNo) (s : State) : Host.Outcome State Fault Refusal :=
  onService f k 11 s fun c p =>
    let first := field c.args 0 8
    let l := ringNumbers s first
    let r := l.1.foldl (takeRecord c p (field c.args 8 4)) ⟨s, [], max first (fget s .errSeqNext 0 - l.1.length), l.2, false⟩
    if r.damaged then finishCall r.s f k sMEMERR (lastSeq r.s) []
    else
      let s := callWrite r.s f k p (field c.args 16 8) r.got.flatten
      finishCall s f k sOK 0 (leBytes 8 r.got.length ++ leBytes 8 r.next ++ leBytes 8 r.lost)

/-- CANCEL: a running STEP_LOOP, FIELD_TEST or MARGIN_CAL is told to end. -/
def execCancel (f : Fn) (k : SlotNo) (s : State) : Host.Outcome State Fault Refusal :=
  onService f k 12 s fun c _ =>
    let g : Fn := ⟨field c.args 0 1 % 16, Nat.mod_lt _ (by decide)⟩
    let j : SlotNo := ⟨field c.args 1 1 % 4, Nat.mod_lt _ (by decide)⟩
    let out := leBytes 1 c.phase ++ leBytes 7 0
    match callOf s g j with
    | some d =>
      if d.started && d.finished.isNone && [2, 8, 9].contains d.service then
        let p : Part := ⟨d.part % 16, Nat.mod_lt _ (by decide)⟩
        let s := onCall s g j fun d => { d with cancelled := true }
        let s := match (s.part p).loop with
          | some l => if l.fn == g && l.slot == j then
              s.setPart p { s.part p with loop := some { l with cancelled := true } } else s
          | none => s
        finishCall s f k sOK 0 out
      else finishCall s f k sSTATE 0 out
    | none => finishCall s f k sSTATE 0 out

end Sys2Proof.Machine
end

