-- ==== Sys2Proof/Machine/Services.lean ====
section
/-! DEFINITION. The services that a call runs: programs, the step loop, ingestion, checkpoints, replay, collective lists,
tests and margins (14 R344 to R357; 10 R242, R244, R245; 17 R422 to R424). -/

namespace Sys2Proof.Machine

/-! ### LOAD_PROGRAM (R344, R345) -/

/-- A section of a program package: type, index, offset and length, with the byte offset of its table entry. -/
structure ProgSect where
  type : Nat
  cidx : Nat
  off : Nat
  len : Nat
  entry : Nat

def progSects (b : Bytes) : List ProgSect :=
  (span 0 (field b 6 2)).map fun i =>
    let o := 64 + 16 * i
    ⟨field b o 1, field b (o + 1) 1, field b (o + 4) 4, field b (o + 8) 4, o⟩

/-- The largest size of a section of a type, and the size of its items. -/
def progLimit : Nat → Nat × Nat
  | 1 => (0x20_0000, 1) | 3 => (0x1_0000, 1) | 4 => (0x2_0000, 1) | 5 => (0x20_0000, 1) | 6 => (2048, 8) | 7 => (256, 256)
  | 8 => (0x10_0000, 4) | 9 => (0x10_0000, 16) | 10 => (1024, 8) | 11 => (1024, 4) | _ => (0x1_0000, 1)

/-- The cores of a core group, ascending. -/
def groupCores (s : State) (p : Part) (g : Nat) : List Core :=
  coreRange.filter fun c => bit ((s.part p).img.groups.getD g 0) c.val

/-- The header of a package is sound. -/
def progHeadOk (h : Bytes) : Bool :=
  field h 0 4 == 0x47505248 && field h 4 2 == 1 && (slice h 16 48).all (· == 0) && decide (64 + 16 * field h 6 2 ≤ field h 8 4)

/-- A section is out of range. -/
def sectBad (len cores : Nat) (x : ProgSect) : Bool :=
  let l := progLimit x.type
  x.type == 0 || decide (11 < x.type) || decide (len < x.off + x.len) || decide (l.1 < x.len) || x.len % l.2 != 0 ||
    (if x.type ≤ 6 then x.cidx != 0xFF && decide (cores ≤ x.cidx) else x.type == 7 && decide (15 < x.cidx))

/-- A tenant may not give this schedule table to this memory die. -/
def schedDenied (s : State) (p : Part) (x : ProgSect) (b : Bytes) : Bool :=
  !(quartersOf s p).contains x.cidx ||
    (span 0 63).any fun i =>
      let o := field b (4 * i) 4 % 512
      !(o == 0x100 || o == 0x101 || o == 0x102 || o == 0x1FF ||
        (if h : o < 256 then partOfCore s ⟨o, h⟩ == some p else false))

/-- Words of `n` bytes of a section. -/
def itemsOf (b : Bytes) (n : Nat) : List (Nat × Nat) := (span 0 (b.length / n)).map fun i => (i, field b (n * i) n)

/-- The runs that a checkpoint list names: address and length. -/
def ckptRuns (b : Bytes) : List (Nat × Nat) := (itemsOf b 16).map fun e => (bits e.2 0 48, bits e.2 64 32)

/-- What is wrong with a package: a tenant's schedule tables, and the addresses of a checkpoint list, lie within the caller's
rights (R338, R345). -/
def progFault (s : State) (p : Part) (f : Fn) (cores : Nat) (b : Bytes) : Option Finding :=
  let l := progSects b
  let body := fun (x : ProgSect) => slice b x.off x.len
  (blame (l.any (sectBad b.length cores)) sBADCALL 64 ++ blame (crc32c (b.drop 16) != field b 12 4) sCHECK 12 ++
    l.flatMap (fun x => blame (crc32c (body x) != field b (x.entry + 12) 4) sCHECK (x.entry + 12)) ++
    blame (f != 0 && l.any fun x => x.type == 7 && schedDenied s p x (body x)) sDENIED 64 ++
    blame (l.any fun x => x.type == 9 && (ckptRuns (body x)).any fun r => !mayReach s f p r.1 r.2) sDENIED 64).head?

/-- A section goes into one core. The control store, CORE_STREAM_BASE and CORE_BAL_CTRL of a core that runs take nothing: the
write is discarded and logged (05 R99, R134; 06 R152). -/
def putCoreSect (b : Bytes) (type : Nat) (s : State) (c : Core) : State :=
  let p := partOfCore s c
  match type with
  | 1 => if running s c then record s .core .info p (.core c) .none 0 (.names 99 [storeOff]) else localPut s c storeOff b
  | 2 =>
    let s := fset s .coreSeqCtrlStart c.val (Config.startRow b)
    let s := (span 0 3).foldl (fun s i =>
      if running s c then logRegister s p (.core c) (8 + 4 * i)
      else fset s .coreStreamBaseBase (c.val * 3 + i) (Config.startBase b i)) s
    if running s c then logRegister s p (.core c) 0x30 else fset s .coreBalCtrlDynamic c.val (ofBool (Config.startDynamic b))
  | 3 => windowPut s c descOff b
  | 4 => windowPut s c scaleOff b
  | 5 => localPut s c larderOff b
  | _ => (itemsOf b 8).foldl (fun s e => pset s c e.1 e.2) s

/-- A section goes where its type says. -/
def putSect (p : Part) (cores : List Core) (b : Bytes) (s : State) (x : ProgSect) : State :=
  let d := slice b x.off x.len
  match x.type with
  | 7 => if h : x.cidx < 16 then (itemsOf d 4).foldl (fun s e => writeSched s ⟨x.cidx, h⟩ e.1 e.2 0) s else s
  | 8 => s.setPart p { s.part p with
      shadowTags := (s.part p).shadowTags ++ (itemsOf d 4).map fun e => (bits e.2 0 16, bits e.2 16 8) }
  | 9 => s.setPart p { s.part p with
      ckptList := (s.part p).ckptList ++ ckptRuns d }
  | 10 => (itemsOf d 8).foldl (fun s e => fset s .updProgWord (p.val * 128 + e.1) e.2) s
  | 11 => (itemsOf d 4).foldl (fun s e => fset s .updHypValue (p.val * 256 + e.1) e.2) s
  | t =>
    let to' := if x.cidx = 0xFF then cores else (cores[x.cidx]?).toList
    to'.foldl (putCoreSect d t) s

/-- A sound package is written; with START, RUN is written to every core of the group. What a package has no section for stays
as it was, so a core keeps the mode, STATIC or DYNAMIC, that the program before gave it (log 147, DESIGN CHOICE). -/
def putProgram (s : State) (p : Part) (cores : List Core) (b : Bytes) (start : Bool) : State :=
  let s := s.setPart p { s.part p with shadowTags := [], ckptList := [] }
  let s := (progSects b).foldl (putSect p cores b) s
  if start then cores.foldl (fun s c => writeSeqCtrl s c true (fget s .coreSeqCtrlStart c.val)) s else s

/-- LOAD_PROGRAM: the package is checked as a whole, then written. -/
def execLoadProgram (f : Fn) (k : SlotNo) (s : State) : Host.Outcome State Fault Refusal :=
  onService f k 1 s fun c p =>
    let a := field c.args 0 8
    let cores := groupCores s p (field c.args 8 1)
    match stageHost s (some p) (.call f k) [(a, 64)] with
    | some t => t
    | none =>
      match callMem s c p a 64 with
      | (t, none) => t
      | (t, some h) =>
        let n := field h 8 4
        if !progHeadOk h then finishCall t f k sBADCALL 64 []
        else if !mayReach t f p a n then finishCall t f k sDENIED 64 []
        else
          match stageHost s (some p) (.call f k) [(a, n)] with
          | some t => t
          | none =>
            match callMem s c p a n with
            | (t, none) => t
            | (t, some b) =>
              match progFault t p f cores.length b with
              | some x => finishCall t f k x.1 x.2 []
              | none =>
                finishCall (putProgram t p cores b (bit (field c.args 9 1) 0)) f k sOK 0 (leBytes 8 cores.length)

/-! ### Reading a checkpoint slot (10 R245; 14 R353) -/

/-- What a slot holds, as memory it is read back into: whether it is a shard header, address and length. -/
def slotParts (s : State) (p : Part) (l : List UpdEntry) : List (Bool × Nat × Nat) :=
  (l.flatMap fun e => (e.arrays.filter fun r => r.1 != 48).map fun r => (r.1 == 56, r.2.1, r.2.2)) ++
    (s.part p).ckptList.map fun r => (false, r.1, r.2)

/-- The shard header that a restore writes (09 R213). -/
def restoreHead (s : State) (p : Part) (step : Nat) : Bytes :=
  leBytes 8 step ++ leBytes 4 (devId s * 512 + 264 + (scOf s p).val) ++ leBytes 4 0

/-- One part of a slot is written back. -/
def restorePart (c : CallX) (p : Part) (head payload : Bytes) (r : State × Nat) (x : Bool × Nat × Nat) : State × Nat :=
  (callWrite r.1 c.fn c.slot p x.2.1 (if x.1 then head else slice payload r.2 x.2.2), r.2 + x.2.2)

/-- FLAG returns to 0 and every batch from the cursor on is fetched again (R351). -/
def restartIngest (s : State) (p : Part) : State :=
  match (s.part p).ingest with
  | none => s
  | some i =>
    let s := match flagRef ⟨(scOf s p).val * 64, by have := (scOf s p).isLt; omega⟩ i.flag with
      | some r => flagPut s r 0
      | none => s
    fillIngest (s.setPart p { s.part p with ingest := some { i with fetching := [], landed := [], entries := [] } }) p

/-- The cursor is put at a batch; batches outside the run that is due from there are given up. -/
def moveCursor (s : State) (p : Part) (batch : Nat) : State :=
  let t := fset s .svcLoopCursor p.val batch
  match (s.part p).ingest with
  | none => t
  | some i =>
    let due := batchesDue t p i
    t.setPart p { t.part p with ingest := some { i with
      fetching := i.fetching.filter due.contains, landed := i.landed.filter due.contains
      entries := i.entries.filter fun e => due.contains e.1 } }

/-- The bytes that have come over the fabric for a partition are used up. -/
def fabDrop (s : State) (p : Part) : State :=
  { s with net := { s.net with staged := s.net.staged.filter fun e => e.1 / 2 ^ 60 != p.val + 1 } }

/-- The payload of a slot is checked against the list in force and written back, and ingestion begins again, at a batch where
one is given. False where the call has ended instead. -/
def restoreSlot (s : State) (c : CallX) (p : Part) (batch : Option Nat) (step : Nat) (payload : Bytes) : State × Bool :=
  match listInForce s c p with
  | (t, none) => (t, false)
  | (t, some l) =>
    let parts := slotParts t p l
    let fails := fun (code detail : Nat) => (finishCall t c.fn c.slot code detail [], false)
    if slice payload 0 8 ≠ fingerprint l ∨ payload.length ≠ 8 + (parts.map fun x => x.2.2).sum then fails sCHECK 64
    else if !(parts.all fun x => mayReach t c.fn p x.2.1 x.2.2) then fails sDENIED 64
    else
      let t := (parts.foldl (restorePart c p (restoreHead t p step) payload) (t, 8)).1
      let t := t.setPart p { t.part p with lastList := l, prep := none, prepFailed := false }
      let t := match batch with
        | some b => moveCursor t p b
        | none => t
      (restartIngest (fset (fabDrop t p) .updStepStep p.val (step + 1)) p, true)

/-- What a slot says of itself: STEP, LEN, CKS, and whether it is VALID. -/
structure SlotSays where
  step : Nat
  len : Nat
  cks : Nat
  valid : Bool

def slotSays (h : Bytes) : SlotSays := ⟨field h 0 8, field h 8 8, field h 16 8 % 2 ^ 61, field h 28 1 == 1⟩

/-- How far a restore from the buddy has come: it waits, or has a slot's step and payload, or ends the call. -/
inductive Fetched where
  | waits (s : State)
  | fails (s : State) (why : Finding)
  | got (s : State) (step : Nat) (payload : Bytes)

/-- The bytes that have come over the fabric for a partition. -/
def fabBytes (s : State) (p : Part) (a n : Nat) : Bytes :=
  (span (fabKey p a) n).map fun i => (tget (fun _ => none) s.net.staged i).getD 0

/-- Reads of the buddy's memory on VC21, for a call. -/
def buddyReads (s : State) (p : Part) (f : Fn) (k : SlotNo) (l : List (Nat × Nat)) : State :=
  let x := (s.part p).img
  let s := onCall s f k fun c => { c with waiting := c.waiting + l.length }
  l.foldl (fun s r =>
    sendReq s (some p) (.call f k) (blankReq tREAD (264 + (scOf s p).val) x.buddy 264 21 x.job r.1 r.2 [])) s

/-- Where slot `i` stands on the buddy. -/
def buddyAt (s : State) (p : Part) (i : Nat) : Nat := (s.part p).img.ckbase + i * (s.part p).img.cklen

/-- The slots that may be restored, the higher STEP first. -/
def buddyChoice (s : State) (p : Part) (want : Option Nat) : List (Nat × SlotSays) :=
  let l := (span 0 2).map fun i => (i, slotSays (fabBytes s p (buddyAt s p i) 64))
  let l := l.filter fun e => e.2.valid && decide (64 + e.2.len ≤ (s.part p).img.cklen) && (want.isNone || want == some e.2.step)
  match l with
  | [a, b] => if a.2.step < b.2.step then [b, a] else [a, b]
  | l => l

/-- The next act of a restore from the buddy. Phase 0 asks for both headers, 1 chooses, 2 and 3 have asked for the first
and the second choice. -/
def fetchBuddy (s : State) (c : CallX) (p : Part) (want : Option Nat) : Fetched :=
  let ask := fun (i : Nat) (x : SlotSays) (phase : Nat) =>
    Fetched.waits (setPhase (buddyReads s p c.fn c.slot
      ((chunksOf x.len).map fun r => (buddyAt s p i + 64 + r.1, r.2))) c.fn c.slot phase)
  let choice := buddyChoice s p want
  if c.phase = 0 then .waits (setPhase (buddyReads (fabDrop s p) p c.fn c.slot [(buddyAt s p 0, 64), (buddyAt s p 1, 64)]) c.fn c.slot 1)
  else if c.waiting ≠ 0 then .waits s
  else if c.phase = 1 then
    match choice with
    | [] => .fails s (sNOTFOUND, 0)
    | (i, x) :: _ => ask i x 2
  else
    match choice[c.phase - 2]? with
    | none => .fails s (sCHECK, 0)
    | some (i, x) =>
      let b := fabBytes s p (buddyAt s p i + 64) x.len
      if ckWords b = x.cks then .got s x.step b
      else
        match choice[c.phase - 1]? with
        | some (j, y) => ask j y (c.phase + 1)
        | none => .fails (fabDrop s p) (sCHECK, i)

/-! ### STEP_LOOP and SEAL (R346 to R349) -/

/-- A loop begins by acting on ACTION: 1 replays, 2 resumes, 3 releases after a restore. -/
def beginLoop (s : State) (p : Part) (l : LoopSvc) (action : Nat) : State :=
  let s := s.setPart p { s.part p with loop := some l }
  let s := if l.single || l.replay then s else fset (fset s .svcLoopLoop p.val 1) .svcLoopPlogcnt p.val 0
  match action with
  | 0 => s
  | 1 => refetch (s.setPart p { s.part p with releaseDue := some 1 }) p
  | n => s.setPart p { s.part p with releaseDue := some n }

/-- A loop begins; ACTION 3 first restores from the buddy. -/
def actLoop (s : State) (c : CallX) (p : Part) (l : LoopSvc) (action : Nat) : State :=
  if (s.part p).loop.isSome then s
  else if action ≠ 3 then beginLoop s p l action
  else
    match fetchBuddy s c p none with
    | .waits t => t
    | .fails t x => finishCall t c.fn c.slot x.1 x.2 []
    | .got t step b =>
      match restoreSlot t c p none step b with
      | (t, false) => t
      | (t, true) => beginLoop t p l 3

/-- The shadow tags of a loop: its own list, or the package's. -/
def loopTags (s : State) (c : CallX) (p : Part) : State ⊕ (State × List (Nat × Nat)) :=
  let a := field c.args 32 8
  let n := field c.args 40 2
  if a = 0 ∨ n = 0 then .inr (s, (s.part p).shadowTags)
  else
    match stageHost s (some p) (.call c.fn c.slot) [(a, 4 * n)] with
    | some t => .inl t
    | none =>
      match callMem s c p a (4 * n) with
      | (t, none) => .inl t
      | (t, some b) => .inr (t, (itemsOf b 4).map fun e => (bits e.2 0 16, bits e.2 16 8))

/-- STEP_LOOP: the loop acts on ACTION; gathers, verdicts, commits and releases follow as commands of their own. -/
def execStepLoop (f : Fn) (k : SlotNo) (s : State) : Host.Outcome State Fault Refusal :=
  onService f k 2 s fun c p =>
    match loopTags s c p with
    | .inl t => t
    | .inr (t, tags) =>
      let l : LoopSvc :=
        { fn := f, slot := k, steps := field c.args 0 8, onabort := field c.args 9 1 == 1, retries := field c.args 10 1
          plog := field c.args 16 8, plogn := field c.args 24 4, tags := tags
          cancelled := c.cancelled }
      actLoop t c p l (field c.args 8 1)

/-- SEAL: the loop body once, with ONABORT HOLD. -/
def execSeal (f : Fn) (k : SlotNo) (s : State) : Host.Outcome State Fault Refusal :=
  onService f k 3 s fun c p =>
    actLoop s c p { fn := f, slot := k, single := true, tags := (s.part p).shadowTags } (field c.args 0 1)

/-! ### INGEST (R350, R351) -/

/-- What is wrong with the entries of a batch list: a length that is no multiple of 4, an address out of the caller's reach. -/
def listFault (s : State) (f : Fn) (p : Part) (b : Bytes) : Option Finding :=
  let l := copiesOf b
  (blame (l.any fun e => e.2.2 % 4 != 0) sBADCALL 64 ++
    blame (!l.all fun e => mayReach s f p e.1 e.2.2 && mayReach s f p e.2.1 e.2.2) sDENIED 64).head?

/-- INGEST: the entries of the list are checked, and ingestion begins at CURSOR; or it stops. -/
def execIngest (f : Fn) (k : SlotNo) (s : State) : Host.Outcome State Fault Refusal :=
  onService f k 4 s fun c p =>
    let g := fun o n => field c.args o n
    let u := (g 0 8, 32 * g 8 4 * g 12 1)
    if g 8 4 = 0 then
      finishCall (fset (s.setPart p { s.part p with ingest := none }) .svcLoopIngest p.val 0) f k sOK 0 []
    else
      match stageHost s (some p) (.call f k) [u] with
      | some t => t
      | none =>
        match callMem s c p u.1 u.2 with
        | (t, none) => t
        | (t, some b) =>
          match listFault t f p b with
          | some x => finishCall t f k x.1 x.2 []
          | none =>
            let i : IngestX :=
              { list := g 0 8, nbatch := g 8 4, epb := g 12 1, depth := g 13 1, wrap := g 14 1 == 1, flag := g 20 2, fn := f }
            let t := fset (fset (unstage t [u]) .svcLoopCursor p.val (g 16 4)) .svcLoopIngest p.val 1
            finishCall (restartIngest (t.setPart p { t.part p with ingest := some i }) p) f k sOK 0 []

/-! ### CHECKPOINT and RESTORE (R352, R353) -/

/-- The list of the last commit. -/
def lastCommitList (s : State) (c : CallX) (p : Part) : State × Option (List UpdEntry) :=
  if (s.part p).lastList.isEmpty then listInForce s c p else (s, some (s.part p).lastList)

/-- The results of CHECKPOINT and RESTORE. -/
def slotResult (step len cks : Nat) : Bytes := leBytes 8 step ++ leBytes 8 len ++ leBytes 8 cks

/-- One slot is written at ADDR. -/
def localCheckpoint (s : State) (c : CallX) (p : Part) (step : Nat) (payload : Bytes) : State :=
  let a := field c.args 8 8
  let cks := ckWords payload
  if field c.args 16 8 < 64 + payload.length then finishCall s c.fn c.slot sBADCALL 80 []
  else
    let s := callWrite s c.fn c.slot p a (slotHead s step payload.length cks 1 ++ payload)
    finishCall s c.fn c.slot sOK 0 (slotResult step payload.length cks)

/-- The slot of R244 is written on the buddy: the header with STATE 0 and the payload, whose length and CKS are kept. -/
def buddyCheckpoint (s : State) (c : CallX) (p : Part) (step : Nat) (payload : Bytes) : State :=
  let at' := buddySlot s p step
  let parts := chunksOf payload.length
  let why := ReqFor.call c.fn c.slot
  let s := onCall s c.fn c.slot fun d => { d with
    waiting := parts.length + 1, kept := some (step, payload.length, ckWords payload) }
  let s := buddyWrite s p why at' (slotHead s step payload.length 0 0)
  parts.foldl (fun s r => buddyWrite s p why (at' + 64 + r.1) (slice payload r.1 r.2)) s

/-- A copy to the buddy goes on once its writes are acknowledged: the VALID header is written, then the call ends. -/
def buddyGoesOn (s : State) (c : CallX) (p : Part) (step len cks : Nat) : State :=
  if c.waiting ≠ 0 ∨ copiesHeld s = true then s
  else if c.phase = 0 then
    let s := onCall s c.fn c.slot fun d => { d with phase := 1, waiting := 1 }
    buddyWrite s p (.call c.fn c.slot) (buddySlot s p step) (slotHead s step len cks 1)
  else finishCall (fset s .updCkptStep p.val step) c.fn c.slot sOK 0 (slotResult step len cks)

/-- What a checkpoint copies is read, once all of it has come, and written to ADDR or to the buddy. -/
def takeCheckpoint (s : State) (c : CallX) (p : Part) (step : Nat) (l : List UpdEntry) : State :=
  let runs := slotRuns s p l
  if !(runs.all fun r => mayReach s c.fn p r.1 r.2) then finishCall s c.fn c.slot sDENIED 64 []
  else
    match stageHost s (some p) (.call c.fn c.slot) runs with
    | some t => t
    | none =>
      let r := slotPayload s (mayReach s c.fn p) p l
      let t := unstage r.1 runs
      if r.2.2 then finishCall t c.fn c.slot sMEMERR (lastSeq t) []
      else if field c.args 0 1 = 0 then buddyCheckpoint t c p step r.2.1
      else localCheckpoint t c p step r.2.1

/-- CHECKPOINT: a slot of the last commit is written; a commit waits for it, and it waits for a commit under way. -/
def execCheckpoint (f : Fn) (k : SlotNo) (s : State) : Host.Outcome State Fault Refusal :=
  onService f k 5 s fun c p =>
    let n := fget s .updStepStep p.val
    match c.kept with
    | some (step, len, cks) => buddyGoesOn s c p step len cks
    | none =>
      if sealState s p = 4 ∨ (s.part p).releaseDue = some 0 ∨ (field c.args 0 1 = 0 ∧ copiesHeld s = true) then s
      else if n = 0 then finishCall s f k sNOTFOUND 0 []
      else
        match lastCommitList s c p with
        | (t, none) => t
        | (t, some l) => takeCheckpoint t c p (n - 1) l

/-- What has been read of a slot is restored, and the call ends. -/
def endRestore (s : State) (c : CallX) (p : Part) (step : Nat) (b : Bytes) : State :=
  match restoreSlot s c p none step b with
  | (t, false) => t
  | (t, true) => finishCall t c.fn c.slot sOK 0 (slotResult step b.length (ckWords b))

/-- A slot in memory or on the host is read and restored. -/
def localRestore (s : State) (c : CallX) (p : Part) : State :=
  let a := field c.args 8 8
  match stageHost s (some p) (.call c.fn c.slot) [(a, 64)] with
  | some t => t
  | none =>
    match callMem s c p a 64 with
    | (t, none) => t
    | (t, some h) =>
      let x := slotSays h
      if !x.valid then finishCall t c.fn c.slot sNOTFOUND 0 []
      else if field c.args 16 8 < 64 + x.len then finishCall t c.fn c.slot sCHECK 8 []
      else
        match stageHost s (some p) (.call c.fn c.slot) [(a + 64, x.len)] with
        | some t => t
        | none =>
          match callMem s c p (a + 64) x.len with
          | (t, none) => t
          | (t, some b) =>
            if ckWords b = x.cks then endRestore t c p x.step b else finishCall t c.fn c.slot sCHECK 16 []

/-- RESTORE_CALL: a slot is read, checked and written back. -/
def execRestoreCall (f : Fn) (k : SlotNo) (s : State) : Host.Outcome State Fault Refusal :=
  onService f k 6 s fun c p =>
    if field c.args 0 1 ≠ 0 then localRestore s c p
    else
      match fetchBuddy s c p none with
      | .waits t => t
      | .fails t x => finishCall t f k x.1 x.2 []
      | .got t step b => endRestore t c p step b

/-! ### REPLAY (R354) -/

/-- The batch that a replay of a step takes. -/
def replayBatch (s : State) (p : Part) (step batch : Nat) : Option Nat :=
  if batch ≠ 0xFFFFFFFF then some batch
  else (((s.part p).history.find? fun h => h.1 == step).map (·.2))

/-- REPLAY: step `s` runs again with its batch, after a restore where it is an earlier one. -/
def execReplay (f : Fn) (k : SlotNo) (s : State) : Host.Outcome State Fault Refusal :=
  onService f k 10 s fun c p =>
    let step := field c.args 0 8
    if (s.part p).loop.isSome then s
    else
      match replayBatch s p step (field c.args 8 4) with
      | none => finishCall s f k sNOTFOUND 0 []
      | some batch =>
        let go := fun (s : State) =>
          beginLoop (moveCursor s p batch) p
            { fn := f, slot := k, replay := true, tags := (s.part p).shadowTags } 1
        if step = fget s .updStepStep p.val then go s
        else if step = 0 then finishCall s f k sNOTFOUND 0 []
        else
          match fetchBuddy s c p (some (step - 1)) with
          | .waits t => t
          | .fails t x => finishCall t f k x.1 x.2 []
          | .got t n b =>
            match restoreSlot t c p (some batch) n b with
            | (t, false) => t
            | (t, true) => go t

/-! ### COLLECTIVE_SETUP (R355) -/

/-- The group and the operation of a COLLECTIVE_SETUP call. -/
def callGroup (c : CallX) : Group := ⟨field c.args 0 1 % 16, Nat.mod_lt _ (by decide)⟩

/-- A command of COLLECTIVE_SETUP with this OP. -/
def onSetup (f : Fn) (k : SlotNo) (op : Nat) (s : State) (act : CallX → Part → Group → State) :
    Host.Outcome State Fault Refusal :=
  onService f k 7 s fun c p => if field c.args 1 1 = op then act c p (callGroup c) else s

/-- INSTALL: entries are checked as on fetch, copied into the partition's memory, and named in XCE_LIST. -/
def execInstall (f : Fn) (k : SlotNo) (s : State) : Host.Outcome State Fault Refusal :=
  onSetup f k 0 s fun c p g =>
    let src := field c.args 8 8
    let count := field c.args 16 2
    let list := field c.args 24 8
    match stageHost s (some p) (.call f k) [(src, 64 * count)] with
    | some t => t
    | none =>
      match callMem s c p src (64 * count) with
      | (t, none) => t
      | (t, some b) =>
        let faults := (span 0 count).filterMap fun i =>
          let e := slice b (64 * i) 64
          (entryFault t g (leNat e) (collEntryOf e) i).map fun o => 64 * i + o
        match faults.head? with
        | some o => finishCall t f k sBADCALL o []
        | none =>
          let t := callWrite t f k p list b
          finishCall (fset (fset t .xceListBase g.val list) .xceListCount g.val count) f k sOK 0 []

/-- The window tables that list entries name, each once, with their lengths. -/
def windowTables (b : Bytes) : List (Nat × Nat) :=
  let es := (span 0 (b.length / 64)).map fun i => collEntryOf (slice b (64 * i) 64)
  (((es.filter fun e => e.reduces).map fun e => (e.wtab, 16 * e.count)).foldl (fun l r =>
    if l.any fun q => q.1 == r.1 && decide (r.2 ≤ q.2) then l else r :: l.filter fun q => q.1 != r.1) []).reverse

/-- CLEARWIN: zeros over both planes of every window table of the list. -/
def execClearwin (f : Fn) (k : SlotNo) (s : State) : Host.Outcome State Fault Refusal :=
  onSetup f k 1 s fun c p g =>
    let run := (fget s .xceListBase g.val, 64 * grpCount s g)
    if !mayReach s f p run.1 run.2 then finishCall s f k sDENIED 64 []
    else
      match stageHost s (some p) (.call f k) [run] with
      | some t => t
      | none =>
        match callMem s c p run.1 run.2 with
        | (t, none) => t
        | (t, some b) =>
          let l := windowTables b
          let t := unstage t [run]
          if !(l.all fun r => mayReach t f p r.1 r.2) then finishCall t f k sDENIED 64 []
          else finishCall (l.foldl (fun s r => callWrite s f k p r.1 (List.replicate r.2 0)) t) f k sOK 0 []

/-- The results of PROBE: the members that answered, the first silent rank, the largest round trip. -/
def probeResult (size : Nat) (l : List (Nat × Nat × Nat)) : Bytes :=
  let got := l.filter fun e => e.2.2 != 0
  let silent := (span 0 size).find? fun r => !(got.any fun e => e.1 == r)
  leBytes 4 got.length ++ leBytes 4 (silent.getD 0xFFFFFFFF) ++ leBytes 4 (got.foldl (fun a e => max a (e.2.2 - 1)) 0)

/-- The packet of a PROBE to the controller of one member. -/
def probeMember (f : Fn) (k : SlotNo) (p : Part) (g : Group) (s : State) (r : Nat) : State :=
  let m := memberDev s g r
  sendReq m.1 (some p) (.probe f k r)
    (blankReq tSVC (264 + (scOf s p).val) m.2 264 20 (s.part p).img.job 0 Config.probeCode [])

/-- PROBE: a packet to the controller of each member; the call ends once none is awaited. -/
def execProbe (f : Fn) (k : SlotNo) (s : State) : Host.Outcome State Fault Refusal :=
  onSetup f k 2 s fun c p g =>
    let size := grpSize s g
    if c.phase = 0 then
      let s := onCall s f k fun d => { d with phase := 1, probe := (span 0 size).map fun r => (r, timeNow s, 0) }
      (span 0 size).foldl (probeMember f k p g) s
    else if c.probe.all fun e => e.2.2 != 0 then finishCall s f k sOK 0 (probeResult size c.probe)
    else s

/-- PROBE_TIMEOUT: 10 ms have passed; the call ends with the members that answered. -/
def execProbeTimeout (f : Fn) (k : SlotNo) (elapsedUs : Nat) (s : State) : Host.Outcome State Fault Refusal :=
  onSetup f k 2 s fun c _ g =>
    if c.phase = 1 ∧ 10000 ≤ elapsedUs then finishCall s f k sOK 0 (probeResult (grpSize s g) c.probe) else s

/-! ### FIELD_TEST (R356) -/

/-- What was found of a core; one that nothing was found of has passed. -/
def findingOf (l : List CoreFinding) (c : Core) : CoreFinding := (l.find? fun e => e.core == c).getD ⟨c, 0, 0, 0, 0⟩

def CoreFinding.bytes (e : CoreFinding) : Bytes :=
  leBytes 1 e.core.val ++ [e.firstFail, e.failures, e.flags] ++ leBytes 4 e.word.toNat

/-- A failing core is logged. -/
def logFinding (s : State) (e : CoreFinding) : State :=
  if e.failures = 0 then s
  else record s .test .info (partOfCore s e.core) (.core e.core) .none 0
    (.names 356 [e.core.val, e.firstFail.toNat, e.failures.toNat, e.flags.toNat, e.word.toNat])

/-- The memory dies of the partitions of cores. -/
def diesTested (s : State) (l : List Core) : List MemDie :=
  (List.finRange 16).filter fun (q : Fin 16) => (partOfQuarter s q.val).isSome &&
    l.any fun c => partOfCore s c == partOfQuarter s q.val

/-- Test 17 has run its patterns over half-stacks: each granule has been written whole, and no rule says with what. -/
def testHbm (s : State) (hs : List Nat) : State :=
  let hit := fun a => match placeOf a with | .hbm _ => hs.contains (halfStackOf a) | _ => false
  { s with
    mem := tdrop hit s.mem
    hbmSyn := tdrop (fun g => hit (64 * g)) s.hbmSyn
    scrambled := hs.foldl (fun l h => tset (fun _ => 0) l h (s.fresh + 1)) s.scrambled
    fresh := s.fresh + 1 }

/-- FIELD_TEST: the tests have run on the cores named. Test 16 starts the self-test of the partition's memory dies, test 17
leaves its half-stacks with open contents. A
cancelled call ends after the core under test; shedding stage 2 suspends it. -/
def execFieldTest (f : Fn) (k : SlotNo) (found : List CoreFinding) (s : State) : Host.Outcome State Fault Refusal :=
  onService f k 8 s fun c _ =>
    if 2 ≤ fget s .pwrStatusStage 0 then s
    else
      let cores := maskCores c.args
      let done := if c.cancelled then cores.filter fun x => found.any fun e => e.core == x else cores
      let l := done.map (findingOf found)
      let s := l.foldl logFinding s
      let s := if bit (field c.args 32 8) 16 && !c.cancelled then (diesTested s cores).foldl startSelftest s else s
      let s := if bit (field c.args 32 8) 17 && !c.cancelled then testHbm s ((diesTested s cores).map (·.val)) else s
      finishCall s f k (if c.cancelled then sABORTED else sOK) 0 (l.map CoreFinding.bytes).flatten

/-! ### MARGIN_CAL (R357; 17 R422 to R424) -/

/-- Vpass of a sweep from Vcap down by steps to 500 mV at the lowest: the lowest voltage of the grid at which a core passes that
needs `need` mV. A core that fails at Vcap has M = 0 (17 R422). -/
def sweepVpass (mode step need : Nat) (fails : Bool) : Nat :=
  if fails ∨ vcap mode < need then vcap mode else vcap mode - (vcap mode - max need 500) / max step 1 * max step 1

/-- The record that a sweep of a core makes. -/
def sweepRecord (s : State) (modes step : Nat) (was : Bool) (e : SweepFinding) : MarginRec :=
  let on := fun m => bit modes m
  let vE := sweepVpass 0 step e.vpassE e.failE
  let vT := sweepVpass 1 step e.vpassT e.failT
  let mE := if on 0 then vcapE - vE else 0
  let mT := if on 1 then vcapT - vT else 0
  { mE := mE, mT := mT, vE := if on 0 then vE else 0, vT := if on 1 then vT else 0, hours := fget s .pwrHoursHours 0
    retired := was || (on 0 && decide (mE < marginFloor)) || (on 1 && decide (mT < marginFloor)), tValid := on 1 }

/-- One entry of the results. -/
def sweepBytes (c slot mE mT before : Nat) (trend : Int) (action : Nat) : Bytes :=
  leBytes 1 c ++ leBytes 1 slot ++ leBytes 2 mE ++ leBytes 2 mT ++ leBytes 2 before ++ leBytes 2 (wrap 16 trend) ++
    leBytes 1 action ++ leBytes 5 0

/-- A retired slot's core goes to a free spare, or is held in CORE reset, which keeps its program (16 R393). -/
def retireSlot (s : State) (c : Core) (auto : Bool) : State × Nat :=
  match (if auto then freeSpare s (dieOf c).val else none) with
  | some k => (fset (coreToSpare s c) .rotCoreMapSlot c.val k, 2)
  | none => (coreKeepProgram s c, if auto then 3 else 2)

/-- The results of one core: what its sweep found is stored, planned and acted on. -/
def calibrate (modes step : Nat) (auto : Bool) (r : State × Bytes) (e : SweepFinding) : State × Bytes :=
  let s := r.1
  let c := e.core
  let d := (dieOf c).val
  let slot := slotOf s d (c.val % 64)
  let i := 68 * d + slot
  let l := slotRecords s i
  let tOn := bit (fget s .rotStructEnmodes 0) 1
  let was := planSlot l tOn
  let new := sweepRecord s modes step was.retired e
  let t := storeMargin s i new
  let plan := planSlot (slotRecords t i) tOn
  let fails := new.retired && !was.retired
  let shown := showSlot tOn t i
  let moved := if new.retired then retireSlot shown c auto else (shown, if was.vsetE = plan.vsetE ∧ was.vsetT = plan.vsetT then 0 else 1)
  let t := if fails then record moved.1 .test .info (partOfCore s c) (.core c) .none 0 (.names 424 [c.val, slot, new.mE, new.mT])
    else moved.1
  let before := l.filter fun m => m.sound && m.hasE
  (t, r.2 ++ sweepBytes c.val slot new.mE new.mT ((before.getLast?.map (·.mE)).getD 0) plan.trend moved.2)

/-- MARGIN_CAL: the cores named have been swept, in ascending order. A cancelled call ends with the cores finished; shedding
stage 2 suspends the sweep. With DRYRUN all is reported as it would have been done, and nothing is done. -/
def execMarginCal (f : Fn) (k : SlotNo) (found : List SweepFinding) (s : State) : Host.Outcome State Fault Refusal :=
  onService f k 9 s fun c _ =>
    if 2 ≤ fget s .pwrStatusStage 0 then s
    else
      let flags := field c.args 34 1
      let swept := (maskCores c.args).filterMap fun x => found.find? fun e => e.core == x
      let r := swept.foldl (calibrate (field c.args 32 1) (field c.args 33 1) (bit flags 0)) (s, [])
      let r := (if bit flags 1 then s else r.1, r.2)
      if c.cancelled then finishCall r.1 f k sABORTED 0 r.2
      else if swept.length < (maskCores c.args).length then s
      else finishCall r.1 f k sOK 0 r.2

end Sys2Proof.Machine
end

