-- ==== Sys2Proof/Machine/Views.lean ====
section
/-! DEFINITION. What the registers show: fields that follow other state (05 R134, 14 R359, 18 R428, R432) and the
snapshots of the views (18 R430). -/

namespace Sys2Proof.Machine

/-! ### Fields that follow other state -/

/-- A number with bit `i` set where `p i`. -/
def maskWhere (n : Nat) (p : Nat → Bool) : Nat := (span 0 n).foldl (fun a i => a + if p i then 2 ^ i else 0) 0

/-- What a field shows when it is read live (05 R134, 10 R217, 14 R359, 18 R428, R432). -/
def Field.live (s : State) (f : Field) (i : Nat) : Nat :=
  let c : Core := ⟨i % 256, Nat.mod_lt _ (by decide)⟩
  let c4 : Core := ⟨i / 4 % 256, Nat.mod_lt _ (by decide)⟩
  let st := streamOf (i % 4)
  match f with
  | .coreSeqStatusStoppedS => maskWhere 4 fun k =>
      let r := ((s.core c).stream (streamOf k)).run
      r == .halted || r == .stopped
  | .coreSeqStatusMpc => (s.core c).sm.pc
  | .coreSeqStatusDepth => (s.core c).sm.loops.length
  | .coreLcRemain =>
      let l := (s.core ⟨i / 8 % 256, Nat.mod_lt _ (by decide)⟩).sm.loops.reverse
      ((l[i % 8]?).map (·.remain)).getD 0
  | .coreWaitStateWaiting => ofBool (holdOf s c4 st).waiting
  | .coreWaitStateKind => (holdOf s c4 st).kind
  | .coreWaitStateFlag => (holdOf s c4 st).flag
  | .coreWaitStateAddr => if (holdOf s c4 st).waiting then wordAddr s c4 st ((s.core c4).stream st).pc else 0
  | .coreWaitStateValue => (holdOf s c4 st).value
  | .coreWaitStateCycles => ((s.core c4).stream st).heldCycles (holdOf s c4 st)
  | .updSealFatal => fatalMask (fget s .updSealFatal i)
  | .svcVpulsePulse =>
      match partOfFn s ⟨i % 16, Nat.mod_lt _ (by decide)⟩ with
      | some p => fget s .svcPulseCount p.val + fget s .svcPulseStep p.val * 2 ^ 48
      | none => 0
  | .rotSimgCtrlBusy => ofBool (rotBusy s)
  | .rotFuseCtrlBusy => ofBool (rotBusy s)
  | .rotFlashCtrlBusy => ofBool (rotBusy s)
  | .hstDevStatusBoot => fget s .rotBootStatusStage 0
  | .hstDevStatusRegprot => fget s .rotStructRegprot 0
  | .hstDevStatusShed => fget s .pwrStatusStage 0
  | .hstDevStatusPen => maskWhere 16 fun p => (s.part ⟨p % 16, Nat.mod_lt _ (by decide)⟩).enabled
  | .hstDevStatusPfenced => maskWhere 16 fun p => fbit s .hstPartCtrlFenced p
  | .hstDevStatusPattn => maskWhere 16 fun p => decide (5 ≤ fget s .updSealState p)
  | f => fget s f i

/-! ### Snapshots (R430) -/

/-- The block's unit with a posted write incomplete (R428). -/
def unitBusy (s : State) : Block → Nat
  | .grn => maskWhere 16 fun q => fbit s .grnCtrlBusy q
  | .rot => ofBool (rotBusy s)
  | .hbm => maskWhere 8 fun k => (s.stack ⟨k % 8, Nat.mod_lt _ (by decide)⟩).arming
  | _ => 0

/-- The indices of a field within one core's block, or all of its indices. -/
def snapIndices (f : Field) (c : Nat) : List Nat :=
  let n := (f.spec.dims.map (·.1)).foldl (· * ·) 1
  if f.spec.block = .core then span (c * Field.inner f) (Field.inner f) else span 0 n

/-- A TAKE copies every such field of the block, or of the core, with the fabric time. -/
def takeSnap (s : State) (b : Block) (c v : Nat) : State :=
  let copy := (Field.all.filter fun f => f.spec.block == b && f.spec.snap).flatMap fun f =>
    (snapIndices f c).filterMap fun i =>
      let x := Field.live s f i
      if x = 0 then none else some (Field.key f i, x)
  let k := viewKey b c v
  s.setSnap k { s.snap k with copy := copy, time := recTime s }

/-- What a field shows through a view. -/
def Field.shown (s : State) (v : Nat) (f : Field) (i : Nat) : Nat :=
  let x := s.snap (viewKey f.spec.block (i / Field.inner f) v)
  if f.spec.snap && x.held then (regLookup x.copy (Field.key f i)).getD 0 else Field.live s f i

/-- The 128 bits of a block's BLKCTL through a view. -/
def blkctlWord (s : State) (b : Block) (c v : Nat) : Nat :=
  let x := s.snap (viewKey b c v)
  let u := unitBusy s b
  ofBool x.held * 2 + ofBool (u != 0) * 4 + u * 2 ^ 16 + x.time * 2 ^ 64

/-- A write of BLKCTL: TAKE copies first, then HELD is set. -/
def writeBlkctl (s : State) (b : Block) (c v : Nat) (take held : Bool) : State :=
  let s := if take then takeSnap s b c v else s
  let k := viewKey b c v
  s.setSnap k { s.snap k with held := held }

end Sys2Proof.Machine
end

