-- ==== Sys2Proof/Machine/Pcie.lean ====
section
/-! DEFINITION. The PCIe side of the device: whether a request is taken, BAR2, the PCIe resets, IDE streams and the error
records that reach their ring (13 R310 to R317, R322, R335; 16 R388; 18 R435). -/

namespace Sys2Proof.Machine

/-! ### Requests (R313, R322, R335) -/

/-- A VF exists: VF Enable is 1 and NumVFs counts it (SR-IOV; 13 R310). -/
def vfThere (s : State) (f : Fn) : Bool := s.hub.vfEnable && decide (f.val ≤ (s.fn 0).numVfs)

/-- A function takes memory requests: in D0, with Memory Space Enable; a VF while it exists and an enabled partition names
it. -/
def fnOpen (s : State) (f : Fn) : Bool :=
  (s.fn f).powerState == 0 &&
    (if f = 0 then (s.fn 0).memSpace else vfThere s f && (s.fn 0).vfMemSpace && (partOfFn s f).isSome)

/-- How a request is turned away. -/
inductive TurnedAway where
  | discarded | unsupported
  deriving DecidableEq, Repr

/-- The violation that turns a request away before it has an effect: malformed; carried by a stream that fails or has failed its
check; at a function that takes none, `takes` says; plain where IDE is required; poisoned. -/
def tlpFault (s : State) (f : Fn) (takes ide : Bool) (tlp : Tlp) (write : Bool) : Option (Nat × TurnedAway) :=
  if tlp.kind = .malformed then some (0x01, .discarded)
  else if tlp.kind = .broken ∨ (ide = true ∧ (ideOf s f).all (fun x => !x.secure)) then some (0x08, .discarded)
  else if takes = false then some (0x03, .unsupported)
  else if bit (fget s .hstLinkStatusReqide 0) f.val = true ∧ ide = false then some (0x09, .unsupported)
  else if tlp.kind = .poisoned ∧ write = true then some (0x02, .discarded)
  else none

/-- What turns a memory request away. -/
def requestFault (s : State) (f : Fn) (ide : Bool) (tlp : Tlp) (write : Bool) : Option (Nat × TurnedAway) :=
  tlpFault s f (fnOpen s f) ide tlp write

/-- What turns a configuration request away: a VF has a configuration space while VF Enable is 1, and REQIDE holds for every
request (13 R322). -/
def configFault (s : State) (f : Fn) (ide : Bool) (tlp : Tlp) (write : Bool) : Option (Nat × TurnedAway) :=
  tlpFault s f (f == 0 || vfThere s f) ide tlp write

/-- The request is turned away and logged; a read, or a configuration write, is answered unless it is discarded: `answered`
says that it has a completion. -/
def turnAway (s : State) (f : Fn) (tlp : Tlp) (posted : Bool) (code : Nat) (how : TurnedAway) (off : Nat) : State :=
  let s := if tlp.kind = .broken then ideBroken s f else s
  let answered := how == .unsupported && !posted
  let s := linkViolation s f code [off] tlp answered
  if answered then emit s (.cpl f .ur []) else s

/-- Requests of the host arrive while the link is up and the hub runs. -/
def linkOn (s : State) : Bool := hubOn s && fbit s .hstLinkStatusUp 0

/-! ### BAR2 (R315, R317) -/

/-- The HOST regions of a partition in record order: address and length. -/
def hostRegions (s : State) (p : Part) : List (Nat × Nat) :=
  ((s.part p).img.carve.filter fun r => r.use == 4).map fun r => (r.base, r.len)

/-- The pieces of device memory that a run of packed regions covers. -/
def packedRun : List (Nat × Nat) → Nat → Nat → List (Nat × Nat)
  | [], _, _ => []
  | (a, l) :: r, off, n =>
    if n = 0 then []
    else if l ≤ off then packedRun r (off - l) n
    else
      let k := min n (l - off)
      (a + off, k) :: packedRun r 0 (n - k)

/-- Where a BAR2 access lies, when all of it lies somewhere: HBM from BASE on for PF0, the partition's HOST regions for a
VF. -/
def bar2Map (s : State) (f : Fn) (off n : Nat) : Option (List (Nat × Nat)) :=
  if f = 0 then
    let o := fget s .hstBar2BaseBase 0 + off
    if off + n ≤ 2 ^ (20 + (s.fn 0).bar2Size) ∧ o + n ≤ 2 ^ 39 then some [(hbmBase + o, n)] else none
  else
    match partOfFn s f with
    | none => none
    | some p =>
      let l := hostRegions s p
      if off + n ≤ 2 ^ (20 + (s.fn 0).vfBar2Size) ∧ off + n ≤ (l.map (·.2)).sum then some (packedRun l off n) else none

/-- A partition is fenced. -/
def partFenced (s : State) (p : Part) : Bool := fbit s .hstPartCtrlFence p.val

/-- A BAR2 access is barred: the VF's partition is fenced or being loaded, or PF0 reaches a fenced partition's memory
(12 R307, 16 R395). -/
def bar2Barred (s : State) (f : Fn) (l : List (Nat × Nat)) : Bool :=
  if f = 0 then
    l.any fun r => [r.1, r.1 + (r.2 - 1)].any fun a =>
      match partOfAddr s a with
      | some p => partFenced s p
      | none => false
  else
    match partOfFn s f with
    | some p => partFenced s p || loadFor s == some p
    | none => false

/-- The maximum payload size in force, which PF0 gives for the whole device (13 R310, R316). -/
def payloadMax (s : State) : Nat := 128 * 2 ^ (s.fn 0).maxPayload

/-- BAR2_READ, of at most 4,096 bytes (13 R310): bytes of an uncorrectable unit come in a poisoned completion. -/
def execBar2Read (fn : Fn) (ide : Bool) (tlp : Tlp) (off : BitVec 39) (len : Nat) (s : State) :
    Host.Outcome State Fault Refusal :=
  if !linkOn s then idle s
  else
    match requestFault s fn ide tlp false with
    | some (code, how) => .next (turnAway s fn tlp false code how off.toNat)
    | none =>
      if 4096 < len then .next (turnAway s fn tlp false 0x01 .discarded off.toNat)
      else if fbit s .hstDevStatusDevfault 0 then .next (turnAway s fn tlp false 0x03 .unsupported off.toNat)
      else
        match bar2Map s fn off.toNat len with
        | none => .next (turnAway s fn tlp false 0x03 .unsupported off.toNat)
        | some l =>
          if bar2Barred s fn l then .next (emit (linkViolation s fn 0x07 [off.toNat] tlp) (.cpl fn .ca []))
          else
            let r := l.foldl (fun (r : State × Bytes × Bool) u =>
              let x := memRead r.1 (.fn fn) (partOfFn s fn) u.1 u.2
              (x.1, r.2.1 ++ x.2.1, r.2.2 || x.2.2)) (s, [], false)
            .next (emit r.1 (.cpl fn (if r.2.2 then .ep else .sc) r.2.1))

/-- BAR2_WRITE, of at most the payload in force. -/
def execBar2Write (fn : Fn) (ide : Bool) (tlp : Tlp) (off : BitVec 39) (data : Bytes) (s : State) :
    Host.Outcome State Fault Refusal :=
  if !linkOn s then idle s
  else
    match requestFault s fn ide tlp true with
    | some (code, how) => .next (turnAway s fn tlp true code how off.toNat)
    | none =>
      if payloadMax s < data.length then .next (turnAway s fn tlp true 0x01 .discarded off.toNat)
      else if fbit s .hstDevStatusDevfault 0 then .next (turnAway s fn tlp true 0x03 .unsupported off.toNat)
      else if fn = 0 ∧ isOwner s (.host fn ide tlp) = false then .next (linkViolation s fn 0x06 [off.toNat] tlp)
      else
        match bar2Map s fn off.toNat data.length with
        | none => .next (turnAway s fn tlp true 0x03 .unsupported off.toNat)
        | some l =>
          if bar2Barred s fn l then .next (linkViolation s fn 0x07 [off.toNat] tlp)
          else
            .next (l.foldl (fun (r : State × Bytes) u =>
              (memWrite r.1 (.fn fn) (partOfFn s fn) u.1 (r.2.take u.2), r.2.drop u.2)) (s, data)).1

/-! ### Configuration space (R310, R313, R314) -/

/-- Vectors that wait and may go are sent (R323). -/
def sendPending (s : State) (f : Fn) : State :=
  let x := s.fn f
  x.pendingVec.foldl (fun s v => msix s f v) (s.setFn f { x with pendingVec := [] })

/-- A write of configuration space. The VF BAR2 size stands in PF0's SR-IOV capability; status bits are cleared by writing 1.
Reads not sent yet end where the function may issue no more (R321). -/
def writeConfig (s : State) (f : Fn) (field : CfgField) (v : Nat) : State :=
  let x := s.fn f
  match field with
  | .busMaster => endBarred (sendPending (s.setFn f { x with busMaster := bit v 0 }) f)
  | .serrEnable => s.setFn f { x with serrEnable := bit v 0 }
  | .msixEnable => sendPending (s.setFn f { x with msixEnable := bit v 0 }) f
  | .msixMask => sendPending (s.setFn f { x with msixMask := bit v 0 }) f
  | .powerState => if v % 4 = 0 ∨ v % 4 = 3 then endBarred (sendPending (s.setFn f { x with powerState := v % 4 }) f) else s
  | .maxPayload => if v % 8 ≤ 2 then s.setFn f { x with maxPayload := v % 8 } else s
  | .bar2Size => if f = 0 ∧ 10 ≤ v % 64 ∧ v % 64 ≤ 19 then s.setFn f { x with bar2Size := v % 64 } else s
  | .vfBar2Size => if f = 0 ∧ 10 ≤ v % 64 ∧ v % 64 ≤ 19 then s.setFn f { x with vfBar2Size := v % 64 } else s
  | .memSpace => s.setFn f { x with memSpace := bit v 0 }
  | .vfMemSpace => if f = 0 then s.setFn f { x with vfMemSpace := bit v 0 } else s
  | .maxReadRequest => if v % 8 ≤ 5 then s.setFn f { x with maxReadRequest := v % 8 } else s
  | .aspm => if v % 4 = 0 ∨ v % 4 = 2 then s.setFn f { x with aspm := v % 4 } else s
  | .numVfs => if f = 0 ∧ v % 65536 ≤ 15 ∧ s.hub.vfEnable = false then s.setFn f { x with numVfs := v % 65536 } else s
  | .aerStatus => s.setFn f { x with
      aer := x.aer &&& (2 ^ 32 - 1 - v), aerFirst := x.aerFirst.filter fun b => !bit v b }
  | .errReport => s.setFn f { x with errReport := v % 16 }
  | .errDetected => s.setFn f { x with errDetected := x.errDetected &&& (2 ^ 32 - 1 - v) }
  | .aerCorStatus => s.setFn f { x with aerCor := x.aerCor &&& (2 ^ 32 - 1 - v) }
  | .aerCorMask => s.setFn f { x with aerCorMask := v }
  | .aerMask => s.setFn f { x with aerMask := v }
  | .aerSeverity => s.setFn f { x with aerSeverity := v }
  | .vendorId | .deviceId | .classCode | .serialNumber | .totalVfs | .initialVfs | .firstVfOffset | .vfStride | .aerFirst
  | .aerHeader | .aerPrefix => s

/-- A log of AER as its registers show it: byte 0 of each DW in bits 31:24 (00 R6 leaves PCIe configuration space to PCIe). -/
def aerWords (b : Bytes) : Nat :=
  leNat ((span 0 4).flatMap fun k => (slice b (4 * k) 4).reverse)

/-- What configuration space shows (R310, R312). A VF has its own command, power, MSI-X and AER registers; the SR-IOV
capability and the serial number are PF0's alone, and read 0 at a VF. -/
def readConfig (s : State) (f : Fn) (field : CfgField) : Nat :=
  let x := s.fn f
  let pf := fun (v : Nat) => if f = 0 then v else 0
  match field with
  | .vendorId => if f = 0 then 0x1E47 else 0xFFFF
  | .deviceId => if f = 0 then 0x0640 else 0x0641
  | .classCode => 0x120000
  | .serialNumber => pf (fget s .rotDeviceIdId 0 % 2 ^ 64)
  | .memSpace => pf (ofBool x.memSpace)
  | .busMaster => ofBool x.busMaster
  | .serrEnable => ofBool x.serrEnable
  | .msixEnable => ofBool x.msixEnable
  | .msixMask => ofBool x.msixMask
  | .powerState => x.powerState
  | .maxPayload => x.maxPayload
  | .maxReadRequest => x.maxReadRequest
  | .aspm => x.aspm
  | .totalVfs | .initialVfs => pf 15
  | .numVfs => pf x.numVfs
  | .firstVfOffset | .vfStride => pf 1
  | .vfMemSpace => pf (ofBool x.vfMemSpace)
  | .bar2Size => pf x.bar2Size
  | .vfBar2Size => pf x.vfBar2Size
  | .errReport => x.errReport
  | .errDetected => x.errDetected
  | .aerStatus => x.aer
  | .aerMask => x.aerMask
  | .aerSeverity => x.aerSeverity
  | .aerCorStatus => x.aerCor
  | .aerCorMask => x.aerCorMask
  | .aerFirst => x.aerFirst.getD 0
  | .aerHeader => aerWords x.aerHeader
  | .aerPrefix => aerWords x.aerPrefix

/-- The partitions that are bound to a VF. -/
def vfParts (s : State) : List Part := partRange.filter fun p => (s.part p).enabled && (s.part p).vf != 0

/-- VF Enable is cleared: every partition bound to a VF is fenced and reset, and the VFs lose their configuration. -/
def clearVfEnable (s : State) : State :=
  let s := endBarred { s with hub := { s.hub with vfEnable := false }, fns := tdrop (fun k => k != 0) s.fns }
  (vfParts s).foldl (fun s p => partReset s p fVFDISABLE) s

/-- VF_ENABLE_CLEAR. -/
def execVfEnableClear (s : State) : Host.Outcome State Fault Refusal :=
  if linkOn s && s.hub.vfEnable then .next (clearVfEnable s) else idle s

/-- VF_ENABLE_SET. -/
def execVfEnableSet (s : State) : Host.Outcome State Fault Refusal :=
  if linkOn s then .next { s with hub := { s.hub with vfEnable := true } } else idle s

/-- FLR_VF: the VF's partition is fenced and reset, and the VF's configuration returns to reset. -/
def execFlrVf (f : Fn) (s : State) : Host.Outcome State Fault Refusal :=
  if linkOn s && f != 0 && s.hub.vfEnable then
    let s := endBarred (s.setFn f {})
    .next (match partOfFn s f with
      | some p => partReset s p fFLR
      | none => s)
  else idle s

/-- FLR_PF0. -/
def execFlrPf0 (s : State) : Host.Outcome State Fault Refusal :=
  if linkOn s then .next (lapseOf (clearVfEnable (s.setFn 0 {})) 1) else idle s

/-- LINK_DOWN, or a hot reset: configuration space is reset, outstanding DMA ends, the host's ownership lapses. -/
def execLinkDown (s : State) : Host.Outcome State Fault Refusal :=
  if linkOn s then
    let s := fset (fset (fset s .hstLinkStatusUp 0 0) .hstLinkStatusRate 0 0) .hstLinkStatusWidth 0 0
    let s := fbump s .hstLinkStatusDowns 0 1
    let s := { s with fns := [], hub := { s.hub with vfEnable := false, ide := [] } }
    let out := s.net.dma
    let s := { s with net := { s.net with dma := [] } }
    let s := (out.filter fun d => !d.quarantine).foldl dmaEnds s
    .next (lapseOf s 1)
  else idle s

/-- LINK_UP: the partner works in FLIT mode, or the link stays in Detect with NOFLIT. -/
def execLinkUp (flit : Bool) (rate width : Fin 4) (s : State) : Host.Outcome State Fault Refusal :=
  if !hubOn s || rate == 0 || width == 0 then idle s
  else if flit then
    .next (fset (fset (fset (fset s .hstLinkStatusUp 0 1) .hstLinkStatusRate 0 rate.val) .hstLinkStatusWidth 0 width.val)
      .hstLinkStatusNoflit 0 0)
  else if fbit s .hstLinkStatusUp 0 then idle s
  else .next (fset s .hstLinkStatusNoflit 0 1)

/-! ### Error records reach their ring (16 R386, R388; 18 R435) -/

/-- The 64 bytes of a record. -/
def ErrRec.bytes (r : ErrRec) (seq : Nat) : Bytes :=
  leBytes 8 seq ++ leBytes 8 r.time ++ leBytes 8 r.step ++ leBytes 1 r.cls ++
    leBytes 1 (match r.part with | some p => r.sev + 8 + 16 * p.val | none => r.sev) ++
    leBytes 2 (r.unitIdx + r.unitKind * 2 ^ 12) ++ leBytes 4 r.op ++ leBytes 2 r.temp ++ leBytes 2 r.volt ++
    leBytes 1 r.code ++ leBytes 3 0 ++
    (match r.synd with
      | .bytes b => slice b 0 24
      | .names rule what => slice (Config.syndrome rule what) 0 24)

/-- The stack of an HBM address is READY. -/
def stackReadyAt (s : State) (a : Nat) : Bool :=
  match placeOf a with
  | .hbm k => hbmReady s k
  | _ => false

/-- ERR_RECORD_WRITE: the oldest queued record takes its SEQ. That of stage 5 reaches only the loft buffer (17 R413). -/
def execErrRecordWrite (s : State) : Host.Outcome State Fault Refusal :=
  match s.errQueue with
  | [] => idle s
  | r :: rest =>
    if !hubOn s then idle s
    else
      let seq := fget s .errSeqNext 0
      let b := ErrRec.bytes r seq
      let i := seq % 2 ^ fget s .errRingLog2n 0
      let a := fget s .errRingBase 0 + 64 * i
      let s := fset { s with errQueue := rest } .errSeqNext 0 (seq + 1)
      let s := fset s .errLastRecord (seq % 64) (leNat b)
      let loftOnly := r.cls == 12 && r.code == 5
      let s := if fbit s .errRingEn 0 && stackReadyAt s a && !loftOnly then memWrite s .err none a b else fbump s .errLostLoftonly 0 1
      let s := pfEvent s 0 i
      let s := match r.part with
        | some p => if h : 0 < (s.part p).vf ∧ (s.part p).vf < 16 then msix s ⟨(s.part p).vf, h.2⟩ 0 else s
        | none => s
      .next (raise s (.errClass r.cls r.part))

end Sys2Proof.Machine
end

