-- ==== Sys2Proof/Machine/Bus.lean ====
section
/-! DEFINITION. The register map at work: which registers an access covers, what a read shows, and what a write does to
each register (00 R7 to R12, 13 R316, 18 R426 to R435). -/

namespace Sys2Proof.Machine

/-! ### Decoding an offset (R426) -/

/-- The block at an offset of BAR0. -/
def blockOf (off : Nat) : Option Block :=
  if off < 0x10_0000 then some .hst
  else if off < 0x20_0000 then some .rot
  else if off < 0x30_0000 then some .pwr
  else if off < 0x40_0000 then some .svc
  else if off < 0x80_0000 then some .skl
  else if off < 0xA0_0000 then some .xce
  else if off < 0xC0_0000 then some .upd
  else if off < 0x100_0000 then some .hbm
  else if off < 0x200_0000 then some .grn
  else if off < 0x300_0000 then some .core
  else if off < 0x310_0000 then some .err
  else none

/-- Where a block begins. -/
def blockBase : Block → Nat
  | .hst => 0 | .rot => 0x10_0000 | .pwr => 0x20_0000 | .svc => 0x30_0000 | .skl => 0x40_0000 | .xce => 0x80_0000
  | .upd => 0xA0_0000 | .hbm => 0xC0_0000 | .grn => 0x100_0000 | .core => 0x200_0000 | .err => 0x300_0000

/-- The core of an offset in the CORE block, 0 in any other block. -/
def coreOfOff (b : Block) (off : Nat) : Nat := if b = .core then (off - blockBase b) / 2 ^ 16 % 256 else 0

/-- The offset within BLKCTL, when it lies there (R430). -/
def blkctlAt (b : Block) (off : Nat) : Option Nat :=
  let o := if b = .core then (off - blockBase b) % 2 ^ 16 + 0xF_0000 else off - blockBase b
  if 0xF_FF00 ≤ o ∧ o < 0xF_FF10 then some (o - 0xF_FF00) else none

/-- The index that `rem` bytes past a field's base name, with the bytes left over. -/
def splitIndex : List (Nat × Nat) → Nat → Nat → Option (Nat × Nat)
  | [], i, rem => some (i, rem)
  | (n, stride) :: r, i, rem => if rem / stride < n then splitIndex r (i * n + rem / stride) (rem % stride) else none

/-- The index of the register of a field that holds a byte of BAR0, with the byte's place in it. -/
def Field.locate (f : Field) (off : Nat) : Option (Nat × Nat) :=
  if off < f.spec.base then none
  else
    match splitIndex f.spec.dims 0 (off - f.spec.base) with
    | some (i, r) => if r < f.spec.bytes then some (i, r) else none
    | none => none

/-- A field reached by an access: its index and the offset of its register. -/
structure Reached where
  f : Field
  i : Nat
  start : Nat
  deriving DecidableEq, Repr

/-- The fields whose registers hold some byte of an access, register by register in rising order. -/
def reached (off n : Nat) : List Reached :=
  (span off n).foldl (fun l b =>
    l ++ (Field.all.filterMap fun f => match Field.locate f b with
      | some (i, r) => if l.contains ⟨f, i, b - r⟩ then none else some ⟨f, i, b - r⟩
      | none => none)) []

/-! ### Reading -/

/-- The part of a field's value that lies in an access. -/
def placeBits (start lo w v off n : Nat) : Nat :=
  ((v % 2 ^ w) <<< (8 * start + lo) >>> (8 * off)) % 2 ^ (8 * n)

/-- A record of ERR_LAST as a tenant sees it: zero unless it names the tenant's partition (R435). -/
def tenantRecord (p : Option Part) (v : Nat) : Nat :=
  if bit v 203 && p.map (·.val) == some (bits v 204 4) then v else 0

/-- What a field shows to function `v` as a view. -/
def fieldFor (s : State) (v : Nat) (f : Field) (i : Nat) : Nat :=
  if f.spec.access = .wo then 0
  else
    let x := Field.shown s v f i
    if f = .errLastRecord ∧ v ≠ 0 then tenantRecord (partOfFn s ⟨v % 16, Nat.mod_lt _ (by decide)⟩) x else x

/-- The MSI-X table and the PBA of a function, as 1,024 bytes and as 8 (13 R323). -/
def msixRead (s : State) (f : Fn) (o n : Nat) : Nat :=
  if o < 0x1_0400 then bits ((s.fn f).entry ((o - 0x1_0000) / 16)) (8 * (o % 16)) (8 * n)
  else if 0x1_0800 ≤ o ∧ o < 0x1_0808 then
    bits (maskWhere 64 fun v => (s.fn f).pendingVec.contains v) (8 * (o - 0x1_0800)) (8 * n)
  else 0

/-- An offset of BAR0 in the MSI-X table or the PBA, with what lies between and behind them. -/
def inMsix (off : Nat) : Bool := decide (0x1_0000 ≤ off ∧ off < 0x1_1000)

/-- What a read of `n` bytes shows through a view. -/
def readBus (s : State) (v off n : Nat) : Nat :=
  match blockOf off with
  | none => 0
  | some b =>
    match blkctlAt b off with
    | some o => bits (blkctlWord s b (coreOfOff b off) v) (8 * o) (8 * n)
    | none =>
      if inMsix off then msixRead s ⟨v % 16, Nat.mod_lt _ (by decide)⟩ off n
      else
        (reached off n).foldl (fun a r =>
          a + placeBits r.start r.f.spec.lo r.f.spec.width (fieldFor s v r.f r.i) off n) 0

/-! ### Writing -/

/-- A field in a write: the value the register takes, whether the write carries a bit of it, and its highest bit. -/
structure Carried where
  f : Field
  i : Nat
  val : Nat
  here : Bool
  top : Bool
  deriving DecidableEq, Repr

/-- What a write of `n` bytes at `off` makes of a field. A WO or RWP field reads as 0 where the write does not carry it. -/
def carry (s : State) (off n data : Nat) (r : Reached) : Carried :=
  let sp := r.f.spec
  let old := if sp.access = .wo ∨ sp.access = .rwp then 0 else fget s r.f r.i
  let a := 8 * r.start + sp.lo
  let lo := max a (8 * off)
  let hi := min (a + sp.width) (8 * off + 8 * n)
  if lo < hi then
    { f := r.f, i := r.i, val := putBits old (lo - a) (hi - lo) (bits data (lo - 8 * off) (hi - lo))
      here := true, top := decide (hi = a + sp.width) }
  else { f := r.f, i := r.i, val := old, here := false, top := false }

/-- The value of a field in the write. -/
def valueIn (l : List Carried) (f : Field) : Nat := ((l.find? fun h => h.f == f).map (·.val)).getD 0
/-- The write carries a bit of the field. -/
def hereIn (l : List Carried) (f : Field) : Bool := l.any fun h => h.f == f && h.here

/-- The write's RW fields are stored. -/
def storeRw (s : State) (l : List Carried) : State :=
  l.foldl (fun s h => if h.here && h.f.spec.access == .rw then fset s h.f h.i h.val else s) s

/-- The partition that a register belongs to (13 R318, 16 R395). -/
def regPart (s : State) (f : Field) (i : Nat) : Option Part :=
  let p16 : Part := ⟨i / Field.inner f % 16, Nat.mod_lt _ (by decide)⟩
  match f with
  | .updEngineState | .updEnginePart | .updEngineMismatch => none
  | .xceGroupSizem1 | .xceGroupRank | .xceGroupSucc | .xceGroupPred | .xceGroupServe | .xceGroupMcast | .xceGroupMcen
  | .xceGroupEn | .xceMembersAddr | .xceListBase | .xceListCount | .xceCstatInst | .xceCstatState | .xceCstatBlocks
  | .xceEscTallyEscMade | .xceEscTallyEscRecv => partOfGroup s (i / Field.inner f)
  | .svcSlotAddr | .svcSlotGo | .svcSlotState | .svcSlotCode | .svcSlotTag | .svcSlotDetail | .svcVpulsePulse
  | .hstHwinHaddr | .hstHwinLen | .hstHwinEn => partOfFn s p16
  | .svcPulseCount | .svcPulseStep | .svcLoopCursor | .svcLoopIngest | .svcLoopLoop | .svcLoopPlogcnt
  | .hstPartCtrlFence | .hstPartCtrlFenced | .hstPartCtrlReset | .hstPartCtrlBusy | .hstPartCtrlCause => some p16
  | .hstWorkNext | .hstWorkLimit | .hstWorkBase | .hstWorkAuto | .hstWorkArm =>
      partRange.find? fun p => (s.part p).enabled && bit (s.part p).img.wcmask i
  | f =>
    match f.spec.block with
    | .core => partOfCore s ⟨i / Field.inner f % 256, Nat.mod_lt _ (by decide)⟩
    | .upd => some p16
    | _ => none

/-- A write that a register ignores is logged (16 R385). -/
def ignored (s : State) (h : Carried) (off : Nat) : State := logRegister s (regPart s h.f h.i) (unitOf s h.f h.i) off

/-- The half of a spanning field that waits for the other (13 R316). -/
def setSealStage (s : State) (p v : Nat) : State :=
  { s with hub := { s.hub with sealStage := tset (fun _ => 0) s.hub.sealStage p v } }

/-- A field of 48 bits that starts at bit 32 of its register: the low half waits, the high half brings the whole in. -/
def spanning (l : List Carried) (f : Field) (staged : Nat) : Nat × Option Nat :=
  match l.find? fun h => h.f == f && h.here with
  | none => (staged, none)
  | some h => if h.top then (staged, some (staged % 2 ^ 32 + bits h.val 32 16 * 2 ^ 32)) else (h.val % 2 ^ 32, none)

/-- A route of a function may name its source (R434). -/
def routeOk (s : State) (f : Fn) (kind arg : Nat) : Bool :=
  let flagOk := decide (0x800 ≤ arg ∧ arg < 0xC00)
  let mine := (partOfFn s f).map (·.val)
  match kind with
  | 0 => true
  | 1 => flagOk && (f == 0 || flagAssigned s (partOfFn s f) (.dev (arg - 0x800)))
  | 2 => if f = 0 then decide (arg < 16) else mine == some arg
  | 3 => if f = 0 then decide (arg < 16) else mine == some arg
  | 4 => decide (1 ≤ arg ∧ arg ≤ 16)
  | 5 => f == 0 && decide (arg < 2)
  | 6 => f == 0 && decide (arg < 6)
  | 7 => f == 0 && decide (arg < 4)
  | _ => false

/-- A ring of error records may stand there: in HBM of quarters that no enabled partition holds or whose partition has
VF 0 (16 R388, 18 R435). -/
def ringOk (s : State) (base log2n : Nat) : Bool :=
  let last := base + 64 * 2 ^ log2n - 1
  let free := fun (a : Nat) => match partOfQuarter s (halfStackOf a) with
    | some p => (s.part p).vf == 0
    | none => true
  base % 64 == 0 && decide (6 ≤ log2n ∧ log2n ≤ 24) && decide (hbmBase ≤ base ∧ last < windowBase) && free base && free last

/-- The state changes that a bank of routes takes (11 R264). -/
def bankStep (s : State) (bank : Nat) (new : Nat) : Bool :=
  let old := if bank = 0 then fget s .sklEpochBank0 0 else fget s .sklEpochBank1 0
  old == new || (old == 0 && new == 1) || (old == 1 && new == 2) ||
    (old == 2 && new == 0 && fget s .sklEpochEpoch 0 != bank && !fbit s .sklEpochDraining 0)

/-- A write of SKL_EPOCH: a change of a bank that R264 does not allow is ignored and logged, the rest is stored. -/
def writeEpoch (s : State) (l : List Carried) (off : Nat) : State :=
  let s := if hereIn l .sklEpochDrainLimit then fset s .sklEpochDrainLimit 0 (valueIn l .sklEpochDrainLimit) else s
  let put := fun (s : State) (bank : Nat) (f : Field) =>
    if !hereIn l f then s
    else if bankStep s bank (valueIn l f) then fset s f 0 (valueIn l f) else logRegister s none .router off
  put (put s 0 .sklEpochBank0) 1 .sklEpochBank1

/-- A write of SKL_PORT_CTRL (11 R249, R276). -/
def writePortCtrl (s : State) (n : Port) (l : List Carried) : State :=
  let was := fbit s .sklPortCtrlEn n.val
  let s := storeRw s l
  let en := fbit s .sklPortCtrlEn n.val
  if was && !en then portDown s n 0
  else if en && hereIn l .sklPortCtrlEn then
    (if portState s n = 5 then lightUp (setPortState (s.setPort n { s.port n with fails := 0 }) n 0) n else lightUp s n)
  else s

/-- A write of UPD_SEAL: FATAL waits for a release unless the seal is OPEN; SBUF comes in two pieces (10 R217). -/
def writeSeal (s : State) (p : Part) (l : List Carried) : State :=
  let s := if !hereIn l .updSealFatal then s
    else if sealState s p = 0 then fset s .updSealFatal p.val (valueIn l .updSealFatal)
    else s.setPart p { s.part p with fatalNext := some (valueIn l .updSealFatal) }
  let b := spanning l .updSealSbuf (tget (fun _ => 0) s.hub.sealStage p.val)
  let s := setSealStage s p.val b.1
  match b.2 with
  | some v => fset s .updSealSbuf p.val v
  | none => s

/-- A write of ROT_FLASH_CTRL: DADDR comes in two pieces, START acts (15 R383). -/
def writeFlashCtrl (s : State) (l : List Carried) : State :=
  let s := storeRw s (l.filter fun h => h.f != .rotFlashCtrlDaddr)
  let b := spanning l .rotFlashCtrlDaddr s.hub.flashStage
  let s := { s with hub := { s.hub with flashStage := b.1 } }
  let s := match b.2 with
    | some v => fset s .rotFlashCtrlDaddr 0 v
    | none => s
  if valueIn l .rotFlashCtrlStart = 1 then startFlash s else s

/-- A write of HST_PART_CTRL by 1 the owner, 2 the tenant: RESET, else FENCE (16 R395, R397, R398). -/
def writePartCtrl (s : State) (p : Part) (who : Nat) (l : List Carried) (off : Nat) : State :=
  if valueIn l .hstPartCtrlReset = 1 then partReset s p fOWNER
  else if !hereIn l .hstPartCtrlFence then s
  else if valueIn l .hstPartCtrlFence = 1 then startFence s p fOWNER
  else unfence s p who off

/-- The word of HST_OWN_CTRL that a write carries. -/
def ownWord (l : List Carried) : Nat :=
  valueIn l .hstOwnCtrlClaim + 2 * valueIn l .hstOwnCtrlRelease + 4 * valueIn l .hstOwnCtrlHandover +
    16 * valueIn l .hstOwnCtrlSucc

/-- A write of HST_OWN_CTRL through PF0 or by a management master (13 R325 to R327). -/
def writeOwnCtrl (s : State) (w : Who) (l : List Carried) : State :=
  match w with
  | .host f _ _ => if f ≠ 0 then s else (ownCtrl s w (ownWord l)).1
  | _ => (ownCtrl s w (ownWord l)).1

/-- A write of HST_BAR2_BASE (13 R315). -/
def writeBar2Base (s : State) (h : Carried) (off : Nat) : State :=
  let size := 2 ^ (20 + (s.fn 0).bar2Size)
  if h.here = false then s
  else if h.val % size ≠ 0 ∨ 2 ^ 39 < h.val + size then ignored s h off
  else fset s .hstBar2BaseBase 0 h.val

/-- A write of HST_OWN_POLICY: its fields, then LOCK, while LOCK is 0 (00 R9, 18 R429). -/
def writePolicy (s : State) (h : Carried) (l : List Carried) (off : Nat) : State :=
  if fbit s .hstOwnPolicyLock 0 then ignored s h off
  else l.foldl (fun s e => if e.here then fset s e.f e.i e.val else s) s

/-- A write of ERR_RING. -/
def writeErrRing (s : State) (h : Carried) (l : List Carried) (off : Nat) : State :=
  if ringOk s (valueIn l .errRingBase) (valueIn l .errRingLog2n) then storeRw s l else ignored s h off

/-- What a write does to one register (00 R10). `who` is 1 for the owner and 2 for a tenant. -/
def writeReg (w : Who) (who off n : Nat) (s : State) (l : List Carried) : State :=
  match l with
  | [] => s
  | h :: _ =>
    let i := h.i
    let c : Core := ⟨i / Field.inner h.f % 256, Nat.mod_lt _ (by decide)⟩
    let p : Part := ⟨i % 16, Nat.mod_lt _ (by decide)⟩
    let q : MemDie := ⟨i / Field.inner h.f % 16, Nat.mod_lt _ (by decide)⟩
    match h.f with
    | .coreSeqCtrlRun =>
        let run := valueIn l .coreSeqCtrlRun == 1
        writeSeqCtrl (if run then wake s else s) c run (valueIn l .coreSeqCtrlStart)
    | .coreStreamBaseBase | .coreBalCtrlDynamic => if running s c then ignored s h off else storeRw s l
    | .coreParamReadyReady => writeReady s c (valueIn l .coreParamReadyReady == 1)
    | .corePshadowValue => writeShadow s c (BitVec.ofNat 8 (i % 256)) h.val off
    | .coreEpiMsePtrAddr => if h.here && h.val % 16 != 0 then ignored s h off else storeRw s l
    | .coreEpiShadowPtrAddr => if h.here && h.val % 32 != 0 then ignored s h off else storeRw s l
    | .coreResetReset => if h.val = 1 then startCoreReset s c who off else s
    | .hstWorkNext =>
        let s := storeRw s (l.map fun e => if e.f = .hstWorkLimit then { e with val := min e.val 0xFFFF_FFFE } else e)
        if valueIn l .hstWorkArm = 1 then queueArm s ⟨i % 64, Nat.mod_lt _ (by decide)⟩ else s
    | .grnSchedOwner => writeSched s q (i % 64) h.val off
    | .grnCtrlClear => writeGrnCtrl s q (valueIn l .grnCtrlClear + 4 * valueIn l .grnCtrlSelftest)
    | .hbmInjectOffset =>
        let s := storeRw s l
        let k : Stack := ⟨i % 8, Nat.mod_lt _ (by decide)⟩
        let s := if fget s .hbmInjectNsym i = 0 then fset s .hbmInjectArm i 0 else s
        if valueIn l .hbmInjectArm = 1 then armInject s k off else s
    | .xceListBase => if fget s .xceCstatState i = 1 then ignored s h off else storeRw s l
    | .updStepStep => if (coresOf s p).any (running s) then ignored s h off else storeRw s l
    | .updSealState => writeSeal s p l
    | .sklDevidDevid =>
        if fbit s .sklDevidValid 0 && portRange.any (portUp s) then ignored s h off else electGm (storeRw s l)
    | .sklEpochEpoch => writeEpoch s l off
    | .sklMcastPorts =>
        let live := fget s (if i / 4096 = 0 then .sklEpochBank0 else .sklEpochBank1) 0 == 2
        if live then ignored s h off else storeRw s l
    | .sklPortCtrlEn => writePortCtrl s ⟨i % 6, Nat.mod_lt _ (by decide)⟩ l
    | .sklInjCap =>
        let s := storeRw s l
        fset s .sklInjRate i (min (fget s .sklInjRate i) (fget s .sklInjCap i))
    | .sklTimeCtrlGmpri => electGm (storeRw s l)
    | .rotSimgCtrlStart =>
        let s := storeRw s l
        if h.val = 1 then beginLoad s (fbit s .rotSimgCtrlCheckonly 0) else s
    | .rotFuseCtrlAddr =>
        let s := storeRw s l
        if valueIn l .rotFuseCtrlStart = 1 then startFuse s else s
    | .rotFlashCtrlFoff => writeFlashCtrl s l
    | .rotPmapQmask => if l.any (·.here) then ignored s h off else s
    | .rotPmapLockLock => s
    | .hstOwnPolicyOrder => writePolicy s h l off
    | .hstOwnCtrlClaim => writeOwnCtrl s w l
    | .hstBar2BaseBase => writeBar2Base s h off
    | .hstHwinHaddr => if 4194304 < valueIn l .hstHwinLen then ignored s h off else storeRw s l
    | .hstIrqRouteKind =>
        if i % 64 < 4 then s
        else if routeOk s ⟨i / 64 % 16, Nat.mod_lt _ (by decide)⟩ (valueIn l .hstIrqRouteKind) (valueIn l .hstIrqRouteArg) then
          storeRw s l
        else ignored s h off
    | .hstPartCtrlFence => writePartCtrl s p who l off
    | .hstResetWarm =>
        let s := (span 0 6).foldl (fun s k => if bit (valueIn l .hstResetPort) k then resetPort s ⟨k % 6, Nat.mod_lt _ (by decide)⟩ else s) s
        if h.val = 1 then warmReset s 2 else s
    | .pwrModeCtrlSel => writeMode s h.val off
    | .pwrStateCtrlTarget => writeTarget s h.val off
    | .svcSlotAddr =>
        let s := storeRw s l
        if n = 8 ∧ valueIn l .svcSlotGo = 1 then
          submitCall s ⟨i / 4 % 16, Nat.mod_lt _ (by decide)⟩ ⟨i % 4, Nat.mod_lt _ (by decide)⟩ (valueIn l .svcSlotAddr) off
        else s
    | .errRingBase => writeErrRing s h l off
    | _ => storeRw s l

/-- The fields of a write, register by register. -/
def groupCarried : List (Nat × Carried) → List (List Carried)
  | [] => []
  | (a, x) :: r =>
    match groupCarried r, r with
    | g :: gs, (b, _) :: _ => if a = b then (x :: g) :: gs else [x] :: g :: gs
    | gs, _ => [x] :: gs

/-- A unit of registers that BUSY guards is busy (00 R8, 18 R428). -/
def busyUnit (s : State) (b : Block) (off : Nat) : Option UnitRef :=
  match b with
  | .grn =>
    let q := (off - blockBase b) / 2 ^ 20 % 16
    if fbit s .grnCtrlBusy q then some (.grn ⟨q % 16, Nat.mod_lt _ (by decide)⟩) else none
  | .hbm =>
    let k : Stack := ⟨(off - blockBase b) / 2 ^ 17 % 8, Nat.mod_lt _ (by decide)⟩
    if decide (off < blockBase b + 2 ^ 20) && (s.stack k).arming then some (.hbm k) else none
  | .rot => if rotBusy s then some .rot else none
  | _ => none

/-- A write into the MSI-X table of a function. -/
def msixWrite (s : State) (f : Fn) (o n data : Nat) : State :=
  if o < 0x1_0400 then
    let v := (o - 0x1_0000) / 16
    let x := s.fn f
    let e := putBits (x.entry v) (8 * (o % 16)) (8 * n) data % 2 ^ 97
    sendPending (s.setFn f { x with vectors := tset vecReset x.vectors v e }) f
  else s

/-- A write of `n` bytes, 4 or 8, naturally aligned. Entries of a LIVE route bank make one record. -/
def writeBus (s : State) (w : Who) (v who off n data : Nat) : State :=
  match blockOf off with
  | none => s
  | some b =>
    match blkctlAt b off with
    | some o =>
      if o = 0 then writeBlkctl s b (coreOfOff b off) v (bit data 0) (bit data 1) else s
    | none =>
      match busyUnit s b off with
      | some u => logRegister s none u off
      | none =>
        if inMsix off then msixWrite s ⟨v % 16, Nat.mod_lt _ (by decide)⟩ off n data
        else
          let l := (reached off n).map fun r => (r.start, carry s off n data r)
          match l with
          | (_, h) :: _ =>
            if h.f = .sklRouteOut then
              (if fget s (if h.i / 131072 = 0 then .sklEpochBank0 else .sklEpochBank1) 0 = 2 then ignored s h off
               else storeRw s (l.map (·.2)))
            else (groupCarried l).foldl (writeReg w who off n) s
          | [] => s

/-! ### Who may (R318, R328, R372, R395) -/

/-- What becomes of a register access before it reaches the register. -/
inductive Gate where
  /-- it reaches the register -/
  | pass
  /-- it reads zero or is discarded, without a record -/
  | empty
  /-- as `empty`, and counted in EARLYW -/
  | early
  /-- as `empty`, with a violation -/
  | violation' (code : Nat)
  /-- a fenced partition -/
  | fenced
  deriving DecidableEq, Repr

/-- Blocks that answer (15 R371, 16 R389, 17 R420). -/
def blockAnswers (s : State) (b : Block) : Bool :=
  if fbit s .hstDevStatusDevfault 0 then b == .hst || b == .rot || b == .err
  else if fget s .rotBootStatusStage 0 = 3 then b == .hst || b == .rot
  else if fget s .pwrStatusPstate 0 = 2 then b == .hst || b == .rot || b == .pwr || b == .err
  else true

/-- HST_OWN_CTRL. -/
def isOwnCtrl (off : Nat) : Bool := off / 4 == 0x118 / 4

/-- A write that a master may make before STAGE is RUNNING: HST_OWN_CTRL and ROT_FLASH_CTRL (R372), and in BOOTFAIL HST_RESET
(R371). -/
def earlyOk (s : State) (off : Nat) : Bool :=
  isOwnCtrl off || decide (0x10_0200 ≤ off ∧ off < 0x10_0210) ||
    (fget s .rotBootStatusStage 0 == 3 && off / 4 == 0x400 / 4)

/-- The partition of the registers at an offset. -/
def partAt (s : State) (off : Nat) : Option Part :=
  match reached off 1 with
  | r :: _ => regPart s r.f r.i
  | [] =>
    if 0x200_0000 ≤ off ∧ off < 0x300_0000 then partOfCore s ⟨(off - 0x200_0000) / 2 ^ 16 % 256, Nat.mod_lt _ (by decide)⟩
    else none

/-- The tenant of `p` through VF `f` reaches the offset (R318, 16 R397, 18 R430). -/
def tenantMay (s : State) (f : Fn) (p : Part) (b : Block) (off n : Nat) (write : Option Nat) : Bool :=
  if b ≠ .core ∧ (blkctlAt b off).isSome then b == .hst || b == .svc || b == .xce || b == .upd || b == .err
  else
    let mine := partAt s off == some p
    match b with
    | .hst =>
      if inMsix off then decide (off < 0x1_0400) || decide (0x1_0800 ≤ off ∧ off < 0x1_0808)
      else if 0x4_0000 ≤ off ∧ off < 0x4_1000 then (off - 0x4_0000) / 0x100 == f.val
      else if 0x500 ≤ off ∧ off < 0x580 then
        mine && (match write with
          | some d => off % 8 == 0 && bits d 0 1 == 0 && bits d 2 1 == 0
          | none => true)
      else if 0x8_0000 ≤ off ∧ off < 0x8_0400 then mine
      else false
    | .svc => (off - blockBase .svc) / 0x1000 == f.val
    | .xce => mine && decide (off - blockBase .xce < 0x400) && decide ((off - blockBase .xce) % 0x40 + n ≤ 0x28)
    | .upd => mine
    | .core => mine
    | .err => write.isNone && decide (0x300_1000 ≤ off ∧ off < 0x300_2000)
    | _ => false

/-- What still answers while `p` is fenced (16 R395). -/
def fenceSpares (s : State) (p : Part) (b : Block) (off : Nat) (write : Bool) : Bool :=
  let rel := off - blockBase b
  (blkctlAt b off).isSome ||
    match b with
    | .hst => inMsix off || rel / 8 == (0x500 + 8 * p.val) / 8
    | .svc => (s.part p).vf != 0 && rel / 0x1000 == (s.part p).vf
    | .upd => !write && (decide (0x40 * p.val + 8 ≤ rel ∧ rel < 0x40 * p.val + 0x18) || rel / 8 == (0x40 * p.val + 0x30) / 8)
    | .err => !write
    | _ => false

/-- The view of a requester (R430). -/
def viewOf : Who → Nat
  | .host f _ _ => f.val
  | _ => 0

/-- The answer to a register access by the host, the baseboard controller or the fabric manager. `write` carries the data. -/
def gateOf (s : State) (w : Who) (off n : Nat) (write : Option Nat) : Gate :=
  if write.isSome && fget s .rotBootStatusStage 0 != 2 && !earlyOk s off then .early
  else if write.isSome && viewOf w == 0 && !isOwner s w && !isOwnCtrl off then .violation' 0x06
  else
    match blockOf off with
    | none => .empty
    | some b =>
      if !blockAnswers s b then .empty
      else
        let fencedFor := fun (p : Option Part) => match p with
          | some p => partFenced s p && !fenceSpares s p b off write.isSome
          | none => false
        match w with
        | .host f _ _ =>
          if f ≠ 0 then
            match partOfFn s f with
            | none => .empty
            | some p =>
              if !tenantMay s f p b off n write then .violation' 0x05
              else if fencedFor (some p) || (loadFor s == some p && !fenceSpares s p b off write.isSome) then .fenced
              else .pass
          else if fencedFor (partAt s off) then .fenced
          else .pass
        | _ => .pass

/-- A write that the gate lets through, or what it makes instead. -/
def gatedWrite (s : State) (w : Who) (off n data : Nat) : State × Gate :=
  match gateOf s w off n (some data) with
  | .pass => (writeBus s w (viewOf w) (match w with | .host f _ _ => if f = 0 then 1 else 2 | _ => 1) off n data, .pass)
  | .early => (fbump s .rotBootStatusEarlyw 0 1, .early)
  | .empty => (s, .empty)
  | .violation' c => (violation s c (requesterOf s w) (off :: headOf w), .violation' c)
  | .fenced => (violation s 0x07 (requesterOf s w) (off :: headOf w), .fenced)

/-- A BAR0 access is of one or two DW, naturally aligned (R316). -/
def bar0Fits (off n : Nat) : Bool := (n == 4 || n == 8) && off % n == 0

/-- A write through BAR0. -/
def bar0Write (s : State) (f : Fn) (ide : Bool) (tlp : Tlp) (off n data : Nat) : State :=
  if !linkOn s then s
  else
    match requestFault s f ide tlp true with
    | some (code, how) => turnAway s f tlp true code how off
    | none => if !bar0Fits off n then linkViolation s f 0x04 [off] tlp else (gatedWrite s (.host f ide tlp) off n data).1

/-- A read through BAR0. -/
def bar0Read (s : State) (f : Fn) (ide : Bool) (tlp : Tlp) (off n : Nat) : State :=
  if !linkOn s then s
  else
    match requestFault s f ide tlp false with
    | some (code, how) => turnAway s f tlp false code how off
    | none =>
      if !bar0Fits off n then turnAway s f tlp false 0x04 .unsupported off
      else
        match gateOf s (.host f ide tlp) off n none with
        | .pass => emit s (.cpl f .sc (leBytes n (readBus s f.val off n)))
        | .violation' c => emit (linkViolation s f c [off] tlp) (.cpl f .sc (leBytes n 0))
        | .fenced => emit (linkViolation s f 0x07 [off] tlp) (.cpl f .ca [])
        | _ => emit s (.cpl f .sc (leBytes n 0))

/-! ### REG_READ and REG_WRITE (R332, R333) -/

/-- The bytes of a size code. -/
def sizeOf' : Nat → Option Nat
  | 0 => some 4 | 1 => some 8 | 2 => some 16 | _ => none

/-- A request that is not well formed, or whose operation is unknown. -/
def badRequest (s : State) (w : Who) (op : Nat) : State := violation s 0x0D (requesterOf s w) (op :: headOf w)

/-- The pieces of an access of 4, 8 or 16 bytes. -/
def piecesOf (off n : Nat) : List (Nat × Nat) := if n = 16 then [(off, 8), (off + 8, 8)] else [(off, n)]

/-- A register is written by a master, piece by piece; the code of R332. A master that is not the owner writes only
HST_OWN_CTRL, whatever stands at the offset; what it asks of the arbiter there has the arbiter's code. DEDUCED, log 157. -/
def masterWrite (s : State) (w : Who) (off size data : Nat) : State × Nat :=
  match sizeOf' size with
  | none => (badRequest s w 2, kMALFORMED)
  | some n =>
    if off % n ≠ 0 then (badRequest s w 2, kMALFORMED)
    else (piecesOf off n).foldl (fun r u =>
      if r.2 ≠ kSUCCESS then r
      else
        let d := bits data (8 * (u.1 - off)) (8 * u.2)
        if isOwnCtrl u.1 && gateOf r.1 w u.1 u.2 (some d) == .pass then ownCtrl r.1 w d
        else
        let x := gatedWrite r.1 w u.1 u.2 d
        (x.1, if !isOwner s w && !isOwnCtrl u.1 then kNOTOWNER
          else match x.2 with | .violation' _ => kNOTOWNER | _ => kSUCCESS)) (s, kSUCCESS)

/-- A register is read by a master. -/
def masterRead (s : State) (w : Who) (off size : Nat) : State × Nat × Bytes :=
  match sizeOf' size with
  | none => (badRequest s w 1, kMALFORMED, [])
  | some n =>
    if off % n ≠ 0 then (badRequest s w 1, kMALFORMED, [])
    else
      let v := (piecesOf off n).foldl (fun b u => b ++ leBytes u.2 (match gateOf s w u.1 u.2 none with
        | .pass => readBus s 0 u.1 u.2
        | _ => 0)) []
      (s, kSUCCESS, v)

/-- A register write of 4, 8 or 16 bytes by a command of its own: through BAR0 by the host, by REG_WRITE by another master. -/
def registerRow (s : State) (w : Who) (off n data : Nat) : Host.Outcome State Fault Refusal :=
  match w with
  | .host f ide tlp => .next ((piecesOf off n).foldl (fun s u =>
      bar0Write s f ide tlp u.1 u.2 (bits data (8 * (u.1 - off)) (8 * u.2))) s)
  | _ => mgmtOp s w true fun s =>
      let r := masterWrite s w off (if n = 4 then 0 else if n = 8 then 1 else 2) data
      (r.1, r.2, [])

end Sys2Proof.Machine
end

