-- ==== Sys2Proof/Machine/Rows.lean ====
section
/-! DEFINITION. The register writes that are commands of their own: each writes its register, as its row of the table says,
with the fields beside the row's own left at what they hold. -/

namespace Sys2Proof.Machine

/-! ### Cores (05 R100, R118, R134; 16 R393) -/

/-- The BAR0 offset of a register in a core's block. -/
def coreReg (c : Core) (o : Nat) : Nat := 0x200_0000 + c.val * 0x1_0000 + o

/-- RUN_START: RUN is written 1. -/
def execRunStart (who : Who) (c : Core) (start : Half) (s : State) : Host.Outcome State Fault Refusal :=
  registerRow s who (coreReg c 0) 4 (1 + start.toNat * 2 ^ 16)

/-- RUN_STOP: RUN is written 0. -/
def execRunStop (who : Who) (c : Core) (start : Half) (s : State) : Host.Outcome State Fault Refusal :=
  registerRow s who (coreReg c 0) 4 (start.toNat * 2 ^ 16)

/-- PSHADOW_WRITE. -/
def execPshadowWrite (who : Who) (c : Core) (n : Byte) (value : Dword) (s : State) : Host.Outcome State Fault Refusal :=
  registerRow s who (coreReg c (0x1000 + 8 * n.toNat)) 8 value.toNat

/-- PARAM_READY_WRITE. -/
def execParamReadyWrite (who : Who) (c : Core) (ready : Bool) (s : State) : Host.Outcome State Fault Refusal :=
  registerRow s who (coreReg c 0x300) 4 (ofBool ready)

/-- CORE_RESET. -/
def execCoreReset (who : Who) (c : Core) (s : State) : Host.Outcome State Fault Refusal :=
  registerRow s who (coreReg c 0x40) 4 1

/-- WORK_ARM: ARM of HST_WORK[w] is written 1 (06 R151). -/
def execWorkArm (who : Who) (w : Ctr) (s : State) : Host.Outcome State Fault Refusal :=
  registerRow s who (0x8_0000 + 16 * w.val + 12) 4 (fget s .hstWorkAuto w.val + 2)

/-! ### Memories (07 R160, R167, R170; 08 R452) -/

/-- The BAR0 offset of a register of a memory die. -/
def grnReg (q : MemDie) (o : Nat) : Nat := 0x100_0000 + q.val * 0x10_0000 + o

/-- GRN_SCHED_WRITE. -/
def execGrnSchedWrite (who : Who) (q : MemDie) (i : Fin 64) (owner : Word) (s : State) : Host.Outcome State Fault Refusal :=
  registerRow s who (grnReg q (4 * i.val)) 4 owner.toNat

/-- FLASH_CLEAR. -/
def execFlashClear (who : Who) (q : MemDie) (s : State) : Host.Outcome State Fault Refusal :=
  registerRow s who (grnReg q 0x400) 4 1

/-- SELFTEST. -/
def execSelftest (who : Who) (q : MemDie) (s : State) : Host.Outcome State Fault Refusal :=
  registerRow s who (grnReg q 0x400) 4 4

/-- INJECT_ARM: the fields of HBM_INJECT[k] are written with ARM 1. -/
def execInjectArm (who : Who) (k : Stack) (value : Dword) (s : State) : Host.Outcome State Fault Refusal :=
  registerRow s who (0xC0_0030 + k.val * 0x2_0000) 8 (value.toNat % 2 ^ 42 + 2 ^ 42)

/-! ### Fabric (11 R249, R264) -/

/-- BANK_STATE_WRITE: BANK0 or BANK1 of SKL_EPOCH is written. -/
def execBankStateWrite (who : Who) (bank : Fin 2) (state : BitVec 2) (s : State) : Host.Outcome State Fault Refusal :=
  let b0 := if bank = 0 then state.toNat else fget s .sklEpochBank0 0
  let b1 := if bank = 1 then state.toNat else fget s .sklEpochBank1 0
  registerRow s who 0x40_0008 4 (b0 * 4 + b1 * 16 + fget s .sklEpochDrainLimit 0 * 2 ^ 8)

/-- PORT_EN_WRITE: EN of SKL_PORT_CTRL[n] is written. -/
def execPortEnWrite (who : Who) (n : Port) (en : Bool) (s : State) : Host.Outcome State Fault Refusal :=
  registerRow s who (0x40_1000 + 0x400 * n.val) 4
    (ofBool en + fget s .sklPortCtrlForce16 n.val * 2 + fget s .sklPortCtrlSpthr n.val * 2 ^ 8)

/-! ### The root of trust (12 R288; 15 R368, R369, R383) -/

/-- STRUCT_LOAD: START of ROT_SIMG_CTRL is written 1. -/
def execStructLoad (who : Who) (checkOnly : Bool) (s : State) : Host.Outcome State Fault Refusal :=
  registerRow s who 0x10_0808 4 (1 + 4 * ofBool checkOnly)

/-- APPLY: OP 1 of ROT_FUSE_CTRL is started on the image at an address. -/
def execApply (who : Who) (addr : BitVec 48) (s : State) : Host.Outcome State Fault Refusal :=
  registerRow s who 0x10_0030 8 (addr.toNat + 2 ^ 48 + 2 ^ 63)

/-- SVN_COMMIT: OP 2 of ROT_FUSE_CTRL. -/
def execSvnCommit (who : Who) (stype : BitVec 2) (value : BitVec 7) (s : State) : Host.Outcome State Fault Refusal :=
  registerRow s who 0x10_0030 8
    (fget s .rotFuseCtrlAddr 0 + 2 * 2 ^ 48 + stype.toNat * 2 ^ 50 + value.toNat * 2 ^ 52 + 2 ^ 63)

/-- The 128 bits of ROT_FLASH_CTRL that start an operation. -/
def flashWord (op foff daddr len : Nat) : Nat := foff + daddr * 2 ^ 32 + len * 2 ^ 80 + op * 2 ^ 104 + 2 ^ 107

/-- A flash operation is started. -/
def flashRow (s : State) (who : Who) (op foff daddr len : Nat) : Host.Outcome State Fault Refusal :=
  registerRow s who 0x10_0200 16 (flashWord op foff daddr len)

/-- ERASE: OP 0. -/
def execErase (who : Who) (foff : BitVec 26) (daddr : BitVec 48) (len : BitVec 24) (s : State) :
    Host.Outcome State Fault Refusal := flashRow s who 0 foff.toNat daddr.toNat len.toNat

/-- PROGRAM: OP 1. -/
def execProgram (who : Who) (foff : BitVec 26) (daddr : BitVec 48) (len : BitVec 24) (s : State) :
    Host.Outcome State Fault Refusal := flashRow s who 1 foff.toNat daddr.toNat len.toNat

/-- FLASH_READ: OP 2. -/
def execFlashRead (who : Who) (foff : BitVec 26) (daddr : BitVec 48) (len : BitVec 24) (s : State) :
    Host.Outcome State Fault Refusal := flashRow s who 2 foff.toNat daddr.toNat len.toNat

/-- SWITCH: OP 3. -/
def execSwitch (who : Who) (s : State) : Host.Outcome State Fault Refusal :=
  flashRow s who 3 (fget s .rotFlashCtrlFoff 0) (fget s .rotFlashCtrlDaddr 0) (fget s .rotFlashCtrlLen 0)

/-- CONFIRM: OP 4. -/
def execConfirm (who : Who) (s : State) : Host.Outcome State Fault Refusal :=
  flashRow s who 4 (fget s .rotFlashCtrlFoff 0) (fget s .rotFlashCtrlDaddr 0) (fget s .rotFlashCtrlLen 0)

/-! ### Resets, fences and power (16 R392, R395, R397, R398; 17 R414, R420) -/

/-- WARM_RESET: WARM of HST_RESET is written 1. -/
def execWarmReset (who : Who) (s : State) : Host.Outcome State Fault Refusal := registerRow s who 0x400 4 1

/-- PORT_RESET: bit n + 1 of HST_RESET is written 1. -/
def execPortReset (who : Who) (n : Port) (s : State) : Host.Outcome State Fault Refusal :=
  registerRow s who 0x400 4 (2 ^ (n.val + 1))

/-- FENCE: FENCE of HST_PART_CTRL[p] is written 1. -/
def execFence (who : Who) (p : Part) (s : State) : Host.Outcome State Fault Refusal :=
  registerRow s who (0x500 + 8 * p.val) 4 1

/-- UNFENCE: FENCE of HST_PART_CTRL[p] is written 0. -/
def execUnfence (who : Who) (p : Part) (s : State) : Host.Outcome State Fault Refusal :=
  registerRow s who (0x500 + 8 * p.val) 4 0

/-- PART_RESET: RESET of HST_PART_CTRL[p] is written 1. -/
def execPartReset (who : Who) (p : Part) (s : State) : Host.Outcome State Fault Refusal :=
  registerRow s who (0x500 + 8 * p.val) 4 4

/-- MODE_SELECT: SEL of PWR_MODE_CTRL is written. -/
def execModeSelect (who : Who) (sel : BitVec 2) (s : State) : Host.Outcome State Fault Refusal :=
  registerRow s who 0x20_0008 4 sel.toNat

/-- TARGET_D0: TARGET of PWR_STATE_CTRL is written 0. -/
def execTargetD0 (who : Who) (s : State) : Host.Outcome State Fault Refusal := registerRow s who 0x20_0020 4 0

/-- TARGET_IDLE: TARGET is written 1. -/
def execTargetIdle (who : Who) (s : State) : Host.Outcome State Fault Refusal := registerRow s who 0x20_0020 4 1

/-- TARGET_DROWSE: TARGET is written 2. -/
def execTargetDrowse (who : Who) (s : State) : Host.Outcome State Fault Refusal := registerRow s who 0x20_0020 4 2

/-! ### Error ring, snapshots, the mailbox, MSI-X (14 R336; 18 R430, R435; 13 R323) -/

/-- ERR_RING_WRITE. -/
def execErrRingWrite (who : Who) (value : Dword) (s : State) : Host.Outcome State Fault Refusal :=
  registerRow s who 0x300_0000 8 value.toNat

/-- TAKE: TAKE of a block's BLKCTL is written 1, with HELD. -/
def execTake (who : Who) (blk : Block) (c : Core) (held : Bool) (s : State) : Host.Outcome State Fault Refusal :=
  registerRow s who (if blk = .core then coreReg c 0xFF00 else blockBase blk + 0xF_FF00) 4 (1 + 2 * ofBool held)

/-- CALL_SUBMIT: ADDR and GO of a mailbox slot are written. -/
def execCallSubmit (who : Who) (f : Fn) (slot : SlotNo) (addr : BitVec 48) (s : State) : Host.Outcome State Fault Refusal :=
  registerRow s who (0x30_0000 + 0x1000 * f.val + 0x20 * slot.val) 8 (addr.toNat + 2 ^ 48)

/-- MSIX_UNMASK: the mask bit of a vector's entry is written 0. -/
def execMsixUnmask (fn : Fn) (ide : Bool) (vec : Fin 64) (s : State) : Host.Outcome State Fault Refusal :=
  registerRow s (.host fn ide .sound) (0x1_000C + 16 * vec.val) 4 0

/-! ### Any other register (00 R10; 13 R310, R332) -/

/-- REGISTER_WRITE: through BAR0 or REG_WRITE, or of configuration space by the host. -/
def execRegisterWrite (who : Who) (target : WriteTarget) (s : State) : Host.Outcome State Fault Refusal :=
  match target with
  | .bar0 off wide data => registerRow s who off.toNat (if wide then 8 else 4) data.toNat
  | .config field value =>
    match who with
    | .host f ide tlp =>
      if !linkOn s then idle s
      else
        match configFault s f ide tlp true with
        | some (code, how) => .next (turnAway s f tlp false code how 0)
        | none => .next (writeConfig s f field value.toNat)
    | _ => idle s

/-- A read of configuration space by the host. -/
def configRead (s : State) (f : Fn) (ide : Bool) (tlp : Tlp) (field : CfgField) : State :=
  if !linkOn s then s
  else
    match configFault s f ide tlp false with
    | some (code, how) => turnAway s f tlp false code how 0
    | none => emit s (.cpl f .sc (leBytes (match field with | .serialNumber => 8 | .aerHeader | .aerPrefix => 16 | _ => 4)
        (readConfig s f field)))

/-- REG_READ: over management, or by the host through BAR0 or of configuration space. An operation code that R332 does not
name is unknown; EVENT is none that a master sends. -/
def execRegRead (who : Who) (via : ReadVia) (off : BitVec 26) (size : Byte) (s : State) : Host.Outcome State Fault Refusal :=
  match via, who with
  | .bar0, .host f ide tlp => .next (bar0Read s f ide tlp off.toNat (4 * 2 ^ size.toNat))
  | .config field, .host f ide tlp => .next (configRead s f ide tlp field)
  | .mgmt, _ => mgmtOp s who true fun s => masterRead s who off.toNat size.toNat
  | .operation code, _ =>
    if 1 ≤ code.toNat ∧ code.toNat ≤ 6 then idle s
    else mgmtOp s who false fun s => (badRequest s who code.toNat, kUNKNOWN, [])
  | _, _ => idle s

/-- REG_WRITE. -/
def execRegWrite (who : Who) (off : BitVec 26) (size : Byte) (data : BitVec 128) (s : State) :
    Host.Outcome State Fault Refusal :=
  mgmtOp s who true fun s =>
    let r := masterWrite s who off.toNat size.toNat data.toNat
    (r.1, r.2, [])

end Sys2Proof.Machine
end

