-- ==== Sys2Proof/Machine/Mgmt.lean ====
section
/-! DEFINITION. MCTP control, SPDM, attestation and IDE key messages (13 R322, R330, R331, R334; 15 R378 to R382). The forms of
messages that the published standards give are constants of Config. -/

namespace Sys2Proof.Machine

/-! ### MCTP (13 R330, R331) -/

/-- A binding carries messages: the I3C target has its address, served while PWRGD is high (19 R442), or the PCIe link is up. -/
def mctpOn (s : State) (b : Binding) : Bool :=
  match b with
  | .i3c => i3cOn s && s.hub.i3cAddr.isSome
  | .pcie => hubOn s && fbit s .hstLinkStatusUp 0

/-- A message leaves; on I3C an In-Band Interrupt says that it is pending. -/
def sendOn (s : State) (b : Binding) (o : Out) : State :=
  emit (match b with | .i3c => emit s .ibi | .pcie => s) o

/-- The endpoint ID of a binding. -/
def eidOf (s : State) : Binding → Nat
  | .i3c => s.hub.eidI3c
  | .pcie => s.hub.eidPcie

/-- ENTDAA: the I3C target gives its provisional ID and takes its dynamic address; one that has it takes no part. A
transfer with a parity error is not acknowledged, and a malformed CCC is ignored: a violation (R335). -/
def execEntdaa (ccc : Ccc) (s : State) : Host.Outcome State Fault Refusal :=
  if !i3cOn s then idle s
  else
    match ccc with
    | .entdaa address =>
      if s.hub.i3cAddr.isSome then idle s
      else .next (emit { s with hub := { s.hub with i3cAddr := some address.toNat } }
        (.i3c true (Config.provisionalId s.fuses.identity)))
    | .malformed head =>
      .next (emit (violation s 0x0F (0x100 + s.hub.eidI3c) ((head.take 16).map (·.toNat))) (.i3c false 0))

/-- A control request is answered, with its values. -/
def mctpAnswer (s : State) (b : Binding) (code : Nat) (values : List Nat) : State :=
  sendOn s b (.mctp b (Config.mctp code values))

/-- How a violation names the partner on a binding. -/
def partnerOf (s : State) (b : Binding) : Nat := (match b with | .i3c => 0x100 | .pcie => 0x200) + eidOf s b

/-- The number of a binding. -/
def bindingNo : Binding → Nat
  | .i3c => 0
  | .pcie => 1

/-- A packet that does not fit its message, and the message with it, are discarded (R335). -/
def dropMessage (s : State) (b : Binding) (head : Bytes) : State :=
  violation { s with hub := { s.hub with asm := s.hub.asm.filter fun e => e.1 != bindingNo b } } 0x0C (partnerOf s b)
    ((head.take 16).map (·.toNat))

/-- A packet of a message of more than one joins those before it; the last makes the message whole (R330). Each but the last
carries 64 bytes, with the tag of the first and the next sequence number. A first packet begins the message anew. -/
def takePacket (s : State) (b : Binding) (p : McpPacket) : State :=
  let was := (s.hub.asm.find? fun e => e.1 == bindingNo b).map (·.2)
  let before := if p.som then some [] else
    match was with
    | some x => if x.tag = p.tag ∧ x.next = p.seq then some x.bytes else none
    | none => none
  match before with
  | none => dropMessage s b p.payload
  | some l =>
    let m := l ++ p.payload
    if p.payload = [] ∨ 64 < p.payload.length ∨ (p.eom = false ∧ p.payload.length ≠ 64) ∨ 4096 < m.length then dropMessage s b p.payload
    else
      let rest := s.hub.asm.filter fun e => e.1 != bindingNo b
      if p.eom then { s with hub := { s.hub with
        asm := rest, arrived := s.hub.arrived.filter (fun e => e.1 != bindingNo b) ++ [(bindingNo b, m)] } }
      else { s with hub := { s.hub with asm := rest ++ [(bindingNo b, { tag := p.tag, next := p.seq + 1, bytes := m })] } }

/-- A message has come: in one packet, or reassembled. The first byte of a message is its type, 0x05 for SPDM and 0x06 for a
secured one. -/
def messageCame (s : State) (b : Binding) (secured : Bool) (msg : Bytes) : Bool :=
  decide (msg.length < 64) || s.hub.arrived.any fun e => e.1 == bindingNo b &&
    (if secured then e.2.head? == some 6 else e.2 == 5 :: msg)

/-- The message that has come is taken. -/
def takeMessage (s : State) (b : Binding) : State :=
  { s with hub := { s.hub with arrived := s.hub.arrived.filter fun e => e.1 != bindingNo b } }

/-- SET_ENDPOINT_ID: the null and the broadcast ID are invalid data. A control command that is not supported is answered
ERROR_UNSUPPORTED_CMD, and a bad packet is discarded: violations (R331, R335). -/
def execSetEndpointId (b : Binding) (msg : CtlMsg) (s : State) : Host.Outcome State Fault Refusal :=
  if !mctpOn s b then idle s
  else
    match msg with
    | .setEid eid =>
      if eid = 0 ∨ eid = 0xFF then .next (mctpAnswer s b 1 [2, eidOf s b])
      else
        let s := match b with
          | .i3c => { s with hub := { s.hub with eidI3c := eid.toNat } }
          | .pcie => { s with hub := { s.hub with eidPcie := eid.toNat } }
        .next (mctpAnswer s b 1 [0, eid.toNat])
    | .other command head =>
      if 1 ≤ command.toNat ∧ command.toNat ≤ 6 then idle s
      else .next (mctpAnswer (violation s 0x0D (partnerOf s b) (command.toNat :: (head.take 16).map (·.toNat))) b command.toNat [5])
    | .packet p => .next (takePacket s b p)
    | .badPacket head => .next (dropMessage s b head)

/-- GET_ENDPOINT_ID. -/
def execGetEndpointId (b : Binding) (s : State) : Host.Outcome State Fault Refusal :=
  if mctpOn s b then .next (mctpAnswer s b 2 [0, eidOf s b]) else idle s

/-- GET_ENDPOINT_UUID. -/
def execGetEndpointUuid (b : Binding) (s : State) : Host.Outcome State Fault Refusal :=
  if mctpOn s b then .next (mctpAnswer s b 3 [0]) else idle s

/-- GET_MCTP_VERSION_SUPPORT. -/
def execGetMctpVersionSupport (b : Binding) (s : State) : Host.Outcome State Fault Refusal :=
  if mctpOn s b then .next (mctpAnswer s b 4 [0]) else idle s

/-- GET_MESSAGE_TYPE_SUPPORT: control, SPDM, secured messages, vendor-defined PCI. -/
def execGetMessageTypeSupport (b : Binding) (s : State) : Host.Outcome State Fault Refusal :=
  if mctpOn s b then .next (mctpAnswer s b 5 [0, 0x00, 0x05, 0x06, 0x7E]) else idle s

/-- GET_VENDOR_DEFINED_MESSAGE_SUPPORT: vendor 0x1E47. -/
def execGetVendorDefinedMessageSupport (b : Binding) (s : State) : Host.Outcome State Fault Refusal :=
  if mctpOn s b then .next (mctpAnswer s b 6 [0, 0x1E47]) else idle s

/-! ### SPDM (13 R334, 15 R378, R381) -/

def spdmOf (s : State) : Binding → SpdmX
  | .i3c => s.hub.spdmI3c
  | .pcie => s.hub.spdmPcie

def setSpdm (s : State) (b : Binding) (x : SpdmX) : State :=
  match b with
  | .i3c => { s with hub := { s.hub with spdmI3c := x } }
  | .pcie => { s with hub := { s.hub with spdmPcie := x } }

/-- Error codes of SPDM that the device gives. -/
def eINVALID : Nat := 0x01
def eBUSY : Nat := 0x03
def eUNEXPECTED : Nat := 0x04
def eUNSUPPORTED : Nat := 0x07

/-- An SPDM message leaves. -/
def spdmSay (s : State) (b : Binding) (session : Option Nat) (m : Bytes) : State := sendOn s b (.spdm b session m)

/-- A request is answered ERROR; one that is invalid, unexpected or unsupported is a violation (13 R335). -/
def spdmError (s : State) (b : Binding) (session : Option Nat) (msg : Bytes) (code : Nat) : State :=
  let s := setSpdm s b { spdmOf s b with signedHash := none }
  let s := if code = eBUSY then s
    else violation s 0x0E (partnerOf s b) (code :: (msg.take 16).map (·.toNat))
  spdmSay s b session (Config.spdm 0x7F msg [[BitVec.ofNat 8 code]])

/-- A request that needs a phase of its connection, once its message has come. The device answers while it is booted; before,
it is busy. A message beyond 4,096 bytes is discarded (R335). -/
def spdmAct (s : State) (b : Binding) (session : Option Nat) (phase : Nat) (exact : Bool) (msg : Bytes)
    (act : State → SpdmX → State) : Host.Outcome State Fault Refusal :=
  let x := spdmOf s b
  if !mctpOn s b then idle s
  else if 4096 < msg.length then .next (violation s 0x0C (partnerOf s b) ((msg.take 16).map (·.toNat)))
  else if !messageCame s b session.isSome msg then idle s
  else if fget s .rotBootStatusStage 0 ≠ 2 then .next (spdmError (takeMessage s b) b session msg eBUSY)
  else if x.phase < phase ∨ (exact = true ∧ x.phase ≠ phase) then
    .next (spdmError (takeMessage s b) b session msg eUNEXPECTED)
  else .next (act (takeMessage s b) x)

/-- The certificate chains: those of manufacture with the Alias certificate of this boot (15 R378). -/
def edChain (s : State) : Bytes := Config.chain false (s.flash.certs.getD 0 []) s.rot.certEd
def mlChain (s : State) : Bytes := Config.chain true (s.flash.certs.getD 1 []) s.rot.certMl

/-- The request codes that the device answers (R334; DSP0274). -/
def spdmCodes : List Nat := [0x81, 0x82, 0x83, 0x84, 0xE0, 0xE1, 0xE3, 0xE4, 0xE5, 0xE8, 0xE9, 0xEC, 0xFE]

/-- GET_VERSION begins the connection anew. A request whose code is none that the device answers is unsupported. -/
def execGetVersion (b : Binding) (msg : Bytes) (s : State) : Host.Outcome State Fault Refusal :=
  spdmAct s b none 0 false msg fun s x =>
    if 2 ≤ msg.length ∧ !spdmCodes.contains (field msg 1 1) then spdmError s b none msg eUNSUPPORTED
    else
      let r := Config.spdm 0x84 msg [[0x13]]
      spdmSay (setSpdm s b { phase := 1, vca := msg ++ r, report := x.report }) b none r

/-- GET_CAPABILITIES. -/
def execGetCapabilities (b : Binding) (msg : Bytes) (s : State) : Host.Outcome State Fault Refusal :=
  spdmAct s b none 1 true msg fun s x =>
    let r := Config.spdm 0xE1 msg []
    spdmSay (setSpdm s b { x with phase := 2, vca := x.vca ++ msg ++ r, signedHash := none }) b none r

/-- The algorithms that the device offers, and no others (R334). -/
def spdmAlgorithms : List Bytes := [ascii "Ed25519", ascii "SHA-384", ascii "secp384r1", ascii "AES-256-GCM"]

/-- NEGOTIATE_ALGORITHMS. -/
def execNegotiateAlgorithms (b : Binding) (msg : Bytes) (s : State) : Host.Outcome State Fault Refusal :=
  spdmAct s b none 2 true msg fun s x =>
    let r := Config.spdm 0xE3 msg spdmAlgorithms
    spdmSay (setSpdm s b { x with phase := 3, vca := x.vca ++ msg ++ r, signedHash := none }) b none r

/-- A request of the connection that is answered without a signature. -/
def spdmPlain (s : State) (b : Binding) (x : SpdmX) (msg r : Bytes) : State :=
  spdmSay (setSpdm s b { x with transcript := x.transcript ++ msg ++ r, measured := [], signedHash := none }) b none r

/-- GET_DIGESTS: slot 0 alone. -/
def execGetDigests (b : Binding) (msg : Bytes) (s : State) : Host.Outcome State Fault Refusal :=
  spdmAct s b none 3 false msg fun s x => spdmPlain s b x msg (Config.spdm 0x81 msg [sha384 (edChain s)])

/-- GET_CERTIFICATE: slot 0 alone, the part asked for. -/
def execGetCertificate (b : Binding) (msg : Bytes) (s : State) : Host.Outcome State Fault Refusal :=
  spdmAct s b none 3 false msg fun s x =>
    let chain := edChain s
    let off := field msg 4 2
    if field msg 2 1 % 16 ≠ 0 ∨ chain.length ≤ off then spdmError s b none msg eINVALID
    else
      let part := (chain.drop off).take (field msg 6 2)
      spdmPlain s b x msg (Config.spdm 0x82 msg [part, leBytes 2 (chain.length - off - part.length)])

/-- A nonce: a value drawn for the occasion. -/
def drawNonce (s : State) : State × Bytes := let d := draw s; (d.1, leBytes 32 d.2)

/-- A response that the Alias key signs: the hash of the messages it covers is kept for MLDSA_SIG. -/
def spdmSigned (s : State) (b : Binding) (session : Option Nat) (x : SpdmX) (covered r : Bytes) : State :=
  let h := sha384 (covered ++ r)
  spdmSay (setSpdm s b { x with signedHash := some h }) b session (r ++ Config.ed25519Sign s.rot.alias25519 h)

/-- CHALLENGE. -/
def execChallenge (b : Binding) (msg : Bytes) (s : State) : Host.Outcome State Fault Refusal :=
  spdmAct s b none 3 false msg fun s x =>
    if field msg 2 1 ≠ 0 then spdmError s b none msg eINVALID
    else
      let d := drawNonce s
      let r := Config.spdm 0x83 msg [sha384 (edChain s), d.2]
      spdmSigned d.1 b none { x with transcript := [], measured := [] } (x.vca ++ x.transcript ++ msg) r

/-- The DMTF value type of a measurement (15 R379). -/
def valueType (i : Nat) : Nat := if i = 1 then 0 else if i ≤ 5 then 1 else if i ≤ 7 then 3 else 2

/-- A measurement as GET_MEASUREMENTS names it: index, type and digest. -/
def measureBlock (s : State) (i : Nat) : Bytes := leBytes 1 i ++ leBytes 1 (valueType i) ++ measure s i

/-- GET_MEASUREMENTS: their number, one, or all; with a signature when it is asked for. -/
def execGetMeasurements (b : Binding) (msg : Bytes) (s : State) : Host.Outcome State Fault Refusal :=
  spdmAct s b none 3 false msg fun s x =>
    let i := field msg 3 1
    if 9 < i ∧ i ≠ 0xFF then spdmError s b none msg eINVALID
    else
      let blocks := if i = 0 then [[9]] else if i = 0xFF then (span 1 9).map (measureBlock s) else [measureBlock s i]
      let d := drawNonce s
      let r := Config.spdm 0xE0 msg (d.2 :: blocks)
      if bit (field msg 2 1) 0 then spdmSigned d.1 b none { x with measured := [] } (x.vca ++ x.measured ++ msg) r
      else spdmSay (setSpdm d.1 b { x with measured := x.measured ++ msg ++ r, signedHash := none }) b none r

/-- KEY_EXCHANGE: a session opens, unless four are held. -/
def execKeyExchange (b : Binding) (msg : Bytes) (s : State) : Host.Outcome State Fault Refusal :=
  spdmAct s b none 3 false msg fun s x =>
    if 4 ≤ s.hub.sessions.length then spdmError s b none msg eBUSY
    else if field msg 3 1 ≠ 0 then spdmError s b none msg eINVALID
    else
      let id := s.hub.nextSession
      let s := { s with hub := { s.hub with
        nextSession := id + 1, sessions := s.hub.sessions ++ [{ id := id, on := b, established := false }] } }
      let d := drawNonce s
      let r := Config.spdm 0xE4 msg [leBytes 4 id, d.2]
      spdmSigned d.1 b none { x with transcript := x.transcript ++ msg ++ r, measured := [] }
        (x.vca ++ sha384 (edChain s) ++ msg) r

/-- The session of a request, on the binding it came on. -/
def sessionOf (s : State) (b : Binding) (id : Nat) : Option SessionX := s.hub.sessions.find? fun e => e.id == id && e.on == b

/-- A session ends. -/
def dropSession (s : State) (id : Nat) : State :=
  { s with hub := { s.hub with sessions := s.hub.sessions.filter fun e => e.id != id } }

/-- FINISH: the handshake closes; with wrong verify data the session ends. -/
def execFinish (b : Binding) (session : Word) (msg : Bytes) (s : State) : Host.Outcome State Fault Refusal :=
  let id := session.toNat
  spdmAct s b (some id) 3 false msg fun s x =>
    match sessionOf s b id with
    | some e =>
      if e.established then spdmError s b (some id) msg eUNEXPECTED
      else if Config.finishOk id (x.vca ++ x.transcript) msg then
        let s := { s with hub := { s.hub with
          sessions := mapFirst (fun e => e.id == id && e.on == b) (fun e => { e with established := true }) s.hub.sessions } }
        spdmSay (setSpdm s b { x with signedHash := none }) b (some id) (Config.spdm 0xE5 msg [])
      else spdmError (dropSession s id) b (some id) msg eINVALID
    | none => spdmError s b (some id) msg eUNEXPECTED

/-- A request within an established session. -/
def inSession (s : State) (b : Binding) (session : Word) (msg : Bytes) (act : State → State) :
    Host.Outcome State Fault Refusal :=
  let id := session.toNat
  spdmAct s b (some id) 3 false msg fun s x =>
    match sessionOf s b id with
    | some e => if e.established then act (setSpdm s b { x with signedHash := none }) else spdmError s b (some id) msg eUNEXPECTED
    | none => spdmError s b (some id) msg eUNEXPECTED

/-- END_SESSION. -/
def execEndSession (b : Binding) (session : Word) (msg : Bytes) (s : State) : Host.Outcome State Fault Refusal :=
  inSession s b session msg fun s =>
    spdmSay (dropSession s session.toNat) b (some session.toNat) (Config.spdm 0xEC msg [])

/-- SPDM_HEARTBEAT. -/
def execSpdmHeartbeat (b : Binding) (session : Word) (msg : Bytes) (s : State) : Host.Outcome State Fault Refusal :=
  inSession s b session msg fun s => spdmSay s b (some session.toNat) (Config.spdm 0xE8 msg [])

/-- KEY_UPDATE. -/
def execKeyUpdate (b : Binding) (session : Word) (msg : Bytes) (s : State) : Host.Outcome State Fault Refusal :=
  inSession s b session msg fun s => spdmSay s b (some session.toNat) (Config.spdm 0xE9 msg [])

/-! ### The dual-signature extension (15 R381, R382) -/

def vOK : Nat := 0
def vNOSIG : Nat := 1
def vRANGE : Nat := 2
def vBADOP : Nat := 3

/-- A response of the extension: OP, STATUS, TOTAL and up to 2,048 bytes from OFFSET. -/
def vendorSay (s : State) (b : Binding) (msg : Bytes) (op status : Nat) (data : Bytes) (off : Nat) : State :=
  let status := if status = vOK ∧ data.length < off then vRANGE else status
  let part := if status = vOK then (data.drop off).take 2048 else []
  spdmSay s b none (Config.spdm 0xFE msg [leBytes 1 op ++ leBytes 1 status ++ leBytes 2 0 ++ leBytes 4 data.length ++ part])

/-- The OP byte of a request of the extension: a VENDOR_DEFINED_REQUEST with standard ID PCI-SIG and vendor ID 0x1E47, whose
body follows the 11 bytes of DSP0274's head. PRESUMED (DSP0274), log 158. -/
def vendorOp (msg : Bytes) : Option Nat :=
  if 12 ≤ msg.length ∧ field msg 1 1 = 0xFE ∧ field msg 4 2 = 3 ∧ field msg 6 1 = 2 ∧ field msg 7 2 = 0x1E47 then
    some (field msg 11 1)
  else none

/-- A request of the extension: its OP byte is the row's. One that is no operation is answered BADOP, and a request of
another standard or vendor is unsupported. -/
def vendorAsk (s : State) (b : Binding) (msg : Bytes) (op : Nat) (act : State → SpdmX → State) :
    Host.Outcome State Fault Refusal :=
  spdmAct s b none 3 false msg fun s x =>
    let t := setSpdm s b { x with signedHash := none }
    match vendorOp msg with
    | none => spdmError s b none msg eUNSUPPORTED
    | some o =>
      if o = op then act s x
      else if o = 0 ∨ 5 < o then vendorSay t b msg o vBADOP [] 0
      else t

/-- A request of the extension that is not MLDSA_SIG: the previous response is no longer the one to sign. -/
def vendorAct (s : State) (b : Binding) (msg : Bytes) (op : Nat) (act : State → SpdmX → State) :
    Host.Outcome State Fault Refusal :=
  vendorAsk s b msg op fun s x =>
    let x := { x with signedHash := none }
    act (setSpdm s b x) x

/-- MLDSA_SIG: the ML-DSA-65 signature of the hash that the previous response signed. -/
def execMldsaSig (b : Binding) (off : Word) (msg : Bytes) (s : State) : Host.Outcome State Fault Refusal :=
  vendorAsk s b msg 1 fun s x =>
    match x.signedHash with
    | some h => vendorSay s b msg 1 vOK (Config.mldsaSign s.rot.aliasMl (ascii "EVT-SPDM") h) off.toNat
    | none => vendorSay s b msg 1 vNOSIG [] 0

/-- GET_CHAIN. -/
def execGetChain (b : Binding) (off : Word) (msg : Bytes) (s : State) : Host.Outcome State Fault Refusal :=
  vendorAct s b msg 2 fun s _ => vendorSay s b msg 2 vOK (mlChain s) off.toNat

/-- The signed part of an attestation report, bytes [783:0]. -/
def reportHead (s : State) (nonce : Nat) : Bytes :=
  leBytes 2 1 ++ leBytes 2 0 ++ leBytes 4 targetId ++ leBytes 16 (fget s .rotDeviceIdId 0) ++ leBytes 32 nonce ++
    leBytes 8 (recTime s) ++ leBytes 8 (fget s .rotSimgIdFullid 0) ++ leBytes 8 (fget s .rotSimgIdLastid 0) ++
    leBytes 1 (s.rot.fuseAtBoot.ownerSlot.getD 0xFF) ++ leBytes 1 (fget s .rotStructRegprot 0) ++
    leBytes 1 (fget s .rotPmapLockLock 0 + 2 * fget s .hstOwnPolicyLock 0 + 4 * ofBool s.rot.debugClosed) ++ leBytes 1 0 ++
    leBytes 8 (fuseWord s) ++ leBytes 4 0 ++ (span 1 9).flatMap (measure s) ++
    partRange.flatMap fun p =>
      leBytes 8 (fget s .updStepStep p.val) ++ leBytes 2 (s.part p).img.job ++ leBytes 1 (sealState s p) ++
        leBytes 1 (ofBool (s.part p).enabled) ++ leBytes 4 0

/-- An attestation report: both Alias keys sign the SHA-384 of its first 784 bytes. -/
def attestReport (s : State) (nonce : Nat) : Bytes :=
  let head := reportHead s nonce
  let h := sha384 head
  head ++ slice (Config.ed25519Sign s.rot.alias25519 h) 0 64 ++ slice (Config.mldsaSign s.rot.aliasMl [] h) 0 3309

/-- ATTEST: a report is built and returned from its start. -/
def execAttest (b : Binding) (nonce : BitVec 256) (msg : Bytes) (s : State) : Host.Outcome State Fault Refusal :=
  vendorAct s b msg 3 fun s x =>
    let r := attestReport s nonce.toNat
    vendorSay (setSpdm s b { x with report := r }) b msg 3 vOK r 0

/-- REPORT: the last report built for this requester. -/
def execReport (b : Binding) (off : Word) (msg : Bytes) (s : State) : Host.Outcome State Fault Refusal :=
  vendorAct s b msg 4 fun s x => vendorSay s b msg 4 vOK x.report off.toNat

/-- LOG: the measurement log. -/
def execLog (b : Binding) (off : Word) (msg : Bytes) (s : State) : Host.Outcome State Fault Refusal :=
  vendorAct s b msg 5 fun s _ => vendorSay s b msg 5 vOK s.rot.log.flatten off.toNat

/-! ### IDE_KM (13 R322) -/

/-- IDE_KM: keys for a function's stream, in a secured session over MCTP on PCIe; at most eight streams. -/
def execIdeKm (fn : Fn) (secured : Bool) (s : State) : Host.Outcome State Fault Refusal :=
  if !mctpOn s .pcie then idle s
  else if !secured || !(s.hub.sessions.any fun e => e.on == .pcie && e.established) then
    .next (spdmError s .pcie none [] eUNEXPECTED)
  else if (ideOf s fn).isSome then
    .next (spdmSay { s with hub := { s.hub with
      ide := mapFirst (fun x => x.fn == fn) (fun x => { x with secure := true }) s.hub.ide } } .pcie none (Config.spdm 0xFE [] []))
  else if 8 ≤ s.hub.ide.length then .next (spdmError s .pcie none [] eBUSY)
  else
    .next (spdmSay { s with hub := { s.hub with ide := s.hub.ide ++ [{ fn := fn, secure := true }] } } .pcie none
      (Config.spdm 0xFE [] []))

end Sys2Proof.Machine
end

