-- ==== Sys2Proof/Machine/Vector.lean ====
section
/-! DEFINITION. The vector unit: 256 lanes of F32 and F64 arithmetic, VCVT, VAMAX, VSCALE, and moves between vector
registers and the larder (04 R83 to R87, R450). -/

namespace Sys2Proof.Machine

/-! ### Lanes -/

def laneRange : List Nat := span 0 256

/-- A vector register as its 256 lanes. -/
def CoreX.vreg (x : CoreX) (v : Nat) : List Nat := laneRange.map (x.lane v)

/-- Write the lanes of a vector register, from lane 0. -/
def CoreX.setVreg (x : CoreX) (v : Nat) (ls : List Nat) : CoreX :=
  { x with vregs := tsetAll (fun _ => 0) x.vregs (List.zip (span (v * 256) ls.length) (ls.map (· % 2 ^ 64))) }

/-- The bits that a vector result sets: NAN for a NaN, INF for an infinity from finite operands (04 R85). -/
def resultFlags (operands : List XVal) (r : XVal) : Flags :=
  { nan := r.isNan, inf := r.isInf && operands.all XVal.isFin }

/-- One rounded operation in a layout: the code of the lane and the bits it sets. -/
def laneOp (l : FloatFmt) (f : List XVal → XVal) (operands : List XVal) : Nat × Flags :=
  let c := (l.encode (f operands)).1
  (c, resultFlags operands (l.decode c))

/-- The part of a word that a vector operation makes. -/
def vecPart (c : Core) (code : Nat) (effect : WordX → State → State) (s : State) :
    Host.Outcome State Fault Refusal :=
  atPart s c .m (fun w d => w.vop == code && issued w d && !d.vec) fun w =>
    markDone (effect w s) c .m fun d => { d with vec := true }

/-- An arithmetic operation over the lanes of the source registers. -/
def vecArith (l : FloatFmt) (n : Nat) (f : List XVal → XVal) (c : Core) (w : WordX) (s : State) : State :=
  let x := s.core c
  let srcs := [w.va, w.vb, w.vc].take n
  let r := laneRange.map fun i => laneOp l f (srcs.map fun v => l.decode (x.lane v i % (2 * l.signBit)))
  let fl := r.foldl (fun a e => a.or e.2) {}
  setFlags (s.setCore c (x.setVreg w.vd (r.map (·.1)))) (partOfCore s c) fl

/-- Va × Vb + Vc, rounded once. -/
def fma3 : List XVal → XVal
  | [a, b, c] => XVal.add (XVal.mul a b) c
  | _ => .nan
/-- An operation of two operands, and of one. -/
def bin2 (f : XVal → XVal → XVal) : List XVal → XVal
  | [a, b] => f a b
  | _ => .nan
def un1 (f : XVal → XVal) : List XVal → XVal
  | [a] => f a
  | _ => .nan

/-- VNOP. -/
def execVnop (c : Core) (s : State) : Host.Outcome State Fault Refusal := vecPart c 0x00 (fun _ s => s) s
/-- VFMA32. -/
def execVfma32 (c : Core) (s : State) : Host.Outcome State Fault Refusal := vecPart c 0x01 (vecArith f32 3 fma3 c) s
/-- VADD32. -/
def execVadd32 (c : Core) (s : State) : Host.Outcome State Fault Refusal :=
  vecPart c 0x02 (vecArith f32 2 (bin2 XVal.add) c) s
/-- VMUL32. -/
def execVmul32 (c : Core) (s : State) : Host.Outcome State Fault Refusal :=
  vecPart c 0x03 (vecArith f32 2 (bin2 XVal.mul) c) s
/-- VMAX32. -/
def execVmax32 (c : Core) (s : State) : Host.Outcome State Fault Refusal :=
  vecPart c 0x04 (vecArith f32 2 (bin2 XVal.max) c) s
/-- VMIN32. -/
def execVmin32 (c : Core) (s : State) : Host.Outcome State Fault Refusal :=
  vecPart c 0x05 (vecArith f32 2 (bin2 XVal.min) c) s
/-- VFMA64. -/
def execVfma64 (c : Core) (s : State) : Host.Outcome State Fault Refusal := vecPart c 0x06 (vecArith f64 3 fma3 c) s
/-- VADD64. -/
def execVadd64 (c : Core) (s : State) : Host.Outcome State Fault Refusal :=
  vecPart c 0x07 (vecArith f64 2 (bin2 XVal.add) c) s
/-- VMUL64. -/
def execVmul64 (c : Core) (s : State) : Host.Outcome State Fault Refusal :=
  vecPart c 0x08 (vecArith f64 2 (bin2 XVal.mul) c) s
/-- VDIV32. -/
def execVdiv32 (c : Core) (s : State) : Host.Outcome State Fault Refusal :=
  vecPart c 0x09 (vecArith f32 2 (bin2 XVal.div) c) s
/-- VSQRT32. -/
def execVsqrt32 (c : Core) (s : State) : Host.Outcome State Fault Refusal :=
  vecPart c 0x0A (vecArith f32 1 (un1 XVal.sqrt) c) s
/-- VEXP32. -/
def execVexp32 (c : Core) (s : State) : Host.Outcome State Fault Refusal :=
  vecPart c 0x0B (vecArith f32 1 (un1 exp32) c) s

/-! ### VCVT (04 R450) -/

/-- The decoded value of a source lane. -/
def cvtSource (s : State) (c : Core) (w : WordX) (e0 l : Nat) : State × XVal :=
  let f := (Fmt.ofCode w.vf1).getD .f32
  let code := (s.core c).lane w.va l % 2 ^ f.width
  match w.hSrc with
  | none => (s, f.raw code)
  | some h =>
    let d := Desc.of (descOf s c h)
    if f.isInt then
      let sc := scaleReg s c (d.sbase + e0 + l).toNat
      (s, intValue f code (scaleS sc) (scaleZ sc))
    else if (f.isBlock || f.isF8) && d.hastab then
      let e := memRead s (.core c) (partOfCore s c) (d.stab + 2 * ((e0 + l) / 32)) 2
      (e.1, underScale (f.raw code) (leNat e.2.1 % 256))
    else (s, f.raw code)

/-- The lanes of one destination block: codes, flags, and the write of its table entry. -/
def cvtBlock (s : State) (c : Core) (f : Fmt) (src : ScaleSrc) (at' : Nat) (vs : List CVal) :
    State × List Nat × Flags :=
  let p := partOfCore s c
  match src with
  | .computed =>
    let o := convBlock f vs
    (agentWrite s (.core c) p at' (leBytes 2 o.2.1), o.1, o.2.2)
  | _ =>
    let e := memRead s (.core c) p at' 2
    let o := vs.map (convTable f (leNat e.2.1 % 256))
    let fl := o.foldl (fun a e => a.or e.2) {}
    (if fl.ovf then agentWrite e.1 (.core c) p (at' + 1) [1] else e.1, o.map (·.1), fl)

/-- A format without scales converted to itself: the codes are copied, and a NaN that is written sets NAN (02 R50, 04 R85).
DEDUCED, log 108. -/
def cvtCopy (c : Core) (w : WordX) (f : Fmt) (s : State) : State :=
  let codes := laneRange.map fun l => (s.core c).lane w.va l % 2 ^ f.width
  let nan := codes.any fun x => match f.layout with | some l => (l.decode x).isNan | none => false
  setFlags (s.setCore c ((s.core c).setVreg w.vd codes)) (partOfCore s c) { nan := nan }

/-- The scale registers that a conversion reads, of the source and of the destination. -/
def cvtScales (s : State) (c : Core) (w : WordX) : List (Nat × Nat) :=
  let e0 := bits (w.p s c) 32 32
  let regs := fun (h : Option Nat) => match h with
    | some h => laneRange.map fun l => (scaleOff + 16 * ((Desc.of (descOf s c h)).sbase + e0 + l).toNat, 16)
    | none => []
  (if ((Fmt.ofCode w.vf1).getD .f32).isInt then regs w.hSrc else []) ++
    (if bits w.raw 96 2 = 3 then regs (w.hC (w.p s c)) else [])

/-- The table entries that a conversion reads, of the source and of the destination under TABLE. -/
def cvtNeeds (s : State) (c : Core) (w : WordX) : List (Nat × Nat) :=
  let e0 := bits (w.p s c) 32 32
  let f1 := (Fmt.ofCode w.vf1).getD .f32
  let run := fun (h : Option Nat) => match h with
    | some h =>
      let d := Desc.of (descOf s c h)
      if d.hastab then [(d.stab + 2 * (e0 / 32), 2 * ((e0 + 255) / 32 - e0 / 32 + 1))] else []
    | none => []
  (if f1.isBlock || f1.isF8 then run w.hSrc else []) ++
    (match ScaleSrc.ofCode (bits w.raw 96 2) with | .table => run (w.hC (w.p s c)) | _ => [])

/-- The conversion of the 256 lanes from one format to another. A NaN code that is written sets NAN, also F8's 0x80 that a NaN
or an infinity takes under TABLE (DEDUCED, log 118); a block that S = 0xFF makes NaN writes no NaN of its own (DEDUCED, log
119). -/
def cvtOther (c : Core) (w : WordX) (s : State) : State :=
  let f1 := (Fmt.ofCode w.vf1).getD .f32
  let f2 := (Fmt.ofCode w.vf2).getD .f32
  let src := ScaleSrc.ofCode (bits w.raw 96 2)
  let p := w.p s c
  let e0 := bits p 32 32
  let d := Desc.of (descOf s c ((w.hC p).getD 0))
  let part := partOfCore s c
  let r := laneRange.foldl (fun (a : State × List XVal) l =>
    let v := cvtSource a.1 c w e0 l
    (v.1, a.2 ++ [v.2])) (sramRead s c (cvtScales s c w), [])
  let vs := r.2.map fun x => (⟨x, none⟩ : CVal)
  let o : State × List Nat × Flags :=
    match src with
    | .none =>
      let y := vs.map fun v => match f2.layout with | some l => convFloat l v | none => (0, {})
      (r.1, y.map (·.1), y.foldl (fun a e => a.or e.2) {})
    | .channel =>
      let y := (List.zip laneRange vs).map fun v =>
        let sc := scaleReg s c (d.sbase + e0 + v.1).toNat
        convInt f2 (scaleS sc) (scaleZ sc) v.2
      (r.1, y.map (·.1), y.foldl (fun a e => a.or e.2) {})
    | k =>
      (List.zip (span 0 8) (blocks32 9 vs)).foldl (fun (a : State × List Nat × Flags) b =>
        let y := cvtBlock a.1 c f2 k (d.stab + 2 * (e0 / 32 + b.1)) b.2
        (y.1, a.2.1 ++ y.2.1, a.2.2.or y.2.2)) (r.1, [], {})
  let written := (List.zip r.2 o.2.1).foldl (fun (a : Flags) e =>
    match f2.layout with
    | some l => a.or (resultFlags [e.1] (l.decode e.2))
    | none => a) { nan := f1.isInt && r.2.any XVal.isNan }
  let s := o.1.setCore c ((o.1.core c).setVreg w.vd o.2.1)
  setFlags s part (o.2.2.or written)

/-- Neither end of a conversion carries a scale: a floating-point format read and written without a table. -/
def cvtPlain (s : State) (c : Core) (w : WordX) (f : Fmt) : Bool :=
  f.layout.isSome && bits w.raw 96 2 == 0 &&
    !(f.isF8 && (match w.hSrc with | some h => (Desc.of (descOf s c h)).hastab | none => false))

/-- The conversion of the 256 lanes. -/
def cvtEffect (c : Core) (w : WordX) (s : State) : State :=
  match Fmt.ofCode w.vf1 with
  | some f => if w.vf1 = w.vf2 ∧ cvtPlain s c w f then cvtCopy c w f s else cvtOther c w s
  | none => cvtOther c w s

/-- VCVT: the lanes of Va from format VF1 into format VF2. The word waits for table entries in host memory (13 R321). -/
def execVcvt (c : Core) (s : State) : Host.Outcome State Fault Refusal :=
  atPart s c .m (fun w d => w.vop == 0x0C && issued w d && !d.vec) fun w =>
    match stageHost (issueWord s c w) (partOfCore s c) .event (cvtNeeds s c w) with
    | some t => t
    | none => markDone (unstage (cvtEffect c w s) (cvtNeeds s c w)) c .m fun d => { d with vec := true }

/-! ### VAMAX and VSCALE (04 R83, R84) -/

/-- The MAX and MIN of a scale register after a value: a NaN of either side stays. -/
def amaxStep (mx mn x : Nat) : Nat × Nat :=
  let v := f32.decode x
  if v.isNan then (f32.nan, f32.nan)
  else
    ((f32.encode (XVal.max (f32.decode mx) v)).1, (f32.encode (XVal.min (f32.decode mn) v)).1)

/-- Write four bytes of a scale register. -/
def putScale (s : State) (c : Core) (n o v : Nat) : State := localPut s c (scaleOff + 16 * n + o) (leBytes 4 v)

/-- VAMAX on one lane. -/
def amaxLane (c : Core) (w : WordX) (base : Nat) (s : State) (l : Nat) : State :=
  let r := scaleReg s c (base + l)
  let mx := if bit w.raw 107 then 0xFF80_0000 else bits r 64 32
  let mn := if bit w.raw 107 then 0x7F80_0000 else bits r 96 32
  let x := (s.core c).lane w.va l % 2 ^ 32
  let y := amaxStep mx mn x
  let s := putScale (putScale s c (base + l) 8 y.1) c (base + l) 12 y.2
  setStatusIf s (partOfCore s c) .nan ((f32.decode y.1).isNan || (f32.decode y.2).isNan)

/-- VAMAX: scale registers updated from the active lanes of Va. -/
def execVamax (c : Core) (s : State) : Host.Outcome State Fault Refusal :=
  vecPart c 0x0D (fun w s =>
    let base := bits (w.p s c) 0 13
    (span 0 w.vcount).foldl (amaxLane c w base) (sramRead s c [(scaleOff + 16 * base, 16 * w.vcount)])) s

/-- S and Z from MAX and MIN (04 R84). -/
def scaleOf (asym int4 : Bool) (mx mn : Nat) : Nat × Nat :=
  let Q : Nat := if int4 then 7 else 127
  let M := f32.decode mx
  let m := f32.decode mn
  let lo := if m.lt XVal.zero then m else XVal.zero
  let hi := if XVal.zero.lt M then M else XVal.zero
  let a := if asym then XVal.add hi lo.negate else (if M.abs.lt m.abs then m.abs else M.abs)
  if M.isNan || m.isNan then (f32.nan, 0)
  else if a.isZero || mx == 0xFF80_0000 then (0x3F80_0000, 0)
  else if a.isInf || a.isNan then (f32.nan, 0)
  else
    let S0 := (f32.encode (XVal.div a (.fin (if asym then 2 * Q + 1 else Q : Nat) 0 false))).1
    let S := if S0 = 0 then 1 else S0
    if !asym then (S, 0)
    else
      match lo, f32.decode S with
      | .fin n e _, .fin k f _ =>
        let num : Int := -n
        let q := if f ≤ e then rneRat (num * 2 ^ (e - f).toNat) k.natAbs else rneRat num (k.natAbs * 2 ^ (f - e).toNat)
        (S, wrap 8 (clampInt (-(Q + 1 : Nat)) Q (q - (Q + 1 : Nat))))
      | _, _ => (S, 0)

/-- VSCALE on one scale register. -/
def scaleOne (c : Core) (w : WordX) (base : Nat) (s : State) (i : Nat) : State :=
  let r := scaleReg s c (base + i)
  let y := scaleOf (bit w.raw 107) (bit w.raw 106) (bits r 64 32) (bits r 96 32)
  let s := localPut (putScale s c (base + i) 0 y.1) c (scaleOff + 16 * (base + i) + 4) (leBytes 1 y.2)
  setStatusIf s (partOfCore s c) .nan (y.1 == f32.nan)

/-- VSCALE: S and Z derived for a range of scale registers. -/
def execVscale (c : Core) (s : State) : Host.Outcome State Fault Refusal :=
  vecPart c 0x0E (fun w s =>
    let base := bits (w.p s c) 0 13
    (span 0 w.vcount).foldl (scaleOne c w base) (sramRead s c [(scaleOff + 16 * base, 16 * w.vcount)])) s

/-! ### VLD and VST (05 R107) -/

/-- VLD: 256 elements of 8 bytes from the larder. -/
def execVld (c : Core) (s : State) : Host.Outcome State Fault Refusal :=
  vecPart c 0x0F (fun w s =>
    let at' := larderOff + bits w.raw 96 10 * 2048
    let s := sramRead s c [(at', 2048)]
    s.setCore c ((s.core c).setVreg w.vd (laneRange.map fun l => leNat (localBytes s c (at' + 8 * l) 8)))) s

/-- VST: 256 elements of 8 bytes to the larder. -/
def execVst (c : Core) (s : State) : Host.Outcome State Fault Refusal :=
  vecPart c 0x10 (fun w s =>
    localPut s c (larderOff + bits w.raw 96 10 * 2048) (((s.core c).vreg w.va).flatMap (leBytes 8))) s

end Sys2Proof.Machine
end

