-- ==== Sys2Proof/Machine/Dispatch.lean ====
section
/-! DEFINITION. The one place where a command meets its meaning: one arm per command of the table. -/

namespace Sys2Proof.Machine

/-- What the command does to everything but the queue. -/
def exec (i : Instr) (s : State) : Host.Outcome State Fault Refusal :=
  match i with
  | .runStart who c start => Sys2Proof.Machine.execRunStart who c start s
  | .runStop who c start => Sys2Proof.Machine.execRunStop who c start s
  | .next c => Sys2Proof.Machine.execNext c s
  | .loop c st => Sys2Proof.Machine.execLoop c st s
  | .endl c st => Sys2Proof.Machine.execEndl c st s
  | .br c st => Sys2Proof.Machine.execBr c st s
  | .setp c st => Sys2Proof.Machine.execSetp c st s
  | .addp c st => Sys2Proof.Machine.execAddp c st s
  | .work c st => Sys2Proof.Machine.execWork c st s
  | .halt c st => Sys2Proof.Machine.execHalt c st s
  | .setlc c => Sys2Proof.Machine.execSetlc c s
  | .snop c st => Sys2Proof.Machine.execSnop c st s
  | .load c => Sys2Proof.Machine.execLoad c s
  | .gather c => Sys2Proof.Machine.execGather c s
  | .store c => Sys2Proof.Machine.execStore c s
  | .scatter c => Sys2Proof.Machine.execScatter c s
  | .copy c => Sys2Proof.Machine.execCopy c s
  | .waitSatisfied c st cycles => Sys2Proof.Machine.execWaitSatisfied c st cycles s
  | .pfenceRendezvous c => Sys2Proof.Machine.execPfenceRendezvous c s
  | .markRecordPass c => Sys2Proof.Machine.execMarkRecordPass c s
  | .sealWord c => Sys2Proof.Machine.execSealWord c s
  | .sealReport c => Sys2Proof.Machine.execSealReport c s
  | .tileDone c => Sys2Proof.Machine.execTileDone c s
  | .dieOrDeviceFlagSignal => Sys2Proof.Machine.execDieOrDeviceFlagSignal s
  | .mma run => Sys2Proof.Machine.execMma run s
  | .clr c => Sys2Proof.Machine.execClr c s
  | .drn c => Sys2Proof.Machine.execDrn c s
  | .lift c => Sys2Proof.Machine.execLift c s
  | .spill c => Sys2Proof.Machine.execSpill c s
  | .restore c => Sys2Proof.Machine.execRestore c s
  | .insertion c => Sys2Proof.Machine.execInsertion c s
  | .sweep c bank => Sys2Proof.Machine.execSweep c bank s
  | .readout c => Sys2Proof.Machine.execReadout c s
  | .drainRowWrite c => Sys2Proof.Machine.execDrainRowWrite c s
  | .vnop c => Sys2Proof.Machine.execVnop c s
  | .vfma32 c => Sys2Proof.Machine.execVfma32 c s
  | .vadd32 c => Sys2Proof.Machine.execVadd32 c s
  | .vmul32 c => Sys2Proof.Machine.execVmul32 c s
  | .vmax32 c => Sys2Proof.Machine.execVmax32 c s
  | .vmin32 c => Sys2Proof.Machine.execVmin32 c s
  | .vfma64 c => Sys2Proof.Machine.execVfma64 c s
  | .vadd64 c => Sys2Proof.Machine.execVadd64 c s
  | .vmul64 c => Sys2Proof.Machine.execVmul64 c s
  | .vdiv32 c => Sys2Proof.Machine.execVdiv32 c s
  | .vsqrt32 c => Sys2Proof.Machine.execVsqrt32 c s
  | .vexp32 c => Sys2Proof.Machine.execVexp32 c s
  | .vcvt c => Sys2Proof.Machine.execVcvt c s
  | .vamax c => Sys2Proof.Machine.execVamax c s
  | .vscale c => Sys2Proof.Machine.execVscale c s
  | .vld c => Sys2Proof.Machine.execVld c s
  | .vst c => Sys2Proof.Machine.execVst c s
  | .feedSlotReady c b cycles => Sys2Proof.Machine.execFeedSlotReady c b cycles s
  | .loadLand c op => Sys2Proof.Machine.execLoadLand c op s
  | .storeAck c op => Sys2Proof.Machine.execStoreAck c op s
  | .copyComplete c op => Sys2Proof.Machine.execCopyComplete c op s
  | .boundWordsRead c st => Sys2Proof.Machine.execBoundWordsRead c st s
  | .workFetchadd w => Sys2Proof.Machine.execWorkFetchadd w s
  | .workAnswer c st => Sys2Proof.Machine.execWorkAnswer c st s
  | .workArm who w => Sys2Proof.Machine.execWorkArm who w s
  | .pshadowWrite who c n value => Sys2Proof.Machine.execPshadowWrite who c n value s
  | .paramReadyWrite who c ready => Sys2Proof.Machine.execParamReadyWrite who c ready s
  | .coreReset who c => Sys2Proof.Machine.execCoreReset who c s
  | .coreDone c => Sys2Proof.Machine.execCoreDone c s
  | .granaryAccess q bank slot => Sys2Proof.Machine.execGranaryAccess q bank slot s
  | .granaryRefresh q bank => Sys2Proof.Machine.execGranaryRefresh q bank s
  | .grnSchedWrite who q entry owner => Sys2Proof.Machine.execGrnSchedWrite who q entry owner s
  | .schedFrameApply q => Sys2Proof.Machine.execSchedFrameApply q s
  | .flashClear who q => Sys2Proof.Machine.execFlashClear who q s
  | .flashClearDone q => Sys2Proof.Machine.execFlashClearDone q s
  | .selftest who q => Sys2Proof.Machine.execSelftest who q s
  | .selftestDone q found => Sys2Proof.Machine.execSelftestDone q found s
  | .hbmAccess pc => Sys2Proof.Machine.execHbmAccess pc s
  | .hbmRefresh pc bank => Sys2Proof.Machine.execHbmRefresh pc bank s
  | .patrolScrub pc => Sys2Proof.Machine.execPatrolScrub pc s
  | .hbmTempReport k temp => Sys2Proof.Machine.execHbmTempReport k temp s
  | .injectArm who k value => Sys2Proof.Machine.execInjectArm who k value s
  | .reduceScatter g => Sys2Proof.Machine.execReduceScatter g s
  | .allGather g => Sys2Proof.Machine.execAllGather g s
  | .allReduce g => Sys2Proof.Machine.execAllReduce g s
  | .broadcast g => Sys2Proof.Machine.execBroadcast g s
  | .allToAll g => Sys2Proof.Machine.execAllToAll g s
  | .send g => Sys2Proof.Machine.execSend g s
  | .recv g => Sys2Proof.Machine.execRecv g s
  | .liftAccumulate d => Sys2Proof.Machine.execLiftAccumulate d s
  | .blockReady g block => Sys2Proof.Machine.execBlockReady g block s
  | .blockPacket pkt => Sys2Proof.Machine.execBlockPacket pkt s
  | .extentNotice pkt => Sys2Proof.Machine.execExtentNotice pkt s
  | .xrec pkt => Sys2Proof.Machine.execXrec pkt s
  | .agreedNotice pkt => Sys2Proof.Machine.execAgreedNotice pkt s
  | .dataPacket pkt => Sys2Proof.Machine.execDataPacket pkt s
  | .poisonNotice pkt => Sys2Proof.Machine.execPoisonNotice pkt s
  | .collectiveComplete g => Sys2Proof.Machine.execCollectiveComplete g s
  | .sealGather p => Sys2Proof.Machine.execSealGather p s
  | .verdictQuery pkt => Sys2Proof.Machine.execVerdictQuery pkt s
  | .verdictAnswer pkt => Sys2Proof.Machine.execVerdictAnswer pkt s
  | .verdictQueryRetry p elapsedUs => Sys2Proof.Machine.execVerdictQueryRetry p elapsedUs s
  | .commit p mismatch => Sys2Proof.Machine.execCommit p mismatch s
  | .release p => Sys2Proof.Machine.execRelease p s
  | .updPrepare p => Sys2Proof.Machine.execUpdPrepare p s
  | .buddySlotValid p => Sys2Proof.Machine.execBuddySlotValid p s
  | .flitReceive n f => Sys2Proof.Machine.execFlitReceive n f s
  | .retry n fseq => Sys2Proof.Machine.execRetry n fseq s
  | .retryRepeat n elapsedNs => Sys2Proof.Machine.execRetryRepeat n elapsedNs s
  | .flow n xoff => Sys2Proof.Machine.execFlow n xoff s
  | .laneswap n lane spare count => Sys2Proof.Machine.execLaneswap n lane spare count s
  | .laneswapRepeat n elapsedNs => Sys2Proof.Machine.execLaneswapRepeat n elapsedNs s
  | .laneSwitch n tx spare cwc => Sys2Proof.Machine.execLaneSwitch n tx spare cwc s
  | .laneFail n lane lockLost skew corrected cwc => Sys2Proof.Machine.execLaneFail n lane lockLost skew corrected cwc s
  | .train n peerDev peerPort rttNs => Sys2Proof.Machine.execTrain n peerDev peerPort rttNs s
  | .lightDetect n => Sys2Proof.Machine.execLightDetect n s
  | .lightLoss n => Sys2Proof.Machine.execLightLoss n s
  | .trainingDone n goodTx seen => Sys2Proof.Machine.execTrainingDone n goodTx seen s
  | .trainingTimeout n elapsedUs => Sys2Proof.Machine.execTrainingTimeout n elapsedUs s
  | .beacon n b => Sys2Proof.Machine.execBeacon n b s
  | .beaconSend n => Sys2Proof.Machine.execBeaconSend n s
  | .grandmasterElection silentNs => Sys2Proof.Machine.execGrandmasterElection silentNs s
  | .timeOffsetAlarm offsetNs lastedUs => Sys2Proof.Machine.execTimeOffsetAlarm offsetNs lastedUs s
  | .packetRoute src pkt xoffNs => Sys2Proof.Machine.execPacketRoute src pkt xoffNs s
  | .write pkt => Sys2Proof.Machine.execWrite pkt s
  | .read pkt => Sys2Proof.Machine.execRead pkt s
  | .readData pkt => Sys2Proof.Machine.execReadData pkt s
  | .ack pkt => Sys2Proof.Machine.execAck pkt s
  | .nak pkt => Sys2Proof.Machine.execNak pkt s
  | .svcRequest pkt => Sys2Proof.Machine.execSvcRequest pkt s
  | .epochArm pkt => Sys2Proof.Machine.execEpochArm pkt s
  | .epochDone pkt => Sys2Proof.Machine.execEpochDone pkt s
  | .epochRetire pkt => Sys2Proof.Machine.execEpochRetire pkt s
  | .epochFlip => Sys2Proof.Machine.execEpochFlip s
  | .drainLimit elapsedUs => Sys2Proof.Machine.execDrainLimit elapsedUs s
  | .injectionRateRaise vc sinceCmeNs => Sys2Proof.Machine.execInjectionRateRaise vc sinceCmeNs s
  | .bankStateWrite who bank state => Sys2Proof.Machine.execBankStateWrite who bank state s
  | .portEnWrite who n en => Sys2Proof.Machine.execPortEnWrite who n en s
  | .structLoad who checkOnly => Sys2Proof.Machine.execStructLoad who checkOnly s
  | .structLoadDone => Sys2Proof.Machine.execStructLoadDone s
  | .bar2Read fn ide tlp off len => Sys2Proof.Machine.execBar2Read fn ide tlp off len s
  | .bar2Write fn ide tlp off data => Sys2Proof.Machine.execBar2Write fn ide tlp off data s
  | .registerWrite who target => Sys2Proof.Machine.execRegisterWrite who target s
  | .dmaCompletion tag status data => Sys2Proof.Machine.execDmaCompletion tag status data s
  | .dmaTimeout tag elapsedMs => Sys2Proof.Machine.execDmaTimeout tag elapsedMs s
  | .vfEnableClear => Sys2Proof.Machine.execVfEnableClear s
  | .flrVf f => Sys2Proof.Machine.execFlrVf f s
  | .flrPf0 => Sys2Proof.Machine.execFlrPf0 s
  | .linkDown => Sys2Proof.Machine.execLinkDown s
  | .linkUp flit rate width => Sys2Proof.Machine.execLinkUp flit rate width s
  | .ideKm fn secured => Sys2Proof.Machine.execIdeKm fn secured s
  | .msixUnmask fn ide vec => Sys2Proof.Machine.execMsixUnmask fn ide vec s
  | .entdaa ccc => Sys2Proof.Machine.execEntdaa ccc s
  | .setEndpointId b msg => Sys2Proof.Machine.execSetEndpointId b msg s
  | .getEndpointId b => Sys2Proof.Machine.execGetEndpointId b s
  | .getEndpointUuid b => Sys2Proof.Machine.execGetEndpointUuid b s
  | .getMctpVersionSupport b => Sys2Proof.Machine.execGetMctpVersionSupport b s
  | .getMessageTypeSupport b => Sys2Proof.Machine.execGetMessageTypeSupport b s
  | .getVendorDefinedMessageSupport b => Sys2Proof.Machine.execGetVendorDefinedMessageSupport b s
  | .regRead who via off size => Sys2Proof.Machine.execRegRead who via off size s
  | .regWrite who off size data => Sys2Proof.Machine.execRegWrite who off size data s
  | .ownClaim who => Sys2Proof.Machine.execOwnClaim who s
  | .ownRelease who => Sys2Proof.Machine.execOwnRelease who s
  | .ownHandover who succ => Sys2Proof.Machine.execOwnHandover who succ s
  | .heartbeat who => Sys2Proof.Machine.execHeartbeat who s
  | .electionWindowEnd elapsedMs => Sys2Proof.Machine.execElectionWindowEnd elapsedMs s
  | .handoverExpire elapsedMs => Sys2Proof.Machine.execHandoverExpire elapsedMs s
  | .ownershipLapse silentMs => Sys2Proof.Machine.execOwnershipLapse silentMs s
  | .getVersion b msg => Sys2Proof.Machine.execGetVersion b msg s
  | .getCapabilities b msg => Sys2Proof.Machine.execGetCapabilities b msg s
  | .negotiateAlgorithms b msg => Sys2Proof.Machine.execNegotiateAlgorithms b msg s
  | .getDigests b msg => Sys2Proof.Machine.execGetDigests b msg s
  | .getCertificate b msg => Sys2Proof.Machine.execGetCertificate b msg s
  | .challenge b msg => Sys2Proof.Machine.execChallenge b msg s
  | .getMeasurements b msg => Sys2Proof.Machine.execGetMeasurements b msg s
  | .keyExchange b msg => Sys2Proof.Machine.execKeyExchange b msg s
  | .finish b session msg => Sys2Proof.Machine.execFinish b session msg s
  | .endSession b session msg => Sys2Proof.Machine.execEndSession b session msg s
  | .spdmHeartbeat b session msg => Sys2Proof.Machine.execSpdmHeartbeat b session msg s
  | .keyUpdate b session msg => Sys2Proof.Machine.execKeyUpdate b session msg s
  | .mldsaSig b off msg => Sys2Proof.Machine.execMldsaSig b off msg s
  | .getChain b off msg => Sys2Proof.Machine.execGetChain b off msg s
  | .attest b nonce msg => Sys2Proof.Machine.execAttest b nonce msg s
  | .report b off msg => Sys2Proof.Machine.execReport b off msg s
  | .log b off msg => Sys2Proof.Machine.execLog b off msg s
  | .callSubmit who f slot addr => Sys2Proof.Machine.execCallSubmit who f slot addr s
  | .callStart f slot => Sys2Proof.Machine.execCallStart f slot s
  | .callComplete f slot => Sys2Proof.Machine.execCallComplete f slot s
  | .loadProgram f slot => Sys2Proof.Machine.execLoadProgram f slot s
  | .stepLoop f slot => Sys2Proof.Machine.execStepLoop f slot s
  | .seal f slot => Sys2Proof.Machine.execSeal f slot s
  | .ingest f slot => Sys2Proof.Machine.execIngest f slot s
  | .batchLanded p => Sys2Proof.Machine.execBatchLanded p s
  | .checkpoint f slot => Sys2Proof.Machine.execCheckpoint f slot s
  | .restoreCall f slot => Sys2Proof.Machine.execRestoreCall f slot s
  | .replay f slot => Sys2Proof.Machine.execReplay f slot s
  | .install f slot => Sys2Proof.Machine.execInstall f slot s
  | .clearwin f slot => Sys2Proof.Machine.execClearwin f slot s
  | .probe f slot => Sys2Proof.Machine.execProbe f slot s
  | .probeTimeout f slot elapsedUs => Sys2Proof.Machine.execProbeTimeout f slot elapsedUs s
  | .fieldTest f slot found => Sys2Proof.Machine.execFieldTest f slot found s
  | .marginCal f slot found => Sys2Proof.Machine.execMarginCal f slot found s
  | .errlogRead f slot => Sys2Proof.Machine.execErrlogRead f slot s
  | .cancel f slot => Sys2Proof.Machine.execCancel f slot s
  | .fwbeat sc => Sys2Proof.Machine.execFwbeat sc s
  | .hoursWrite hours => Sys2Proof.Machine.execHoursWrite hours s
  | .por found hbmFailed => Sys2Proof.Machine.execPor found hbmFailed s
  | .warmReset who => Sys2Proof.Machine.execWarmReset who s
  | .perst => Sys2Proof.Machine.execPerst s
  | .apply who addr => Sys2Proof.Machine.execApply who addr s
  | .svnCommit who stype value => Sys2Proof.Machine.execSvnCommit who stype value s
  | .fuseOpDone words => Sys2Proof.Machine.execFuseOpDone words s
  | .erase who foff daddr len => Sys2Proof.Machine.execErase who foff daddr len s
  | .program who foff daddr len => Sys2Proof.Machine.execProgram who foff daddr len s
  | .flashRead who foff daddr len => Sys2Proof.Machine.execFlashRead who foff daddr len s
  | .switch who => Sys2Proof.Machine.execSwitch who s
  | .confirm who => Sys2Proof.Machine.execConfirm who s
  | .flashOpDone => Sys2Proof.Machine.execFlashOpDone s
  | .errRecordWrite => Sys2Proof.Machine.execErrRecordWrite s
  | .errRingWrite who value => Sys2Proof.Machine.execErrRingWrite who value s
  | .registerUpset f idx allDiffer => Sys2Proof.Machine.execRegisterUpset f idx allDiffer s
  | .take who blk c held => Sys2Proof.Machine.execTake who blk c held s
  | .fence who p => Sys2Proof.Machine.execFence who p s
  | .fenceTimeout p elapsedUs => Sys2Proof.Machine.execFenceTimeout p elapsedUs s
  | .fenced p => Sys2Proof.Machine.execFenced p s
  | .unfence who p => Sys2Proof.Machine.execUnfence who p s
  | .partReset who p => Sys2Proof.Machine.execPartReset who p s
  | .partDone p => Sys2Proof.Machine.execPartDone p s
  | .portReset who n => Sys2Proof.Machine.execPortReset who n s
  | .quarantineExpire tag elapsedMs => Sys2Proof.Machine.execQuarantineExpire tag elapsedMs s
  | .fencedNotice pkt => Sys2Proof.Machine.execFencedNotice pkt s
  | .unfencedNotice pkt => Sys2Proof.Machine.execUnfencedNotice pkt s
  | .inputSample mv ma => Sys2Proof.Machine.execInputSample mv ma s
  | .shedStageLift => Sys2Proof.Machine.execShedStageLift s
  | .holdupExpire => Sys2Proof.Machine.execHoldupExpire s
  | .retentionExpire => Sys2Proof.Machine.execRetentionExpire s
  | .stage5Exit => Sys2Proof.Machine.execStage5Exit s
  | .modeSelect who sel => Sys2Proof.Machine.execModeSelect who sel s
  | .railSettled => Sys2Proof.Machine.execRailSettled s
  | .refclkLoss missingUs => Sys2Proof.Machine.execRefclkLoss missingUs s
  | .refclkReturn presentUs => Sys2Proof.Machine.execRefclkReturn presentUs s
  | .thermalSample r => Sys2Proof.Machine.execThermalSample r s
  | .thermalLevelDrop => Sys2Proof.Machine.execThermalLevelDrop s
  | .thermalCooldown => Sys2Proof.Machine.execThermalCooldown s
  | .targetD0 who => Sys2Proof.Machine.execTargetD0 who s
  | .targetIdle who => Sys2Proof.Machine.execTargetIdle who s
  | .targetDrowse who => Sys2Proof.Machine.execTargetDrowse who s
  | .powerApply mv heldMs => Sys2Proof.Machine.execPowerApply mv heldMs s
  | .storeCharged => Sys2Proof.Machine.execStoreCharged s
  | .perstDeassertion asserted100us => Sys2Proof.Machine.execPerstDeassertion asserted100us s
  | .vfEnableSet => Sys2Proof.Machine.execVfEnableSet s

end Sys2Proof.Machine
end

