-- ==== Sys2Proof/Safety.lean ====
section
/-! DEFINITION. What counts as a safe run: no step ends in a fault or a refusal, and the tables of the state keep
their canonical form. -/

namespace Sys2Proof.Machine

/-- The step from a state answers a next state. -/
def StepsOn (s : State) : Prop := ∃ t, step s = .next t

/-- Memory lists its bytes in rising order of their address and lists none at what it reads as unlisted. -/
def Memory.wf (s : State) : Bool := twf (memBase s.scrambled) s.mem

end Sys2Proof.Machine
end

