-- ==== Sys2Proof/Certificates/Slice0/Obligations.lean ====
section
/-! DEFINITION. The statements for the provers, each a definition `Obligations.<Name> : Prop`, with the small helpers they
are written with in `Sys2Proof.Claims`. -/

open Sys2Proof Sys2Proof.Machine

namespace Sys2Proof.Claims

/-! ### What a command leaves alone -/

/-- Every register field outside a list keeps its value at every index. -/
def regsKept (s t : State) (but : List Field) : Prop := ∀ f i, f ∉ but → fget t f i = fget s f i

/-- Every byte of device memory reads as before. -/
def memKept (s t : State) : Prop := ∀ a, mget t a = mget s a

/-- Memory lists the same bytes, and no more half-stacks are destroyed, so that every byte of device memory reads as before. -/
def memSame (s t : State) : Prop := t.mem = s.mem ∧ t.scrambled = s.scrambled

/-- Every core but one is as before. -/
def coresKept (s t : State) (c : Core) : Prop := ∀ d, d ≠ c → t.core d = s.core d

/-- What no command of a group touches: the fuses, the flash, the ports, the functions of the host, the hub and the fabric. -/
def outsideKept (s t : State) : Prop :=
  t.fuses = s.fuses ∧ t.flash = s.flash ∧ t.rot = s.rot ∧ t.pwr = s.pwr ∧ t.ports = s.ports ∧ t.fns = s.fns ∧ t.hub = s.hub ∧
    t.net = s.net

end Sys2Proof.Claims

/-! ### The block -/

/-- A step runs the command at the front of the queue on the state with the queue's rest. -/
def Obligations.StepRunsFrontCommand : Prop :=
  ∀ (c : Instr) (rest : List Instr) (s : State), s.pending = c :: rest →
    step s = exec c { s with pending := rest }

/-- With no command waiting, a step lets ten nanoseconds pass: fabric time moves on by ten (while no offset is slewed
away), and no memory, error record, fuse or message changes. The model's choice, log entry 1. -/
def Obligations.EmptyQueueLetsTimePass : Prop :=
  ∀ s : State, s.pending = [] → ∃ t, step s = .next t ∧
    (s.net.slew = 0 → fget t .sklTimeNow 0 = (fget s .sklTimeNow 0 + 10) % 2 ^ 64) ∧
    Claims.regsKept s t [.sklTimeNow] ∧ Claims.memSame s t ∧ t.errQueue = s.errQueue ∧ t.fuses = s.fuses ∧ t.sent = s.sent ∧
    t.pending = [] ∧ t.parts = s.parts ∧ t.ports = s.ports ∧ t.hub = s.hub

/-- No command stops the block: every command answers a next state in every state. -/
def Obligations.NoCommandStops : Prop := ∀ (i : Instr) (s : State), ∃ t, exec i s = .next t

/-- A command has its effect on everything but the queue of the waiting commands. -/
def Obligations.CommandsLeaveQueue : Prop :=
  ∀ (i : Instr) (s t : State), exec i s = .next t → t.pending = s.pending

namespace Sys2Proof.Claims

/-- The forms that hold in every state a run reaches: memory and register file are in canonical form, and the queue of
error records holds at most 256. -/
def Inv (s : State) : Prop := Memory.wf s = true ∧ regsWf 0 s.regs = true ∧ s.errQueue.length ≤ 256

/-- Each fuse that is blown stays blown, and no counter of the fuses falls. -/
def bitsRise (a b : Nat) : Prop := ∀ i, a.testBit i = true → b.testBit i = true

end Sys2Proof.Claims

/-- Every step from a state in which the forms hold leads to one in which they hold. -/
def Obligations.StepKeepsForms : Prop := ∀ s t : State, Claims.Inv s → step s = .next t → Claims.Inv t

/-- After reset the forms hold, no command waits, nothing has been sent, memory reads its reset contents, every register field reads its
reset value, every core group, port and partition is at rest, and the boot of a power-on reset is due. -/
def Obligations.ResetState : Prop :=
  Claims.Inv State.reset ∧ State.reset.pending = [] ∧ State.reset.sent = [] ∧ (∀ a, mget State.reset a = memReset a) ∧
    (∀ f i, fget State.reset f i = Field.resetAt f i) ∧
    (∀ q i, i < 64 → fget State.reset .grnSchedOwner (q * 64 + i) = if i = 63 then 0x103 else 0x1FF) ∧
    (∀ i, fget State.reset .sklRouteOut i = 7) ∧ (∀ c : Core, coreState State.reset c = 0) ∧
    (∀ p : Part, (State.reset.part p).enabled = false) ∧ (∀ n : Port, (State.reset.port n).light = false) ∧
    State.reset.pwr.cold = true

/-- No fuse is ever cleared (15 R366): over any step every fuse bit of the identity, the device secret, the key slots and the
lifecycle keeps its one, and no counter falls. -/
def Obligations.FusesOnlyRise : Prop :=
  ∀ s t : State, step s = .next t →
    Claims.bitsRise s.fuses.identity t.fuses.identity ∧ Claims.bitsRise s.fuses.uds t.fuses.uds ∧
    Claims.bitsRise s.fuses.vendorRevoked t.fuses.vendorRevoked ∧
    Claims.bitsRise s.fuses.ownerEnrolled t.fuses.ownerEnrolled ∧
    Claims.bitsRise s.fuses.ownerRevoked t.fuses.ownerRevoked ∧ Claims.bitsRise s.fuses.lifecycle t.fuses.lifecycle ∧
    (∀ k, k < 4 → Claims.bitsRise (s.fuses.vendorHash.getD k 0) (t.fuses.vendorHash.getD k 0)) ∧
    (∀ k, k < 4 → Claims.bitsRise (s.fuses.ownerHash.getD k 0) (t.fuses.ownerHash.getD k 0)) ∧
    s.fuses.svnBoot ≤ t.fuses.svnBoot ∧ s.fuses.svnFw ≤ t.fuses.svnFw ∧ s.fuses.svnTests ≤ t.fuses.svnTests ∧
    s.fuses.svnStruct ≤ t.fuses.svnStruct

/-! ### The sequencer (05) -/

namespace Sys2Proof.Claims

/-- The stream stands at a sound word `w` whose sequencer operation is `op` and whose other parts have all been made. -/
def atOp (s : State) (c : Core) (st : Stream) (op : Nat) (w : WordX) : Prop :=
  atWord s c st true = .word w ∧ w.op = op ∧ partsMade w ((s.core c).stream st).done = true ∧
    ((s.core c).stream st).done.claimed = false ∧ ((s.core c).stream st).done.bounds = false

/-- The stream continues at `pc` with the loop levels `loops`, at a new word. -/
def goesTo (t : State) (c : Core) (st : Stream) (pc : Nat) (loops : List LoopX) : Prop :=
  ((t.core c).stream st).pc = pc ∧ ((t.core c).stream st).loops = loops ∧ ((t.core c).stream st).done = {}

/-- What a word may change of the registers as it issues: the step status by VARY and by CHECKSUM, the tally of lost marks and
the tally of dropped records. -/
def issueFields : List Field := [.updStatusStatus, .coreMarkLostLost, .errLostDropped]

/-- What closing a word may change of the registers: what issuing may, and what the operation itself writes. -/
def wordFields (own : List Field) : List Field := issueFields ++ own

/-- What closing a word leaves alone. -/
def wordFrame (s t : State) (c : Core) (own : List Field) : Prop :=
  regsKept s t (wordFields own) ∧ memKept s t ∧ coresKept s t c ∧ outsideKept s t

/-- The iterations that a LOOP opens (05 R102): the immediate count, P[PSEL] or CORE_LC of the level, as the word takes them
when it issues (05 R110). -/
def loopIterations (s : State) (c : Core) (w : WordX) : Nat :=
  if w.cond = 0 then w.psel else if w.cond = 1 then w.p s c % 2 ^ 32 else w.lcTaken s c

/-- IMM sign-extended to 64 bits. -/
def imm64 (imm : Nat) : Nat := if imm < 2 ^ 15 then imm else imm + (2 ^ 64 - 2 ^ 16)

/-- The condition of a BR on the value of P[PSEL] (05 R103). -/
def branches (cond p : Nat) : Prop :=
  cond = 0 ∨ (cond = 1 ∧ p = 0) ∨ (cond = 2 ∧ p ≠ 0) ∨ (cond = 3 ∧ 2 ^ 63 ≤ p) ∨ (4 ≤ cond ∧ p % 2 ^ 32 = 2 ^ 32 - 1)

end Sys2Proof.Claims

/-- Where a stream continues (05 R102, R103, R113, R115): NEXT and SNOP at the next word; LOOP in its body with a new level,
or past its ENDL for a count of 0; ENDL at the first word of the body while iterations are left, else past it with the
level closed; BR at its target when the condition holds of P[PSEL] as the word takes it at issue, with the levels closed that
do not contain it, else at the next word. No other core, memory or unit outside changes, and of the registers only those that
issuing a word may change. -/
def Sys2Proof.Claims.SequencerContinues : Prop :=
  ∀ (s : State) (c : Core) (st : Stream) (w : WordX),
    (Claims.atOp s c .m 0 w → ∃ t, exec (.next c) s = .next t ∧
      Claims.goesTo t c .m ((s.core c).sm.pc + 1) (s.core c).sm.loops ∧ Claims.wordFrame s t c []) ∧
    (st ≠ .m → Claims.atOp s c st 0 w → ∃ t, exec (.snop c st) s = .next t ∧
      Claims.goesTo t c st (((s.core c).stream st).pc + 1) ((s.core c).stream st).loops ∧ Claims.wordFrame s t c []) ∧
    (Claims.atOp s c st 1 w → ∃ t, exec (.loop c st) s = .next t ∧ Claims.wordFrame s t c [] ∧
      let x := (s.core c).stream st
      let n := Claims.loopIterations s c w
      if n = 0 then Claims.goesTo t c st (w.imm + 1) x.loops
      else Claims.goesTo t c st (x.pc + 1) (⟨x.pc + 1, w.imm, n⟩ :: x.loops)) ∧
    (∀ l r, ((s.core c).stream st).loops = l :: r → Claims.atOp s c st 2 w →
      ∃ t, exec (.endl c st) s = .next t ∧ Claims.wordFrame s t c [] ∧
        if 1 < l.remain then Claims.goesTo t c st l.first (⟨l.first, l.last, l.remain - 1⟩ :: r)
        else Claims.goesTo t c st (((s.core c).stream st).pc + 1) r) ∧
    (Claims.branches w.cond (w.p s c) → Claims.atOp s c st 3 w → ∃ t, exec (.br c st) s = .next t ∧
      Claims.goesTo t c st w.imm
        (((s.core c).stream st).loops.filter fun l => decide (l.first ≤ w.imm) && decide (w.imm ≤ l.last)) ∧
      Claims.wordFrame s t c []) ∧
    (¬ Claims.branches w.cond (w.p s c) → Claims.atOp s c st 3 w → ∃ t, exec (.br c st) s = .next t ∧
      Claims.goesTo t c st (((s.core c).stream st).pc + 1) ((s.core c).stream st).loops ∧ Claims.wordFrame s t c [])

/-- SETP writes P[PSEL] from IMM, whole or 16 bits of it; ADDP adds IMM sign-extended, modulo 2^64, to P[PSEL] as the word
takes it at issue; SETLC sets a loop count; each continues at the next word and writes no other parameter. HALT stops its
stream at its word (05 R102). -/
def Sys2Proof.Claims.SequencerWrites : Prop :=
  ∀ (s : State) (c : Core) (st : Stream) (w : WordX),
    (Claims.atOp s c st 4 w → ∃ t, exec (.setp c st) s = .next t ∧
      pget t c w.psel = (if w.cond = 0 then Claims.imm64 w.imm else putBits (w.p s c) (16 * w.cond) 16 w.imm % 2 ^ 64) ∧
      (∀ d n, n < 256 → (d, n) ≠ (c, w.psel) → pget t d n = pget s d n) ∧
      Claims.goesTo t c st (((s.core c).stream st).pc + 1) ((s.core c).stream st).loops ∧
      Claims.wordFrame s t c [.coreParamValue]) ∧
    (Claims.atOp s c st 5 w → ∃ t, exec (.addp c st) s = .next t ∧
      pget t c w.psel = (w.p s c + Claims.imm64 w.imm) % 2 ^ 64 ∧
      (∀ d n, n < 256 → (d, n) ≠ (c, w.psel) → pget t d n = pget s d n) ∧
      Claims.goesTo t c st (((s.core c).stream st).pc + 1) ((s.core c).stream st).loops ∧
      Claims.wordFrame s t c [.coreParamValue]) ∧
    (Claims.atOp s c .m 8 w → ∃ t, exec (.setlc c) s = .next t ∧
      fget t .coreLcCount (c.val * 8 + w.cond) = w.imm ∧
      (∀ i, i ≠ c.val * 8 + w.cond → fget t .coreLcCount i = fget s .coreLcCount i) ∧
      Claims.goesTo t c .m ((s.core c).sm.pc + 1) (s.core c).sm.loops ∧ Claims.wordFrame s t c [.coreLcCount]) ∧
    (Claims.atOp s c st 7 w → ∃ t, exec (.halt c st) s = .next t ∧
      ((t.core c).stream st).run = .halted ∧ ((t.core c).stream st).pc = ((s.core c).stream st).pc ∧
      Claims.wordFrame s t c [.coreSeqStatusState])

/-- Every word of the sequencer continues its stream and writes what its operation names (05 R102, R103, R113, R115). -/
def Obligations.SequencerWords : Prop := Claims.SequencerContinues ∧ Claims.SequencerWrites

/-! ### Work counters (06) -/

namespace Sys2Proof.Claims

/-- What waits at a work counter, in order. -/
def asksOf (s : State) (k : Ctr) : List CtrAsk := (s.ctrQueue.filter fun e => e.1 == k.val).map (·.2)

/-- The arms at the front of a counter's queue, and what stands behind them. -/
def isArm (a : CtrAsk) : Bool := a == .arm
def behindArms (l : List CtrAsk) : List CtrAsk := l.dropWhile isArm

/-- NEXT once the arms at the front of the queue have taken effect: each sets it to BASE (06 R151). -/
def nextArmed (s : State) (k : Ctr) (l : List CtrAsk) (next : Nat) : Nat :=
  if l.head? = some .arm then fget s .hstWorkBase k.val else next

end Sys2Proof.Claims

/-- WORK sends its claim of IMM to the counter, behind what waits there. WORK_FETCHADD serves one claim atomically, in order of
arrival, whatever else waits: the arms before it have set NEXT to BASE; while NEXT is below LIMIT the answer is NEXT and NEXT
becomes min(NEXT + n, LIMIT), else the answer is 0xFFFF_FFFF and NEXT is unchanged; the arms that stood behind it then take
effect (06 R150, R151). The answer goes to the core that asked; a claim whose core has been started afresh since is served all
the same, and its answer goes nowhere. Other counters, other cores and memory are untouched. -/
def Sys2Proof.Claims.WorkClaimsServed : Prop :=
  ∀ (s : State),
    (∀ (c : Core) (st : Stream) (w : WordX), Claims.atOp s c st 6 w → ∃ t, exec (.work c st) s = .next t ∧
      t.ctrQueue = s.ctrQueue ++ [(w.wcid, .claim c st w.imm)] ∧ ((t.core c).stream st).done.claimed = true ∧
      ((t.core c).stream st).done.begun = true ∧ ((t.core c).stream st).pc = ((s.core c).stream st).pc ∧
      Claims.wordFrame s t c []) ∧
    (∀ (k : Ctr) (ask : CtrAsk) (rest : List CtrAsk) (n : Nat) (who : Option (Core × Stream)),
      Claims.behindArms (Claims.asksOf s k) = ask :: rest →
      (match who with | some (c, st) => ask = .claim c st n | none => ask = .orphan n) →
      fget s .hstWorkNext k.val < 2 ^ 32 → fget s .hstWorkLimit k.val < 2 ^ 32 → fget s .hstWorkBase k.val < 2 ^ 32 →
      ∃ t, exec (.workFetchadd k) s = .next t ∧
        Claims.asksOf t k = Claims.behindArms rest ∧
        t.ctrQueue.filter (fun e => e.1 != k.val) = s.ctrQueue.filter (fun e => e.1 != k.val) ∧
        (let next := Claims.nextArmed s k (Claims.asksOf s k) (fget s .hstWorkNext k.val)
         let limit := fget s .hstWorkLimit k.val
         fget t .hstWorkNext k.val =
            Claims.nextArmed s k rest (if next < limit then min (next + n) limit else next) ∧
          (∀ c st, who = some (c, st) →
            t.core c = { s.core c with
              answers := (s.core c).answers ++ [(st, if next < limit then next else 0xFFFF_FFFF)] })) ∧
        (∀ d : Core, (∀ st, who ≠ some (d, st)) → t.core d = s.core d) ∧
        (∀ f i, (f, i) ≠ (.hstWorkNext, k.val) → fget t f i = fget s f i) ∧ Claims.memSame s t ∧ Claims.outsideKept s t)

/-- WORK_ANSWER writes the first answer that has come for its stream into P[PSEL] and takes it from the list; the word makes its
SIGNAL, at once for a local flag and on its way to the flag's unit for any other, its SEAL is due when it carries SEAL, and
the stream goes on at the next word (05 R102, R110, R120, R127). -/
def Sys2Proof.Claims.WorkAnswerClosesWord : Prop :=
  ∀ (s : State) (c : Core) (st : Stream) (w : WordX) (a : Nat),
    (s.core c).answers.find? (fun e => e.1 == st) = some (st, a) →
    fetchWord s c st ((s.core c).stream st).pc = some w → ((s.core c).stream st).done.claimed = true → a < 2 ^ 64 →
    ∃ t, exec (.workAnswer c st) s = .next t ∧ pget t c w.psel = a ∧
      (∀ d n, n < 256 → (d, n) ≠ (c, w.psel) → pget t d n = pget s d n) ∧
      (t.core c).answers = dropFirst (fun e => e.1 == st) (s.core c).answers ∧
      (w.signal = false → t.signals = s.signals ∧ (t.core c).flags = (s.core c).flags) ∧
      (∀ i, w.signal = true → flagRef c w.sflag = some (.loc c i) →
        t.signals = s.signals ∧ (t.core c).flag i = if (s.core c).flag i = 0xFFFF then 0xFFFF else (s.core c).flag i + 1) ∧
      (∀ f, w.signal = true → flagRef c w.sflag = some f → (∀ d i, f ≠ .loc d i) → t.signals = s.signals ++ [f]) ∧
      (t.core c).sealPhase = (if w.seal then .due else (s.core c).sealPhase) ∧
      Claims.goesTo t c st (((s.core c).stream st).pc + 1) ((s.core c).stream st).loops ∧
      Claims.regsKept s t [.coreParamValue, .errLostDropped] ∧ Claims.memSame s t ∧ Claims.coresKept s t c ∧
      Claims.outsideKept s t

/-- A work counter serves its claims one at a time, in order, and the answer closes the word (06 R149 to R151; 05 R117). -/
def Obligations.WorkCounterClaims : Prop := Claims.WorkClaimsServed ∧ Claims.WorkAnswerClosesWord

/-! ### The engines of a core (05, 06) -/

namespace Sys2Proof.Claims

/-- The stream stands at a sound word of the moving operation `op`, whose engine has room. -/
def atMove (s : State) (c : Core) (st : Stream) (op : Nat) (w : WordX) : Prop :=
  atWord s c st true = .word w ∧ w.op = op ∧ issued w ((s.core c).stream st).done = true ∧
    ((s.core c).stream st).done.bounds = false ∧ engineRoom s c w = true

/-- The word has issued and waits for its bound words: it keeps its place and has noted what it took at issue. -/
def asksBounds (s t : State) (c : Core) (st : Stream) (w : WordX) (b : BoundX) : Prop :=
  ((t.core c).stream st).pc = ((s.core c).stream st).pc ∧ ((t.core c).stream st).done.bounds = true ∧
    ((t.core c).stream st).done.begun = true ∧ ((t.core c).stream st).bound = some b ∧
    (t.core c).loads = (s.core c).loads ∧ (t.core c).stores = (s.core c).stores ∧ (t.core c).copies = (s.core c).copies ∧
    memSame s t ∧ regsKept s t issueFields

/-- Every core but one is as before, save for its tally of corrected errors, which a read through its window may raise. -/
def coresButTally (s t : State) (c : Core) : Prop :=
  ∀ d, d ≠ c → t.core d = { s.core d with errTally := (t.core d).errTally }

/-- What stays the same of a load while its requests go out and are answered: its number, its word, the runs it moves, the
header it writes and where, the slot it fills. -/
def loadKey (m : LoadOp) : Nat × Nat × List (Nat × Nat × Nat) × Bytes × Nat × Option (Nat × Nat) :=
  (m.id, m.word, m.plan, m.header, m.headerAt, m.ring)

/-- What stays the same of a store: its number and its word. -/
def moveKey (m : MoveOp) : Nat × Nat := (m.id, m.word)

/-- A word's own tile is under way in `t`: a load stands behind the others with the runs and the header of its tile, a store or
a transfer behind the others with its number, and the core's next operation has the next number (06 R141 to R145, R453). -/
def tileBegun (s t : State) (c : Core) (w : WordX) (b : BoundX) : Prop :=
  let d := Desc.of (descOf s c w.handle)
  let x := Desc.of (descOf s c w.xhandle)
  let n := (s.core c).nextOp
  let tile := tileOf d b.ext b.tile
  (t.core c).nextOp = n + 1 ∧
  (w.op = 8 → (t.core c).loads.map loadKey = (s.core c).loads.map loadKey ++
    [(n, w.raw, loadRuns d b.ext tile b.tile (loadAt s c w d),
      if d.kind = 2 then slotHeader 0 0 0 b.tile 0 else tile.header d b.ext b.tile, loadAt s c w d,
      ringSlot s c w.handle d)]) ∧
  (w.op = 9 → (indexGroup d b).2.2 = true → (t.core c).loads.map loadKey = (s.core c).loads.map loadKey ++
    [(n, w.raw, [], slotHeader 0 0 0 b.tile 0, loadAt s c w d, ringSlot s c w.handle d)]) ∧
  (w.op = 9 → (indexGroup d b).2.2 = false →
    let g : Tile := ⟨(indexGroup d b).1, 0, 0, false⟩
    let fates := (rowFates s c w d x b).2
    (t.core c).loads.map loadKey = (s.core c).loads.map loadKey ++
      [(n, w.raw, rowRuns d (loadAt s c w d) (g.x0 d) (g.n0 d b.ext) 0 (fateRows fates),
        slotHeader ((fateRows fates).map fun r => 2 ^ r.1).sum (g.n0 d b.ext) 0 b.tile
          (ofBool (fates.contains .outOfRange) + 2 * ofBool (fates.contains .forbidden)),
        loadAt s c w d, ringSlot s c w.handle d)]) ∧
  (w.op = 8 ∨ w.op = 9 → (∀ m ∈ (s.core c).stores, m.todo = []) →
    memSame (if w.op = 9 ∧ (indexGroup d b).2.2 = false then (rowFates s c w d x b).1 else s) t) ∧
  (w.op = 8 ∨ w.op = 9 → d.rtrack = true →
    ((t.core c).ring w.handle).fill = (((s.core c).ring w.handle).fill + 1) % d.rslots ∧
    ((t.core c).ring w.handle).claimed = ((s.core c).ring w.handle).claimed ++ [((s.core c).ring w.handle).fill]) ∧
  (w.op = 10 ∨ w.op = 11 → (t.core c).stores.map moveKey = (s.core c).stores.map moveKey ++ [(n, w.raw)]) ∧
  (w.op = 12 → (t.core c).copies.map moveKey = (s.core c).copies.map moveKey ++ [(n, w.raw)] ∧
    (t.core c).copies.map (·.plan) = (s.core c).copies.map (·.plan) ++ [copyPlan d x b])

/-- The SIGNAL of a completed word: 1 more in a local flag that is not full; for another flag, a signal on its way to the
flag's unit; nothing without SIGNAL (05 R120, R121). -/
def signalled (s t : State) (c : Core) (st : Stream) (raw : Nat) : Prop :=
  let w := WordX.mk st 0 raw
  (w.signal = false → t.signals = s.signals ∧ (t.core c).flags = (s.core c).flags) ∧
    (∀ i, w.signal = true → flagRef c w.sflag = some (.loc c i) →
      t.signals = s.signals ∧ (t.core c).flag i = if (s.core c).flag i = 0xFFFF then 0xFFFF else (s.core c).flag i + 1) ∧
    (∀ f, w.signal = true → flagRef c w.sflag = some f → (∀ d i, f ≠ .loc d i) → t.signals = s.signals ++ [f])

/-- What a completion may change of the registers: STATE, when it was the last that a halted core waited for, and the tally of
dropped records, when its SIGNAL finds a full flag. -/
def doneFields : List Field := [.coreSeqStatusState, .errLostDropped]

end Sys2Proof.Claims

/-- A word of L, S or C whose bounds are not in MEMORY and whose index entries are at hand does what its operation names, and
its stream goes on at the next word: the tile is under way, no parameter changes, and no other core does but for a tally of
corrected errors. One that needs MEMORY bound words issues and waits for them with what it took at issue, moving
nothing yet (05 R110, R112; 06 R139, R141 to R145, R453). -/
def Sys2Proof.Claims.MovesIssue : Prop :=
  ∀ (s : State) (c : Core) (w : WordX) (i : Instr) (st : Stream) (op : Nat),
    (i, st, op) ∈ [(Instr.load c, Stream.l, 8), (Instr.gather c, Stream.l, 9), (Instr.store c, Stream.s, 10),
      (Instr.scatter c, Stream.s, 11), (Instr.copy c, Stream.c, 12)] →
    Claims.atMove s c st op w → ((s.core c).stream st).bound = none →
    (let b := boundAtIssue s c w
     (needsBounds s c w = true →
        ∃ t, exec i s = .next t ∧ Claims.asksBounds s t c st w b ∧ Claims.coresKept s t c ∧ Claims.outsideKept s t) ∧
     (needsBounds s c w = false →
        stageHost (holdMove s c w b) (partOfCore s c) .event (indexNeeds s c w b) = none →
        ∃ t, exec i s = .next t ∧
          t = closeWord (unstage (moveEffect s c w b) (indexNeeds s c w b)) c w false id
            (((s.core c).stream st).pc + 1) ((s.core c).stream st).loops false ∧
          Claims.goesTo t c st (((s.core c).stream st).pc + 1) ((s.core c).stream st).loops ∧
          Claims.tileBegun s t c w b ∧ Claims.coresButTally s t c ∧ (∀ n, pget t c n = pget s c n)))

/-- With its bound words read, a word whose extents are there and whose range is its partition's has its tile under way under
those extents, and its stream goes on (06 R139, R154). The words are read as the partition reads its memory. -/
def Sys2Proof.Claims.BoundWordsMoveTile : Prop :=
  ∀ (s : State) (c : Core) (st : Stream) (w : WordX) (b : BoundX) (e f : Ext),
    ((s.core c).stream st).bound = some b → fetchWord s c st ((s.core c).stream st).pc = some w →
    ((s.core c).stream st).done.bounds = true → 8 ≤ w.op → w.op ≤ 12 →
    stageHost s (partOfCore s c) .event (boundNeeds s c w) = none →
    (let d := Desc.of (descOf s c w.handle)
     let y := Desc.of (descOf s c w.xhandle)
     let r := readBounds s c d b.ext
     let q := if w.usesX then readBounds r.1 c y b.xext else (r.1, some b.xext)
     let b' := { b with ext := e, xext := f }
     let u := unstage q.1 (boundNeeds s c w)
     r.2 = some e → q.2 = some f → chooseCharge (rangeCharges q.1 c w d y b') = none →
     stageHost s (partOfCore s c) .event (indexNeeds u c w b') = none →
     ∃ t, exec (.boundWordsRead c st) s = .next t ∧
       t = closeWord (unstage (moveEffect u c w b') (indexNeeds u c w b')) c w false id
         (((s.core c).stream st).pc + 1) ((s.core c).stream st).loops false ∧
       Claims.goesTo t c st (((s.core c).stream st).pc + 1) ((s.core c).stream st).loops ∧
       Claims.tileBegun u t c w b' ∧ Claims.coresButTally s t c ∧ (∀ n, pget t c n = pget s c n))

/-- A word that moves tiles starts its operation at its issue, or once its bound words are read (05 R112; 06 R139). -/
def Obligations.MovesStart : Prop := Claims.MovesIssue ∧ Claims.BoundWordsMoveTile

/-- An operation completes once no request of it is out or waits to go out (05 R121, R128; 06 R141, R147): a load lands its data
and then its header in the larder, sets the full mark of its ring's slot and leaves the list; a store and a transfer leave
their lists. Each makes the SIGNAL of its word, and no other core changes. -/
def Sys2Proof.Claims.MovesLand : Prop :=
  ∀ (s : State) (c : Core) (op : Nat),
    (∀ m, (s.core c).loads.find? (fun m => m.id == op) = some m → m.left = 0 → m.todo = [] →
      ∃ t, exec (.loadLand c op) s = .next t ∧
        (t.core c).loads = dropFirst (fun m => m.id == op) (s.core c).loads ∧
        Claims.memSame (localPut (m.plan.foldl (placeRun c m.got) s) c (larderOff + m.headerAt) m.header) t ∧
        mbytes t (winAddr c (larderOff + m.headerAt)) m.header.length = m.header ∧
        (∀ h k, m.ring = some (h, k) → ((t.core c).ring h).full = ((s.core c).ring h).full ++ [k] ∧
          ((t.core c).ring h).claimed = dropFirst (· == k) ((s.core c).ring h).claimed) ∧
        (m.ring = none → (t.core c).rings = (s.core c).rings) ∧
        Claims.signalled s t c .l m.word ∧ Claims.coresKept s t c ∧ Claims.regsKept s t Claims.doneFields) ∧
    (∀ m, (s.core c).stores.find? (fun m => m.id == op) = some m → m.left = 0 → m.todo = [] →
      ∃ t, exec (.storeAck c op) s = .next t ∧
        (t.core c).stores = dropFirst (fun m => m.id == op) (s.core c).stores ∧
        Claims.signalled s t c .s m.word ∧ Claims.coresKept s t c ∧ Claims.memSame s t ∧
        Claims.regsKept s t Claims.doneFields) ∧
    (∀ m, (s.core c).copies.find? (fun m => m.id == op) = some m → m.left = 0 → m.reading = false →
      ∃ t, exec (.copyComplete c op) s = .next t ∧
        (t.core c).copies = dropFirst (fun m => m.id == op) (s.core c).copies ∧
        Claims.signalled s t c .c m.word ∧ Claims.coresKept s t c ∧ Claims.memSame s t ∧
        Claims.regsKept s t Claims.doneFields)

/-- A drained tile whose writes are all acknowledged, or a lifted one, leaves its list. With TILE_DONE in its word it is posted to
the XCE of its core's die, behind the tiles posted before, and the word's SIGNAL is made now; without TILE_DONE nothing is posted
or signalled (05 R121, R128). Of a word with TILE_DONE and WORK or HALT too, its WORK or HALT has made the SIGNAL: the model's
choice, log entry 128, since R121 does not say which of the two moments wins. -/
def Sys2Proof.Claims.TilesComplete : Prop :=
  ∀ (s : State) (c : Core) (x : Taken), (s.core c).finished.find? (·.acked) = some x →
    ∃ t, exec (.tileDone c) s = .next t ∧
      (t.core c).finished = dropFirst (·.acked) (s.core c).finished ∧
      (x.req.wordX.tileDone = true → t.posts = tset (fun _ => []) s.posts (dieOf c).val
        (tget (fun _ => []) s.posts (dieOf c).val ++ [{ core := c, handle := x.req.handle, tile := x.req.tile }])) ∧
      (x.req.wordX.tileDone = false → t.posts = s.posts) ∧
      (let w := x.req.wordX
       (w.tileDone = true → w.op ≠ 6 → w.op ≠ 7 → Claims.signalled s t c .m x.req.word) ∧
         (w.tileDone = false ∨ w.op = 6 ∨ w.op = 7 → t.signals = s.signals ∧ (t.core c).flags = (s.core c).flags)) ∧
      Claims.coresKept s t c ∧ Claims.memSame s t ∧ Claims.regsKept s t Claims.doneFields

/-- A move whose requests are all answered lands; each tile that is done signals and leaves its list (06). -/
def Obligations.MovesComplete : Prop := Claims.MovesLand ∧ Claims.TilesComplete

/-! ### Waits, the rendezvous, marks, seals and signals (05) -/

namespace Sys2Proof.Claims

/-- What the SIGNAL of a HALT word gives back to the local flag that the word waited for, when the word issues as its WAIT is
satisfied: the SIGNAL is made in the issue cycle (05 R121). -/
def backAtIssue (s : State) (c : Core) (st : Stream) (w : WordX) (f : FlagRef) : Nat :=
  match f with
  | .loc _ _ => if w.op = 7 ∧ w.signal = true ∧ flagRef c w.sflag = some f ∧ w.pfence = false ∧
      (st == .m && feedDue s c w) = false ∧ ((s.core c).stream st).done.begun = false ∧ flagGet s f ≤ 0xFFFF then 1 else 0
  | _ => 0

end Sys2Proof.Claims

/-- A satisfied WAIT takes 1 from its flag, is noted, and sets SLIP when it came after its slack. A word that then needs no
rendezvous, no tracked slot and no room in its engine has issued; one of L, S or C whose engine has no room waits at issue and
has not (05 R110, R120 to R122; 06 R147, R153). -/
def Sys2Proof.Claims.WaitTakesFlag : Prop :=
  ∀ (s : State) (c : Core) (st : Stream) (cycles : Nat) (w : WordX) (f : FlagRef),
    atWord s c st true = .word w → flagRef c w.wflag = some f →
    waitReady s c st cycles w ((s.core c).stream st).done = true →
    (w.pfence = true ∨ chooseCharge (allCharges s c st w (!(st == .m && feedDue s c w))) = none) →
    ∃ t, exec (.waitSatisfied c st cycles) s = .next t ∧ 1 ≤ flagGet s f ∧
      flagGet t f = flagGet s f - 1 + Claims.backAtIssue s c st w f ∧
      ((t.core c).stream st).done.waited = true ∧ ((t.core c).stream st).pc = ((s.core c).stream st).pc ∧
      (w.pfence = false → (st == .m && feedDue s c w) = false → (w.moves = true → engineRoom s c w = true) →
        ((t.core c).stream st).done.begun = true) ∧
      (w.moves = true → engineRoom s c w = false →
        ((t.core c).stream st).done.begun = ((s.core c).stream st).done.begun) ∧
      (∀ p, partOfCore s c = some p → w.wslack ≠ 255 → w.wslack < cycles →
        (fget t .updStatusStatus p.val).testBit 5 = true) ∧
      Claims.regsKept s t Claims.issueFields ∧ Claims.memKept s t ∧ Claims.coresKept s t c ∧ Claims.outsideKept s t

/-- At the rendezvous of PFENCE every dirty shadow entry becomes the live parameter, no other parameter changes, READY
reads 0 and no entry is dirty, and every stream that stands at its PFENCE has passed it (05 R118, R119). -/
def Sys2Proof.Claims.RendezvousPublishesShadows : Prop :=
  ∀ (s : State) (c : Core) (w : WordX),
    atWord s c .m true = .word w → w.pfence = true → (s.core c).sm.done.fenced = false →
    (w.wait = true → (s.core c).sm.done.waited = true) → fget s .coreParamReadyReady c.val = 1 →
    (∀ st ∈ [Stream.l, Stream.s, Stream.c], ((s.core c).stream st).run = .halted ∨ atFence s c st = true) →
    ∃ t, exec (.pfenceRendezvous c) s = .next t ∧
      (∀ n, n ∈ (s.core c).dirty → pget t c n = fget s .corePshadowValue (c.val * 256 + n) % 2 ^ 64) ∧
      (∀ d n, (∀ m ∈ (s.core c).dirty, d.val * 256 + n ≠ c.val * 256 + m) → pget t d n = pget s d n) ∧
      fget t .coreParamReadyReady c.val = 0 ∧ (t.core c).dirty = [] ∧
      (∀ st, ((s.core c).stream st).run ≠ .halted → ((t.core c).stream st).done.fenced = true) ∧
      Claims.regsKept s t [.coreParamValue, .coreParamReadyReady] ∧ Claims.memKept s t ∧ Claims.coresKept s t c

/-- The feed enters a tracked slot once its mark is set: the operand is noted as ready, with SLIP when the mark came after
the declared slack (06 R147). -/
def Sys2Proof.Claims.FeedEntersSlot : Prop :=
  ∀ (s : State) (c : Core) (b : Bool) (cycles : Nat) (w : WordX) (h : Nat),
    atWord s c .m false = .word w → issued w (s.core c).sm.done = true →
    (if b then w.hB (w.p s c) else w.hA (w.p s c)) = some h →
    (if b then entersB (s.core c) w && !(s.core c).sm.done.feedB else entersA (s.core c) w && !(s.core c).sm.done.feedA) = true →
    (let d := Desc.of (descOf s c h)
     d.rtrack = true → ((s.core c).ring h).feed ∈ ((s.core c).ring h).full →
     (d.rslack = 255 ∨ d.rslack ≤ cycles) →
     ∃ t, exec (.feedSlotReady c b cycles) s = .next t ∧
       (if b then (t.core c).sm.done.feedB else (t.core c).sm.done.feedA) = true ∧
       (∀ p, partOfCore s c = some p → d.rslack ≠ 255 → d.rslack < cycles →
         (fget t .updStatusStatus p.val).testBit 5 = true) ∧
       Claims.regsKept s t [.updStatusStatus] ∧ Claims.memKept s t ∧ Claims.coresKept s t c)

/-- What a word waits for: its flag, the marks of its operands' slots, the rendezvous of PFENCE (05 R118 to R122; 06 R147). -/
def Obligations.WaitsFeedsAndRendezvous : Prop := Claims.WaitTakesFlag ∧ Claims.RendezvousPublishesShadows ∧ Claims.FeedEntersSlot

/-- The oldest MARK record of a core goes to the hub: while a loop with a phase log runs, record k is written at PLOG +
16 × (k mod PLOGN) and PLOGCNT counts it; else it is discarded (05 R126, 14 R348). A write of the phase log that host memory
does not take ends the loop with DMAERR, a loop's transfer failing (13 R329, 14 R340). A word with SEAL holds its core and turns
its partition's seal from OPEN to DRAINING; once what the core had issued has completed it reports (05 R127). The oldest
signal on its way adds 1 to its flag (05 R120, R121). -/
def Obligations.MarksSealsSignals : Prop :=
  ∀ (s : State) (c : Core),
    (∀ r rest, (s.core c).marks = r :: rest → ∃ t, exec (.markRecordPass c) s = .next t ∧ (t.core c).marks = rest ∧
      Claims.coresKept s t c ∧
      ((∀ p l, partOfCore s c = some p → (s.part p).loop = some l → l.plogn = 0) →
        Claims.memSame s t ∧ Claims.regsKept s t []) ∧
      (∀ p l, partOfCore s c = some p → (s.part p).loop = some l → l.plogn ≠ 0 →
        fget t .svcLoopPlogcnt p.val = (fget s .svcLoopPlogcnt p.val + 1) % 2 ^ Field.svcLoopPlogcnt.spec.width ∧
        Claims.memSame (agentWrite (s.setCore c { s.core c with marks := rest }) (.sc (scOf s p)) (some p)
          (l.plog + 16 * (fget s .svcLoopPlogcnt p.val % l.plogn)) (r.bytes c)) t ∧
        (let took := hostTakes s (l.plog + 16 * (fget s .svcLoopPlogcnt p.val % l.plogn)) 16
         (took = true → (t.part p).loop = some l) ∧
         (took = false → (t.part p).loop = none ∧ fget t .svcLoopLoop p.val = 0 ∧
           ∀ y, callOf s l.fn l.slot = some y → y.finished = none →
             ∃ d, callOf t l.fn l.slot = some { y with finished := some (sDMAERR, d, []) })))) ∧
    ((s.core c).sealPhase = .due → ∃ t, exec (.sealWord c) s = .next t ∧ (t.core c).sealPhase = .held ∧
      (t.core c).sealWait = opsOut (s.core c) ∧
      (∀ p, partOfCore s c = some p → fget s .updSealState p.val = 0 → fget t .updSealState p.val = 1) ∧
      Claims.regsKept s t [.updSealState] ∧ Claims.memSame s t ∧ Claims.coresKept s t c) ∧
    ((s.core c).sealPhase = .held → (∀ i ∈ (s.core c).sealWait, i ∉ opsOut (s.core c)) → (s.core c).pipe = [] →
      ∃ t, exec (.sealReport c) s = .next t ∧ (t.core c).sealPhase = .reported ∧
        (∀ p, partOfCore s c = some p → c ∈ (t.part p).reported) ∧
        Claims.regsKept s t [] ∧ Claims.memSame s t ∧ Claims.coresKept s t c) ∧
    (∀ f rest, s.signals = f :: rest → ∃ t, exec .dieOrDeviceFlagSignal s = .next t ∧ t.signals = rest ∧
      (flagGet s f < 0xFFFF → flagGet t f = flagGet s f + 1) ∧ (flagGet s f = 0xFFFF → flagGet t f = flagGet s f) ∧
      Claims.memSame s t ∧ Claims.regsKept s t [.errLostDropped])

/-! ### The matrix unit and the crib (03, 04) -/

/-- A clear sets every register of its bank to zero: N, GUARD, RES, the special lane and every flag; a chained pair is
cleared whole, both banks EMPTY (03 R451). It takes effect before any insertion of its own word: until the clear is made, the MMA of the word makes
nothing (03 R55). -/
def Obligations.ClearZeroesBank : Prop :=
  ∀ (s : State) (c : Core) (w : WordX),
    atWord s c .m true = .word w → w.clr = true → issued w (s.core c).sm.done = true → (s.core c).sm.done.clr = false →
    (∀ faults, exec (.mma ⟨c, faults⟩) s = .next s) ∧
    (bankHeld (s.core c) w.bank (takesBoth (s.core c) w) = false →
      bankInPipe (s.core c) w.bank (takesBoth (s.core c) w) = false →
      ∃ t, exec (.clr c) s = .next t ∧ (t.core c).sm.done.clr = true ∧ ((t.core c).bank w.bank).kind = .empty ∧
        (∀ pos, let r := (t.core c).reg w.bank pos
          r.ext = 0 ∧ r.guard = 0 ∧ r.res = 0 ∧ r.lane = .none ∧ r.sat = false ∧ r.chaff = false ∧ r.t2 = false ∧
            r.nzero = false) ∧
        ((w.mop = 1 ∧ w.isF64 = true) ∨ (s.core c).bank0.kind = .chain ∨ (s.core c).bank1.kind = .chain →
          (∀ b, ((t.core c).bank b).kind = .empty) ∧ (t.core c).crib = [] ∧ (t.core c).chain = []) ∧
        (¬((w.mop = 1 ∧ w.isF64 = true) ∨ (s.core c).bank0.kind = .chain ∨ (s.core c).bank1.kind = .chain) →
          ∀ b, b ≠ w.bank → (t.core c).bank b = (s.core c).bank b ∧
            ∀ pos, (t.core c).reg b pos = (s.core c).reg b pos) ∧
        Claims.coresKept s t c ∧ Claims.memSame s t ∧ Claims.regsKept s t Claims.issueFields)

namespace Sys2Proof.Claims

/-- The M stream stands at a sound word that has issued and whose matrix operation `op` is its next part. -/
def atMatrix (s : State) (c : Core) (op : Nat) (w : WordX) : Prop :=
  atWord s c .m true = .word w ∧ w.mop = op ∧ issued w (s.core c).sm.done = true ∧ (s.core c).sm.done.mxu = false ∧
    (w.clr = true → (s.core c).sm.done.clr = true)

/-- One more readout of a kind stands behind the others, with the bank and the bits of its word, and with P[PSEL] and the
descriptors and extents that the word took at issue (05 R110, 06 R139). -/
def asksReadout (s t : State) (c : Core) (w : WordX) (k : ReadKind) : Prop :=
  ∃ r, (t.core c).readouts = (s.core c).readouts ++ [r] ∧ r.kind = k ∧ r.bank = w.bank ∧ r.word = w.raw ∧
    r.row = w.addr ∧ r.id = (s.core c).nextOp ∧ r.chain = (s.core c).isChain w.bank ∧ r.pval = w.p s c ∧
    (r.cdesc, r.ext) = w.cTaken s c ∧ (k = .drain → r.bias = w.biasTaken s c)

end Sys2Proof.Claims

/-- MMA feeds its terms into the pipeline, its products as its multipliers form them, and gives its bank its kind, touching no
register yet; a product that the mod-3 check finds wrong sets CHECKSUM. That a command names the faulty multipliers, by how far a
product of theirs lies off, is the model's choice, log entry 129 (04 R77). DRN, LIFT and SPILL ask for
a readout of the bank; RESTORE takes the records of the slot into the bank; each is made once and changes no memory, no
other core, and of the registers of BAR0 only what issuing a word may (03 R451; 04 R95; 05 R104; 06 R146; 09 R199). -/
def Obligations.MatrixWords : Prop :=
  ∀ (s : State) (c : Core) (w : WordX),
    (∀ ha hb faults, Claims.atMatrix s c 1 w → w.hA (w.p s c) = some ha → w.hB (w.p s c) = some hb →
      bankHeld (s.core c) w.bank (takesBoth (s.core c) w) = false →
      ∃ t, exec (.mma ⟨c, faults⟩) s = .next t ∧ (t.core c).sm.done.mxu = true ∧ ((t.core c).bank w.bank).kind = kindOfWord w ∧
        (let feed := feedOf s c w (feedSlot s c ha ((s.core c).bank w.bank).curA)
            (feedSlot s c hb ((s.core c).bank w.bank).curB) faults
         (t.core c).pipe = (s.core c).pipe ++
            (mmaTerms feed ((s.core c).bank w.bank).windows ((s.core c).bank w.bank).blockPos).2.2 ∧
         (∀ p m, partOfCore s c = some p → m ∈ feed.faulty → m.off % 3 ≠ 0 →
            (fget t .updStatusStatus p.val).testBit 8 = true)) ∧
        (t.core c).crib = (s.core c).crib ∧ (t.core c).chain = (s.core c).chain ∧
        Claims.coresKept s t c ∧ Claims.memSame s t ∧ Claims.regsKept s t Claims.issueFields) ∧
    (atWord s c .m true = .word w → w.drn = true → issued w (s.core c).sm.done = true → (s.core c).sm.done.drn = false →
      (w.clr = true → (s.core c).sm.done.clr = true) → (w.mop = 0 ∨ (s.core c).sm.done.mxu = true) →
      ∃ t, exec (.drn c) s = .next t ∧ (t.core c).sm.done.drn = true ∧ Claims.asksReadout s t c w .drain ∧
        Claims.coresKept s t c ∧ Claims.memSame s t ∧ Claims.regsKept s t Claims.issueFields) ∧
    (Claims.atMatrix s c 2 w → liftEarly s w = false → ∃ t, exec (.lift c) s = .next t ∧ (t.core c).sm.done.mxu = true ∧
      Claims.asksReadout s t c w .lift ∧ Claims.coresKept s t c ∧ Claims.memSame s t ∧ Claims.regsKept s t Claims.issueFields) ∧
    (Claims.atMatrix s c 3 w → ∃ t, exec (.spill c) s = .next t ∧ (t.core c).sm.done.mxu = true ∧
      Claims.asksReadout s t c w .spill ∧ Claims.coresKept s t c ∧ Claims.memSame s t ∧ Claims.regsKept s t Claims.issueFields) ∧
    (∀ h, Claims.atMatrix s c 4 w → w.hA (w.p s c) = some h →
      (let both := (Desc.of (descOf s c h)).fmtCode == 5 || (s.core c).isChain w.bank
       bankHeld (s.core c) w.bank both = false → bankInPipe (s.core c) w.bank both = false →
       ∃ t, exec (.restore c) s = .next t ∧ (t.core c).sm.done.mxu = true ∧
         (t.core c).crib = ((restoreEffect s c w h).core c).crib ∧ (t.core c).chain = ((restoreEffect s c w h).core c).chain ∧
         ((t.core c).bank w.bank).kind = (if (Desc.of (descOf s c h)).fmtCode = 5 then .chain
           else if (restored (restoreRecords s c h)).any (fun r => r.2.t2) then .t2 else .ordinary) ∧
         Claims.coresKept s t c ∧ Claims.memSame s t ∧ Claims.regsKept s t Claims.issueFields))

/-- An insertion lands in its register and leaves the pipeline. One that adds t × 2^b, within the digits of the register,
changes the register's extended value by exactly t × 2^b unless the register saturates, takes its residue along modulo
2^31 − 1 and counts; a saturated register ignores it (03 R51, R56, R57). Of the registers of BAR0 only the step status may
change, and STATE when it was the last thing that a halted core waited for. -/
def Sys2Proof.Claims.InsertionAddsExactly : Prop :=
  ∀ (s : State) (c : Core) (e : Term) (rest : List Term), (s.core c).pipe = e :: rest →
    (let r := if e.chain then (s.core c).chainReg e.pos else (s.core c).reg e.bank e.pos
     r.sweepDue = false →
     ∃ t, exec (.insertion c) s = .next t ∧ (t.core c).pipe = rest ∧ Claims.coresKept s t c ∧ Claims.memSame s t ∧
       Claims.regsKept s t [.updStatusStatus, .coreSeqStatusState] ∧
       (∀ (x : Int) (b : Nat), e.what = .add x b →
         let y := if e.chain then (t.core c).chainReg e.pos else (t.core c).reg e.bank e.pos
         (r.sat = true → y = r) ∧
         (r.sat = false → r.carry.length = r.digit.length → (x * 2 ^ b).natAbs < 2 ^ (64 * r.digit.length - 2) →
           y.count = r.count + 1 ∧ (y.res : Int) % resP = ((r.res : Int) + x * 2 ^ b) % resP ∧
           (y.sat = false → y.ext = r.ext + x * 2 ^ b))))

/-- A sweep that is due sweeps every register of its bank, or of the chain: it passes every deferred carry up, so that a
register that has not saturated keeps its extended value exactly, its count starts at 0 and every digit is the digit of
that value (03 R56). -/
def Sys2Proof.Claims.SweepKeepsValue : Prop :=
  (∀ (s : State) (c : Core) (bank : Fin 2),
    (if (s.core c).isChain bank then (s.core c).chain.any (fun e => e.2.sweepDue)
      else (s.core c).crib.any fun e => e.1 % 2 == bank.val && e.2.sweepDue) = true →
    ∃ t, exec (.sweep c bank) s = .next t ∧
      t.core c = (s.core c).sweepBank bank ((s.core c).isChain bank) ∧ Claims.coresKept s t c ∧ Claims.memSame s t ∧
      t.regs = s.regs) ∧
  (∀ r : LongReg, 0 < r.digit.length → r.sat = false →
    r.sweep.ext = r.ext ∧ r.sweep.count = 0 ∧ r.sweep.res = r.res ∧ r.sweep.digit.length = r.digit.length ∧
      (∀ i, i < r.digit.length → r.sweep.digit.getD i 0 = r.ext / 2 ^ (64 * i) % 2 ^ 64))

/-- An accumulator holds its sum exactly: an insertion adds its value, a sweep keeps it (03 R51, R56, R57). -/
def Obligations.AccumulatorKeepsValue : Prop := Claims.InsertionAddsExactly ∧ Claims.SweepKeepsValue

namespace Sys2Proof.Claims

/-- The registers of a bank as a readout takes them: swept; saturated by a drain or a lift when the value left the image (03 R69;
04 R95). -/
def takenRegs (s : State) (c : Core) (r : Readout) : List (Nat × LongReg) :=
  let raw := (s.core c).bankRegs r.bank r.chain
  let after := if r.kind = .spill then raw.map fun e => (e.1, e.2.sweep)
    else raw.map fun e => (e.1, e.2.sweep.afterReadout.1)
  if ((s.core c).bank r.bank).kind = .t2 then after.map fun e => (e.1, { e.2 with t2 := true }) else after

/-- The tile that a readout takes, with no row of it written. -/
def takenTile (s : State) (c : Core) (r : Readout) : Taken :=
  { req := r, t2 := ((s.core c).bank r.bank).kind == .t2, regs := takenRegs s c r, row := 0, left := 0, mse := XVal.zero
    mseIn := 0, mseOut := 0 }

/-- What stays the same of a tile while its writes go out: its readout, the rows that it has written, its registers. -/
def takenKey (x : Taken) : Readout × Nat × List (Nat × LongReg) := (x.req, x.row, x.regs)

/-- How many elements of a recomputed tile exceed, of pairs of the narrow value and the wide one: those whose difference is
larger than 2^−K times the largest wide magnitude, or that differ in being finite (10 R240). -/
def exceedings (k : Nat) (pairs : List (XVal × XVal)) : Nat :=
  (pairs.filter (exceeds ((largest ((pairs.filter fun e => !e.2.isNan).map fun e => e.2.abs)).scale (-(k : Int))))).length

/-- The comparison of a recomputed tile by readout `r`, made in the state `u` that the take has left, in which the tile reads `x`:
`q` is what it leaves, with the report that is to be written (10 R240, R241). -/
def compared (u : State) (c : Core) (r : Readout) (x : Taken) (q : State × List (Nat × Bytes)) : Prop :=
  let pairs := (shadowPairs u c x).2
  let many := exceedings (r.desc.shtol % 256) pairs
  let at' := fget u .coreEpiShadowPtrAddr c.val
  (many ≤ r.desc.shtol / 256 → q.2 = [] ∧ fget q.1 .coreEpiShadowPtrAddr c.val = at') ∧
  (r.desc.shtol / 256 < many →
    fget q.1 .coreEpiShadowPtrAddr c.val = (at' + 32) % 2 ^ Field.coreEpiShadowPtrAddr.spec.width ∧
    (∀ p, partOfCore u c = some p → (fget q.1 .updStatusStatus p.val).testBit 9 = true ∧
      (grantedRun u p at' 32 = true → ∃ worst,
        q.2 = [(at', leBytes 8 (fget u .updStepStep p.val) ++ leBytes 4 r.tile ++ leBytes 2 (bits r.pval 10 16) ++
          leBytes 1 c.val ++ [0] ++ leBytes 4 many ++ leBytes 4 pairs.length ++ leBytes 8 worst)] ∧
        ((∀ e ∈ pairs, e.1.isFin = true ∧ e.2.isFin = true) →
          worst = (f64.encode (largest (pairs.map gap))).1))))

end Sys2Proof.Claims

/-- The readout at the front takes its bank once no term of it is in the pipeline, while at most one tile before it still goes
through the epilogue and that holds no row for want of drain tags: its registers are
swept and, by a drain or a lift, saturated where their value left the image, which sets SAT; a residue that does not agree sets
CHECKSUM. A drain and a spill become the tile that is written out; a lift joins the queue of the die's XCE, which has room for
it and for its accumulators, and is over. Of a recomputed tile nothing is written out: it is compared at once with the tile in
memory, and when more than NMAX elements exceed, SHADOW is set, the report goes to CORE_EPI_SHADOW_PTR and the pointer moves on by
32 (03 R69, R72; 04 R95 to R98; 09 R196, R199; 10 R240, R241). That the largest difference of a report is open where an element
is not finite is the model's choice, and so is that two tiles at most are under way: log entry 160. -/
def Sys2Proof.Claims.ReadoutTakes : Prop :=
  ∀ (s : State) (c : Core) (r : Readout) (rest : List Readout),
    (s.core c).readouts = r :: rest → bankInPipe (s.core c) r.bank r.chain = false →
    (s.core c).taken.length < 2 → drainFull (s.core c) = false → (r.kind = .lift → liftFull s c r = false) →
    stageHost s (partOfCore s c) .event r.needs = none →
    ∃ t, exec (.readout c) s = .next t ∧ (t.core c).readouts = rest ∧ Claims.coresButTally s t c ∧
      (∀ p, partOfCore s c = some p →
        (∀ e ∈ (s.core c).bankRegs r.bank r.chain,
          (e.2.sweep.resOk = false → (fget t .updStatusStatus p.val).testBit 8 = true) ∧
          (r.kind ≠ .spill → e.2.sweep.afterReadout.2 = true → (fget t .updStatusStatus p.val).testBit 2 = true))) ∧
      (t.core c).crib = ((s.core c).setBankRegs r.bank r.chain (Claims.takenRegs s c r)).crib ∧
      (t.core c).chain = ((s.core c).setBankRegs r.bank r.chain (Claims.takenRegs s c r)).chain ∧
      (r.kind = .lift → (t.core c).taken = (s.core c).taken ∧ Claims.memSame s t ∧
        Claims.regsKept s t [.updStatusStatus, .errLostDropped, .coreSeqStatusState] ∧
        t.lifts = tset (fun _ => []) s.lifts (dieOf c).val (tget (fun _ => []) s.lifts (dieOf c).val ++
          [{ core := c, xtag := bits r.word 176 16, cdesc := BitVec.ofNat 512 r.cdesc, ext := r.ext, tile := r.tile
             regs := Claims.takenRegs s c r }])) ∧
      (r.kind = .spill ∨ (r.kind = .drain ∧ bit r.word 74 = false) →
        (t.core c).taken = (s.core c).taken ++ [Claims.takenTile s c r] ∧ Claims.memSame s t ∧ t.lifts = s.lifts ∧
        Claims.regsKept s t [.updStatusStatus, .errLostDropped]) ∧
      (r.kind = .drain → bit r.word 74 = true →
        (t.core c).taken.map Claims.takenKey = (s.core c).taken.map Claims.takenKey ∧ t.lifts = s.lifts ∧
        (let k := takeBank s c r rest
         let q := shadowCompare k.1 c k.2
         k.2 = Claims.takenTile s c r ∧ Claims.memSame s k.1 ∧
           Claims.regsKept s k.1 [.updStatusStatus, .errLostDropped] ∧ Claims.compared k.1 c r k.2 q ∧
           t = drainsOn (finishTile (unstage q.1 r.needs) c (k.2.ask q.2)) c ∧
           fget t .coreEpiShadowPtrAddr c.val = fget q.1 .coreEpiShadowPtrAddr c.val ∧
           (∀ p, (fget q.1 .updStatusStatus p).testBit 9 = true → (fget t .updStatusStatus p).testBit 9 = true)))

/-- The oldest tile that was taken leaves row by row while the drain queue has room: a row of a spill is its records, in order; a
row of a drain is what `drainRow` gives of it, the runs of memory that it completes, converted under the C descriptor, with their
table entries and their flags in the step status. After the last row the MSE record leaves, when the word has MSE, its pointer moves
on by 16, and the tile is over. What is to be written is sent, in order, as the drain queue has room (04 R88 to R98; 06 R143, R146,
R153). -/
def Sys2Proof.Claims.TileLeaves : Prop :=
  ∀ (s : State) (c : Core) (x : Taken) (rest : List Taken),
    (s.core c).taken = x :: rest → drainFull (s.core c) = false →
    stageHost s (partOfCore s c) .event x.needs = none →
    ∃ t, exec (.drainRowWrite c) s = .next t ∧
      (x.rowsLeft ≠ 0 → x.req.kind = .spill →
        t = drainsOn (s.setCore c { s.core c with
          taken := ({ x with row := x.row + 1 } : Taken).ask (spillRow x) :: rest }) c ∧
        (t.core c).taken.map Claims.takenKey = (x.req, x.row + 1, x.regs) :: rest.map Claims.takenKey ∧
        Claims.coresKept s t c) ∧
      (x.rowsLeft ≠ 0 → x.req.kind ≠ .spill →
        (let o := drainRow s c x
         let u := unstage o.1 x.needs
         t = drainsOn (u.setCore c { u.core c with taken := o.2.1.ask o.2.2 :: rest }) c) ∧
        (t.core c).taken.map Claims.takenKey = (x.req, x.row + 1, x.regs) :: rest.map Claims.takenKey ∧
        (x.req.runs x.row = [] → (drainRow s c x).2.2 = []) ∧ Claims.coresButTally s t c) ∧
      (x.rowsLeft = 0 →
        (let m := mseRecord s c x
         t = drainsOn (finishTile (m.1.setCore c { m.1.core c with taken := rest }) c (x.ask m.2)) c) ∧
        (t.core c).taken.map Claims.takenKey = rest.map Claims.takenKey ∧ Claims.coresKept s t c ∧
        fget t .coreEpiMsePtrAddr c.val = (if bit x.req.word 75 then
          (fget s .coreEpiMsePtrAddr c.val + 16) % 2 ^ Field.coreEpiMsePtrAddr.spec.width
          else fget s .coreEpiMsePtrAddr c.val))

/-- A readout takes its bank, and its tile leaves row by row (04). -/
def Obligations.ReadoutTakesBank : Prop := Claims.ReadoutTakes ∧ Claims.TileLeaves

/-! ### The vector unit (04) -/

namespace Sys2Proof.Claims

/-- The M stream stands at a sound word that has issued and whose vector operation has the code `code`. -/
def atVector (s : State) (c : Core) (code : Nat) (w : WordX) : Prop :=
  atWord s c .m true = .word w ∧ w.vop = code ∧ issued w (s.core c).sm.done = true ∧ (s.core c).sm.done.vec = false

/-- The arithmetic operations of the vector unit: command, code, format, operands and the exact function that is rounded
once into the format (04 R86, R87). -/
def vectorTable (c : Core) : List (Instr × Nat × FloatFmt × Nat × (List XVal → XVal)) :=
  [(.vfma32 c, 0x01, f32, 3, fma3), (.vadd32 c, 0x02, f32, 2, bin2 XVal.add), (.vmul32 c, 0x03, f32, 2, bin2 XVal.mul),
   (.vmax32 c, 0x04, f32, 2, bin2 XVal.max), (.vmin32 c, 0x05, f32, 2, bin2 XVal.min), (.vfma64 c, 0x06, f64, 3, fma3),
   (.vadd64 c, 0x07, f64, 2, bin2 XVal.add), (.vmul64 c, 0x08, f64, 2, bin2 XVal.mul), (.vdiv32 c, 0x09, f32, 2, bin2 XVal.div),
   (.vsqrt32 c, 0x0A, f32, 1, un1 XVal.sqrt), (.vexp32 c, 0x0B, f32, 1, un1 exp32)]

end Sys2Proof.Claims

/-- Every arithmetic operation of the vector unit gives each of the 256 lanes of Vd the correctly rounded value of its
function on the same lanes of its sources, and leaves every other vector register, memory and the other cores as they
were; only the step status may change (04 R85 to R87). -/
def Sys2Proof.Claims.VectorArithmetic : Prop :=
  ∀ (s : State) (c : Core) (w : WordX), ∀ e ∈ Claims.vectorTable c, Claims.atVector s c e.2.1 w →
    ∃ t, exec e.1 s = .next t ∧ (t.core c).sm.done.vec = true ∧
      (∀ l, l < 256 → (t.core c).lane w.vd l =
        (e.2.2.1.encode (e.2.2.2.2 (([w.va, w.vb, w.vc].take e.2.2.2.1).map fun v =>
          e.2.2.1.decode ((s.core c).lane v l % (2 * e.2.2.1.signBit))))).1 % 2 ^ 64) ∧
      (∀ v l, v ≠ w.vd → l < 256 → (t.core c).lane v l = (s.core c).lane v l) ∧
      Claims.regsKept s t Claims.issueFields ∧ Claims.memSame s t ∧ Claims.coresKept s t c ∧ Claims.outsideKept s t

/-- VNOP does nothing else than pass; VLD reads 256 elements of 8 bytes from the larder into Vd and VST writes those of Va
there; VCVT, VAMAX and VSCALE have the effect of the conversion, of the running extremes and of the derived scales on the
scale registers of their range (04 R82 to R84, R87, R450). -/
def Sys2Proof.Claims.VectorMoves : Prop :=
  ∀ (s : State) (c : Core) (w : WordX),
    (Claims.atVector s c 0x00 w → ∃ t, exec (.vnop c) s = .next t ∧ (t.core c).sm.done.vec = true ∧
      (t.core c).vregs = (s.core c).vregs ∧ Claims.regsKept s t Claims.issueFields ∧ Claims.memSame s t ∧ Claims.coresKept s t c) ∧
    (Claims.atVector s c 0x0F w → ∃ t, exec (.vld c) s = .next t ∧ (t.core c).sm.done.vec = true ∧
      (∀ l, l < 256 → (t.core c).lane w.vd l =
        leNat (mbytes s (winAddr c (larderOff + bits w.raw 96 10 * 2048 + 8 * l)) 8) % 2 ^ 64) ∧
      (∀ v l, v ≠ w.vd → l < 256 → (t.core c).lane v l = (s.core c).lane v l) ∧
      Claims.regsKept s t Claims.issueFields ∧ Claims.memSame s t ∧ Claims.coresKept s t c) ∧
    (Claims.atVector s c 0x10 w → ∃ t, exec (.vst c) s = .next t ∧ (t.core c).sm.done.vec = true ∧
      (∀ l, l < 256 → mbytes t (winAddr c (larderOff + bits w.raw 96 10 * 2048 + 8 * l)) 8 =
        leBytes 8 ((s.core c).lane w.va l)) ∧
      (∀ a, (a < winAddr c (larderOff + bits w.raw 96 10 * 2048) ∨
          winAddr c (larderOff + bits w.raw 96 10 * 2048) + 2048 ≤ a) → mget t a = mget s a) ∧
      Claims.regsKept s t Claims.issueFields ∧ (t.core c).vregs = (s.core c).vregs ∧ Claims.coresKept s t c) ∧
    (Claims.atVector s c 0x0C w → stageHost (issueWord s c w) (partOfCore s c) .event (cvtNeeds s c w) = none →
      ∃ t, exec (.vcvt c) s = .next t ∧ (t.core c).sm.done.vec = true ∧
      (t.core c).vregs = ((cvtEffect c w s).core c).vregs ∧ Claims.memSame (cvtEffect c w s) t ∧
      Claims.regsKept (cvtEffect c w s) t Claims.issueFields ∧ Claims.coresButTally s t c) ∧
    (Claims.atVector s c 0x0D w → ∃ t, exec (.vamax c) s = .next t ∧ (t.core c).sm.done.vec = true ∧
      Claims.memSame ((span 0 w.vcount).foldl (amaxLane c w (w.p s c % 2 ^ 13)) s) t ∧
      (t.core c).vregs = (s.core c).vregs ∧ Claims.regsKept s t Claims.issueFields ∧ Claims.coresKept s t c) ∧
    (Claims.atVector s c 0x0E w → ∃ t, exec (.vscale c) s = .next t ∧ (t.core c).sm.done.vec = true ∧
      Claims.memSame ((span 0 w.vcount).foldl (scaleOne c w (w.p s c % 2 ^ 13)) s) t ∧
      (t.core c).vregs = (s.core c).vregs ∧ Claims.regsKept s t Claims.issueFields ∧ Claims.coresKept s t c)

/-- Every vector operation (03). -/
def Obligations.VectorOperations : Prop := Claims.VectorArithmetic ∧ Claims.VectorMoves

/-! ### The Granary and HBM (07, 08) -/

/-- A line whose valid bit is 0 reads as zero bytes with no error and no check; one whose two copies disagree reads as an
uncorrectable error that delivers the bytes as stored (07 R165). -/
def Obligations.GranaryValidBits : Prop :=
  ∀ (s : State) (q : MemDie) (ag : MemAgent) (p : Option Part) (a n : Nat), grnReady s q = true →
    (validOf s (lineOf a) = 0 → grnRead s q ag p a n = (s, List.replicate n 0, false)) ∧
    (validOf s (lineOf a) ≠ 0 → validOf s (lineOf a) ≠ 3 →
      (grnRead s q ag p a n).2 = (mbytes s a n, true) ∧ (grnRead s q ag p a n).1 = grnFault s q a ag p ∧
      fget (grnRead s q ag p a n).1 .grnErrTallyUe q.val =
        min (fget s .grnErrTallyUe q.val + 1) (2 ^ Field.grnErrTallyUe.spec.width - 1) ∧
      (∀ r, p = some r → (fget (grnRead s q ag p a n).1 .updStatusStatus r.val).testBit 8 = true))

/-- A write replaces exactly the bytes it names: they read back clean; in a valid line the others keep their bytes and
their check bits, in a line that was not valid they become zero, and the line is valid; no other line changes. Two writes
of different bytes of one line leave both, in either order (07 R166). -/
def Obligations.GranaryWritesNeverMerge : Prop :=
  ∀ (s : State) (q : MemDie) (ag ag' : MemAgent) (p p' : Option Part) (line : Nat) (w w' : List Host.Cell),
    grnReady s q = true → w ≠ [] → w' ≠ [] → (∀ e ∈ w, lineOf e.1 = line) → (∀ e ∈ w', lineOf e.1 = line) →
    (w.map (·.1)).Nodup → (w'.map (·.1)).Nodup →
    (let t := grnWrite s q ag p w
     (∀ e ∈ w, mget t e.1 = e.2 ∧ synOf t e.1 = 0) ∧
     (validOf s line = 3 → ∀ a, lineOf a = line → (∀ e ∈ w, e.1 ≠ a) → mget t a = mget s a ∧ synOf t a = synOf s a) ∧
     (validOf s line = 0 → ∀ a, lineOf a = line → (∀ e ∈ w, e.1 ≠ a) → mget t a = 0 ∧ synOf t a = 0) ∧
     validOf t line = 3 ∧
     (∀ a, lineOf a ≠ line → mget t a = mget s a ∧ synOf t a = synOf s a) ∧
     (∀ l, l ≠ line → validOf t l = validOf s l) ∧ t.regs = s.regs ∧
     ((∀ e ∈ w, ∀ f ∈ w', e.1 ≠ f.1) → validOf s line = 3 ∨ validOf s line = 0 →
       ∀ a, mget (grnWrite (grnWrite s q ag p w) q ag' p' w') a = mget (grnWrite (grnWrite s q ag' p' w') q ag p w) a ∧
         synOf (grnWrite (grnWrite s q ag p w) q ag' p' w') a = synOf (grnWrite (grnWrite s q ag' p' w') q ag p w) a))

namespace Sys2Proof.Claims

/-- The codeword positions of the data bits d0 to d7 (07 R162). -/
def dataPositions : List Nat := [3, 5, 6, 7, 9, 10, 11, 12]

end Sys2Proof.Claims

/-- A byte of a valid line with one flipped bit is delivered as it was written: a flipped data bit, named by its codeword
position, is inverted, a flipped check bit changes nothing; CE counts it, no error is raised, and memory and its check bits
stay as they are until the row's refresh. A syndrome of 13 or more delivers the byte as stored, uncorrectable (07 R162,
R164). -/
def Obligations.GranaryCorrectsSingleFlips : Prop :=
  ∀ (s : State) (q : MemDie) (ag : MemAgent) (p : Option Part) (a : Nat) (d : Byte), grnReady s q = true →
    validOf s (lineOf a) = 3 →
    (let r := grnRead s q ag p a 1
     (∀ i, i < 8 → mget s a = d ^^^ BitVec.ofNat 8 (2 ^ i) → synOf s a = Claims.dataPositions.getD i 0 →
       r.2 = ([d], false) ∧ r.1.mem = s.mem ∧ r.1.grnSyn = s.grnSyn ∧ r.1.errQueue = s.errQueue ∧
       fget r.1 .grnErrTallyCe q.val =
         min (fget s .grnErrTallyCe q.val + 1) (2 ^ Field.grnErrTallyCe.spec.width - 1)) ∧
     (mget s a = d → synOf s a ∈ [1, 2, 4, 8] → r.2 = ([d], false) ∧ r.1.mem = s.mem ∧ r.1.grnSyn = s.grnSyn ∧
       r.1.errQueue = s.errQueue) ∧
     (mget s a = d → synOf s a = 0 → r.2 = ([d], false) ∧ Claims.regsKept s r.1 [.grnErrTallyCe]) ∧
     (mget s a = d → 13 ≤ synOf s a → r.2 = ([d], true) ∧ r.1.mem = s.mem ∧
       fget r.1 .grnErrTallyUe q.val =
         min (fget s .grnErrTallyUe q.val + 1) (2 ^ Field.grnErrTallyUe.spec.width - 1)))

/-- What is written to a READY memory die at which no request of a core waits, byte by byte over any run of its addresses, is
what a read of the run delivers, without an error: no command in between, whatever stood there before (07 R155, R162, R165,
R166). -/
def Obligations.GranaryReturnsWhatWasWritten : Prop :=
  ∀ (s : State) (ag ag' : MemAgent) (p p' : Option Part) (q : MemDie) (a : Nat) (b : Bytes),
    grnReady s q = true → (∀ r ∈ s.grnQueue, placeOf r.addr ≠ .granary q) →
    (∀ i, i < b.length → placeOf (a + i) = .granary q) →
    (memRead (memWrite s ag p a b) ag' p' a b.length).2 = (b, false) ∧
    (∀ j, (j < a ∨ a + b.length ≤ j) →
      (∀ i, i < b.length → lineOf (a + i) ≠ lineOf j ∨ validOf s (lineOf j) = 3) → mget (memWrite s ag p a b) j = mget s j)

/-- A slot of a bank serves the oldest request there of its owner, which leaves the queue: a write is made, and a store's is
acknowledged; a load's read delivers its bytes and changes no memory. A read that another access has made take effect before
delivers what it held from then: the model's choice, log entry 121. A refresh moves to the next of the 8,208 rows, writes back
corrected what has one flipped bit, and reports what it cannot correct, counted in UE, leaving it as it is. At a frame boundary the entries written come into force. A flash clear ends with every line of the die
not valid and every other line as it was; a self-test ends with the die empty (07 R157 to R161, R164, R167, R170). -/
def Obligations.GranaryCommands : Prop :=
  ∀ (s : State) (q : MemDie),
    (∀ (bank : Byte) (slot : Fin 64) (r : MemReq),
      (let pick := fun r => atBank q bank.toNat r && slotServes s q (grnOwner s q ((slot.val + 256 - bank.toNat) % 64)) r
       s.grnQueue.find? pick = some r →
       (∀ m ∈ (s.core r.core).loads, m.todo = []) → (∀ m ∈ (s.core r.core).stores, m.todo = []) →
       (let u := { s with grnQueue := dropFirst pick s.grnQueue }
        let read := unitRead u (.core r.core) (partOfCore s r.core) r.addr
        let brought := fun (b : Bytes) => mapFirst (fun (m : LoadOp) => m.id == r.op) (fun m => { m with
          left := m.left - 1, reqs := answerReq m.reqs r.addr, got := tsetAll (fun _ => 0) m.got (cellsAt r.addr b) })
          (s.core r.core).loads
        ∃ t, exec (.granaryAccess q bank slot) s = .next t ∧ t.grnQueue = u.grnQueue ∧ Claims.coresKept s t r.core ∧
         (∀ cells, r.act = .write cells → Claims.memSame (unitWrite u (.core r.core) (partOfCore s r.core) cells) t ∧
           (r.acked = false → r.engine = .store → (t.core r.core).stores = mapFirst (fun (m : MoveOp) => m.id == r.op)
             (fun m => { m with left := m.left - 1, reqs := answerReq m.reqs r.addr }) (s.core r.core).stores)) ∧
         (∀ n, r.act = .read n → r.engine = .load → Claims.memSame s t ∧ (t.core r.core).loads = brought (read n).2.1) ∧
         (∀ b, r.act = .held b → r.engine = .load → Claims.memSame s t ∧ (t.core r.core).loads = brought b)))) ∧
    (∀ bank : Fin 260, twf (fun _ => 0) s.grnSyn = true → ∃ t, exec (.granaryRefresh q bank) s = .next t ∧
      (let r := tget (fun _ => 0) (s.grnDie q).refresh bank.val
       tget (fun _ => 0) (t.grnDie q).refresh bank.val = (r + 1) % 8208 ∧
       (∀ a, placeOf a = .granary q → bankHolds s q bank.val = some (bankOf a) → rowHolds s q bank.val r = some (rowOf a) →
         (hammingRead (mget s a) (synOf s a)).2.2 = false →
         mget t a = (hammingRead (mget s a) (synOf s a)).1 ∧ synOf t a = 0) ∧
       (∀ a, placeOf a = .granary q → bankHolds s q bank.val = some (bankOf a) → rowHolds s q bank.val r = some (rowOf a) →
         (hammingRead (mget s a) (synOf s a)).2.2 = true →
         mget t a = mget s a ∧ synOf t a = synOf s a ∧
           min (fget s .grnErrTallyUe q.val + 1) (2 ^ Field.grnErrTallyUe.spec.width - 1) ≤ fget t .grnErrTallyUe q.val ∧
           (t.errQueue.length < 256 → ∃ e ∈ t.errQueue, e.cls = Cls.code .memory ∧
             e.synd = .names 164 [a, MemAgent.number .refresh])) ∧
       (∀ a, ¬(placeOf a = .granary q ∧ bankHolds s q bank.val = some (bankOf a) ∧
           rowHolds s q bank.val r = some (rowOf a)) → mget t a = mget s a ∧ synOf t a = synOf s a))) ∧
    (twf (fun _ => 0x200) (s.grnDie q).written = true → ∃ t, exec (.schedFrameApply q) s = .next t ∧
      (t.grnDie q).written = [] ∧
      (∀ i v, (i, v) ∈ (s.grnDie q).written → grnOwner t q i = v) ∧
      (∀ i, (∀ e ∈ (s.grnDie q).written, e.1 ≠ i) → grnOwner t q i = grnOwner s q i) ∧
      t.regs = s.regs ∧ Claims.memSame s t) ∧
    (fget s .grnStatusState q.val = 1 → ∃ t, exec (.flashClearDone q) s = .next t ∧
      (∀ l, inDie q (l * 32) = true → validOf t l = 0) ∧ (∀ l, inDie q (l * 32) = false → validOf t l = validOf s l) ∧
      fget t .grnStatusState q.val = (if (s.grnDie q).failed then 3 else 0) ∧ fget t .grnCtrlBusy q.val = 0 ∧
      Claims.memSame s t) ∧
    (∀ found : SelfTestFinding, fget s .grnStatusState q.val = 2 → ∃ t, exec (.selftestDone q found) s = .next t ∧
      (∀ a, inDie q a = true → mget t a = 0) ∧ (∀ a, inDie q a = false → mget t a = mget s a) ∧
      (∀ l, inDie q (l * 32) = true → validOf t l = 0) ∧ fget t .grnCtrlBusy q.val = 0 ∧
      fget t .grnStatusState q.val = (if (t.grnDie q).failed then 3 else 0))

/-- A READY stack performs the oldest request of a pseudo-channel that its controller has accepted, and the request leaves the
queue: a write that was acknowledged as it was accepted is made, a load's read delivers its bytes; a refresh moves to the next of the 16,384 rows and
changes no bit; a scrub of a granule at which no request waits corrects it, counted in CE, or reports it, counted in UE, by a
record of class MEMORY that names the scrub, and moves on; the temperature is shown, with REFX2 above
85 °C, and above 100 °C it is recorded (08 R179, R182 to R185). That a read which another access has made take effect before
delivers what it held from then is the model's choice, log entry 121. -/
def Obligations.HbmCommands : Prop :=
  ∀ (s : State),
    (∀ (pc : PChan) (r : MemReq), hbmReady s (stackOf pc) = true →
      (accepted s (stackOf pc)).find? (fun r => pchanOf r.addr == pc.val) = some r →
      (∀ x ∈ s.hbmQueue, ∀ cells, x.act = .write cells → x.acked = true) →
      (∀ m ∈ (s.core r.core).loads, m.todo = []) → (∀ m ∈ (s.core r.core).stores, m.todo = []) →
      (let u := { s with hbmQueue := dropFirst (fun r => pchanOf r.addr == pc.val) s.hbmQueue }
       let brought := fun (b : Bytes) => mapFirst (fun (m : LoadOp) => m.id == r.op) (fun m => { m with
         left := m.left - 1, reqs := answerReq m.reqs r.addr, got := tsetAll (fun _ => 0) m.got (cellsAt r.addr b) })
         (s.core r.core).loads
       ∃ t, exec (.hbmAccess pc) s = .next t ∧ t.hbmQueue = u.hbmQueue ∧ Claims.coresKept s t r.core ∧
         (∀ cells, r.act = .write cells → t = unitWrite u (.core r.core) (partOfCore s r.core) cells) ∧
         (∀ n, r.act = .read n → r.engine = .load → Claims.memSame s t ∧
           (t.core r.core).loads = brought (unitRead u (.core r.core) (partOfCore s r.core) r.addr n).2.1) ∧
         (∀ b, r.act = .held b → r.engine = .load → Claims.memSame s t ∧ (t.core r.core).loads = brought b))) ∧
    (∀ (pc : PChan) (bank : Fin 64), hbmReady s (stackOf pc) = true → ∃ t, exec (.hbmRefresh pc bank) s = .next t ∧
      tget (fun _ => 0) (t.stack (stackOf pc)).refresh (pc.val % 64 * 64 + bank.val) =
        (tget (fun _ => 0) (s.stack (stackOf pc)).refresh (pc.val % 64 * 64 + bank.val) + 1) % 16384 ∧
      Claims.memSame s t ∧ t.hbmSyn = s.hbmSyn ∧ t.regs = s.regs) ∧
    (∀ pc : PChan, hbmReady s (stackOf pc) = true → fget s .hbmScrubEn (stackOf pc).val = 1 →
      fget s .pwrStatusPstate 0 ≤ 1 →
      (∀ r ∈ s.hbmQueue, granuleOf r.addr ≠
        granuleOf (granuleAddr pc (tget (fun _ => 0) (s.stack (stackOf pc)).scrub (pc.val % 64)))) →
      ∃ t, exec (.patrolScrub pc) s = .next t ∧
      (let n := tget (fun _ => 0) (s.stack (stackOf pc)).scrub (pc.val % 64)
       let g := granuleOf (granuleAddr pc n)
       let r := granuleRead (mbytes s (64 * g) 64) (devOf s g)
       tget (fun _ => 0) (t.stack (stackOf pc)).scrub (pc.val % 64) = (n + 1) % 2 ^ 24 ∧
       (r.2.2 = false → r.2.1 = true → devOf t g = 0 ∧ Claims.memSame (mput s (cellsAt (64 * g) r.1)) t ∧
         t.errQueue = s.errQueue ∧ fget t .hbmErrTallyCe (stackOf pc).val =
           min (fget s .hbmErrTallyCe (stackOf pc).val + 1) (2 ^ Field.hbmErrTallyCe.spec.width - 1)) ∧
       (r.2.2 = true →
         fget t .hbmErrTallyUe (stackOf pc).val =
           min (fget s .hbmErrTallyUe (stackOf pc).val + 1) (2 ^ Field.hbmErrTallyUe.spec.width - 1) ∧
         (s.errQueue.length < 256 → ∃ e, t.errQueue = s.errQueue ++ [e] ∧ e.cls = Cls.code .memory ∧
           e.sev = Sev.code .info ∧ e.part = none ∧
           e.synd = .names 164 [granuleAddr pc n, MemAgent.number .scrub, pchanOf (granuleAddr pc n)])) ∧
       (r.2.2 = true ∨ r.2.1 = false → devOf t g = devOf s g ∧ Claims.memSame s t))) ∧
    (∀ (k : Stack) (temp : Byte), ∃ t, exec (.hbmTempReport k temp) s = .next t ∧
      fget t .hbmStatusTemp k.val = temp.toNat ∧ fget t .hbmStatusRefx2 k.val = (if 85 < temp.toNat then 1 else 0) ∧
      (100 < temp.toNat → s.errQueue.length < 256 → t.errQueue.length = s.errQueue.length + 1) ∧
      (temp.toNat ≤ 100 → t.errQueue = s.errQueue) ∧ Claims.memSame s t ∧
      Claims.regsKept s t [.hbmStatusTemp, .hbmStatusRefx2, .errLostDropped])

/-! ### Register writes that are commands of their own (00, 13, 18) -/

namespace Sys2Proof.Claims

/-- A write of a requester is heard: over PCIe it reaches its function, else the management endpoint, over a binding that
carries messages. -/
def reaches (s : State) : Who → Bool
  | .host f ide tlp => linkOn s && (requestFault s f ide tlp true).isNone
  | w => masterOn s w && (fmRefused s w false).isNone

/-- A write of `n` bytes at `off` by `w` is admitted: it is heard, and the gate of rights lets it pass (13 R318, R328). -/
def admits (s : State) (w : Who) (off n data : Nat) : Prop :=
  gateOf s w off n (some (bits data 0 (8 * n))) = .pass ∧ reaches s w = true

/-- The requester is a tenant: a function other than PF0. -/
def isTenant : Who → Bool
  | .host f _ _ => f != 0
  | _ => false

end Sys2Proof.Claims

/-- RUN written 1 starts a core at rest: RUNNING, the M stream at START, L, S and C at 0, its local flags and its fault
registers cleared, its parameters kept; RUN written 1 again starts nothing. RUN written 0 stops a running core: each
running stream stops at its next word (05 R100, R134). -/
def Obligations.RunStartsAndStopsCore : Prop :=
  ∀ (s : State) (w : Who) (c : Core) (start : Half),
    (Claims.admits s w (coreReg c 0) 4 (1 + start.toNat * 2 ^ 16) →
      (fget s .coreSeqCtrlRun c.val = 0 → inCoreGroup s c = true → onRetired s c = false →
        ∃ t, exec (.runStart w c start) s = .next t ∧ coreState t c = 1 ∧ fget t .coreSeqCtrlRun c.val = 1 ∧
          fget t .coreSeqCtrlStart c.val = start.toNat ∧
          (t.core c).sm.pc = start.toNat ∧ (t.core c).sl.pc = 0 ∧ (t.core c).ss.pc = 0 ∧ (t.core c).sc.pc = 0 ∧
          (∀ st, ((t.core c).stream st).run = .running ∧ ((t.core c).stream st).loops = [] ∧
            ((t.core c).stream st).done = {}) ∧
          (t.core c).flags = [] ∧ fget t .coreIssueErrCode c.val = 0 ∧ fget t .coreIssueErrAddr c.val = 0 ∧
          (∀ n, pget t c n = pget s c n) ∧ Claims.coresKept s t c ∧ Claims.memSame s t) ∧
      (fget s .coreSeqCtrlRun c.val = 1 → ∃ t, exec (.runStart w c start) s = .next t ∧ coreState t c = coreState s c ∧
        t.core c = s.core c ∧ fget t .coreSeqCtrlStart c.val = start.toNat)) ∧
    (Claims.admits s w (coreReg c 0) 4 (start.toNat * 2 ^ 16) → coreState s c = 1 →
      ∃ t, exec (.runStop w c start) s = .next t ∧ coreState t c = 3 ∧ fget t .coreSeqCtrlRun c.val = 0 ∧
        (∀ st, ((s.core c).stream st).run = .running → ((s.core c).stream st).done.begun = false →
          ((t.core c).stream st).run = .stopped ∧ ((t.core c).stream st).pc = ((s.core c).stream st).pc) ∧
        (∀ n, pget t c n = pget s c n) ∧ Claims.coresKept s t c ∧ Claims.memSame s t)

/-- A shadow write is stored and marked dirty while READY is 0 and discarded while it is 1, and changes no live parameter;
READY is what is written (05 R118). A CORE reset sets BUSY and keeps the address of the M stream (16 R393); once nothing of
the core is at a memory, nor a read of host memory of its out, it is done, with a RESET record of CODE 4: the core is at rest, its larder is empty, its live parameters and its control store
stand. -/
def Obligations.ShadowsAndCoreReset : Prop :=
  ∀ (s : State) (w : Who) (c : Core),
    (∀ (n : Byte) (v : Dword), Claims.admits s w (coreReg c (0x1000 + 8 * n.toNat)) 8 v.toNat →
      ∃ t, exec (.pshadowWrite w c n v) s = .next t ∧ (∀ m, pget t c m = pget s c m) ∧ Claims.coresKept s t c ∧
        (fget s .coreParamReadyReady c.val = 0 → fget t .corePshadowValue (c.val * 256 + n.toNat) = v.toNat ∧
          n.toNat ∈ (t.core c).dirty ∧ (∀ i, i ≠ c.val * 256 + n.toNat →
            fget t .corePshadowValue i = fget s .corePshadowValue i)) ∧
        (fget s .coreParamReadyReady c.val = 1 → t.core c = s.core c ∧
          ∀ i, fget t .corePshadowValue i = fget s .corePshadowValue i)) ∧
    (∀ ready : Bool, Claims.admits s w (coreReg c 0x300) 4 (ofBool ready) →
      ∃ t, exec (.paramReadyWrite w c ready) s = .next t ∧ fget t .coreParamReadyReady c.val = ofBool ready ∧
        (∀ d, t.core d = s.core d) ∧ (∀ d n, pget t d n = pget s d n) ∧ Claims.memSame s t) ∧
    (Claims.admits s w (coreReg c 0x40) 4 1 → fget s .coreResetBusy c.val = 0 →
      (∀ p, partOfCore s c = some p → (s.part p).resetDue = false) →
      ∃ t, exec (.coreReset w c) s = .next t ∧ fget t .coreResetBusy c.val = 1 ∧
        (t.core c).resetting = some (Claims.isTenant w, (s.core c).sm.pc) ∧ (coreState s c = 1 → coreState t c = 3) ∧
        Claims.coresKept s t c ∧ Claims.memSame s t) ∧
    (∀ x, (s.core c).resetting = some x → (∀ r ∈ s.grnQueue ++ s.hbmQueue, r.core ≠ c) → dmaOfCore s c = [] →
      ∃ t, exec (.coreDone c) s = .next t ∧ t.core c = {} ∧ coreState t c = 0 ∧ fget t .coreResetBusy c.val = 0 ∧
        (∀ o, o < storeOff → mget t (winAddr c (larderOff + o)) = 0) ∧
        (∀ o, storeOff ≤ o → o < 2 ^ 24 → mget t (winAddr c o) = mget s (winAddr c o)) ∧
        (s.errQueue.length < 256 → ∃ e, t.errQueue = s.errQueue ++ [e] ∧ e.cls = Cls.code .reset ∧ e.code = 4 ∧
          e.part = partOfCore s c ∧
          e.synd = .bytes (leBytes 1 (if x.1 then 2 else 1) ++ leBytes 2 x.2 ++ List.replicate 21 0)) ∧
        (∀ n, pget t c n = pget s c n) ∧ fget t .coreSeqCtrlStart c.val = fget s .coreSeqCtrlStart c.val ∧
        Claims.coresKept s t c)

/-- A schedule entry below 63 takes a written agent code that is one and leaves the frame a SHARED or IDLE entry, in force
only from the next frame boundary; CLEAR and SELFTEST set the status of the die to CLEARING and TESTING with BUSY; ARM of an
injection latches when the offset lies in the stack and NSYM is not 0; ARM of a work counter that has nothing waiting sets
NEXT to BASE (06 R151; 07 R157, R160, R167, R170; 08 R452). -/
def Obligations.UnitRegisterRows : Prop :=
  ∀ (s : State) (w : Who),
    (∀ (q : MemDie) (i : Fin 64) (v : Word), Claims.admits s w (grnReg q (4 * i.val)) 4 v.toNat →
      fget s .grnCtrlBusy q.val = 0 →
      ∃ t, exec (.grnSchedWrite w q i v) s = .next t ∧ (t.grnDie q).table = (s.grnDie q).table ∧
        (i.val = 63 → fget t .grnSchedOwner (q.val * 64 + i.val) = fget s .grnSchedOwner (q.val * 64 + i.val)) ∧
        (i.val < 63 → (v.toNat % 512 ≤ 0x102 ∨ v.toNat % 512 = 0x1FF) → schedKeepsShared s q i.val (v.toNat % 512) = true →
          fget t .grnSchedOwner (q.val * 64 + i.val) = v.toNat % 512 ∧
            tget (fun _ => 0x200) (t.grnDie q).written i.val = v.toNat % 512)) ∧
    (∀ q : MemDie, Claims.admits s w (grnReg q 0x400) 4 1 → fget s .grnCtrlBusy q.val = 0 →
      ∃ t, exec (.flashClear w q) s = .next t ∧ fget t .grnStatusState q.val = 1 ∧ fget t .grnCtrlBusy q.val = 1 ∧
        Claims.memSame s t ∧ t.grnValid = s.grnValid) ∧
    (∀ q : MemDie, Claims.admits s w (grnReg q 0x400) 4 4 → fget s .grnCtrlBusy q.val = 0 →
      ∃ t, exec (.selftest w q) s = .next t ∧ fget t .grnStatusState q.val = 2 ∧ fget t .grnCtrlBusy q.val = 1 ∧
        Claims.memSame s t ∧ t.grnValid = s.grnValid) ∧
    (∀ (k : Stack) (v : Dword), (s.stack k).arming = false → Claims.admits s w (0xC0_0030 + k.val * 0x2_0000) 8 (v.toNat % 2 ^ 42 + 2 ^ 42) →
      ∃ t, exec (.injectArm w k v) s = .next t ∧ fget t .hbmInjectOffset k.val = v.toNat % 2 ^ 39 ∧
        fget t .hbmInjectNsym k.val = v.toNat / 2 ^ 39 % 8 ∧
        (v.toNat % 2 ^ 39 / 2 ^ 36 = k.val → v.toNat / 2 ^ 39 % 8 ≠ 0 → fget t .hbmInjectArm k.val = 1) ∧ Claims.memSame s t) ∧
    (∀ k : Ctr, Claims.admits s w (0x8_0000 + 16 * k.val + 12) 4 (fget s .hstWorkAuto k.val + 2) →
      (∀ e ∈ s.ctrQueue, e.1 ≠ k.val) → fget s .hstWorkBase k.val < 2 ^ 32 → fget s .hstWorkAuto k.val < 2 →
      ∃ t, exec (.workArm w k) s = .next t ∧ fget t .hstWorkNext k.val = fget s .hstWorkBase k.val ∧
        fget t .hstWorkLimit k.val = fget s .hstWorkLimit k.val ∧ t.ctrQueue = s.ctrQueue ∧ Claims.memSame s t)

/-! ### Collectives (09) -/

namespace Sys2Proof.Claims

/-- An entry of the operation `op` is due at a group, lies in the partition's grants, offends no field, and its operands
in host memory, if any, have come; `r` is the state after its fetch. -/
def entryDue (s : State) (g : Group) (op : Nat) (r : State) (b : Bytes) : Prop :=
  fetchDue s g = true ∧ entryBytes s g (grpInst s g) = (r, some b) ∧ (collEntryOf b).op = op ∧
    entryFault r g (leNat b) (collEntryOf b) (grpInst s g) = none ∧
    stageHost r (grpPart s g) (.coll g) ((collEntryOf b).reads (grpSize s g) (grpRank s g)) = none

/-- A collective packet of kind `kind` has arrived for the active entry `e` of a group of partition `p`. -/
def collArrived (s : State) (q : Packet) (kind : Nat) (g : Group) (p : Part) (e : CollEntry) : Prop :=
  let h := xhdrOf q.data
  q.type = tXCE ∧ isForUs s q = true ∧ h.kind = kind ∧ destCheck s q (xceMalformed q.data) = none ∧ h.group = q.vc.toNat ∧
    g.val = h.group ∧ grpPart s g = some p ∧ h.step = fget s .updStepStep p.val % 65536 ∧ h.inst = grpInst s g ∧
    grpActive s g = true ∧ (s.group g).entry = some e ∧ (s.group g).stopped = false ∧
    (s.group g).discards.contains h.inst = false

end Sys2Proof.Claims

/-- An entry that is due and sound becomes the active collective of its group: STATE 1, BLOCKS 0, nothing of it yet sent,
received or summed; then a reducing one looks for blocks to send, and one that moves bytes sends what it owes. So it goes
unless a poison notice or a malformed packet for it came before (09 R193, R194, R212). -/
def Sys2Proof.Claims.CollectivesStart : Prop :=
  ∀ (s r : State) (g : Group) (b : Bytes) (i : Instr) (op : Nat),
    (i, op) ∈ [(Instr.reduceScatter g, 0), (Instr.allGather g, 1), (Instr.allReduce g, 2), (Instr.broadcast g, 3),
      (Instr.allToAll g, 4), (Instr.send g, 5), (Instr.recv g, 6)] →
    Claims.entryDue s g op r b → (s.group g).poisonLater.contains (grpInst s g) = false →
    (∀ x ∈ (s.group g).badLater, x.1 ≠ grpInst s g) →
    ∃ u, exec i s = .next (if (collEntryOf b).reduces then settleColl u g (collEntryOf b) else startMove u g (collEntryOf b)) ∧
      (u.group g).entry = some (collEntryOf b) ∧ (u.group g).sent = [] ∧ (u.group g).acc = [] ∧ (u.group g).chunks = [] ∧
      (u.group g).poisoned = false ∧ (u.group g).stopped = false ∧ grpState u g = 1 ∧
      fget u .xceCstatBlocks g.val = 0 ∧ Claims.regsKept r u [.xceCstatState, .xceCstatBlocks] ∧ Claims.memSame r u ∧
      (∀ h, h ≠ g → u.group h = s.group h)

/-- A tile that the core hands over is taken from the queue of its die and added to the accumulators of the active
collective, when that awaits it; a block whose contribution is complete starts round the ring from the rank after its
owner, in the form and window chosen for it (09 R192, R197 to R199, R204). -/
def Sys2Proof.Claims.LiftsAndBlocksStart : Prop :=
  ∀ (s : State) (g : Group) (e : CollEntry), grpActive s g = true → (s.group g).entry = some e →
    (s.group g).stopped = false → e.reduces = true →
    (∀ (d : Die) (l : LiftX) (rest : List LiftX), tget (fun _ => []) s.lifts d.val = l :: rest → l.xtag % 16 = g.val →
      l.xtag / 16 = grpInst s g → (s.group g).discards.contains (grpInst s g) = false → e.contrib ≠ 0 →
      accInUse s (grpServe s g) + ((liftParts l).filter fun c =>
        decide (c.1 < e.count) && !((s.group g).acc.any fun a => a.1 == c.1)).length ≤ 4096 →
      exec (.liftAccumulate d) s = .next (settleColl ((liftParts l).foldl (takeLift g e l.xtag)
        { s with lifts := tset (fun _ => []) s.lifts d.val rest }) g e)) ∧
    (∀ (b : Word) (r : State) (w : Nat × Nat), b.toNat < e.count → (s.group g).sent.contains b.toNat = false →
      (ownerOf e.count (grpSize s g) b.toNat + 1) % grpSize s g = grpRank s g → ownReady s g e b.toNat = true →
      starterWindow s g e b.toNat = (r, some w) →
      exec (.blockReady g b) s = .next (settleColl (hopBlock r g e
        { block := b.toNat, form := w.1, w := w.2, elems := [], cks := 0, ext := {}, hops := 0, eschop := 0x1FFFF
          halves := 3 }) g e))

/-- Entries become active, and lifted tiles and complete blocks enter the collective (09). -/
def Obligations.CollectivesBegin : Prop := Claims.CollectivesStart ∧ Claims.LiftsAndBlocksStart

/-- A packet of the active entry that fits is acknowledged and takes effect: a block is held with its checksum verified and
then summed and sent on; extents are recorded in the plane not in force; a pass of extents is held until this rank's
contributions are complete; agreed windows are taken; bytes are written where their owner's shard lies; a poison notice
poisons the collective, which sends nothing more (09 R194, R200 to R203,
R206 to R212). -/
def Sys2Proof.Claims.CollectivePackets : Prop :=
  ∀ (s : State) (q : Packet) (g : Group) (p : Part) (e : CollEntry), let h := xhdrOf q.data
    (Claims.collArrived s q 1 g p e → blockFits s g e h = true →
      exec (.blockPacket q) s =
        .next (settleColl (holdBlock (takePoison (ackTo s q) g h) g h (q.data.drop 32)) g e)) ∧
    (Claims.collArrived s q 3 g p e → inShard s g e (predRank s g) h = true → e.agreed = false →
      exec (.extentNotice q) s = .next (takeExtents q (takePoison s g h) g e h)) ∧
    (Claims.collArrived s q 4 g p e → inShard s g e (ownerOf e.count (grpSize s g) h.block) h = true → e.agreed = true →
      (ownerOf e.count (grpSize s g) h.block + 1) % grpSize s g ≠ grpRank s g →
      ∃ u, exec (.xrec q) s = .next (settleColl u g e) ∧
        (u.group g).xheld = ((takePoison (ackTo s q) g h).group g).xheld ++ [(h.block, noticeRecords q h)] ∧
        Claims.memSame s u) ∧
    (Claims.collArrived s q 5 g p e → inShard s g e (predRank s g) h = true → e.agreed = true →
      ∃ t, exec (.agreedNotice q) s = .next t ∧
        Claims.memSame (storeWindows (takePoison (ackTo s q) g h) g e h.block (noticeRecords q h)) t ∧
        ∀ b w, (b, w) ∈ (t.group g).windows ↔
          (b, w) ∈ ((storeWindows (takePoison (ackTo s q) g h) g e h.block (noticeRecords q h)).group g).windows ∨
          ∃ x, (b, x) ∈ List.zip (span h.block (noticeRecords q h).length) (noticeRecords q h) ∧
            w = chooseWindow x (ceilLog2 (grpSize s g) + 1) 0) ∧
    (∀ dest, Claims.collArrived s q 2 g p e → (dataPlace s g e q h).2 = some dest →
      chunkFits (2048 * h.block) (q.data.length - 32 - (if h.v then 16 else 0)) dest.2.2 = true →
      exec (.dataPacket q) s = .next (landData (dataPlace s g e q h).1 g e q h dest)) ∧
    (Claims.collArrived s q 6 g p e →
      ∃ t, exec (.poisonNotice q) s = .next t ∧ (t.group g).stopped = true ∧ (t.group g).poisoned = true ∧ Claims.memSame s t)

/-- A collective that has received all it receives, and whose packets are acknowledged, is complete: its entry leaves the
group, INST goes on by one, STATE is IDLE while the list has more and DONE else, and its signal is on its way unless it
names none (09 R193, R195). -/
def Sys2Proof.Claims.CollectivesComplete : Prop :=
  ∀ (s : State) (g : Group) (e : CollEntry), (s.group g).entry = some e → grpActive s g = true →
    (s.group g).unacked = 0 → ((s.group g).stopped = true ∨ allReceived s g e = true) → (s.group g).isSeal = false →
    ∃ t, exec (.collectiveComplete g) s = .next t ∧ (t.group g).entry = none ∧
      fget t .xceCstatInst g.val = (grpInst s g + 1) % 2 ^ Field.xceCstatInst.spec.width ∧
      fget t .xceCstatState g.val = (if grpCount s g ≤ grpInst t g then 3 else 0) ∧
      (∀ f, sflagRef s g e.sflag = some f → (s.group g).noFlag = false → e.sflag ≠ 0xFFF →
        t.signals = s.signals ++ [f]) ∧
      ((s.group g).noFlag = true ∨ e.sflag = 0xFFF → t.signals = s.signals) ∧
      Claims.regsKept s t [.xceCstatInst, .xceCstatState] ∧ Claims.memSame s t ∧ (∀ h, h ≠ g → t.group h = s.group h)

/-- Packets of the active entry take effect, and a collective that has received everything completes (09). -/
def Obligations.CollectivesRun : Prop := Claims.CollectivePackets ∧ Claims.CollectivesComplete

/-! ### The seal, the commit and the release (10) -/

namespace Sys2Proof.Claims

/-- A partition whose seal has begun to gather: STATE is GATHERING and no sums have come. -/
def gathering (s : State) (p : Part) : State :=
  setSealState (s.setPart p { s.part p with gathered := true, sums := [], fromRank0 := false }) p 2

/-- The records of c_0 to c_31 (10 R220). -/
def sealRecords (s : State) (p : Part) : Bytes :=
  ((contributions s p).map fun (c : Nat) => elemRecord ⟨(c : Int) * 2 ^ 304, .none, false, false⟩).flatten

end Sys2Proof.Claims

/-- Once a partition is ready its seal gathers: STATE is GATHERING, the records of its contributions are written at SBUF where the
partition's grants hold all that the seal collective touches, and the seal collective of its group becomes active; unless a
notice of a fenced rank stands, which makes the verdict ABORT and the state HELD (10 R218, R220; 16 R403). -/
def Sys2Proof.Claims.SealGathers : Prop :=
  ∀ (s : State) (p : Part), readyToGather s p = true →
    (noticeStands s p = false →
      ∃ u fault, exec (.sealGather p) s = .next (activate' u (sealGroup s p) (sealEntry s p) fault) ∧
        fault = (((sealEntry s p).needs (grpSize s (sealGroup s p)) (grpRank s (sealGroup s p))).find? fun r =>
          !grantedRun s p r.2.1 r.2.2).map (·.1) ∧
        (fault = none → Claims.memSame (agentWrite (Claims.gathering s p) (.sc (scOf s p)) (some p) (fget s .updSealSbuf p.val)
          (Claims.sealRecords s p)) u) ∧
        (u.group (sealGroup s p)).isSeal = true ∧ sealState u p = 2 ∧ (u.part p).gathered = true ∧
        (u.part p).sums = [] ∧ ∀ i, i ≠ p → u.part i = s.part i) ∧
    (noticeStands s p = true → ∃ t, exec (.sealGather p) s = .next t ∧ fget t .updSealVerdict p.val = 2 ∧
      sealState t p = 5)

/-- A question about a verdict is answered with the verdict for its step; an answer moves a rank in LOST to CKWAIT, and on to
COMMITTING at once where no copy of a slot, no checkpoint and no fence holds it, or to HELD, or leaves it asking; it asks again
every 100 microseconds while the answer is NOT_YET (10 R222, R224, R245, R455; 16 R400). -/
def Sys2Proof.Claims.VerdictsTravel : Prop :=
  (∀ (s : State) (q : Packet) (p : Part), q.type = tSVC → isForUs s q = true → q.job.toNat ≠ 0 →
    destCheck s q (decide (q.data.length ≠ 16)) = none → partOfJob s q.job.toNat = some p →
    (q.aux.toNat % 256 = 0x20 → exec (.verdictQuery q) s = .next (sendReq (ackTo s q) (some p) .event
      (blankReq tSVC (264 + (scOf (ackTo s q) p).val) q.srcDev.toNat 264 22 ((ackTo s q).part p).img.job 0 0x21
        (leBytes 8 (field q.data 0 8) ++ leBytes 1 (verdictFor (ackTo s q) p (field q.data 0 8)) ++ leBytes 7 0)))) ∧
    (q.aux.toNat % 256 = 0x21 → sealState s p = 6 → field q.data 0 8 = fget s .updStepStep p.val →
      (field q.data 8 1 = 1 → ∃ t, exec (.verdictAnswer q) s = .next t ∧ fget t .updSealVerdict p.val = 1 ∧
        (let held := fget s .hstPartCtrlFence p.val = 1 ∨
           (fget s .updSealCken p.val = 1 ∧ (s.part p).buddyCopy ≠ none) ∨ (s.part p).ckptBusy = true
         (held → sealState t p = 3) ∧ (¬held → sealState t p = 4 ∧ p.val ∈ t.hub.commits))) ∧
      (field q.data 8 1 = 2 → ∃ t, exec (.verdictAnswer q) s = .next t ∧ fget t .updSealVerdict p.val = 2 ∧
        sealState t p = 5) ∧
      (field q.data 8 1 = 0 → ∃ t, exec (.verdictAnswer q) s = .next t ∧ (t.part p).notYet = true ∧ sealState t p = 6) ∧
      (3 ≤ field q.data 8 1 → ∃ t, exec (.verdictAnswer q) s = .next t ∧ (t.part p).notYet = false ∧
        sealState t p = 6))) ∧
  (∀ (s : State) (p : Part) (us : Nat), sealState s p = 6 → (s.part p).notYet = true → 100 ≤ us →
    exec (.verdictQueryRetry p us) s = .next (askVerdict (s.setPart p { s.part p with notYet := false }) p))

/-- The seal gathers, and verdicts travel (10). -/
def Obligations.SealsAndVerdicts : Prop := Claims.SealGathers ∧ Claims.VerdictsTravel

/-- The engine of a partition commits its list in order, both datapaths agreeing: the step is committed, the release is
due, COMMITS goes on by one, and the partition leaves the engine; a mismatch of the datapaths after some elements stops it there,
leaves it FAULTED, and counts in MISMATCH of its engine (10 R224, R228). -/
def Sys2Proof.Claims.CommitWritesList : Prop :=
  ∀ (s : State) (p : Part) (l : List UpdEntry), sealState s p = 4 → (s.part p).committed = false →
    firstOnEngine s p = true → deviceHeld s = false → fget s .hstPartCtrlFence p.val ≠ 1 → (s.part p).prep = some l → stageHost s (some p) .event (commitReads l) = none →
    let c := commitList (engineOf s p) p (fget s .updStepStep p.val) none { s := s, carry := [] } l
    (∃ t, exec (.commit p none) s = .next t ∧ Claims.memSame c.s t ∧ (t.part p).committed = true ∧
      (t.part p).releaseDue = some 0 ∧ (t.part p).carry = c.carry ∧ p.val ∉ t.hub.commits ∧
      fget t .updTallyCommits p.val =
        min (fget s .updTallyCommits p.val + 1) (2 ^ Field.updTallyCommits.spec.width - 1)) ∧
    (∀ n, n < (l.map (·.nelem)).sum → ∃ t, exec (.commit p (some n)) s = .next t ∧ sealState t p = 7 ∧
      p.val ∉ t.hub.commits ∧
      fget t .updEngineMismatch (engineOf s p).val =
        min (fget s .updEngineMismatch (engineOf s p).val + 1) (2 ^ Field.updEngineMismatch.spec.width - 1) ∧
      Claims.memSame (commitList (engineOf s p) p (fget s .updStepStep p.val) (some n) { s := s, carry := [] } l).s t)

/-- The release of a committed step: STEP goes on by one, the status moves to PREV and holds then the bits that the commit raised,
and CHECKSUM besides where a read that goes with the release meets an error; the pulse counts it and names the new step, the
seal is OPEN, and the M streams that it held go on (10 R225, 18 R433). The release of a replay, of a resume and after a restore
leaves STEP as it is, and only that of a resume moves the cursor (10 R225, R242). A list that its engine finds sound is taken
(10 R219, R232). With every write of the copy acknowledged, CKS and STATE 1 are written to the slot of the buddy; with that write
acknowledged too CKPT STEP names its step (10 R244, R245). -/
def Sys2Proof.Claims.ReleasePreparesAndCopies : Prop :=
  ∀ (s : State) (p : Part),
    (releaseReady s p = true → (s.part p).releaseDue = some 0 → fget s .hstPartCtrlFence p.val ≠ 1 → replayStage s p = none →
      ∃ t, exec (.release p) s = .next t ∧
      fget t .updStepStep p.val = (fget s .updStepStep p.val + 1) % 2 ^ Field.updStepStep.spec.width ∧
      fget t .updStatusPrev p.val = fget s .updStatusStatus p.val % 2 ^ Field.updStatusPrev.spec.width ∧
      (∀ b, b ≠ 8 → (fget t .updStatusStatus p.val).testBit b =
        decide (b < Field.updStatusStatus.spec.width ∧ b ∈ (s.part p).carry)) ∧
      (8 ∈ (s.part p).carry → (fget t .updStatusStatus p.val).testBit 8 = true) ∧
      (fget s .updSealCken p.val ≠ 1 → (s.part p).ingest = none → (∀ l, (s.part p).loop = some l → l.replay = false) →
        8 ∉ (s.part p).carry → (fget t .updStatusStatus p.val).testBit 8 = false) ∧ (t.part p).carry = [] ∧
      fget t .svcPulseCount p.val = (fget s .svcPulseCount p.val + 1) % 2 ^ Field.svcPulseCount.spec.width ∧
      fget t .svcPulseStep p.val = fget t .updStepStep p.val % 2 ^ Field.svcPulseStep.spec.width ∧
      sealState t p = 0 ∧ (∀ c ∈ coresOf s p, (t.core c).sealPhase = .none) ∧ (t.part p).releaseDue = none) ∧
    (∀ k, releaseReady s p = true → (s.part p).releaseDue = some k → k ≠ 0 → fget s .hstPartCtrlFence p.val ≠ 1 →
      ∃ t, exec (.release p) s = .next t ∧ fget t .updStepStep p.val = fget s .updStepStep p.val ∧
      fget t .updStatusPrev p.val = fget s .updStatusStatus p.val % 2 ^ Field.updStatusPrev.spec.width ∧
      (∀ b, b ≠ 8 → (fget t .updStatusStatus p.val).testBit b =
        decide (b < Field.updStatusStatus.spec.width ∧ b ∈ (s.part p).carry)) ∧ (t.part p).carry = [] ∧
      (∀ i, (s.part p).ingest = some i → fget t .svcLoopCursor p.val =
        (if k = 2 then nextCursor i (fget s .svcLoopCursor p.val) % 2 ^ Field.svcLoopCursor.spec.width
         else fget s .svcLoopCursor p.val)) ∧
      fget t .svcPulseCount p.val = (fget s .svcPulseCount p.val + 1) % 2 ^ Field.svcPulseCount.spec.width ∧
      sealState t p = 0 ∧ (∀ c ∈ coresOf s p, (t.core c).sealPhase = .none) ∧ (t.part p).releaseDue = none) ∧
    (∀ l, (s.part p).enabled = true → (s.part p).snapTaken = true → (s.part p).prep = none →
      (s.part p).prepFailed = false → sealState s p ≤ 1 → fbit s .hstPartCtrlFence p.val = false →
      (let base := (s.part p).snapList.1
       let n := (s.part p).snapList.2
       let r := memRead s (.upd (engineOf s p)) (some p) base (64 * n)
       (n = 0 ∨ grantedRun s p base (64 * n) = true) → stageHost s (some p) .event [(base, 64 * n)] = none →
       prepareList (unstage r.1 [(base, 64 * n)]) p ((span 0 n).map fun i => (i, slice r.2.1 (64 * i) 64)) = .ok l →
       ∃ t, exec (.updPrepare p) s = .next t ∧ (t.part p).prep = some l ∧ Claims.memSame r.1 t)) ∧
    (∀ b, (s.part p).buddyCopy = some b → copiesHeld s = false → b.left = 0 → b.started = true → b.failed = false →
      fbit s .hstPartCtrlFence p.val = false →
      (b.sealing = false → ∃ t, exec (.buddySlotValid p) s = .next t ∧
        t = buddyWrite (s.setPart p { s.part p with buddyCopy := some { b with sealing := true, failed := false, left := 1 } }) p
          (.buddy p) (buddySlot s p b.step) (slotHead s b.step b.payload b.cks 1) ∧
        fget t .updCkptStep p.val = fget s .updCkptStep p.val ∧ sealState t p = sealState s p) ∧
      (b.sealing = true → ∃ t, exec (.buddySlotValid p) s = .next t ∧
        t = leaveCkwait (fset (s.setPart p { s.part p with buddyCopy := none }) .updCkptStep p.val b.step) p ∧
        (t.part p).buddyCopy = none ∧
        fget t .updCkptStep p.val = b.step % 2 ^ Field.updCkptStep.spec.width))

/-- The list is prepared, committed and released, and its copy is marked valid (10). -/
def Obligations.CommitsAndReleases : Prop := Claims.CommitWritesList ∧ Claims.ReleasePreparesAndCopies

/-! ### Links and ports (11) -/

/-- The flit that a port expects, whole and sound, is taken, and the next is expected; a damaged or unexpected sequenced
flit is discarded, RETRY names the flit that is expected, and the tally counts it. RETRY is repeated each microsecond. A
sender asked for a flit it still holds sends it and every later one again, each as it was but for the acknowledgement of
now; the sixteenth time for one flit the port trains again. FLOW gives the peer's XOFF state (11 R253 to R256). -/
def Sys2Proof.Claims.FlitsAreTakenInOrder : Prop :=
  ∀ (s : State) (n : Port), portUp s n = true →
    (∀ f : Flit, f.ftype = 0 ∨ f.ftype = 2 →
      (f.crcOk = true → f.decoded = true → f.fseq.toNat = (s.port n).expectRx →
        ∃ t, exec (.flitReceive n f) s = .next t ∧ (t.port n).expectRx = ((s.port n).expectRx + 1) % 16384 ∧
          (t.port n).gotFlit = true ∧ (t.port n).retryWanted = false ∧
          (f.ftype = 2 → (t.port n).xoff = field f.content 0 6)) ∧
      (f.crcOk = false ∨ f.decoded = false ∨ f.fseq.toNat ≠ (s.port n).expectRx → (s.port n).retryWanted = false →
        ∃ t, exec (.flitReceive n f) s = .next t ∧ (t.port n).expectRx = (s.port n).expectRx ∧
          (t.port n).retryWanted = true ∧ Out.link n 1 [(s.port n).expectRx] ∈ t.sent ∧
          fget t .sklLinkTallyRetry n.val =
            satAdd Field.sklLinkTallyRetry.spec.width (fget s .sklLinkTallyRetry n.val) 1)) ∧
    (∀ ns, (s.port n).retryWanted = true → 1000 ≤ ns → exec (.retryRepeat n ns) s = .next (askRetry s n)) ∧
    (∀ q : BitVec 14, (∃ f, (q.toNat, f) ∈ (s.port n).buffer) →
      (¬ ((s.port n).resent.1 = q.toNat ∧ 15 ≤ (s.port n).resent.2) →
        ∃ t, exec (.retry n q) s = .next t ∧ (t.port n).buffer = (s.port n).buffer ∧
        (t.port n).resent = (q.toNat, if (s.port n).resent.1 = q.toNat then (s.port n).resent.2 + 1 else 1) ∧
        Claims.regsKept s t [] ∧
        t.sent = s.sent ++ ((s.port n).buffer.dropWhile (·.1 != q.toNat)).map fun f => Out.flit n
          (mkFlit f.1 f.2.ftype.toNat (((s.port n).expectRx + 16383) % 16384) (s.port n).gotFlit f.2.sop f.2.content)) ∧
      ((s.port n).resent.1 = q.toNat → 15 ≤ (s.port n).resent.2 →
        ∃ t, exec (.retry n q) s = .next t ∧ portState t n = 1 ∧ (t.port n).resent = (0, 0))) ∧
    (∀ x : BitVec 48, ∃ t, exec (.flow n x) s = .next t ∧ (t.port n).xoff = x.toNat ∧ Claims.memSame s t)

namespace Sys2Proof.Claims

/-- The fields of SKL_SPARE_MAP that show the lane and the enable of one direction and spare. -/
def spareFields : Bool → Nat → Field × Field
  | true, 0 => (.sklSpareMapTx0, .sklSpareMapTx0en)
  | true, _ => (.sklSpareMapTx1, .sklSpareMapTx1en)
  | false, 0 => (.sklSpareMapRx0, .sklSpareMapRx0en)
  | false, _ => (.sklSpareMapRx1, .sklSpareMapRx1en)

/-- A spare of the peer that carries no lane, is asked for by none, and arrives here on a lane that is neither bad nor the one that
fails. -/
def spareIsFree (x : PortX) (lane k : Nat) : Bool :=
  x.fibre (32 + k) != lane && !x.badRx.contains (x.fibre (32 + k)) && !x.lanesRx.contains (x.fibre (32 + k)) &&
    !x.swapsRx.any fun w => w.spare == k

/-- The substitutions of one direction. -/
def swaps (x : PortX) (tx : Bool) : List SwapX := if tx then x.swapsTx else x.swapsRx

end Sys2Proof.Claims

/-- A lane that is sound only counts its corrected symbols. A lane that lost its lock, exceeds the skew of 16 or counts too
many corrected symbols fails: the logical lane it carries goes to a free spare, the lower first, from the sixty-fourth
interval on, and the receiver asks for it, and repeats its request every 4 microseconds; with no free spare, or with the
spares powered down, the port trains again; a lane that carries nothing is noted. The transmitter notes what it is asked for;
at the interval named both ends switch and the spare map shows it (11 R251, R252, R281). -/
def Sys2Proof.Claims.SparesCarryLanes : Prop :=
  ∀ (s : State) (n : Port), portUp s n = true →
    (∀ (lane : Fin 34) (lost : Bool) (skew corrected : Nat) (cwc : BitVec 10),
      (lost = false → skew ≤ 16 → corrected ≤ fget s .sklPortCtrlSpthr n.val →
        ∃ t, exec (.laneFail n lane lost skew corrected cwc) s = .next t ∧ t.ports = s.ports ∧ t.sent = s.sent ∧
          Claims.regsKept s t [.sklLinkTallyCsym] ∧ fget t .sklLinkTallyCsym n.val =
            satAdd Field.sklLinkTallyCsym.spec.width (fget s .sklLinkTallyCsym n.val) corrected) ∧
      (lost = true ∨ 16 < skew ∨ fget s .sklPortCtrlSpthr n.val < corrected → lane.val ∉ (s.port n).badRx →
        (laneCarried (s.port n) lane.val = none →
          ∃ t, exec (.laneFail n lane lost skew corrected cwc) s = .next t ∧ t.sent = s.sent ∧
            t.port n = { s.port n with badRx := sortSet (lane.val :: (s.port n).badRx) }) ∧
        (∀ l, laneCarried (s.port n) lane.val = some l →
          (∀ k, [0, 1].find? (Claims.spareIsFree (s.port n) lane.val) = some k → sparesOn s = true →
            ∃ t, exec (.laneFail n lane lost skew corrected cwc) s = .next t ∧
              t.port n = { s.port n with
                badRx := sortSet (lane.val :: (s.port n).badRx)
                swapsRx := ((s.port n).swapsRx.filter fun w => w.active || w.lane != l) ++
                  [{ lane := l, spare := k, count := (cwc.toNat + 64) % 1024, active := false }] } ∧
              t.sent = s.sent ++ [Out.link n 2 [l, k, (cwc.toNat + 64) % 1024]]) ∧
          ([0, 1].find? (Claims.spareIsFree (s.port n) lane.val) = none ∨ sparesOn s = false →
            ∃ t, exec (.laneFail n lane lost skew corrected cwc) s = .next t ∧ portState t n = 1 ∧
              Out.link n 4 [devId s, n.val] ∈ t.sent)))) ∧
    (∀ (lane : Fin 32) (spare : Fin 2) (count : BitVec 10), sparesOn s = true →
      (s.port n).lanesTx.contains (32 + spare.val) = false →
      (s.port n).swapsTx.any (fun w => w.spare == spare.val) = false →
      ∃ t, exec (.laneswap n lane spare count) s = .next t ∧
        (t.port n).swapsTx = ((s.port n).swapsTx.filter fun w => w.active || w.lane != lane.val) ++
          [{ lane := lane.val, spare := spare.val, count := count.toNat, active := false }] ∧ Claims.regsKept s t [] ∧
        ∀ m, m ≠ n → t.port m = s.port m) ∧
    (∀ ns, 4000 ≤ ns → ∃ t, exec (.laneswapRepeat n ns) s = .next t ∧ t.ports = s.ports ∧ Claims.regsKept s t [] ∧
      t.sent = s.sent ++ ((s.port n).swapsRx.filter fun w => !w.active).map fun w =>
        Out.link n 2 [w.lane, w.spare, w.count]) ∧
    (∀ (tx : Bool) (spare : Fin 2) (cwc : BitVec 10) (w : SwapX),
      (Claims.swaps (s.port n) tx).find? (fun w => w.spare == spare.val && !w.active && w.count == cwc.toNat) = some w →
      ∃ t, exec (.laneSwitch n tx spare cwc) s = .next t ∧
        Claims.swaps (t.port n) tx = swapOn (Claims.swaps (s.port n) tx) w ∧
        Claims.swaps (t.port n) (!tx) = Claims.swaps (s.port n) (!tx) ∧
        (t.port n).lanesTx = (if tx then setAt (s.port n).lanesTx w.lane (32 + w.spare) else (s.port n).lanesTx) ∧
        (t.port n).lanesRx = (if tx then (s.port n).lanesRx
          else setAt (s.port n).lanesRx w.lane ((s.port n).fibre (32 + w.spare))) ∧
        Claims.regsKept s t ([0, 1].flatMap fun k => [(Claims.spareFields tx k).1, (Claims.spareFields tx k).2]) ∧
        ((∀ y ∈ Claims.swaps (s.port n) tx, y.spare = w.spare → y.active = true → y.lane = w.lane) →
          fget t (Claims.spareFields tx spare.val).2 n.val = 1 ∧
          fget t (Claims.spareFields tx spare.val).1 n.val =
            w.lane % 2 ^ (Claims.spareFields tx spare.val).1.spec.width))

/-- Flits are taken in order, and spares carry failed lanes (11). -/
def Obligations.LinksCarryFlits : Prop := Claims.FlitsAreTakenInOrder ∧ Claims.SparesCarryLanes

/-- A port that is DOWN and whose optics are on begins to train when it sees light; without light a port that was neither
DOWN nor FAILED is DOWN. In training it notes its peer and the round trip with the headroom it needs. Once 32 lanes may be
used each way it is UP, with 16 UP16, and CONFIG_ERR when its reservations do not fit; after 20 ms it is DOWN again, and FAILED
the eighth time in a row (11 R249, R250, R273). Which of the good lanes carry is the model's choice, log entry 137: each lane itself
where it is good, a bad one's on the next spare, and of 16 the first good ones. A receiver whose cable permutes the fibres takes each
lane where it lights (19 R445). -/
def Sys2Proof.Claims.PortsTrain : Prop :=
  ∀ (s : State) (n : Port),
    (portState s n = 0 → opticsOn s n = true → ∃ t, exec (.lightDetect n) s = .next t ∧ portState t n = 1 ∧
      (t.port n).light = true ∧ Claims.regsKept s t [.sklPortStatusState]) ∧
    (∃ t, exec (.lightLoss n) s = .next t ∧ (t.port n).light = false ∧
      (portState s n = 5 → portState t n = 5) ∧ (portState s n ≠ 5 → portState t n = 0)) ∧
    (∀ (dev : BitVec 17) (port : BitVec 3) (rtt : Nat), portState s n = 1 → ∃ t, exec (.train n dev port rtt) s = .next t ∧
      fget t .sklPortStatusPeerdev n.val = dev.toNat ∧ fget t .sklPortStatusPeerport n.val = port.toNat ∧
      fget t .sklPortStatusRtt n.val = min rtt 1023 ∧
      fget t .sklPortStatusHead n.val = (ceilDiv (min rtt 1023 * 25) 4 + 18) % 2 ^ Field.sklPortStatusHead.spec.width ∧
      t.ports = s.ports ∧
      Claims.regsKept s t [.sklPortStatusPeerdev, .sklPortStatusPeerport, .sklPortStatusRtt, .sklPortStatusHead]) ∧
    (∀ (a : BitVec 34) (b : RxLanes),
      let tx := usableLanes s a.toNat (s.port n).swapsTx
      let rx := usableLanes s (RxLanes.lit b) (s.port n).swapsRx
      let full := decide (32 ≤ min tx.length rx.length) && !fbit s .sklPortCtrlForce16 n.val
      portState s n = 1 → 16 ≤ min tx.length rx.length →
      ∃ t, exec (.trainingDone n a b) s = .next t ∧ (t.port n).fails = 0 ∧
        (t.port n).lanesTx = placeLanes tx full ∧ (t.port n).lanesRx = (placeLanes rx full).map (fun l => b.fibres.getD l l) ∧
        (t.port n).badRx = (span 0 34).filter (fun i => !bit b.good.toNat i) ∧
        (resTooLarge s n = true → portState t n = 4) ∧
        (resTooLarge s n = false → portState t n = if full then 2 else 3)) ∧
    (∀ us, portState s n = 1 → 20000 ≤ us → ∃ t, exec (.trainingTimeout n us) s = .next t ∧
      (portState t n = if 7 ≤ (s.port n).fails then 5 else 0) ∧
      (t.port n).fails = if 7 ≤ (s.port n).fails then 0 else (s.port n).fails + 1)

/-- Clearing EN of a port takes it DOWN; setting it lets a port with light train, a FAILED one as well. A PORT reset takes
the port DOWN, clears its tallies and leaves a record of class RESET with CODE 5 that names the port, and the port trains again
when it may (11 R249, R276; 16 R392, R456). -/
def Sys2Proof.Claims.PortEnableAndReset : Prop :=
  ∀ (s : State) (w : Who) (n : Port), fget s .sklPortCtrlForce16 n.val < 2 → fget s .sklPortCtrlSpthr n.val < 2 ^ 16 →
    (∀ en : Bool, Claims.admits s w (0x40_1000 + 0x400 * n.val) 4
        (ofBool en + fget s .sklPortCtrlForce16 n.val * 2 + fget s .sklPortCtrlSpthr n.val * 2 ^ 8) →
      ∃ t, exec (.portEnWrite w n en) s = .next t ∧ fget t .sklPortCtrlEn n.val = ofBool en ∧
        fget t .sklPortCtrlForce16 n.val = fget s .sklPortCtrlForce16 n.val ∧
        fget t .sklPortCtrlSpthr n.val = fget s .sklPortCtrlSpthr n.val ∧
        (en = false → fget s .sklPortCtrlEn n.val = 1 → portState t n = 0) ∧
        (en = true → (portState s n = 0 ∨ portState s n = 5) → (s.port n).light = true → fabricOn s = true →
          fget s .pwrStatusStage 0 < 5 → portState t n = 1)) ∧
    (Claims.admits s w 0x400 4 (2 ^ (n.val + 1)) → ∃ t, exec (.portReset w n) s = .next t ∧
      (portState t n = if (s.port n).light = true ∧ opticsOn s n = true then 1 else 0) ∧
      fget t .sklLinkTallyCsym n.val = 0 ∧ fget t .sklLinkTallyRetry n.val = 0 ∧ (t.port n).buffer = [] ∧
      (t.port n).expectRx = 0 ∧ (t.port n).nextTx = 0 ∧
      (t.errQueue.length < 256 → ∃ e ∈ t.errQueue, e.cls = Cls.code .reset ∧ e.code = 5 ∧ e.sev = Sev.code .info ∧
        e.unitKind = (UnitRef.port n).kind ∧ e.unitIdx = n.val ∧ e.synd = .bytes (leBytes 1 n.val ++ List.replicate 23 0)))

/-- Ports train, are enabled and are reset (11). -/
def Obligations.PortsComeUp : Prop := Claims.PortsTrain ∧ Claims.PortEnableAndReset

/-! ### Fabric time (11) -/

namespace Sys2Proof.Claims

/-- The register says which device is grandmaster, on which port its beacons come and how far it is. -/
def gmShown (t : State) : Prop :=
  (∀ m, parentPort t = some m → fget t .sklTimeCtrlGm 0 = 0 ∧ fget t .sklTimeCtrlParent 0 = m.val ∧
    fget t .sklTimeCtrlHops 0 = min 255 ((t.port m).lastHops + 1) ∧
    fget t .sklTimeCtrlGmid 0 = (t.port m).lastGmid % 2 ^ Field.sklTimeCtrlGmid.spec.width) ∧
  (parentPort t = none → fget t .sklTimeCtrlParent 0 = 0 ∧ fget t .sklTimeCtrlHops 0 = 0 ∧
    (∀ me, ownGm t = some me → fget t .sklTimeCtrlGm 0 = 1 ∧
      fget t .sklTimeCtrlGmid 0 = me.2 % 2 ^ Field.sklTimeCtrlGmid.spec.width) ∧
    (ownGm t = none → fget t .sklTimeCtrlGm 0 = 0 ∧ fget t .sklTimeCtrlGmid 0 = 0))

/-- The priority and ID of the grandmaster that a device names in its beacons, and its own distance. -/
def gmNamed (s : State) (gm : Nat × Nat × Nat) : Prop :=
  (∀ m, parentPort s = some m →
    gm = ((s.port m).lastGmpri, (s.port m).lastGmid, min 255 ((s.port m).lastHops + 1))) ∧
  (parentPort s = none → (∀ me, ownGm s = some me → gm = (me.1, me.2, 0)) ∧ (ownGm s = none → gm = (255, 0, 0)))

end Sys2Proof.Claims

/-- A beacon is noted at its port, and the register then names the grandmaster that this makes; only the beacon of the parent
moves the counter: before LOCKED in one step by the offset that the exchange gives, after it by slewing. A beacon that is
sent says the time in quarters of a nanosecond, the grandmaster and the distance, what the port last heard, under the next
sequence number. After 64 microseconds of silence of the parent its beacons are forgotten and the choice is made anew. An
offset of more than a microsecond that lasts a millisecond is recorded (11 R277 to R279). The quarters of a nanosecond in the
fields of a beacon are the model's choice, log entry 86. -/
def Obligations.BeaconsSetTime : Prop :=
  (∀ (s : State) (n : Port) (b : BeaconMsg), portUp s n = true →
    ∃ t, exec (.beacon n b) s = .next t ∧ (t.port n).heard = true ∧ (t.port n).lastGmpri = b.gmpri.toNat ∧
      (t.port n).lastGmid = b.gmid.toNat ∧ (t.port n).lastHops = b.hops.toNat ∧ (t.port n).lastBseq = b.bseq.toNat ∧
      (t.port n).lastRx = b.t4.toNat ∧ Claims.gmShown t ∧
      (parentPort t ≠ some n ∨ offset2 (s.port n) b = none →
        fget t .sklTimeNow 0 = fget s .sklTimeNow 0 ∧ t.net = s.net) ∧
      (∀ d, parentPort t = some n → offset2 (s.port n) b = some d →
        (fget s .sklTimeCtrlLocked 0 = 0 → fget t .sklTimeCtrlLocked 0 = 1 ∧
          fget t .sklTimeNow 0 = ((timeNow s * 1000 + s.net.slewPart + d * 125) / 1000).toNat % 2 ^ 64) ∧
        (fget s .sklTimeCtrlLocked 0 = 1 → fget t .sklTimeNow 0 = fget s .sklTimeNow 0 ∧
          t.net = { s.net with slew := d * 125 }))) ∧
  (∀ (s : State) (n : Port), portUp s n = true →
    ∃ t f gm, exec (.beaconSend n) s = .next t ∧ (t.port n).bseq = ((s.port n).bseq + 1) % 256 ∧
      t.sent = s.sent ++ [Out.flit n f] ∧ f.ftype = 3 ∧ Claims.gmNamed s gm ∧
      f.content = slice ([3] ++ leBytes 1 gm.1 ++ leBytes 3 gm.2.1 ++ leBytes 1 gm.2.2 ++
        leBytes 1 (((s.port n).bseq + 1) % 256) ++ leBytes 1 (s.port n).lastBseq ++
        leBytes 8 (timeQuarters s).toNat ++ leBytes 8 (s.port n).lastRx) 0 120 ∧
      tget (fun _ => 0) (t.port n).sentT1 (((s.port n).bseq + 1) % 256) = (timeQuarters s).toNat + 1 ∧
      Claims.regsKept s t [] ∧ ∀ m, m ≠ n → t.port m = s.port m) ∧
  (∀ (s : State) (n : Port) (ns : Nat), parentPort s = some n → 64000 ≤ ns →
    ∃ t, exec (.grandmasterElection ns) s = .next t ∧ (t.port n).heard = false ∧ parentPort t ≠ some n ∧
      Claims.gmShown t) ∧
  (∀ (s : State) (o : Int) (us : Nat), 1000 < o.natAbs → 1000 ≤ us →
    exec (.timeOffsetAlarm o us) s = .next (record s .fabric .info none .router .none 0 (.names 279 [o.natAbs])))

/-! ### The fabric (11, 12) -/

namespace Sys2Proof.Claims

/-- A packet of a type that this device's endpoint takes. -/
def arrives (s : State) (q : Packet) (type : Byte) : Prop :=
  q.type = type ∧ isForUs s q = true ∧ destCheck s q false = none

/-- An EPOCH packet of a kind, from the fabric manager. -/
def epochFrom (s : State) (q : Packet) (kind : Nat) : Prop :=
  arrives s q tEPOCH ∧ bits q.aux.toNat 1 2 = kind ∧ isFm s q.srcDev.toNat q.srcEp.toNat = true

end Sys2Proof.Claims

namespace Sys2Proof.Claims

/-- A packet enters the router, which is in state `u` then: one of the device's own is the first of its channel and
leaves the list; one from a port, whose buffer holds it as `hold` until every copy of it has gone, is no longer than a packet may
be, ends where LEN says, and its channel is enabled (11 R261, R272). -/
def enters (s u : State) (src : Ingress) (hold : Option (Port × Nat)) (p : Packet) : Prop :=
  match src with
  | .own => s.net.inject.find? (fun q => q.chan == p.chan) = some p ∧ hold = none ∧
      u = { s with net := { s.net with inject := dropFirst (· == p) s.net.inject } }
  | .port n => (u, hold) = takeHeld s n p.chan ∧ p.len.toNat ≤ 2112 ∧ p.ends = true ∧
      (p.chan < 48 → fget s .sklChanRes (chanIx n p.chan) ≠ 0)

end Sys2Proof.Claims

/-- A packet of the device's own, or one from a port, that enters the router: for this device it is handed to its endpoint;
for another it goes out of the port that the live bank of its epoch names, unless the bank is not LIVE (STALE), it is
malformed (MALFORMED), the hop limit is used up (HOPLIMIT), the port is not up (LINKDOWN) or there is no route (UNROUTABLE).
A multicast packet goes to this device, if its entry says so, and to each port that its entry names, but for the one it came by;
one that may not go to them all goes nowhere. From a port, a packet too long or badly ended is answered MALFORMED, one on a disabled
channel VC. The buffer of its input port holds a packet until it has gone (11 R262, R264, R268, R272, R273, R282). That every output
of a multicast packet is checked before a copy is made, and when a packet has gone, are the model's reading, log entry 161. -/
def Sys2Proof.Claims.RouterForwards : Prop :=
  (∀ (s u : State) (src : Ingress) (hold : Option (Port × Nat)) (p : Packet) (xoffNs : List Nat), Claims.enters s u src hold p →
    let out := fun (t : State) => exec (.packetRoute src p xoffNs) s = .next (leaveBuffer t hold)
    (bankState u p.epoch ≠ 2 → out (nakAt u p nSTALE src.num)) ∧
    (bankState u p.epoch = 2 → p.malformed = true → out (nakAt u p nMALFORMED src.num)) ∧
    (bankState u p.epoch = 2 → p.malformed = false → p.mc = false →
      (devValid u = true → p.dstDev.toNat = devId u → out (deliver u src.num p)) ∧
      (¬ (devValid u = true ∧ p.dstDev.toNat = devId u) →
        (6 ≤ routeOf u p.epoch p.dstDev.toNat → out (nakAt u p nUNROUTABLE src.num)) ∧
        (∀ n : Port, routeOf u p.epoch p.dstDev.toNat = n.val →
          (p.hoplim.toNat = 0 → out (nakAt u p nHOPLIMIT src.num)) ∧
          (p.hoplim.toNat ≠ 0 → portUp u n = false → out (nakAt u p nLINKDOWN src.num)) ∧
          (p.hoplim.toNat ≠ 0 → portUp u n = true → out (forward u n p hold xoffNs))))) ∧
    (bankState u p.epoch = 2 → p.malformed = false → p.mc = true →
      let i := ofBool p.epoch * 4096 + p.dstDev.toNat % 4096
      let ports := portRange.filter fun n => bit (fget u .sklMcastPorts i) n.val && src != .port n
      let v := if fbit u .sklMcastLocal i then deliver u src.num p else u
      (fget u .sklMcastValid i ≠ 1 → out (nakAt u p nUNROUTABLE src.num)) ∧
      (fget u .sklMcastValid i = 1 → ports ≠ [] → p.hoplim.toNat = 0 → out (nakAt u p nHOPLIMIT src.num)) ∧
      (fget u .sklMcastValid i = 1 → p.hoplim.toNat ≠ 0 → ports.all (portUp u) = false →
        out (nakAt u p nLINKDOWN src.num)) ∧
      (fget u .sklMcastValid i = 1 → (ports = [] ∨ p.hoplim.toNat ≠ 0) → ports.all (portUp u) = true →
        out (ports.foldl (fun s n => forward s n p hold xoffNs) v)))) ∧
  (∀ (s : State) (n : Port) (p : Packet) (xoffNs : List Nat),
    let h := takeHeld s n p.chan
    (2112 < p.len.toNat ∨ p.ends = false →
      exec (.packetRoute (.port n) p xoffNs) s = .next (leaveBuffer (nakAt h.1 p nMALFORMED n.val) h.2)) ∧
    (p.len.toNat ≤ 2112 → p.ends = true → p.chan < 48 → fget s .sklChanRes (chanIx n p.chan) = 0 →
      exec (.packetRoute (.port n) p xoffNs) s = .next (leaveBuffer (nakAt h.1 p nVC n.val) h.2)))

/-- WRITE that passes the checks of its destination stores its bytes and is acknowledged; READ is answered with the bytes,
or with NAK UNCORRECTABLE, once host memory, if it names any, has answered; a request to a service controller is
acknowledged, but one without a job from another than the fabric manager is answered NOTOWNER (11 R258 to R260, R282). -/
def Sys2Proof.Claims.RequestsAreServed : Prop :=
  ∀ (s : State) (q : Packet),
    (Claims.arrives s q tWRITE →
      exec (.write q) s = .next (ackTo (agentWrite s .fabric (accessPart s q) q.addr.toNat q.data) q)) ∧
    (Claims.arrives s q tREAD →
      (∀ t, stageHost s (accessPart s q) .event [(q.addr.toNat, q.aux.toNat)] = some t → exec (.read q) s = .next t) ∧
      (stageHost s (accessPart s q) .event [(q.addr.toNat, q.aux.toNat)] = none →
        let r := memRead s .fabric (accessPart s q) q.addr.toNat q.aux.toNat
        let u := unstage r.1 [(q.addr.toNat, q.aux.toNat)]
        exec (.read q) s = .next (if r.2.2 then nak u q nUNCORRECTABLE else answer u q tREADDATA 0 r.2.1))) ∧
    (Claims.arrives s q tSVC → q.aux.toNat % 256 ∉ [0x20, 0x21, 0x10, 0x12] →
      (q.job ≠ 0 ∨ q.vc.toNat = 22 ∧ isFm s q.srcDev.toNat q.srcEp.toNat = true →
        exec (.svcRequest q) s = .next (ackTo s q)) ∧
      (q.job = 0 → ¬ (q.vc.toNat = 22 ∧ isFm s q.srcDev.toNat q.srcEp.toNat = true) →
        exec (.svcRequest q) s = .next (nak s q nNOTOWNER)))

/-- The last answer to an outstanding request ends it, and its tag is free; an earlier one of several is counted; an answer
to no request, or to one answered already by the device itself, is a stray, which is counted and recorded as a violation, and
the tag of a request answered at a fence is then free (11 R259, R274, R282; 16 R396). -/
def Sys2Proof.Claims.AnswersEndRequests : Prop :=
  ∀ (s : State) (q : Packet) (i : Instr) (type : Byte),
    (i, type) ∈ [(Instr.readData q, tREADDATA), (Instr.ack q, tACK), (Instr.nak q, tNAK)] → Claims.arrives s q type →
    (let u := doneWith (fabViol s nSTRAY (cameBy s q) q) q
     (outOf s q.tag.toNat = none → exec i s = .next u) ∧
     (∀ o, outOf s q.tag.toNat = some o →
      (o.quarantine ≠ 0 → o.quarantine ≠ 1 → exec i s = .next u) ∧
      (o.quarantine = 1 → exec i s = .next (pump (dropOut u q.tag.toNat))) ∧
      (o.quarantine = 0 →
        let v := takeMark (takeData (doneWith s q) o q) q
        (1 < o.leaves → exec i s = .next { v with net := { v.net with
          out := mapFirst (fun e => e.1 == q.tag.toNat) (fun _ => (q.tag.toNat, { o with leaves := o.leaves - 1 }))
            v.net.out } }) ∧
        (o.leaves ≤ 1 → exec i s = .next (pump (requestOver (dropOut v q.tag.toNat) o))))))

/-- The router forwards, requests are served, and answers end requests (11). -/
def Obligations.FabricServes : Prop := Claims.RouterForwards ∧ Claims.RequestsAreServed ∧ Claims.AnswersEndRequests

/-- ARM toward a LIVE bank begins the drain, and one toward the epoch in force or while a drain is under way is only
acknowledged; once no request is outstanding the epoch turns; at the drain's limit what is outstanding is answered by the
device itself and the epoch turns; RETIRE retires the bank that is not in force; what may not be done is answered MALFORMED,
and DONE always. The rate of injection rises by 1/64 of a port's rate toward CAP (11 R264 to R267, R274). That this 1/64 of 6,250 is
97, rounded down, is the model's choice, log entry 159; so are the class and the code of the record of a drain that expires, log
entry 90. -/
def Sys2Proof.Claims.EpochsTurn : Prop :=
  (∀ (s : State) (q : Packet), Claims.epochFrom s q 0 →
    (bit q.aux.toNat 0 = epochNow s ∨ draining s = true → exec (.epochArm q) s = .next (ackTo s q)) ∧
    (bit q.aux.toNat 0 ≠ epochNow s → draining s = false →
      exec (.epochArm q) s = .next (if bankState s (bit q.aux.toNat 0) = 2 then ackTo (fset s .sklEpochDraining 0 1) q
        else nak s q nMALFORMED))) ∧
  (∀ (s : State) (q : Packet), Claims.epochFrom s q 1 → exec (.epochDone q) s = .next (nak s q nMALFORMED)) ∧
  (∀ (s : State) (q : Packet), Claims.epochFrom s q 2 →
    exec (.epochRetire q) s = .next (
      if bit q.aux.toNat 0 ≠ epochNow s ∧ draining s = false ∧ bankState s (bit q.aux.toNat 0) ≠ 1 ∧
        bankState s (bit q.aux.toNat 0) ≠ 3 then ackTo (setBank s (bit q.aux.toNat 0) 0) q
      else nak s q nMALFORMED)) ∧
  (∀ s : State, draining s = true → awaited s = [] →
    ∃ t, exec .epochFlip s = .next t ∧ t = flipEpoch s [] ∧ epochNow t = !epochNow s ∧ draining t = false ∧
      Claims.memSame s t) ∧
  (∀ (s : State) (us : Nat), draining s = true → fget s .sklEpochDrainLimit 0 ≤ us →
    let u := record (fset s .sklEpochExpired 0 (satAdd 16 (fget s .sklEpochExpired 0) (awaited s).length)) .fabric .info
      none .router .none nTIMEOUT (.names 267 [(awaited s).length])
    ∃ t, exec (.drainLimit us) s = .next t ∧ t = flipEpoch ((awaited s).foldl (fun s t => localNak s t 2) u) (awaited s) ∧
      epochNow t = !epochNow s ∧ draining t = false) ∧
  (∀ (s : State) (vc : Vc) (ns : Nat), vc.val < 22 → 5000 ≤ ns → fget s .sklInjCap vc.val < 2 ^ 16 →
    ∃ t, exec (.injectionRateRaise vc ns) s = .next t ∧
      fget t .sklInjRate vc.val = min (fget s .sklInjRate vc.val + 97) (fget s .sklInjCap vc.val) ∧
      Claims.regsKept s t [.sklInjRate] ∧ Claims.memSame s t ∧ t.net = s.net)

/-- A written change of a bank's state that the machine of banks allows is stored, the other bank and the drain's limit as
before; one it does not allow leaves every bank as it was (11 R264). -/
def Sys2Proof.Claims.BankStatesFollowRule : Prop :=
  ∀ (s : State) (w : Who) (bank : Fin 2) (v : BitVec 2), fget s .sklEpochBank0 0 < 4 → fget s .sklEpochBank1 0 < 4 →
    fget s .sklEpochDrainLimit 0 < 2 ^ 24 →
    Claims.admits s w 0x40_0008 4 ((if bank = 0 then v.toNat else fget s .sklEpochBank0 0) * 4 +
      (if bank = 1 then v.toNat else fget s .sklEpochBank1 0) * 16 + fget s .sklEpochDrainLimit 0 * 2 ^ 8) →
    ∃ t, exec (.bankStateWrite w bank v) s = .next t ∧
      fget t .sklEpochDrainLimit 0 = fget s .sklEpochDrainLimit 0 ∧ epochNow t = epochNow s ∧
      (bankStep s bank.val v.toNat = true → bankState t (bank.val == 1) = v.toNat) ∧
      (bankStep s bank.val v.toNat = false → bankState t (bank.val == 1) = bankState s (bank.val == 1)) ∧
      Claims.memSame s t

/-- Epochs turn, and banks of routes follow their rule (11 R264 to R267). -/
def Obligations.EpochsAndBanks : Prop := Claims.EpochsTurn ∧ Claims.BankStatesFollowRule

/-! ### The structure image, the host link and management (12, 13) -/

/-- START of a structure load puts the loader to work on the image at the address, for a check only when that is asked for;
when the image has been read it is refused, checked or applied, the loader is idle, and the fences that waited for it
begin (12 R288 to R290; 16 R395). -/
def Obligations.StructureLoads : Prop :=
  (∀ (s : State) (w : Who) (checkOnly : Bool), Claims.admits s w 0x10_0808 4 (1 + 4 * ofBool checkOnly) →
    rotBusy s = false → ∃ t, exec (.structLoad w checkOnly) s = .next t ∧
      t.rot.op = some (.load (fget s .rotSimgAddrAddr 0) checkOnly) ∧ fget t .rotSimgCtrlStart 0 = 1 ∧
      fget t .rotSimgCtrlCheckonly 0 = ofBool checkOnly ∧ t.parts = s.parts ∧ Claims.memSame s t) ∧
  (∀ (s t : State) (a : Nat) (checkOnly : Bool) (img : Option Bytes), s.rot.op = some (.load a checkOnly) →
    a % 64 = 0 → 128 ≤ a → rotImage s (a - 128) = .inr (t, img) →
    exec .structLoadDone s = .next (dueFences (endLoad (rotUnstage
      (loadImage t (if t.rot.readErr then none else img) a checkOnly) (a - 128) ((img.map imgSize).getD 128)))))

namespace Sys2Proof.Claims

/-- A BAR2 access that reaches memory at the runs of addresses `l`. -/
def bar2Reaches (s : State) (f : Fn) (ide : Bool) (tlp : Tlp) (write : Bool) (off n : Nat) (l : List (Nat × Nat)) : Prop :=
  linkOn s = true ∧ requestFault s f ide tlp write = none ∧ fget s .hstDevStatusDevfault 0 ≠ 1 ∧
    bar2Map s f off n = some l ∧ bar2Barred s f l = false

end Sys2Proof.Claims

/-- A read through BAR2, of at most 4,096 bytes, is completed with the bytes of the memory that its window maps, poisoned when
one is uncorrectable; a write, of at most the payload in force, stores its bytes there. A request that the function does not
take is turned away (13 R310, R315 to R317, R335). -/
def Sys2Proof.Claims.Bar2ReachesMemory : Prop :=
  ∀ (s : State) (f : Fn) (ide : Bool) (tlp : Tlp) (off : BitVec 39) (l : List (Nat × Nat)),
    (∀ n, n ≤ 4096 → Claims.bar2Reaches s f ide tlp false off.toNat n l →
      let r := l.foldl (fun (r : State × Bytes × Bool) u =>
        let x := memRead r.1 (.fn f) (partOfFn s f) u.1 u.2
        (x.1, r.2.1 ++ x.2.1, r.2.2 || x.2.2)) (s, [], false)
      exec (.bar2Read f ide tlp off n) s = .next (emit r.1 (.cpl f (if r.2.2 then .ep else .sc) r.2.1))) ∧
    (∀ b : Bytes, b.length ≤ payloadMax s → Claims.bar2Reaches s f ide tlp true off.toNat b.length l →
      (f = 0 → isOwner s (.host f ide tlp) = true) →
      exec (.bar2Write f ide tlp off b) s = .next (l.foldl (fun (r : State × Bytes) u =>
        (memWrite r.1 (.fn f) (partOfFn s f) u.1 (r.2.take u.2), r.2.drop u.2)) (s, b)).1) ∧
    (∀ code how, linkOn s = true →
      (∀ n, requestFault s f ide tlp false = some (code, how) →
        exec (.bar2Read f ide tlp off n) s = .next (turnAway s f tlp false code how off.toNat)) ∧
      (∀ b, requestFault s f ide tlp true = some (code, how) →
        exec (.bar2Write f ide tlp off b) s = .next (turnAway s f tlp true code how off.toNat)))

namespace Sys2Proof.Claims

/-- A management operation of a master is heard and answered. `registered` says that only the registered fabric manager may
send it. -/
def heard (s : State) (w : Who) (registered : Bool) : Prop :=
  masterOn s w = true ∧ fmRefused s w registered = none ∧ viewOf w = 0

/-- A request to a function's configuration space arrives, and nothing turns it away. -/
def configThere (s : State) (f : Fn) (ide : Bool) (tlp : Tlp) (write : Bool) : Prop :=
  linkOn s = true ∧ configFault s f ide tlp write = none

end Sys2Proof.Claims

/-- A read of a register by the host is completed with what the registers under it show, and by a master over management it
is answered with them; a write by either reaches the registers under it, and a vector's mask is cleared by a write of 0: what
waited for it and may go is sent. Configuration space shows its registers and takes what is written; a request to it that is
plain where IDE is required, or not sound, is turned away. An operation code that
is unknown is answered so. A master's write of the arbiter's register has the answer of the arbiter: the model's choice, log
entry 157 (00 R10; 13 R310, R312, R316, R322, R323, R332). -/
def Sys2Proof.Claims.RegistersAreReached : Prop :=
  ∀ (s : State) (off : BitVec 26),
    (∀ (f : Fn) (ide : Bool) (tlp : Tlp) (size : Byte), size = 0 ∨ size = 1 →
      linkOn s = true → requestFault s f ide tlp false = none → off.toNat % (4 * 2 ^ size.toNat) = 0 →
      gateOf s (.host f ide tlp) off.toNat (4 * 2 ^ size.toNat) none = .pass →
      exec (.regRead (.host f ide tlp) .bar0 off size) s = .next (emit s (.cpl f .sc
        (leBytes (4 * 2 ^ size.toNat) (readBus s f.val off.toNat (4 * 2 ^ size.toNat)))))) ∧
    (∀ (w : Who) (size : Byte), Claims.heard s w true → size.toNat ≤ 2 → off.toNat % (4 * 2 ^ size.toNat) = 0 →
      (∀ u ∈ piecesOf off.toNat (4 * 2 ^ size.toNat), gateOf s w u.1 u.2 none = .pass) →
      exec (.regRead w .mgmt off size) s = .next (mgmtAnswer s w kSUCCESS
        ((piecesOf off.toNat (4 * 2 ^ size.toNat)).flatMap fun u => leBytes u.2 (readBus s 0 u.1 u.2)))) ∧
    (∀ (w : Who) (code size : Byte), Claims.heard s w false → code = 0 ∨ 6 < code.toNat →
      exec (.regRead w (.operation code) off size) s =
        .next (mgmtAnswer (violation s 0x0D (requesterOf s w) (code.toNat :: headOf w)) w kUNKNOWN [])) ∧
    (∀ (w : Who) (size : Byte) (data : BitVec 128), Claims.heard s w true → size = 0 ∨ size = 1 →
      off.toNat % (4 * 2 ^ size.toNat) = 0 →
      gateOf s w off.toNat (4 * 2 ^ size.toNat) (some (bits data.toNat 0 (8 * (4 * 2 ^ size.toNat)))) = .pass →
      (isOwnCtrl off.toNat = false → exec (.regWrite w off size data) s = .next (mgmtAnswer (writeBus s w 0 1 off.toNat
        (4 * 2 ^ size.toNat) (bits data.toNat 0 (8 * (4 * 2 ^ size.toNat)))) w kSUCCESS [])) ∧
      (isOwnCtrl off.toNat = true →
        let r := ownCtrl s w (bits data.toNat 0 (8 * (4 * 2 ^ size.toNat)))
        exec (.regWrite w off size data) s = .next (mgmtAnswer r.1 w r.2 []))) ∧
    (∀ (f : Fn) (ide : Bool) (tlp : Tlp) (wide : Bool) (data : Dword), off.toNat % (if wide then 8 else 4) = 0 →
      Claims.admits s (.host f ide tlp) off.toNat (if wide then 8 else 4) data.toNat →
      exec (.registerWrite (.host f ide tlp) (.bar0 off wide data)) s = .next (writeBus s (.host f ide tlp) f.val
        (if f = 0 then 1 else 2) off.toNat (if wide then 8 else 4)
        (bits data.toNat 0 (8 * (if wide then 8 else 4))))) ∧
    (∀ (f : Fn) (ide : Bool) (tlp : Tlp) (field : CfgField),
      (∀ v : Word, Claims.configThere s f ide tlp true →
        exec (.registerWrite (.host f ide tlp) (.config field v)) s = .next (writeConfig s f field v.toNat)) ∧
      (∀ size, Claims.configThere s f ide tlp false →
        exec (.regRead (.host f ide tlp) (.config field) off size) s = .next (emit s (.cpl f .sc
          (leBytes (match field with | .serialNumber => 8 | .aerHeader | .aerPrefix => 16 | _ => 4)
            (readConfig s f field))))) ∧
      (∀ (code : Nat) (how : TurnedAway) (v : Word) (size : Byte), linkOn s = true →
        (configFault s f ide tlp true = some (code, how) →
          exec (.registerWrite (.host f ide tlp) (.config field v)) s = .next (turnAway s f tlp false code how 0)) ∧
        (configFault s f ide tlp false = some (code, how) →
          exec (.regRead (.host f ide tlp) (.config field) off size) s = .next (turnAway s f tlp false code how 0)))) ∧
    (∀ (f : Fn) (ide : Bool) (v : Fin 64), Claims.admits s (.host f ide .sound) (0x1_000C + 16 * v.val) 4 0 →
      ∃ t, exec (.msixUnmask f ide v) s = .next t ∧ bit ((t.fn f).entry v.val) 96 = false ∧
        bits ((t.fn f).entry v.val) 0 96 = bits ((s.fn f).entry v.val) 0 96 ∧
        ((s.fn f).mayIssue = true → (s.fn f).msixEnable = true → v.val ∈ (s.fn f).pendingVec →
          (f = 0 ∨ (s.hub.vfEnable = true ∧ partOfFn s f ≠ none)) → v.val ∉ (t.fn f).pendingVec ∧
          Out.msix f v.val (bits ((s.fn f).entry v.val) 0 64) (bits ((s.fn f).entry v.val) 64 32) ∈ t.sent))

/-- A write of the list register of a partition that the gate admits is held: BASE and COUNT read as written, at that
partition alone, and no other register changes (10 R219; 00 R10). -/
def Sys2Proof.Claims.ListRegisterHoldsWrite : Prop :=
  ∀ (s : State) (f : Fn) (ide : Bool) (tlp : Tlp) (p : Part) (off : BitVec 26) (data : Dword),
    off.toNat = 0xA0_0018 + 0x40 * p.val → Claims.admits s (.host f ide tlp) off.toNat 8 data.toNat →
    ∃ t, exec (.registerWrite (.host f ide tlp) (.bar0 off true data)) s = .next t ∧
      fget t .updListBase p.val = data.toNat % 2 ^ 48 ∧ fget t .updListCount p.val = data.toNat / 2 ^ 48 % 2 ^ 12 ∧
      Claims.regsKept s t [.updListBase, .updListCount] ∧
      (∀ i, i ≠ p.val → fget t .updListBase i = fget s .updListBase i ∧ fget t .updListCount i = fget s .updListCount i) ∧
      Claims.memSame s t ∧ t.sent = s.sent

/-- The host reaches memory through BAR2, and every master reaches registers (13). -/
def Obligations.HostReachesRegistersAndMemory : Prop := Claims.Bar2ReachesMemory ∧ Claims.RegistersAreReached ∧ Claims.ListRegisterHoldsWrite

/-- A sound completion of a read of host memory brings its bytes to the unit that asked, and its tag is free; a completion in
error, or none in 50 ms, ends the read in an error, and the unit takes zeros; the fences begin that waited for an image which
the bytes show to be for another partition (log entry 153). A completion for no read is a violation. One
that fails its integrity check, or comes on an Insecure stream, is discarded, and the stream is Insecure. A quarantined tag is
free again after its completion or after 100 ms. That a completion of another length than asked is malformed is the model's
choice, log entry 72 (13 R320 to R322, R329, R335; 16 R396). -/
def Obligations.DmaReadsEnd : Prop :=
  ∀ (s : State) (tag : Nat) (header : Bytes),
    let head : Tlp := { kind := .sound, header := header }
    (dmaOf s tag = none → ∀ st b, exec (.dmaCompletion tag ⟨st, header⟩ b) s = .next (linkViolation s 0 0x0B [tag] head)) ∧
    (∀ d, dmaOf s tag = some d →
      (∀ st b, st = .broken ∨ (ideOf s d.fn).any (fun x => !x.secure) = true →
        exec (.dmaCompletion tag ⟨st, header⟩ b) s = .next (linkViolation (ideBroken s d.fn) d.fn 0x08 [tag] head)) ∧
      (d.quarantine = false →
        ((ideOf s d.fn).any (fun x => !x.secure) = false →
          (∀ b : Bytes, b.length = d.len →
            exec (.dmaCompletion tag ⟨.sc, header⟩ b) s = .next (settleFences (dmaArrive (dropDma s tag) d b))) ∧
          (∀ b : Bytes, b.length ≠ d.len →
            exec (.dmaCompletion tag ⟨.sc, header⟩ b) s = .next (linkViolation s d.fn 0x01 [tag] head)) ∧
          (∀ st b, st ≠ .sc → st ≠ .broken →
            exec (.dmaCompletion tag ⟨st, header⟩ b) s = .next (settleFences (dmaEnds (dropDma s tag) d)))) ∧
        (∀ ms, 50 ≤ ms → exec (.dmaTimeout tag ms) s = .next (settleFences (dmaEnds (dropDma s tag) d)))) ∧
      (d.quarantine = true →
        ((ideOf s d.fn).any (fun x => !x.secure) = false →
          ∀ st b, st ≠ .broken →
            exec (.dmaCompletion tag ⟨st, header⟩ b) s = .next (linkViolation (dropDma s tag) d.fn 0x0B [tag] head)) ∧
        (∀ ms, 100 ≤ ms → exec (.dmaTimeout tag ms) s = .next (dropDma s tag))))

namespace Sys2Proof.Claims

/-- A function's configuration is that of reset; vectors may wait. -/
def atReset (x : FnX) : Prop := { x with pendingVec := [] } = ({} : FnX)

end Sys2Proof.Claims

/-- VF Enable is set and cleared; cleared, every partition of a VF is fenced and reset, and the VFs have the configuration of
reset. A function-level reset of a VF gives
it the configuration of reset and fences and resets its partition; one of PF0 gives PF0 the configuration of reset, clears VF
Enable with the same effects and ends the host's
ownership. When the link goes down all functions are reset, every read of host memory ends, no stream is held and the host
owns the module no more, and with no read outstanding no partition changes; it comes up at the rate and width of a partner in FLIT mode, and without FLIT mode it stays down
with NOFLIT (13 R311, R313, R314, R327, R329). -/
def Obligations.FunctionsAndLinkReset : Prop :=
  (∀ s : State, linkOn s = true →
    exec .vfEnableSet s = .next { s with hub := { s.hub with vfEnable := true } } ∧
    (s.hub.vfEnable = true → ∃ t, exec .vfEnableClear s = .next t ∧ t.hub.vfEnable = false ∧
      (∀ p ∈ vfParts s, (t.part p).resetDue = true) ∧ ∀ f : Fn, f ≠ 0 → Claims.atReset (t.fn f)) ∧
    (∀ f : Fn, f ≠ 0 → s.hub.vfEnable = true → ∃ t, exec (.flrVf f) s = .next t ∧ Claims.atReset (t.fn f) ∧
      ∀ p, partOfFn s f = some p → (t.part p).resetDue = true) ∧
    (∃ t, exec .flrPf0 s = .next t ∧ t.hub.vfEnable = false ∧ ownedBy t 1 = false ∧ (∀ f, Claims.atReset (t.fn f)) ∧
      ∀ p ∈ vfParts s, (t.part p).resetDue = true) ∧
    (∃ t, exec .linkDown s = .next t ∧ fget t .hstLinkStatusUp 0 = 0 ∧ fget t .hstLinkStatusRate 0 = 0 ∧
      fget t .hstLinkStatusWidth 0 = 0 ∧ t.hub.vfEnable = false ∧ t.hub.ide = [] ∧ t.net.dma = [] ∧ ownedBy t 1 = false ∧
      fget t .hstLinkStatusDowns 0 = satAdd 16 (fget s .hstLinkStatusDowns 0) 1 ∧ (∀ f, Claims.atReset (t.fn f)) ∧
      (s.net.dma = [] → t.parts = s.parts))) ∧
  (∀ (s : State) (rate width : Fin 4), hubOn s = true → rate ≠ 0 → width ≠ 0 →
    (∃ t, exec (.linkUp true rate width) s = .next t ∧ fget t .hstLinkStatusUp 0 = 1 ∧
      fget t .hstLinkStatusRate 0 = rate.val ∧ fget t .hstLinkStatusWidth 0 = width.val ∧
      fget t .hstLinkStatusNoflit 0 = 0 ∧
      Claims.regsKept s t [.hstLinkStatusUp, .hstLinkStatusRate, .hstLinkStatusWidth, .hstLinkStatusNoflit]) ∧
    (fget s .hstLinkStatusUp 0 = 0 → exec (.linkUp false rate width) s = .next (fset s .hstLinkStatusNoflit 0 1)))

/-! ### Messages (13, 15) -/

namespace Sys2Proof.Claims

/-- A message goes out on a binding: over I3C an interrupt says first that it waits. -/
def speaks (s t : State) (b : Binding) (o : Out) : Prop :=
  t.sent = s.sent ++ (match b with | .i3c => [Out.ibi, o] | .pcie => [o])

end Sys2Proof.Claims

/-- The I3C target gives its provisional ID and takes its dynamic address; the endpoint takes the ID that it is given on that binding, and answers every
control request with what it is and supports, one that is not supported with ERROR_UNSUPPORTED_CMD; a bad transfer or packet
is a violation. A message of more packets than one is whole when its last packet has come. That the null and the
broadcast ID are refused is the model's choice, log entry 55 (13 R330, R331, R335). -/
def Obligations.ControlRequestsAreAnswered : Prop :=
  (∀ (s : State) (a : BitVec 7), i3cOn s = true → s.hub.i3cAddr = none → ∃ t, exec (.entdaa (.entdaa a)) s = .next t ∧
    t.hub.i3cAddr = some a.toNat ∧ t.sent = s.sent ++ [Out.i3c true (Config.provisionalId s.fuses.identity)] ∧
    t.regs = s.regs ∧ Claims.memSame s t) ∧
  (∀ (s : State) (head : Bytes), i3cOn s = true → exec (.entdaa (.malformed head)) s =
    .next (emit (violation s 0x0F (0x100 + s.hub.eidI3c) ((head.take 16).map (·.toNat))) (.i3c false 0))) ∧
  (∀ (s : State) (b : Binding), mctpOn s b = true →
    (∀ e : Byte, e ≠ 0 → e ≠ 0xFF → ∃ t, exec (.setEndpointId b (.setEid e)) s = .next t ∧ eidOf t b = e.toNat ∧
      (∀ c, c ≠ b → eidOf t c = eidOf s c) ∧ Claims.speaks s t b (.mctp b (Config.mctp 1 [0, e.toNat])) ∧
      t.regs = s.regs ∧ Claims.memSame s t) ∧
    (∀ e : Byte, e = 0 ∨ e = 0xFF → ∃ t, exec (.setEndpointId b (.setEid e)) s = .next t ∧ (∀ c, eidOf t c = eidOf s c) ∧
      Claims.speaks s t b (.mctp b (Config.mctp 1 [2, eidOf s b]))) ∧
    (∀ (c : Byte) (head : Bytes), c = 0 ∨ 6 < c.toNat → exec (.setEndpointId b (.other c head)) s =
      .next (mctpAnswer (violation s 0x0D (partnerOf s b) (c.toNat :: (head.take 16).map (·.toNat))) b c.toNat [5])) ∧
    (∀ head : Bytes, ∃ t, exec (.setEndpointId b (.badPacket head)) s = .next t ∧
      (∀ e ∈ t.hub.asm, e.1 ≠ bindingNo b) ∧ t.hub.arrived = s.hub.arrived ∧
      fget t .hstViolTallyCount 0x0C = satAdd 32 (fget s .hstViolTallyCount 0x0C) 1) ∧
    (∀ (p : McpPacket) (x : AsmX), (s.hub.asm.find? fun e => e.1 == bindingNo b) = some (bindingNo b, x) → p.som = false →
      x.tag = p.tag → x.next = p.seq → p.payload ≠ [] → p.payload.length ≤ 64 → x.bytes.length + p.payload.length ≤ 4096 →
      (p.eom = true → ∃ t, exec (.setEndpointId b (.packet p)) s = .next t ∧
        (bindingNo b, x.bytes ++ p.payload) ∈ t.hub.arrived ∧ (∀ e ∈ t.hub.asm, e.1 ≠ bindingNo b) ∧ t.regs = s.regs) ∧
      (p.eom = false → p.payload.length = 64 → ∃ t, exec (.setEndpointId b (.packet p)) s = .next t ∧
        (bindingNo b, { tag := p.tag, next := p.seq + 1, bytes := x.bytes ++ p.payload }) ∈ t.hub.asm ∧
        t.hub.arrived = s.hub.arrived ∧ t.regs = s.regs)) ∧
    (∀ i code values, (i, code, values) ∈
        [(Instr.getEndpointId b, 2, [0, eidOf s b]), (Instr.getEndpointUuid b, 3, [0]),
         (Instr.getMctpVersionSupport b, 4, [0]), (Instr.getMessageTypeSupport b, 5, [0, 0x00, 0x05, 0x06, 0x7E]),
         (Instr.getVendorDefinedMessageSupport b, 6, [0, 0x1E47])] →
      ∃ t, exec i s = .next t ∧ Claims.speaks s t b (.mctp b (Config.mctp code values)) ∧ t.hub = s.hub ∧
        t.regs = s.regs ∧ Claims.memSame s t))

/-! ### Ownership (13) -/

namespace Sys2Proof.Claims

/-- The arbiter's state, its owner and the successor that a handover names. -/
def ownIs (s : State) (st owner succ : Nat) : Prop :=
  fget s .hstOwnStatusState 0 = st ∧ fget s .hstOwnStatusOwner 0 = owner ∧ fget s .hstOwnStatusSucc 0 = succ

/-- A change of the arbiter counts, drops the claims held, and leaves memory. -/
def ownChanged (s t : State) : Prop :=
  fget t .hstOwnStatusChanges 0 = satAdd 32 (fget s .hstOwnStatusChanges 0) 1 ∧ t.hub.claims = [] ∧ Claims.memSame s t

end Sys2Proof.Claims

/-- A valid claim on a module that no master owns makes the claimant the owner, unless one of higher precedence waits in the
same cycle; in the election a claim is held, at once when the policy is not locked, and with the policy locked one of the first
precedence wins; the owner's own claim succeeds and changes nothing; a valid claim of another on an owned module is refused,
as is an invalid one. Which claims come in the same cycle is the model's choice, log entry 138. The owner's release leaves no owner, with CAUSE 1; its handover to another master names the successor,
which alone may claim, while another's claim is refused; neither is another's to make. A heartbeat of a master is answered (13 R325 to R328). -/
def Sys2Proof.Claims.ClaimsReleasesHandovers : Prop :=
  ∀ (s : State) (w : Who), Claims.heard s w false →
    (isOwner s w = true →
      exec (.ownClaim w) s = .next (mgmtAnswer s w kSUCCESS []) ∧
      (∃ t, exec (.ownRelease w) s = .next t ∧ Claims.ownIs t 1 0 0 ∧ fget t .hstOwnStatusCause 0 = 1 ∧
        Claims.ownChanged s t) ∧
      (∀ succ : Byte, 1 ≤ succ.toNat → succ.toNat ≤ 3 → succ.toNat ≠ masterOf w →
        ∃ t, exec (.ownHandover w succ) s = .next t ∧ Claims.ownIs t 3 0 succ.toNat ∧ Claims.ownChanged s t)) ∧
    (isOwner s w = false →
      exec (.ownRelease w) s = .next (mgmtAnswer (notOwner s w 4) w kNOTOWNER []) ∧
      (∀ succ : Byte, 1 ≤ succ.toNat → succ.toNat ≤ 3 →
        exec (.ownHandover w succ) s = .next (mgmtAnswer (notOwner s w 5) w kNOTOWNER [])) ∧
      (fget s .hstOwnStatusState 0 = 0 → fget s .hstOwnPolicyLock 0 ≠ 1 → ∃ t, exec (.ownClaim w) s = .next t ∧
        t.hub.claims = s.hub.claims ++ [{ who := w, secure := cameSecure s w }] ∧ t.regs = s.regs ∧ Claims.memSame s t) ∧
      (claimValid s w = false → fget s .hstOwnStatusState 0 ≠ 0 ∨ fget s .hstOwnPolicyLock 0 = 1 →
        exec (.ownClaim w) s = .next (mgmtAnswer (claimViolation s w) w kNOTOWNER []))) ∧
    (isOwner s w = false → claimValid s w = true →
      (fget s .hstOwnStatusState 0 = 1 →
        (outranked s w = false → ∃ t, exec (.ownClaim w) s = .next t ∧ Claims.ownIs t 2 (masterOf w) 0 ∧
          Claims.ownChanged s t) ∧
        (outranked s w = true → exec (.ownClaim w) s = .next (mgmtAnswer (claimViolation s w) w kBUSY []))) ∧
      (fget s .hstOwnStatusState 0 = 3 → fget s .hstOwnStatusSucc 0 = masterOf w →
        ∃ t, exec (.ownClaim w) s = .next t ∧ Claims.ownIs t 2 (masterOf w) 0 ∧ Claims.ownChanged s t) ∧
      (fget s .hstOwnStatusState 0 = 0 → fget s .hstOwnPolicyLock 0 = 1 →
        (precedence s (masterOf w) = 0 → ∃ t, exec (.ownClaim w) s = .next t ∧ Claims.ownIs t 2 (masterOf w) 0 ∧
          Claims.ownChanged s t) ∧
        (precedence s (masterOf w) ≠ 0 → ∃ t, exec (.ownClaim w) s = .next t ∧
          t.hub.claims = s.hub.claims ++ [{ who := w, secure := cameSecure s w }] ∧ t.regs = s.regs ∧ Claims.memSame s t)) ∧
      (fget s .hstOwnStatusState 0 = 3 → fget s .hstOwnStatusSucc 0 ≠ masterOf w →
        exec (.ownClaim w) s = .next (mgmtAnswer (claimViolation s w) w kBUSY [])) ∧
      (fget s .hstOwnStatusState 0 = 2 → exec (.ownClaim w) s = .next (mgmtAnswer (claimViolation s w) w kBUSY []))) ∧
    (Claims.heard s w true → exec (.heartbeat w) s = .next (mgmtAnswer s w kSUCCESS []))

/-- At the end of the election's window the claim of highest precedence that is held wins, and without one nobody owns the
module; a handover that is not taken in 100 ms and an owner that falls silent leave it without an owner, with CAUSE 3 and 2
(13 R326, R327). -/
def Sys2Proof.Claims.ElectionsEndAndOwnersLapse : Prop :=
  ∀ (s : State) (ms : Nat),
    (hubOn s = true → fget s .hstOwnStatusState 0 = 0 → fget s .hstOwnPolicyWindow 0 ≤ ms →
      (fget s .hstOwnPolicyLock 0 ≠ 1 →
        exec (.electionWindowEnd ms) s = .next { s with hub := { s.hub with windowDone := true } }) ∧
      (fget s .hstOwnPolicyLock 0 = 1 → ∃ t, exec (.electionWindowEnd ms) s = .next t ∧ Claims.ownChanged s t ∧
        (s.hub.claims = [] → Claims.ownIs t 1 0 0) ∧
        (∀ c ∈ s.hub.claims, (∀ d ∈ s.hub.claims, d ≠ c → precedence s (masterOf c.who) < precedence s (masterOf d.who)) →
          Claims.ownIs t 2 (masterOf c.who) 0))) ∧
    (fget s .hstOwnStatusState 0 = 3 → 100 ≤ ms → ∃ t, exec (.handoverExpire ms) s = .next t ∧ Claims.ownIs t 1 0 0 ∧
      fget t .hstOwnStatusCause 0 = 3 ∧ Claims.ownChanged s t) ∧
    ((ownedBy s 2 = true ∧ 2000 ≤ ms) ∨ (ownedBy s 3 = true ∧ 1000 ≤ ms) →
      ∃ t, exec (.ownershipLapse ms) s = .next t ∧ Claims.ownIs t 1 0 0 ∧ fget t .hstOwnStatusCause 0 = 2 ∧
        Claims.ownChanged s t)

/-- Ownership is claimed, released, handed over and lost (13 R325 to R328). -/
def Obligations.OwnershipChanges : Prop := Claims.ClaimsReleasesHandovers ∧ Claims.ElectionsEndAndOwnersLapse

/-! ### Attestation (13 R334, 15 R378 to R382) -/

namespace Sys2Proof.Claims

/-- A message of SPDM is heard on a binding: the device has booted, and the message, `secured` or plain, is no longer than one
may be and has come whole. -/
def spdmOn (s : State) (b : Binding) (secured : Bool) (msg : Bytes) : Prop :=
  mctpOn s b = true ∧ fget s .rotBootStatusStage 0 = 2 ∧ msg.length ≤ 4096 ∧ messageCame s b secured msg = true

/-- Messages change no register, no memory and no other connection. -/
def messageOnly (s t : State) (b : Binding) : Prop :=
  t.regs = s.regs ∧ Claims.memSame s t ∧ ∀ c, c ≠ b → spdmOf t c = spdmOf s c

/-- A response of the extension: the part of `data` from `off` on, or RANGE. -/
def answersPart (s t : State) (b : Binding) (msg : Bytes) (op : Nat) (data : Bytes) (off : Nat) : Prop :=
  Claims.speaks s t b (.spdm b none (Config.spdm 0xFE msg [leBytes 1 op ++
    leBytes 1 (if data.length < off then vRANGE else vOK) ++ leBytes 2 0 ++ leBytes 4 data.length ++
    (if data.length < off then [] else (data.drop off).take 2048)]))

end Sys2Proof.Claims

/-- A connection opens in three steps: GET_VERSION begins it anew, GET_CAPABILITIES and NEGOTIATE_ALGORITHMS follow in
turn, each answered, the last with the algorithms of the device. A request whose code the device does not know is
unsupported. The order of requests and the errors are the model's choice, log entry 51 (13 R334, R335). -/
def Sys2Proof.Claims.ConnectionsOpen : Prop :=
  ∀ (s : State) (b : Binding) (msg : Bytes), Claims.spdmOn s b false msg →
    (2 ≤ msg.length → field msg 1 1 ∉ spdmCodes → 
      exec (.getVersion b msg) s = .next (spdmError (takeMessage s b) b none msg eUNSUPPORTED)) ∧
    (msg.length < 2 ∨ field msg 1 1 ∈ spdmCodes → ∃ t, exec (.getVersion b msg) s = .next t ∧ Claims.speaks s t b (.spdm b none (Config.spdm 0x84 msg [[0x13]])) ∧
      (spdmOf t b).phase = 1 ∧ (spdmOf t b).vca = msg ++ Config.spdm 0x84 msg [[0x13]] ∧ (spdmOf t b).transcript = [] ∧
      Claims.messageOnly s t b) ∧
    (∀ i phase r, (i, phase, r) ∈ [(Instr.getCapabilities b msg, 1, Config.spdm 0xE1 msg []),
        (Instr.negotiateAlgorithms b msg, 2, Config.spdm 0xE3 msg spdmAlgorithms)] →
      (spdmOf s b).phase = phase → ∃ t, exec i s = .next t ∧ Claims.speaks s t b (.spdm b none r) ∧
        (spdmOf t b).phase = phase + 1 ∧ (spdmOf t b).vca = (spdmOf s b).vca ++ msg ++ r ∧ Claims.messageOnly s t b)

/-- On an open connection the digest of the chain and any part of it are given, a part that is not there being refused; a challenge is answered with the digest and
a new nonce under the signature of the Alias key over the messages; a measurement, all nine, or their number are given,
signed when that is asked for, with the signed hash kept for the second signature. The errors are the model's choice, log
entry 51 (13 R334; 15 R378, R379, R381). -/
def Sys2Proof.Claims.EvidenceIsGiven : Prop :=
  ∀ (s : State) (b : Binding) (msg : Bytes), Claims.spdmOn s b false msg → (spdmOf s b).phase = 3 →
    (∃ t, exec (.getDigests b msg) s = .next t ∧
      Claims.speaks s t b (.spdm b none (Config.spdm 0x81 msg [sha384 (edChain s)])) ∧ Claims.messageOnly s t b) ∧
    (field msg 2 1 % 16 = 0 → field msg 4 2 < (edChain s).length →
      let part := ((edChain s).drop (field msg 4 2)).take (field msg 6 2)
      ∃ t, exec (.getCertificate b msg) s = .next t ∧ Claims.messageOnly s t b ∧
        Claims.speaks s t b (.spdm b none (Config.spdm 0x82 msg
          [part, leBytes 2 ((edChain s).length - field msg 4 2 - part.length)]))) ∧
    (field msg 2 1 % 16 ≠ 0 ∨ (edChain s).length ≤ field msg 4 2 →
      exec (.getCertificate b msg) s = .next (spdmError (takeMessage s b) b none msg eINVALID)) ∧
    (field msg 2 1 = 0 → ∃ t, exec (.challenge b msg) s = .next t ∧ Claims.messageOnly s t b ∧ t.fresh = s.fresh + 1 ∧
      (let r := Config.spdm 0x83 msg [sha384 (edChain s), leBytes 32 (Config.free s.fresh)]
       let h := sha384 ((spdmOf s b).vca ++ (spdmOf s b).transcript ++ msg ++ r)
       Claims.speaks s t b (.spdm b none (r ++ Config.ed25519Sign s.rot.alias25519 h)) ∧
       (spdmOf t b).signedHash = some h)) ∧
    (∀ i, field msg 3 1 = i → i ≤ 9 ∨ i = 0xFF →
      ∃ t, exec (.getMeasurements b msg) s = .next t ∧ Claims.messageOnly s t b ∧ t.fresh = s.fresh + 1 ∧
        (let r := Config.spdm 0xE0 msg (leBytes 32 (Config.free s.fresh) :: (if i = 0 then [[9]]
           else if i = 0xFF then (span 1 9).map (measureBlock s) else [measureBlock s i]))
         let h := sha384 ((spdmOf s b).vca ++ (spdmOf s b).measured ++ msg ++ r)
         (bit (field msg 2 1) 0 = true → (spdmOf t b).signedHash = some h ∧
           Claims.speaks s t b (.spdm b none (r ++ Config.ed25519Sign s.rot.alias25519 h))) ∧
         (bit (field msg 2 1) 0 = false → (spdmOf t b).signedHash = none ∧
           (spdmOf t b).measured = (spdmOf s b).measured ++ msg ++ r ∧ Claims.speaks s t b (.spdm b none r))))

/-- A connection opens, and evidence is given on it (13 R334; 15 R378 to R381). -/
def Obligations.AttestationMessages : Prop := Claims.ConnectionsOpen ∧ Claims.EvidenceIsGiven

/-- A key exchange opens a session under the next number while fewer than four are held; FINISH with right data
establishes it, with wrong data ends it; within an established session a heartbeat and a key update are answered, and its end drops it. That wrong data end a session is the model's choice, log entry 51 (13 R334,
15 R381). -/
def Obligations.SessionsRun : Prop :=
  ∀ (s : State) (b : Binding) (msg : Bytes), (spdmOf s b).phase = 3 →
    (Claims.spdmOn s b false msg → s.hub.sessions.length < 4 → field msg 3 1 = 0 → ∃ t, exec (.keyExchange b msg) s = .next t ∧
      t.hub.sessions = s.hub.sessions ++ [{ id := s.hub.nextSession, on := b, established := false }] ∧
      t.hub.nextSession = s.hub.nextSession + 1 ∧ (spdmOf t b).signedHash ≠ none ∧ Claims.messageOnly s t b) ∧
    (∀ (id : Word) (e : SessionX), Claims.spdmOn s b true msg → sessionOf s b id.toNat = some e →
      (e.established = false → ∃ t, exec (.finish b id msg) s = .next t ∧
        (Config.finishOk id.toNat ((spdmOf s b).vca ++ (spdmOf s b).transcript) msg = true →
          { e with established := true } ∈ t.hub.sessions ∧
          Claims.speaks s t b (.spdm b (some id.toNat) (Config.spdm 0xE5 msg [])) ∧ Claims.messageOnly s t b) ∧
        (Config.finishOk id.toNat ((spdmOf s b).vca ++ (spdmOf s b).transcript) msg = false →
          ∀ x ∈ t.hub.sessions, x.id ≠ id.toNat)) ∧
      (e.established = true →
        (∃ t, exec (.endSession b id msg) s = .next t ∧ (∀ x ∈ t.hub.sessions, x.id ≠ id.toNat) ∧
          Claims.speaks s t b (.spdm b (some id.toNat) (Config.spdm 0xEC msg [])) ∧ Claims.messageOnly s t b) ∧
        (∃ t, exec (.spdmHeartbeat b id msg) s = .next t ∧ t.hub.sessions = s.hub.sessions ∧
          Claims.speaks s t b (.spdm b (some id.toNat) (Config.spdm 0xE8 msg [])) ∧ Claims.messageOnly s t b) ∧
        (∃ t, exec (.keyUpdate b id msg) s = .next t ∧ t.hub.sessions = s.hub.sessions ∧
          Claims.speaks s t b (.spdm b (some id.toNat) (Config.spdm 0xE9 msg [])) ∧ Claims.messageOnly s t b)))

/-- The second signature, over the hash that the previous response signed, the second chain, a report, the last report again
and the measurement log are given from an offset on, at most 2,048 bytes at once; without a signed response before it the
second signature is refused NOSIG; an OP that names no operation is answered BADOP, and a request of another standard or vendor
is unsupported. The head of such a request, the offset beyond which RANGE is answered, and the empty report before the
first are the model's choices, log entries 158, 52 and 51 (15 R378, R380 to R382). Keys for a function's stream are taken in an established session
over PCIe: the stream is secure (13 R322). -/
def Obligations.SecondSignatureAndKeys : Prop :=
  (∀ (s : State) (b : Binding) (off : Word) (msg : Bytes), Claims.spdmOn s b false msg → (spdmOf s b).phase = 3 →
    (∀ h, vendorOp msg = some 1 → (spdmOf s b).signedHash = some h → ∃ t, exec (.mldsaSig b off msg) s = .next t ∧
      Claims.answersPart s t b msg 1 (Config.mldsaSign s.rot.aliasMl (ascii "EVT-SPDM") h) off.toNat ∧
      t.hub.sessions = s.hub.sessions ∧ Claims.messageOnly s t b) ∧
    (vendorOp msg = some 1 → (spdmOf s b).signedHash = none → ∃ t, exec (.mldsaSig b off msg) s = .next t ∧ Claims.messageOnly s t b ∧
      Claims.speaks s t b (.spdm b none
        (Config.spdm 0xFE msg [leBytes 1 1 ++ leBytes 1 vNOSIG ++ leBytes 2 0 ++ leBytes 4 0]))) ∧
    (vendorOp msg = some 2 → ∃ t, exec (.getChain b off msg) s = .next t ∧ Claims.answersPart s t b msg 2 (mlChain s) off.toNat ∧
      (spdmOf t b).signedHash = none ∧ Claims.messageOnly s t b) ∧
    (∀ nonce : BitVec 256, vendorOp msg = some 3 → ∃ t, exec (.attest b nonce msg) s = .next t ∧
      Claims.answersPart s t b msg 3 (attestReport s nonce.toNat) 0 ∧ (spdmOf t b).report = attestReport s nonce.toNat ∧
      Claims.messageOnly s t b) ∧
    (vendorOp msg = some 4 → ∃ t, exec (.report b off msg) s = .next t ∧ Claims.answersPart s t b msg 4 (spdmOf s b).report off.toNat ∧
      (spdmOf t b).report = (spdmOf s b).report ∧ Claims.messageOnly s t b) ∧
    (vendorOp msg = some 5 → ∃ t, exec (.log b off msg) s = .next t ∧
      Claims.answersPart s t b msg 5 s.rot.log.flatten off.toNat ∧ Claims.messageOnly s t b) ∧
    (∀ i op, (i, op) ∈ [(Instr.mldsaSig b off msg, 1), (Instr.getChain b off msg, 2), (Instr.report b off msg, 4),
        (Instr.log b off msg, 5)] →
      (∀ o, vendorOp msg = some o → o = 0 ∨ 5 < o → ∃ t, exec i s = .next t ∧ Claims.messageOnly s t b ∧
        Claims.speaks s t b (.spdm b none
          (Config.spdm 0xFE msg [leBytes 1 o ++ leBytes 1 vBADOP ++ leBytes 2 0 ++ leBytes 4 0]))) ∧
      (vendorOp msg = none → exec i s = .next (spdmError (takeMessage s b) b none msg eUNSUPPORTED)))) ∧
  (∀ (s : State) (f : Fn), mctpOn s .pcie = true →
    (s.hub.sessions.any fun e => e.on == .pcie && e.established) = true → (ideOf s f ≠ none ∨ s.hub.ide.length < 8) →
    ∃ t, exec (.ideKm f true) s = .next t ∧ ideOf t f = some { fn := f, secure := true } ∧
      (∀ g, g ≠ f → ideOf t g = ideOf s g) ∧ t.regs = s.regs ∧ Claims.memSame s t)

/-! ### Service calls (14) -/

namespace Sys2Proof.Claims

/-- A started call of a service that has not ended, for partition `p`, while the firmware runs. -/
def runs (s : State) (f : Fn) (k : SlotNo) (service : Nat) (c : CallX) (p : Part) : Prop :=
  callOf s f k = some c ∧ c.started = true ∧ c.finished = none ∧ c.service = service ∧ firmwareOn s = true ∧
    p.val = c.part % 16

/-- The core that names the controller of a partition. -/
def scCore (s : State) (p : Part) : Core := ⟨(scOf s p).val * 64, by have := (scOf s p).isLt; omega⟩

/-- The loop that a STEP_LOOP begins. -/
def loopOf (f : Fn) (k : SlotNo) (c : CallX) (tags : List (Nat × Nat)) : LoopSvc :=
  { fn := f, slot := k, steps := field c.args 0 8, onabort := field c.args 9 1 == 1, retries := field c.args 10 1
    plog := field c.args 16 8, plogn := field c.args 24 4, tags := tags, cancelled := c.cancelled }

/-- The call has ended with OK and these results, which its completion writes. -/
def endsOk (t : State) (f : Fn) (k : SlotNo) (out : Bytes) : Prop :=
  ∃ d, callOf t f k = some d ∧ d.finished = some (sOK, 0, out)

end Sys2Proof.Claims

/-- GO to a slot that is not in use queues a call with the address of its message. A queued call whose turn has come reads
its message once and is judged, when header and arguments lie where its caller may reach. A call that has ended is completed:
its result area is written when the message names one that the caller may reach, the slot is DONE with CODE, DETAIL and TAG,
or with DMAERR when host memory does not take the area, and the call is no more (14 R336 to R343). -/
def Obligations.CallsLive : Prop :=
  ∀ (s : State) (f : Fn) (k : SlotNo),
    (∀ (w : Who) (addr : BitVec 48), Claims.admits s w (0x30_0000 + 0x1000 * f.val + 0x20 * k.val) 8 (addr.toNat + 2 ^ 48) →
      fget s .svcSlotState (slotIdx f k) ≠ 1 → fget s .svcSlotState (slotIdx f k) ≠ 2 →
      ∃ t c, exec (.callSubmit w f k addr) s = .next t ∧ fget t .svcSlotState (slotIdx f k) = 1 ∧
        fget t .svcSlotAddr (slotIdx f k) = addr.toNat ∧ c ∈ t.hub.calls ∧ c.fn = f ∧ c.slot = k ∧
        c.addr = addr.toNat ∧ c.started = false ∧ c.order = s.hub.callOrder ∧ t.hub.callOrder = s.hub.callOrder + 1 ∧
        Claims.regsKept s t [.svcSlotState, .svcSlotAddr] ∧ Claims.memSame s t) ∧
    (∀ c, callOf s f k = some c → c.started = false → c.finished = none → firmwareOn s = true →
      (let p := callerPart s c
       let r := memRead s (.sc (scOf s p)) (partOfFn s f) c.addr 64
       let n := field r.2.1 2 2
       let a := memRead r.1 (.sc (scOf s p)) (partOfFn s f) (c.addr + 64) n
       mayReach s f p c.addr 64 = true → stageHost s (partOfFn s f) (.call f k) [(c.addr, 64)] = none →
       r.2.2 = false → headFault r.2.1 = none → mayReach s f p (c.addr + 64) n = true →
       stageHost s (partOfFn s f) (.call f k) [(c.addr + 64, n)] = none →
       callMay s c (field r.2.1 0 2) (field r.2.1 8 1) = true →
       exec (.callStart f k) s =
         .next (judgeCall (unstage (callRuns a.1 c r.2.1 a.2.1) [(c.addr, 64 + n)]) f k a.2.2))) ∧
    (∀ c code detail out, callOf s f k = some c → c.finished = some (code, detail, out) → callReads s f k = false →
      hubOn s = true →
      (let area := resultArea s c code detail out
       ∃ t, exec (.callComplete f k) s = .next t ∧ fget t .svcSlotState (slotIdx f k) = 3 ∧
        fget t .svcSlotTag (slotIdx f k) = c.tag % 2 ^ 32 ∧ callOf t f k = none ∧
        Claims.memSame (if hasResult s c then agentWrite s (.sc (scOf s (callerPart s c))) (partOfFn s f) c.resp area
          else s) t ∧
        (hasResult s c = false ∨ hostTakes s c.resp area.length = true →
          fget t .svcSlotCode (slotIdx f k) = code % 256 ∧ fget t .svcSlotDetail (slotIdx f k) = detail % 2 ^ 32) ∧
        (hasResult s c = true → hostTakes s c.resp area.length = false →
          fget t .svcSlotCode (slotIdx f k) = sDMAERR)))

/-- LOAD_PROGRAM writes a sound package and ends with the number of cores of its group; a loop and a SEAL begin by acting on
ACTION, ACTION 0 with the step as it stands, ACTION 3 once the buddy's slot is restored; INGEST checks its list, sets it, its
cursor and its queue, and with NBATCH 0 stops; a batch whose entries and sources have come is copied and signalled (14 R344
to R351). -/
def Obligations.ProgramsLoopsBatches : Prop :=
  ∀ (s : State) (f : Fn) (k : SlotNo) (c : CallX) (p : Part),
    (Claims.runs s f k 1 c p →
      ∀ t u h b, (let a := field c.args 0 8
        let n := field h 8 4
        stageHost s (some p) (.call f k) [(a, 64)] = none → callMem s c p a 64 = (t, some h) → progHeadOk h = true →
        mayReach t f p a n = true → stageHost s (some p) (.call f k) [(a, n)] = none → callMem s c p a n = (u, some b) →
        progFault u p f (groupCores s p (field c.args 8 1)).length b = none →
        exec (.loadProgram f k) s = .next (finishCall
          (putProgram u p (groupCores s p (field c.args 8 1)) b (bit (field c.args 9 1) 0)) f k sOK 0
          (leBytes 8 (groupCores s p (field c.args 8 1)).length)))) ∧
    (Claims.runs s f k 2 c p →
      (∀ t tags, loopTags s c p = .inr (t, tags) → (t.part p).loop = none →
        (field c.args 8 1 ≠ 3 →
          exec (.stepLoop f k) s = .next (beginLoop t p (Claims.loopOf f k c tags) (field c.args 8 1))) ∧
        (∀ u v step b, field c.args 8 1 = 3 → fetchBuddy t c p none = .got u step b →
          restoreSlot u c p none step b = (v, true) →
          exec (.stepLoop f k) s = .next (beginLoop v p (Claims.loopOf f k c tags) 3))) ∧
      ((s.part p).loop = none → field c.args 32 8 = 0 → field c.args 8 1 = 0 →
        ∃ t, exec (.stepLoop f k) s = .next t ∧ (t.part p).loop = some (Claims.loopOf f k c (s.part p).shadowTags) ∧
          fget t .svcLoopLoop p.val = 1 ∧ fget t .svcLoopPlogcnt p.val = 0 ∧
          Claims.regsKept s t [.svcLoopLoop, .svcLoopPlogcnt] ∧ Claims.memSame s t)) ∧
    (Claims.runs s f k 3 c p → (s.part p).loop = none →
      (let l : LoopSvc := { fn := f, slot := k, single := true, tags := (s.part p).shadowTags }
       (field c.args 0 1 = 0 → ∃ t, exec (.seal f k) s = .next t ∧ (t.part p).loop = some l ∧ Claims.regsKept s t [] ∧
         Claims.memSame s t) ∧
       (field c.args 0 1 ≠ 3 → exec (.seal f k) s = .next (beginLoop s p l (field c.args 0 1))) ∧
       (∀ u v step b, field c.args 0 1 = 3 → fetchBuddy s c p none = .got u step b →
         restoreSlot u c p none step b = (v, true) → exec (.seal f k) s = .next (beginLoop v p l 3)))) ∧
    (Claims.runs s f k 4 c p →
      (field c.args 8 4 = 0 → ∃ t, exec (.ingest f k) s = .next t ∧ (t.part p).ingest = none ∧
        fget t .svcLoopIngest p.val = 0 ∧ Claims.endsOk t f k []) ∧
      (∀ u b, (let n := 32 * field c.args 8 4 * field c.args 12 1
        field c.args 8 4 ≠ 0 → stageHost s (some p) (.call f k) [(field c.args 0 8, n)] = none →
        callMem s c p (field c.args 0 8) n = (u, some b) → listFault u f p b = none →
        ∃ t i, exec (.ingest f k) s = .next t ∧ (t.part p).ingest = some i ∧
          i.list = field c.args 0 8 ∧ i.nbatch = field c.args 8 4 ∧ i.epb = field c.args 12 1 ∧
          i.depth = field c.args 13 1 ∧ i.flag = field c.args 20 2 ∧ i.landed = [] ∧ fget t .svcLoopIngest p.val = 1 ∧
          fget t .svcLoopCursor p.val = field c.args 16 4 ∧ Claims.endsOk t f k []))) ∧
    (∀ i b rest t es, (s.part p).ingest = some i → i.fetching = b :: rest → askBatch s p b = (t, some es) →
      (let w := es.foldl (copyEntry p i.fn) t
       let j := ((t.part p).ingest).getD i
       ∃ u, exec (.batchLanded p) s = .next u ∧ Claims.memSame w u ∧
         (u.part p).ingest = some { j with
           fetching := rest, landed := j.landed ++ [b], entries := j.entries.filter fun e => e.1 != b } ∧
         u.signals = w.signals ++ (flagRef (Claims.scCore w p) j.flag).toList))

/-- CHECKPOINT to memory or the host writes a slot of the last commit and ends with its step, length and checksum; to the
buddy it sends the slot, then its valid header, then ends; RESTORE reads a VALID slot whose checksum holds, or the buddy's,
and restores it; REPLAY of the step at hand, or of an earlier one once the buddy's slot is restored, runs it again with its
batch (14 R352 to R354; 10 R244). -/
def Obligations.CheckpointsAndReplay : Prop :=
  ∀ (s : State) (f : Fn) (k : SlotNo) (c : CallX) (p : Part),
    (Claims.runs s f k 5 c p →
      (∀ step len cks, c.kept = some (step, len, cks) →
        exec (.checkpoint f k) s = .next (buddyGoesOn s c p step len cks)) ∧
      (∀ t l, c.kept = none → sealState s p ≠ 4 → (s.part p).releaseDue ≠ some 0 →
        (field c.args 0 1 = 0 → copiesHeld s = false) → fget s .updStepStep p.val ≠ 0 →
        lastCommitList s c p = (t, some l) →
        ((slotRuns t p l).all fun r => mayReach t f p r.1 r.2) = true →
        stageHost t (some p) (.call f k) (slotRuns t p l) = none →
        (let r := slotPayload t (mayReach t f p) p l
         let u := unstage r.1 (slotRuns t p l)
         let step := fget s .updStepStep p.val - 1
         let a := field c.args 8 8
         let slot := slotHead u step r.2.1.length (ckWords r.2.1) 1 ++ r.2.1
         r.2.2 = false →
         (field c.args 0 1 = 0 → exec (.checkpoint f k) s = .next (buddyCheckpoint u c p step r.2.1)) ∧
         (field c.args 0 1 ≠ 0 → 64 + r.2.1.length ≤ field c.args 16 8 → hostTakes u a (64 + r.2.1.length) = true →
           ∃ v, exec (.checkpoint f k) s = .next v ∧ Claims.memSame (agentWrite u (.sc (scOf u p)) (some p) a slot) v ∧
             Claims.endsOk v f k (slotResult step r.2.1.length (ckWords r.2.1)))))) ∧
    (Claims.runs s f k 6 c p →
      (field c.args 0 1 ≠ 0 → ∀ t u h b,
        (let a := field c.args 8 8
         let x := slotSays h
         stageHost s (some p) (.call f k) [(a, 64)] = none → callMem s c p a 64 = (t, some h) → x.valid = true →
         64 + x.len ≤ field c.args 16 8 → stageHost s (some p) (.call f k) [(a + 64, x.len)] = none →
         callMem s c p (a + 64) x.len = (u, some b) → ckWords b = x.cks →
         exec (.restoreCall f k) s = .next (endRestore u c p x.step b))) ∧
      (∀ t step b, field c.args 0 1 = 0 → fetchBuddy s c p none = .got t step b →
        exec (.restoreCall f k) s = .next (endRestore t c p step b))) ∧
    (Claims.runs s f k 10 c p → (s.part p).loop = none →
      ∀ batch, replayBatch s p (field c.args 0 8) (field c.args 8 4) = some batch →
      (let l : LoopSvc := { fn := f, slot := k, replay := true, tags := (s.part p).shadowTags }
       (field c.args 0 8 = fget s .updStepStep p.val →
         exec (.replay f k) s = .next (beginLoop (moveCursor s p batch) p l 1)) ∧
       (∀ t u n b, field c.args 0 8 ≠ fget s .updStepStep p.val → field c.args 0 8 ≠ 0 →
         fetchBuddy s c p (some (field c.args 0 8 - 1)) = .got t n b → restoreSlot t c p (some batch) n b = (u, true) →
         exec (.replay f k) s = .next (beginLoop (moveCursor u p batch) p l 1))))

/-- The operations of COLLECTIVE_SETUP: INSTALL copies a sound list into the partition's memory and names it in the list
register; CLEARWIN writes zeros over the window tables; PROBE sends an SVC packet on VC20 to the controller of every member,
with the code that Config leaves open, and ends when all have answered
or after 10 ms (14 R355). -/
def Obligations.CollectiveSetup : Prop :=
  ∀ (s : State) (f : Fn) (k : SlotNo) (c : CallX) (p : Part), Claims.runs s f k 7 c p →
    let g := callGroup c
    (field c.args 1 1 = 0 → ∀ t b, (let src := field c.args 8 8
      let count := field c.args 16 2
      let list := field c.args 24 8
      stageHost s (some p) (.call f k) [(src, 64 * count)] = none → callMem s c p src (64 * count) = (t, some b) →
      (∀ i, i < count → entryFault t g (leNat (slice b (64 * i) 64)) (collEntryOf (slice b (64 * i) 64)) i = none) →
      hostTakes t list b.length = true →
      ∃ u, exec (.install f k) s = .next u ∧ Claims.endsOk u f k [] ∧
        fget u .xceListBase g.val = list % 2 ^ Field.xceListBase.spec.width ∧
        fget u .xceListCount g.val = count % 2 ^ Field.xceListCount.spec.width ∧
        Claims.memSame (agentWrite t (.sc (scOf t p)) (some p) list b) u)) ∧
    (field c.args 1 1 = 1 → ∀ t b, (let run := (fget s .xceListBase g.val, 64 * grpCount s g)
      mayReach s f p run.1 run.2 = true → stageHost s (some p) (.call f k) [run] = none →
      callMem s c p run.1 run.2 = (t, some b) → ((windowTables b).all fun r => mayReach (unstage t [run]) f p r.1 r.2) = true →
      exec (.clearwin f k) s = .next (finishCall ((windowTables b).foldl (fun s r =>
        callWrite s f k p r.1 (List.replicate r.2 0)) (unstage t [run])) f k sOK 0 []))) ∧
    (field c.args 1 1 = 2 →
      (c.phase = 0 → ∃ t d u, exec (.probe f k) s = .next t ∧ callOf t f k = some d ∧ d.phase = 1 ∧ d.finished = none ∧
        d.probe = (span 0 (grpSize s g)).map (fun r => (r, timeNow s, 0)) ∧
        u = onCall s f k (fun e => { e with phase := 1, probe := (span 0 (grpSize s g)).map fun r => (r, timeNow s, 0) }) ∧
        t = (span 0 (grpSize s g)).foldl (fun v r => sendReq (memberDev v g r).1 (some p) (.probe f k r)
          (blankReq tSVC (264 + (scOf (memberDev v g r).1 p).val) (memberDev v g r).2 264 20
            ((memberDev v g r).1.part p).img.job 0 Config.probeCode [])) u) ∧
      (c.phase ≠ 0 → (∀ e ∈ c.probe, e.2.2 ≠ 0) → ∃ t, exec (.probe f k) s = .next t ∧
        Claims.endsOk t f k (probeResult (grpSize s g) c.probe) ∧ Claims.memSame s t) ∧
      (∀ us, c.phase = 1 → 10000 ≤ us → ∃ t, exec (.probeTimeout f k us) s = .next t ∧
        Claims.endsOk t f k (probeResult (grpSize s g) c.probe) ∧ Claims.regsKept s t [] ∧ Claims.memSame s t))

/-- FIELD_TEST ends with what was found of each core, a failing one logged; test 16 starts the self-tests of the partitions'
memory dies and test 17 leaves their half-stacks open; MARGIN_CAL ends with the sweeps stored, and with DRYRUN changes nothing
but the call; ERRLOG_READ copies the records of the ring and ends with how many it copied, where to go on and how many are
lost; CANCEL marks a running test, sweep or loop (14 R356 to R358; 17 R422 to R424). -/
def Sys2Proof.Claims.TestsSweepsLogsCancels : Prop :=
  ∀ (s : State) (f : Fn) (k : SlotNo) (c : CallX) (p : Part),
    (∀ found, Claims.runs s f k 8 c p → fget s .pwrStatusStage 0 < 2 → c.cancelled = false →
      (let l := (maskCores c.args).map (findingOf found)
       let u := l.foldl logFinding s
       let dies := fun (s : State) => diesTested s (maskCores c.args)
       let v := if bit (field c.args 32 8) 16 then (dies u).foldl startSelftest u else u
       let w := if bit (field c.args 32 8) 17 then testHbm v ((dies v).map (·.val)) else v
       exec (.fieldTest f k found) s = .next (finishCall w f k sOK 0 (l.map CoreFinding.bytes).flatten) ∧
       ∃ t, exec (.fieldTest f k found) s = .next t ∧ Claims.endsOk t f k (l.map CoreFinding.bytes).flatten ∧
         (bit (field c.args 32 8) 16 = false → bit (field c.args 32 8) 17 = false → Claims.memSame s t ∧
           Claims.regsKept s t [.errLostDropped] ∧ t.errQueue = u.errQueue))) ∧
    (∀ found, Claims.runs s f k 9 c p → fget s .pwrStatusStage 0 < 2 → c.cancelled = false →
      (∀ x ∈ maskCores c.args, ∃ e ∈ found, e.core = x) →
      (let swept := (maskCores c.args).filterMap fun x => found.find? fun e => e.core == x
       let flags := field c.args 34 1
       let r := swept.foldl (calibrate (field c.args 32 1) (field c.args 33 1) (bit flags 0)) (s, [])
       exec (.marginCal f k found) s = .next (finishCall (if bit flags 1 then s else r.1) f k sOK 0 r.2))) ∧
    (Claims.runs s f k 11 c p →
      (let first := field c.args 0 8
       let l := ringNumbers s first
       let r := l.1.foldl (takeRecord c p (field c.args 8 4)) ⟨s, [], max first (fget s .errSeqNext 0 - l.1.length), l.2, false⟩
       r.damaged = false → exec (.errlogRead f k) s = .next (finishCall
         (callWrite r.s f k p (field c.args 16 8) r.got.flatten) f k sOK 0
         (leBytes 8 r.got.length ++ leBytes 8 r.next ++ leBytes 8 r.lost)))) ∧
    (Claims.runs s f k 12 c p → ∀ (g : Fn) (j : SlotNo), g.val = field c.args 0 1 % 16 → j.val = field c.args 1 1 % 4 →
      (callOf s g j = none → exec (.cancel f k) s = .next (finishCall s f k sSTATE 0 (leBytes 1 c.phase ++ leBytes 7 0))) ∧
      (∀ d : CallX, callOf s g j = some d → d.started = true → d.finished = none →
        d.service ∈ [2, 8, 9] → (g, j) ≠ (f, k) →
        ∃ t e, exec (.cancel f k) s = .next t ∧ callOf t g j = some e ∧ e.cancelled = true ∧ e.finished = none ∧
          (∀ (q : Part) (l : LoopSvc), q.val = d.part % 16 → (s.part q).loop = some l → l.fn = g → l.slot = j →
            (t.part q).loop = some { l with cancelled := true }) ∧
          Claims.endsOk t f k (leBytes 1 c.phase ++ leBytes 7 0) ∧ t.regs = s.regs ∧ Claims.memSame s t))

/-- A beat of the firmware counts at its controller; the powered hours are written to the record area and shown (14 R359;
17 R425). -/
def Sys2Proof.Claims.FirmwareBeatsAndHours : Prop :=
  ∀ s : State, firmwareOn s = true →
    (∀ c : Sc, ∃ t, exec (.fwbeat c) s = .next t ∧
      fget t .svcFwbeatBeat c.val = (fget s .svcFwbeatBeat c.val + 1) % 2 ^ Field.svcFwbeatBeat.spec.width ∧
      Claims.regsKept s t [.svcFwbeatBeat] ∧ Claims.memSame s t) ∧
    (∀ h : BitVec 24, ∃ t, exec (.hoursWrite h) s = .next t ∧ t.flash.hours = h.toNat ∧ fget t .pwrHoursHours 0 = h.toNat ∧
      Claims.regsKept s t [.pwrHoursHours] ∧ Claims.memSame s t ∧ t.flash.cells = s.flash.cells)

/-- Tests, sweeps, the log and cancelling; the firmware's beats and hours (14, 17). -/
def Obligations.TestsAndFirmware : Prop := Claims.TestsSweepsLogsCancels ∧ Claims.FirmwareBeatsAndHours

/-! ### Resets and boot (15, 16, 19) -/

namespace Sys2Proof.Claims

/-- A boot has ended: in the stage RUNNING or BOOTFAIL, the policy locked, nothing but owner slots revoked in the fuses, and
no byte of the banks changed. -/
def booted (s t : State) : Prop :=
  (fget t .rotBootStatusStage 0 = 2 ∨ fget t .rotBootStatusStage 0 = 3) ∧ fget t .hstOwnPolicyLock 0 = 1 ∧
    t.fuses = s.fuses.tidy ∧ t.flash.cells = s.flash.cells

end Sys2Proof.Claims

/-- A power-on reset that is due boots the module; a WARM reset by the owner clears it, what the stacks hold apart, and boots
it anew (16 R392, R405, R406; 15 R370, R371). PERST# asserted holds the module in the WARM reset, with the hub still, and
deasserted lets it boot, or leaves stage 5 where that is due; asserted while the boot of a power-on reset is due, it is held in
the WARM reset after that boot: the model's reading, log entry 78 (19 R440). -/
def Obligations.ResetsBoot : Prop :=
  (∀ (s : State) (found : List SelfTestFinding) (failed : Byte), s.pwr.cold = true → s.pwr.off = false →
    s.pwr.inrush = false → ∃ t u, exec (.por found failed) s = .next t ∧ Claims.booted s u ∧ u.pwr.cold = false ∧
      u.hub.sessions = [] ∧ t.pwr.cold = false ∧ (s.hub.perstHeld = false → t = u) ∧
      (s.hub.perstHeld = true → t = warmClear u ∧ t.hub.perstHeld = true)) ∧
  (∀ (s : State) (w : Who), Claims.admits s w 0x400 4 1 → ∃ t, exec (.warmReset w) s = .next t ∧ Claims.booted s t ∧
    Claims.memSame (warmBoot (warmClear s) 2) t ∧
    (s.hbmQueue = [] → ∀ a k, placeOf a = .hbm k → mget (warmClear s) a = mget s a) ∧
    (∀ d, coreState t d = 0) ∧ t.hub.sessions = [] ∧ t.errQueue.length ≤ max 256 s.errQueue.length) ∧
  (∀ s : State, s.pwr.off = false → s.pwr.inrush = false → s.pwr.cold = false → s.pwr.safe = false →
    ∃ t, exec .perst s = .next t ∧ t.hub.perst = true ∧ t.hub.perstHeld = true ∧ hubOn t = false ∧
      (s.hbmQueue = [] → ∀ a k, placeOf a = .hbm k → mget t a = mget s a)) ∧
  (∀ s : State, s.pwr.off = false → s.pwr.inrush = false → s.pwr.cold = true → s.pwr.safe = false →
    exec .perst s = .next { s with hub := { s.hub with perst := true, perstHeld := true } }) ∧
  (∀ (s : State) (long : Bool),
    ((s.pwr.safe = false ∧ s.pwr.cold = false ∧ s.hub.perstHeld = true) ∨ (s.pwr.safe = true ∧ s.pwr.exitReady = true) →
      ∃ t, exec (.perstDeassertion long) s = .next t ∧ Claims.booted s t ∧ t.hub.perst = false ∧ t.hub.perstHeld = false) ∧
    ((s.pwr.safe = true ∧ s.pwr.exitReady = false) ∨ (s.pwr.safe = false ∧ s.pwr.cold = true) →
      exec (.perstDeassertion long) s = .next { s with hub := { s.hub with perst := false, perstHeld := false } }))

/-! ### The root of trust (15) -/

/-- A fuse operation that is started outside shedding is under way with what was written, and one started in shedding is
refused. It ends with START 0 and its fuses blown: a counter that may rise rises and no other changes, an image that is sound
blows its words, one that is not blows none, with RESULT 0; after a rise of the shedding stage it ends INTERRUPTED, with the
words blown up to the one being written then. Which word that is, the command's operand says: the model's choice, log entry 135
(15 R368, R369). -/
def Sys2Proof.Claims.FuseOperations : Prop :=
  (∀ (s : State) (w : Who), rotBusy s = false →
    (∀ addr : BitVec 48, Claims.admits s w 0x10_0030 8 (addr.toNat + 2 ^ 48 + 2 ^ 63) →
      ∃ t, exec (.apply w addr) s = .next t ∧ t.fuses = s.fuses ∧ Claims.memSame s t ∧
        (fget s .pwrStatusStage 0 = 0 → t.rot.op = some (.apply addr.toNat) ∧ t.rot.risen = false ∧
          fget t .rotFuseCtrlStart 0 = 1) ∧
        (0 < fget s .pwrStatusStage 0 → t.rot.op = none ∧ fget t .rotFuseCtrlStart 0 = 0 ∧
          fget t .rotFuseCtrlResult 0 = rSHEDDING)) ∧
    (∀ (stype : BitVec 2) (v : BitVec 7), fget s .rotFuseCtrlAddr 0 < 2 ^ 48 → Claims.admits s w 0x10_0030 8
        (fget s .rotFuseCtrlAddr 0 + 2 * 2 ^ 48 + stype.toNat * 2 ^ 50 + v.toNat * 2 ^ 52 + 2 ^ 63) →
      ∃ t, exec (.svnCommit w stype v) s = .next t ∧ t.fuses = s.fuses ∧ Claims.memSame s t ∧
        (fget s .pwrStatusStage 0 = 0 → t.rot.op = some (.svn stype.toNat v.toNat) ∧ t.rot.risen = false ∧
          fget t .rotFuseCtrlStart 0 = 1) ∧
        (0 < fget s .pwrStatusStage 0 → t.rot.op = none ∧ fget t .rotFuseCtrlStart 0 = 0 ∧
          fget t .rotFuseCtrlResult 0 = rSHEDDING))) ∧
  (∀ (s : State) (stype v : Nat) (words : Option Nat), s.rot.op = some (.svn stype v) →
    ∃ t, exec (.fuseOpDone words) s = .next t ∧ t.rot.op = none ∧ fget t .rotFuseCtrlStart 0 = 0 ∧ Claims.memSame s t ∧
      (commitOk s stype v = true → s.rot.risen = false →
        t.fuses = raiseCounter stype v s.fuses ∧ fget t .rotFuseCtrlResult 0 = 0) ∧
      (commitOk s stype v = true → s.rot.risen = true →
        t.fuses = (if words = some 0 then s.fuses else raiseCounter stype v s.fuses) ∧
          fget t .rotFuseCtrlResult 0 = rINTERRUPTED) ∧
      (commitOk s stype v = false → t.fuses = s.fuses ∧ fget t .rotFuseCtrlResult 0 = rROLLBACK)) ∧
  (∀ (s t : State) (a : Nat) (b : Bytes) (words : Option Nat), s.rot.op = some (.apply a) → a % 64 = 0 →
    rotImage s a = .inr (t, some b) → t.rot.readErr = false →
    (let v := rotUnstage t a (imgSize b)
     ∃ u, exec (.fuseOpDone words) s = .next u ∧ u.rot.op = none ∧ fget u .rotFuseCtrlStart 0 = 0 ∧
      (applyFault v b = 0 → t.rot.risen = false → fget u .rotFuseCtrlResult 0 = 0 ∧
        u.fuses = (applyWords v b).foldl (fun f w => w f) t.fuses) ∧
      (applyFault v b = 0 → t.rot.risen = true → fget u .rotFuseCtrlResult 0 = rINTERRUPTED ∧
        u.fuses = ((applyWords v b).take (words.getD 1)).foldl (fun f w => w f) t.fuses) ∧
      (applyFault v b ≠ 0 → u.fuses = t.fuses)))

/-- A flash operation that is started is under way with what was written. It ends with RESULT 0, START 0 and its effect:
whole sectors of the bank that is not in use are erased, bytes of memory are written to it, bytes of a bank are read to
memory, a bank that verifies is chosen for a trial and one that does not is refused, and a trial is confirmed. That bytes
are programmed as they are given is the model's reading, log entry 84 (15 R383, R384). -/
def Sys2Proof.Claims.FlashOperations : Prop :=
  (∀ (s : State) (w : Who) (i : Instr) (op foff daddr len : Nat), rotBusy s = false →
    foff < 2 ^ 26 → daddr < 2 ^ 48 → len < 2 ^ 24 →
    (i, op) ∈ [(Instr.erase w (.ofNat 26 foff) (.ofNat 48 daddr) (.ofNat 24 len), 0),
      (Instr.program w (.ofNat 26 foff) (.ofNat 48 daddr) (.ofNat 24 len), 1),
      (Instr.flashRead w (.ofNat 26 foff) (.ofNat 48 daddr) (.ofNat 24 len), 2), (Instr.switch w, 3), (Instr.confirm w, 4)] →
    (3 ≤ op → fget s .rotFlashCtrlFoff 0 = foff ∧ fget s .rotFlashCtrlDaddr 0 = daddr ∧ fget s .rotFlashCtrlLen 0 = len) →
    Claims.admits s w 0x10_0200 8 (flashWord op foff daddr len) →
    Claims.admits s w 0x10_0208 8 (flashWord op foff daddr len / 2 ^ 64) →
    ∃ t, exec i s = .next t ∧ t.rot.op = some (.flash op foff daddr len) ∧ fget t .rotFlashCtrlStart 0 = 1 ∧
      t.flash = s.flash ∧ Claims.memSame s t) ∧
  (∀ (s : State) (off a n : Nat),
    (s.rot.op = some (.flash 0 off a n) → off % 2 ^ 16 = 0 → n % 2 ^ 16 = 0 → mayWriteFlash s off n = true →
      ∃ t, exec .flashOpDone s = .next t ∧ t.rot.op = none ∧ fget t .rotFlashCtrlResult 0 = 0 ∧
        fget t .rotFlashCtrlStart 0 = 0 ∧ Claims.memSame s t ∧
        t.flash = { s.flash with cells := tdrop (fun k => decide (off ≤ k ∧ k < off + n)) s.flash.cells }) ∧
    (s.rot.op = some (.flash 1 off a n) → mayWriteFlash s off n = true → 0 < n →
      stageHost s none .loader [(a, n)] = none → ∀ t b, rotRead s a n = (t, some b) → t.rot.readErr = false →
      ∃ u, exec .flashOpDone s = .next u ∧ u.rot.op = none ∧ fget u .rotFlashCtrlResult 0 = 0 ∧
        fget u .rotFlashCtrlStart 0 = 0 ∧ u.flash.cells = tsetAll flashDefault t.flash.cells (cellsAt off b)) ∧
    (s.rot.op = some (.flash 2 off a n) → (inBank false off n || inBank true off n) = true →
      n = 0 ∨ (ownerReads a = true ∧ ownerReads (a + n - 1) = true) →
      ∃ t, exec .flashOpDone s = .next t ∧ t.rot.op = none ∧ fget t .rotFlashCtrlResult 0 = 0 ∧
        fget t .rotFlashCtrlStart 0 = 0 ∧ t.flash = s.flash ∧
        Claims.memSame (agentWrite s .rot none a (flashBytes s off n)) t) ∧
    (s.rot.op = some (.flash 3 off a n) → fget s .rotBootStatusStage 0 = 2 → (bootRecord s).seq + 1 < 2 ^ 32 →
      (let other := fget s .rotBootStatusBank 0 == 0
       let bad := (directory s other).filterMap (fun e => imageFault s other true e.1) ++ (bankFault s other).toList
       ∃ t, exec .flashOpDone s = .next t ∧ t.rot.op = none ∧ fget t .rotFlashCtrlStart 0 = 0 ∧
         t.flash.cells = s.flash.cells ∧
         (bad = [] → fget t .rotFlashCtrlResult 0 = 0 ∧ (bootRecord t).active = other ∧ (bootRecord t).trial = true ∧
           (bootRecord t).tries = 0) ∧
         (bad ≠ [] → fget t .rotFlashCtrlResult 0 ≠ 0 ∧ t.flash = s.flash))) ∧
    (s.rot.op = some (.flash 4 off a n) →
      ∃ t, exec .flashOpDone s = .next t ∧ t.rot.op = none ∧ fget t .rotFlashCtrlResult 0 = 0 ∧
        fget t .rotFlashCtrlStart 0 = 0 ∧ t.flash.cells = s.flash.cells ∧
        ((bootRecord s).seq + 1 < 2 ^ 32 → (bootRecord t).trial = false ∧ (bootRecord t).active = (bootRecord s).active)))

/-- Operations on fuses and flash (15). -/
def Obligations.RootOfTrustOperations : Prop := Claims.FuseOperations ∧ Claims.FlashOperations

/-! ### Errors (16, 18) -/

/-- The oldest queued record takes the next number: it goes to its place in the ring when the ring stands and its stack is
READY, and else is counted as held in the loft only; the last 64 records stay readable: the other 63 are as they
were. The record of stage 5 reaches the loft alone (17 R413).
 A sound ring register is stored
whole, an unsound one not at all (16 R386, R388; 18 R435). A TAKE copies the block's fields of snapshots and sets HELD
(18 R430). -/
def Sys2Proof.Claims.RecordsAndSnapshots : Prop :=
  (∀ (s : State) (r : ErrRec) (rest : List ErrRec), s.errQueue = r :: rest → hubOn s = true →
    (let seq := fget s .errSeqNext 0
     let a := fget s .errRingBase 0 + 64 * (seq % 2 ^ fget s .errRingLog2n 0)
     let rings := fbit s .errRingEn 0 && stackReadyAt s a && !(r.cls == 12 && r.code == 5)
     ∃ t, exec .errRecordWrite s = .next t ∧ fget t .errSeqNext 0 = (seq + 1) % 2 ^ 64 ∧
       fget t .errLastRecord (seq % 64) = leNat (ErrRec.bytes r seq) % 2 ^ 512 ∧
       (∀ k, k < 64 → k ≠ seq % 64 → fget t .errLastRecord k = fget s .errLastRecord k) ∧
       (rings = true → Claims.memSame (memWrite (fset (fset { s with errQueue := rest }
         .errSeqNext 0 (seq + 1)) .errLastRecord (seq % 64) (leNat (ErrRec.bytes r seq))) .err none a
         (ErrRec.bytes r seq)) t) ∧
       (rings = false → Claims.memSame s t ∧ t.errQueue = rest ∧
         fget t .errLostLoftonly 0 = satAdd 32 (fget s .errLostLoftonly 0) 1 ∧
         Claims.regsKept s t [.errSeqNext, .errLastRecord, .errLostLoftonly]))) ∧
  (∀ (s : State) (w : Who) (v : Dword), Claims.admits s w 0x300_0000 8 v.toNat →
    ∃ t, exec (.errRingWrite w v) s = .next t ∧ Claims.memSame s t ∧
      (ringOk s (v.toNat % 2 ^ 48) (v.toNat / 2 ^ 48 % 32) = true → fget t .errRingBase 0 = v.toNat % 2 ^ 48 ∧
        fget t .errRingLog2n 0 = v.toNat / 2 ^ 48 % 32 ∧ fget t .errRingEn 0 = v.toNat / 2 ^ 63) ∧
      (ringOk s (v.toNat % 2 ^ 48) (v.toNat / 2 ^ 48 % 32) = false → fget t .errRingBase 0 = fget s .errRingBase 0 ∧
        fget t .errRingLog2n 0 = fget s .errRingLog2n 0 ∧ fget t .errRingEn 0 = fget s .errRingEn 0)) ∧
  (∀ (s : State) (w : Who) (blk : Block) (c : Core) (held : Bool),
    (let off := if blk = .core then coreReg c 0xFF00 else blockBase blk + 0xF_FF00
     Claims.admits s w off 4 (1 + 2 * ofBool held) →
     ∃ t, exec (.take w blk c held) s = .next t ∧
       t.snap (viewKey blk (if blk = .core then c.val else 0) (viewOf w)) =
         { (takeSnap s blk (if blk = .core then c.val else 0) (viewOf w)).snap
             (viewKey blk (if blk = .core then c.val else 0) (viewOf w)) with held := held } ∧
       (∀ g i, g.spec.block = blk → g.spec.snap = true → i ∈ snapIndices g (if blk = .core then c.val else 0) →
         Field.live s g i ≠ 0 → (Field.key g i, Field.live s g i) ∈
           (t.snap (viewKey blk (if blk = .core then c.val else 0) (viewOf w))).copy) ∧
       t.regs = s.regs ∧ Claims.memSame s t))

/-- Under TRIPLE a field with one upset copy is restored by the vote, with a record only; with two upset, or under PARITY,
the field's scope is fenced, with CAUSE 4: its partition, which is also reset, or every enabled partition with DEVFAULT, but
that a load under way that may be for it comes first (log entry 153). A field whose scope is nobody's has its record alone: the
model's reading, log entry 155 (16 R389, R395, R399; 18 R431). -/
def Sys2Proof.Claims.UpsetsAreVotedOrFenced : Prop :=
  ∀ (s : State) (f : Option Field) (i : Nat) (scope : CritScope), criticalScope s f i = some scope →
    (fget s .rotStructRegprot 0 = 0 → ∃ t, exec (.registerUpset f i false) s = .next t ∧
      Claims.regsKept s t [.errLostDropped] ∧ Claims.memSame s t ∧ t.parts = s.parts ∧
      (s.errQueue.length < 256 → t.errQueue.length = s.errQueue.length + 1)) ∧
    (∀ all : Bool, fget s .rotStructRegprot 0 ≠ 0 ∨ all = true → ∃ t, exec (.registerUpset f i all) s = .next t ∧
      (s.errQueue.length < 256 → s.errQueue.length < t.errQueue.length) ∧
      (∀ p, scope = .part p → (t.part p).resetDue = true ∧
        (fget s .hstPartCtrlFence p.val = 1 → fget t .hstPartCtrlFence p.val = 1) ∧
        (fget s .hstPartCtrlFence p.val ≠ 1 → (s.part p).resetDue = false → loadMayBeFor s p = false →
          fget t .hstPartCtrlFence p.val = 1 ∧ fget t .hstPartCtrlCause p.val = 4)) ∧
      (scope = .nobody → Claims.regsKept s t [.errLostDropped] ∧ Claims.memSame s t ∧ t.parts = s.parts) ∧
      (scope = .device → fget t .hstDevStatusDevfault 0 = 1 ∧ ((∀ a check, s.rot.op ≠ some (.load a check)) →
        ∀ p, (s.part p).enabled = true → fget t .hstPartCtrlFence p.val = 1 ∧
          (fget s .hstPartCtrlFence p.val ≠ 1 → fget t .hstPartCtrlCause p.val = 4))))

/-- Records are written and snapshots taken; upsets of critical fields are voted or fenced (16, 18). -/
def Obligations.ErrorsAreHandled : Prop := Claims.RecordsAndSnapshots ∧ Claims.UpsetsAreVotedOrFenced

/-! ### Fences (16) -/

/-- FENCE starts a fence: the partition's cores stop, its running calls end ABORTED, its loop is no more, a commit under way
stops at the next element; a load under way that may be for the partition comes first (log entry 153). 150 microseconds later
what is outstanding is answered by the device itself, and so is the device DMA of cores in CORE reset (the model's choice, log
entry 154). When nothing is left it is FENCED; a PART reset that waits has its effect then: the partition's cores are at rest,
its flags are 0 and its fields at their reset values, and the flash clear of its memory dies has started.
Lifting needs a completed PART reset; any other write of 0 to FENCE is logged (14 R343; 16 R395 to R398). -/
def Obligations.FencesClose : Prop :=
  ∀ (s : State) (p : Part),
    (∀ w : Who, Claims.admits s w (0x500 + 8 * p.val) 4 1 → fget s .hstPartCtrlFence p.val ≠ 1 → loadMayBeFor s p = false →
      ∃ t, exec (.fence w p) s = .next t ∧ fget t .hstPartCtrlFence p.val = 1 ∧ fget t .hstPartCtrlFenced p.val = 0 ∧
        fget t .hstPartCtrlBusy p.val = 1 ∧ (t.part p).loop = none ∧ (t.part p).ingest = none ∧
        (∀ c ∈ coresOf s p, coreState s c = 1 → coreState t c = 3) ∧
        (∀ c ∈ s.hub.calls, c.started = true → c.finished = none → c.service ≠ 9 → callPart s c = some p.val →
          { c with finished := some (sABORTED, 0, []) } ∈ t.hub.calls) ∧ Claims.memSame (haltCommit s p) t ∧
        (sealState s p ≠ 4 → Claims.memSame s t)) ∧
    (∀ us, fget s .hstPartCtrlFence p.val = 1 → fget s .hstPartCtrlFenced p.val ≠ 1 → 150 ≤ us →
      exec (.fenceTimeout p us) s = .next ((dmaOfPart ((tagsOfPart (dropHeld s p) p).foldl (fun s t => localNak s t 1)
        (dropHeld s p)) p).foldl quarantineDma
          ((tagsOfPart (dropHeld s p) p).foldl (fun s t => localNak s t 1) (dropHeld s p)))) ∧
    (∀ us, fget s .hstPartCtrlFence p.val ≠ 1 ∨ fget s .hstPartCtrlFenced p.val = 1 → 150 ≤ us →
      exec (.fenceTimeout p us) s = .next ((dmaOfResets s p).foldl quarantineDma s)) ∧
    (fget s .hstPartCtrlFence p.val = 1 → fget s .hstPartCtrlFenced p.val ≠ 1 → drained s p = true →
      (s.part p).resetDue = false → ∃ t, exec (.fenced p) s = .next t ∧ fget t .hstPartCtrlFenced p.val = 1 ∧
        fget t .hstPartCtrlBusy p.val = 0 ∧ Claims.regsKept s t [.hstPartCtrlFenced, .hstPartCtrlBusy, .errLostDropped] ∧
        Claims.memSame s t ∧ t.parts = s.parts) ∧
    (fget s .hstPartCtrlFence p.val = 1 → fget s .hstPartCtrlFenced p.val ≠ 1 → drained s p = true →
      (s.part p).resetDue = true → ∃ t, exec (.fenced p) s = .next t ∧ fget t .hstPartCtrlFenced p.val = 1 ∧
        fget t .hstPartCtrlFence p.val = 1 ∧ fget t .hstPartCtrlBusy p.val = 1 ∧
        ((∀ r ∈ s.hbmQueue, ∀ cells, r.act = .write cells → r.acked = true) →
          ∀ c ∈ coresOf s p, t.core c = {} ∧ coreState t c = 0) ∧
        (∀ i, flagAssigned s (some p) (.dev i) = true → flagGet t (.dev i) = 0) ∧
        (∀ (d : Die) (i : Nat), i < 256 → flagAssigned s (some p) (.die d i) = true → flagGet t (.die d i) = 0) ∧
        (∀ w : Ctr, bit (s.part p).img.wcmask w.val = true → fget t .hstWorkNext w.val = 0 ∧
          fget t .hstWorkLimit w.val = Field.resetAt .hstWorkLimit w.val) ∧
        (∀ f i, f.spec.block = .upd → f ∉ [.updEngineState, .updEnginePart, .updEngineMismatch] →
          i / Field.inner f = p.val → fget t f i = Field.resetAt f i) ∧
        (∀ q ∈ quartersOf s p, fget t .grnStatusState q = 1)) ∧
    (∀ w : Who, Claims.admits s w (0x500 + 8 * p.val) 4 0 → fget s .hstPartCtrlFence p.val ≠ 1 → (s.part p).fence = none →
      ∃ t, exec (.unfence w p) s = .next t ∧ t.parts = s.parts ∧ Claims.memSame s t ∧
        (s.errQueue.length < 256 → t.errQueue.length = s.errQueue.length + 1)) ∧
    (∀ w : Who, Claims.admits s w (0x500 + 8 * p.val) 4 0 → fget s .hstPartCtrlFence p.val = 1 →
      (∀ x, (s.part p).fence = some x → x.done = true → (s.part p).resetDue = false →
        ∃ t, exec (.unfence w p) s = .next t ∧ fget t .hstPartCtrlFence p.val = 0 ∧ Claims.memSame s t) ∧
      ((∀ x, (s.part p).fence = some x → x.done = false ∨ (s.part p).resetDue = true) →
        ∃ t, exec (.unfence w p) s = .next t ∧ fget t .hstPartCtrlFence p.val = 1 ∧ t.parts = s.parts ∧ Claims.memSame s t ∧
          (s.errQueue.length < 256 → t.errQueue.length = s.errQueue.length + 1)))

/-- A PART reset of a partition is due until it is done, and a write of RESET while BUSY is 1 is void and logged; it is done once the fence is closed and the flash clear of its
memory dies is: the partition's image is back in force, the fence may be lifted, BUSY is 0 (16 R394, R398). Tags that the
fence quarantined are free after 100 ms (16 R396). A notice of the fabric manager about a fenced rank stands until it is
lifted (16 R402, R403). -/
def Obligations.PartResetsAndNotices : Prop :=
  (∀ (s : State) (w : Who) (p : Part), Claims.admits s w (0x500 + 8 * p.val) 4 4 →
    (fget s .hstPartCtrlBusy p.val ≠ 1 → ∃ t, exec (.partReset w p) s = .next t ∧ (t.part p).resetDue = true ∧
      ((s.part p).resetDue = false → fget s .hstPartCtrlFence p.val = 0 → loadMayBeFor s p = false →
        fget t .hstPartCtrlFence p.val = 1 ∧
          ∀ c ∈ coresOf s p, (t.core c).resetting = none ∧ ((s.core c).resetting ≠ none → fget t .coreResetBusy c.val = 0))) ∧
    (fget s .hstPartCtrlBusy p.val = 1 → ∃ t, exec (.partReset w p) s = .next t ∧ t.parts = s.parts ∧
      Claims.regsKept s t [.errLostDropped] ∧ Claims.memSame s t ∧
      (s.errQueue.length < 256 → t.errQueue.length = s.errQueue.length + 1))) ∧
  (∀ (s t : State) (p : Part) (id : Nat), (s.part p).resetDue = true → fget s .hstPartCtrlFenced p.val = 1 →
    diesClear s p = true → reapply (putImg s p (s.part p).full true) p = .inr (t, id) →
    ∃ u, exec (.partDone p) s = .next u ∧ (u.part p).resetDue = false ∧ (u.part p).imageId = id ∧
      fget u .hstPartCtrlBusy p.val = 0 ∧ (∀ x, (u.part p).fence = some x → x.done = true) ∧ Claims.memSame t u) ∧
  (∀ (s : State) (tag : BitVec 13) (ms : Nat) (o : OutReq), outOf s tag.toNat = some o → o.quarantine = 1 → 100 ≤ ms →
    exec (.quarantineExpire tag ms) s = .next (pump (dropOut s tag.toNat))) ∧
  (∀ (s : State) (q : Packet), q.type = tSVC → isForUs s q = true → destCheck s q (decide (q.data.length ≠ 16)) = none →
    q.job = 0 → q.vc.toNat = 22 → isFm s q.srcDev.toNat q.srcEp.toNat = true →
    (let n := (field q.data 0 4 % 2 ^ 17, field q.data 4 2)
     (devValid s = true → n.1 ≠ devId s) →
     (q.aux.toNat % 256 = 0x10 → ∃ t, exec (.fencedNotice q) s = .next t ∧ n ∈ t.hub.notices ∧
       ∀ p : Part, (s.part p).enabled = true → (s.part p).img.job = n.2 → sealState s p = 2 →
         fget t .updSealVerdict p.val = 2) ∧
     (q.aux.toNat % 256 = 0x12 → ∃ t, exec (.unfencedNotice q) s = .next t ∧ n ∉ t.hub.notices ∧
       (∀ m, m ≠ n → (m ∈ t.hub.notices ↔ m ∈ s.hub.notices)) ∧ t.regs = s.regs ∧ Claims.memSame s t)))

/-! ### Power (17, 19) -/

/-- Each sample of the input is shown and counted; the deepest stage whose trigger is met is entered at once, with its cap
on the clock mode, and a stage lifts after a millisecond; two milliseconds on the store enter stage 5, 200 in it end in OFF,
and the input's return ends it by a WARM reset, which waits for PERST#. Power applied for 20 ms closes the input's switch, and once the store is
charged the module may boot (17 R408 to R413; 19 R438). -/
def Sys2Proof.Claims.SheddingFollowsInput : Prop :=
  (∀ (s : State) (mv ma : Nat), ∃ t, exec (.inputSample mv ma) s = .next t ∧
    fget t .pwrInputVin 0 = mv / 10 % 2 ^ 16 ∧ fget t .pwrInputIin 0 = ma / 10 % 2 ^ 16 ∧
    (s.pwr.off = false → s.pwr.inrush = false → s.pwr.safe = false →
      (let k := stageMet (countSample s.pwr (fget s .pwrStatusStage 0) mv (fbit s .pwrStatusHold 0))
       fget t .pwrStatusStage 0 = max k (fget s .pwrStatusStage 0) ∧
       (fget s .pwrStatusStage 0 < k → fget t .pwrStatusShedcap 0 = shedCap k ∧ t.pwr.safe = decide (k = 5))))) ∧
  (∀ s : State, 1 ≤ fget s .pwrStatusStage 0 → fget s .pwrStatusStage 0 ≤ 4 → 1000 ≤ s.pwr.liftRun →
    ∃ t, exec .shedStageLift s = .next t ∧ fget t .pwrStatusStage 0 = fget s .pwrStatusStage 0 - 1 ∧
      fget t .pwrStatusShedcap 0 = shedCap (fget s .pwrStatusStage 0 - 1) ∧ t.pwr.liftRun = 0 ∧
      (fget s .pwrStatusStage 0 = 4 → fget s .pwrStatusRefloss 0 = 0 → fget t .pwrStatusQuiesced 0 = 0) ∧ Claims.memSame s t) ∧
  (∀ s : State, 2000 ≤ fget s .pwrInputHoldus 0 → fget s .pwrStatusHold 0 = 1 → fget s .pwrStatusStage 0 < 5 →
    hubOn s = true → ∃ t, exec .holdupExpire s = .next t ∧ fget t .pwrStatusStage 0 = 5 ∧ t.pwr.safe = true ∧
      t.pwr.hot = false ∧ t.cores = []) ∧
  (∀ s : State, s.pwr.safe = true →
    (200000 ≤ s.pwr.retention → ∃ t, exec .retentionExpire s = .next t ∧ t.pwr.off = true ∧ t.pwr.cold = true ∧
      t.mem = [] ∧ t.scrambled = [] ∧ t.fuses = s.fuses ∧ t.flash = s.flash) ∧
    (s.pwr.hot = false → 10000 ≤ s.pwr.exitRun → s.hub.perst = false →
      ∃ t, exec .stage5Exit s = .next t ∧ Claims.booted s t ∧ t.pwr.safe = false) ∧
    (s.pwr.hot = false → 10000 ≤ s.pwr.exitRun → s.hub.perst = true →
      exec .stage5Exit s = .next { s with pwr := { s.pwr with exitReady := true } })) ∧
  (∀ (s : State) (mv ms : Nat), s.pwr.off = true → 42000 ≤ mv → 20 ≤ ms →
    exec (.powerApply mv ms) s = .next { s with pwr := { s.pwr with off := false, inrush := true } }) ∧
  (∀ s : State, s.pwr.inrush = true → exec .storeCharged s = .next { s with pwr := { s.pwr with inrush := false } })

/-- The clock mode in force is the slowest of the owner's selection and the caps of shedding and heat. A mode that the image
enables may be selected; a faster one is pending once the rails have settled, while some die still runs slower. A reference
that is missing for 10 microseconds quiesces the device until it has been present for a millisecond (17 R414 to R417). -/
def Sys2Proof.Claims.ModesAndReference : Prop :=
  (∀ (s : State) (w : Who) (m : BitVec 2), Claims.admits s w 0x20_0008 4 m.toNat →
    ∃ t, exec (.modeSelect w m) s = .next t ∧ Claims.memSame s t ∧
      (m.toNat < 3 → bit (fget s .rotStructEnmodes 0) m.toNat = true → fget s .pwrStatusShedcap 0 < 4 →
        fget s .pwrStatusThermcap 0 < 4 → fget t .pwrModeCtrlSel 0 = m.toNat ∧
        slowness (fget t .pwrStatusMode 0) = max (slowness m.toNat)
          (max (slowness (fget s .pwrStatusShedcap 0)) (slowness (fget s .pwrStatusThermcap 0)))) ∧
      (m.toNat = 3 ∨ bit (fget s .rotStructEnmodes 0) m.toNat = false →
        fget t .pwrModeCtrlSel 0 = fget s .pwrModeCtrlSel 0 ∧ fget t .pwrStatusMode 0 = fget s .pwrStatusMode 0)) ∧
  (∀ s : State, fget s .pwrStatusDieslow 0 ≠ 0 → ∃ t, exec .railSettled s = .next t ∧ fget t .pwrStatusPending 0 = 1 ∧
    t.pwr.railsReady = true ∧ Claims.regsKept s t [.pwrStatusPending]) ∧
  (∀ (s : State) (us : Nat), 10 ≤ us → fget s .pwrStatusRefloss 0 ≠ 1 → hubOn s = true →
    ∃ t, exec (.refclkLoss us) s = .next t ∧ fget t .pwrStatusRefloss 0 = 1 ∧ fget t .pwrStatusQuiesced 0 = 1 ∧
      Claims.memSame s t) ∧
  (∀ (s : State) (us : Nat), 1000 ≤ us → fget s .pwrStatusRefloss 0 = 1 →
    ∃ t, exec (.refclkReturn us) s = .next t ∧ fget t .pwrStatusRefloss 0 = 0 ∧
      fget t .pwrStatusQuiesced 0 = (if fget s .pwrStatusStage 0 < 4 then 0 else fget s .pwrStatusQuiesced 0) ∧
      Claims.regsKept s t [.pwrStatusRefloss, .pwrStatusQuiesced, .sklChanOcc, .sklChanXoff] ∧ Claims.memSame s t)

/-- Shedding follows the input; the clock mode and the reference (17). -/
def Obligations.SupplyModesAndReference : Prop := Claims.SheddingFollowsInput ∧ Claims.ModesAndReference

/-- Each thermal sample is shown, with the means of the rails' sense points; a level whose condition holds in two samples comes into force with its cap on the clock
mode, and level 3 is the safe state; a level drops after 100 samples below it; after level 3 and a second of cool samples the
module boots (17 R418, R419). The owner rests the device while nothing runs, IDLE or DROWSE, and brings it back (17 R420). -/
def Obligations.HeatAndRest : Prop :=
  (∀ (s : State) (r : ThermalReading), s.pwr.off = false → s.pwr.inrush = false →
    ∃ t, exec (.thermalSample r) s = .next t ∧ fget t .pwrTempTemp 0 = wrap 16 r.die0 ∧
      fget t .pwrTempTemp 4 = wrap 16 r.hub ∧ t.pwr.grnTemp = r.granary ∧
      (∀ i v, i < 5 → r.rails[i]? = some v → fget t .pwrTempVdie i = min v 1023) ∧
      (s.pwr.safe = false → atLevel r 3 = true → 1 ≤ tget (fun _ => 0) s.pwr.thermRun 3 →
        fget s .pwrStatusTlevel 0 < 3 → t.pwr.safe = true ∧ t.pwr.hot = true ∧ t.cores = []) ∧
      (s.pwr.safe = false → atLevel r 3 = false → atLevel r 2 = true → 1 ≤ tget (fun _ => 0) s.pwr.thermRun 2 →
        fget s .pwrStatusTlevel 0 < 2 → fget t .pwrStatusTlevel 0 = 2 ∧ fget t .pwrStatusThermcap 0 = 2) ∧
      (s.pwr.safe = false → atLevel r 3 = false → atLevel r 2 = false → atLevel r 1 = true →
        1 ≤ tget (fun _ => 0) s.pwr.thermRun 1 → fget s .pwrStatusTlevel 0 < 1 →
        fget t .pwrStatusTlevel 0 = 1 ∧ fget t .pwrStatusThermcap 0 = 0)) ∧
  (∀ s : State, 1 ≤ fget s .pwrStatusTlevel 0 → 100 ≤ s.pwr.dropRun → s.pwr.safe = false →
    ∃ t, exec .thermalLevelDrop s = .next t ∧ fget t .pwrStatusTlevel 0 = (fget s .pwrStatusTlevel 0 - 1) % 4 ∧
      fget t .pwrStatusThermcap 0 = thermCap (fget s .pwrStatusTlevel 0 - 1) ∧ t.pwr.dropRun = 0 ∧ Claims.memSame s t) ∧
  (∀ s : State, s.pwr.safe = true → s.pwr.hot = true → 10000 ≤ s.pwr.coolRun → s.hub.perst = false →
    ∃ t, exec .thermalCooldown s = .next t ∧ Claims.booted s t ∧ t.pwr.safe = false) ∧
  (∀ (s : State) (w : Who),
    (Claims.admits s w 0x20_0020 4 0 → fget s .pwrStatusPstate 0 = 1 → ∃ t, exec (.targetD0 w) s = .next t ∧
      fget t .pwrStatusPstate 0 = 0 ∧ fget t .pwrStateCtrlTarget 0 = 0 ∧ Claims.memSame s t) ∧
    (Claims.admits s w 0x20_0020 4 0 → fget s .pwrStatusPstate 0 = 2 → ∃ t, exec (.targetD0 w) s = .next t ∧
      Claims.booted s t) ∧
    (Claims.admits s w 0x20_0020 4 1 → fget s .pwrStatusPstate 0 = 0 → mayRest s = true →
      ∃ t, exec (.targetIdle w) s = .next t ∧ fget t .pwrStatusPstate 0 = 1 ∧ fget t .pwrStateCtrlTarget 0 = 1 ∧
        Claims.memSame s t) ∧
    (Claims.admits s w 0x20_0020 4 2 → fget s .pwrStatusPstate 0 < 2 → mayRest s = true →
      ∃ t, exec (.targetDrowse w) s = .next t ∧ fget t .pwrStatusPstate 0 = 2 ∧ fget t .pwrStateCtrlTarget 0 = 2 ∧
        t.cores = [] ∧ (s.hbmQueue = [] → ∀ a k, placeOf a = .hbm k → mget t a = mget s a)))
end

