-- ==== Sys2Proof/Laws/Tab.lean ====
section
/-! SUPPORT. Laws of the sparse tables and of the register file: a read after a write, at the same key and at another,
and the canonical form that every operation keeps. -/

namespace Sys2Proof.Machine

variable {α : Type}

/-! ### Reading after writing -/

theorem tget_tput_same (d : Nat → α) (t : List (Nat × α)) (k : Nat) (v : α) : tget d (tput t k v) k = v := by
  induction t with
  | nil => simp [tput, tget]
  | cons e t ih =>
    obtain ⟨k', v'⟩ := e
    simp only [tput]
    split
    · rename_i h; simp [tget, Nat.ne_of_lt h, ih]
    · split <;> simp [tget]

theorem tget_tput_other (d : Nat → α) (t : List (Nat × α)) {k j : Nat} (v : α) (h : j ≠ k) :
    tget d (tput t k v) j = tget d t j := by
  induction t with
  | nil => simp [tput, tget, Ne.symm h]
  | cons e t ih =>
    obtain ⟨k', v'⟩ := e
    simp only [tput]
    split
    · simp [tget, ih]
    · split
      · rename_i hk; subst hk; simp [tget, Ne.symm h]
      · simp [tget, Ne.symm h]

theorem tget_erase_same (d : Nat → α) (t : List (Nat × α)) (k : Nat) :
    tget d (t.filter fun e => e.1 != k) k = d k := by
  induction t with
  | nil => simp [tget]
  | cons e t ih =>
    obtain ⟨k', v'⟩ := e
    by_cases hk : k' = k
    · simp [hk, ih]
    · simp [hk, tget, ih]

theorem tget_erase_other (d : Nat → α) (t : List (Nat × α)) {k j : Nat} (h : j ≠ k) :
    tget d (t.filter fun e => e.1 != k) j = tget d t j := by
  induction t with
  | nil => simp
  | cons e t ih =>
    obtain ⟨k', v'⟩ := e
    by_cases hk : k' = k
    · subst hk; simp [tget, Ne.symm h, ih]
    · simp [hk, tget, ih]

@[simp] theorem tget_tset_same [DecidableEq α] (d : Nat → α) (t : List (Nat × α)) (k : Nat) (v : α) :
    tget d (tset d t k v) k = v := by
  unfold tset
  split
  · rename_i h; rw [tget_erase_same, h]
  · exact tget_tput_same d t k v

theorem tget_tset_other [DecidableEq α] (d : Nat → α) (t : List (Nat × α)) {k j : Nat} (v : α) (h : j ≠ k) :
    tget d (tset d t k v) j = tget d t j := by
  unfold tset
  split
  · exact tget_erase_other d t h
  · exact tget_tput_other d t v h

/-! ### The canonical form -/

theorem twfFrom_mono [DecidableEq α] {d : Nat → α} {lo lo' : Nat} {t : List (Nat × α)} (h : lo' ≤ lo)
    (ht : twfFrom d lo t = true) : twfFrom d lo' t = true := by
  cases t with
  | nil => rfl
  | cons e t =>
    obtain ⟨k, v⟩ := e
    simp only [twfFrom, Bool.and_eq_true, decide_eq_true_eq] at *
    exact ⟨⟨h.trans ht.1.1, ht.1.2⟩, ht.2⟩

theorem twfFrom_filter [DecidableEq α] {d : Nat → α} (p : Nat × α → Bool) {t : List (Nat × α)} :
    ∀ {lo : Nat}, twfFrom d lo t = true → twfFrom d lo (t.filter p) = true := by
  induction t with
  | nil => intro lo _; rfl
  | cons e t ih =>
    obtain ⟨k, v⟩ := e
    intro lo h
    simp only [twfFrom, Bool.and_eq_true, decide_eq_true_eq] at h
    by_cases hp : p (k, v) = true
    · simp only [List.filter_cons, hp, if_true, twfFrom, Bool.and_eq_true, decide_eq_true_eq]
      exact ⟨h.1, ih h.2⟩
    · simp only [List.filter_cons, hp]
      exact twfFrom_mono (by omega) (ih h.2)

theorem twfFrom_tput [DecidableEq α] {d : Nat → α} {t : List (Nat × α)} {k : Nat} {v : α} (hv : v ≠ d k) :
    ∀ {lo : Nat}, lo ≤ k → twfFrom d lo t = true → twfFrom d lo (tput t k v) = true := by
  induction t with
  | nil => intro lo hk _; simp [tput, twfFrom, hk, hv]
  | cons e t ih =>
    obtain ⟨k', v'⟩ := e
    intro lo hk h
    simp only [twfFrom, Bool.and_eq_true, decide_eq_true_eq] at h
    simp only [tput]
    split
    · rename_i hlt
      simp only [twfFrom, Bool.and_eq_true, decide_eq_true_eq]
      exact ⟨h.1, ih hlt h.2⟩
    · split
      · rename_i he
        subst he
        simp only [twfFrom, Bool.and_eq_true, decide_eq_true_eq]
        exact ⟨⟨h.1.1, hv⟩, h.2⟩
      · simp only [twfFrom, Bool.and_eq_true, decide_eq_true_eq]
        exact ⟨⟨hk, hv⟩, ⟨⟨by omega, h.1.2⟩, h.2⟩⟩

/-- Storing a value keeps the form. -/
theorem twf_tset [DecidableEq α] {d : Nat → α} {t : List (Nat × α)} (k : Nat) (v : α) (h : twf d t = true) :
    twf d (tset d t k v) = true := by
  unfold tset
  split
  · exact twfFrom_filter _ h
  · rename_i hv; exact twfFrom_tput hv (Nat.zero_le k) h

theorem twf_tsetAll [DecidableEq α] {d : Nat → α} (r : List (Nat × α)) :
    ∀ {t : List (Nat × α)}, twf d t = true → twf d (tsetAll d t r) = true := by
  induction r with
  | nil => intro t h; exact h
  | cons e r ih => obtain ⟨k, v⟩ := e; intro t h; exact ih (twf_tset k v h)

theorem twf_tdrop [DecidableEq α] {d : Nat → α} (p : Nat → Bool) {t : List (Nat × α)} (h : twf d t = true) :
    twf d (tdrop p t) = true := twfFrom_filter _ h

/-! ### The register file -/

theorem regLookup_tput_same (t : List (Nat × Nat)) (k v : Nat) : regLookup (tput t k v) k = some v := by
  induction t with
  | nil => simp [tput, regLookup]
  | cons e t ih =>
    obtain ⟨k', v'⟩ := e
    simp only [tput]
    split
    · rename_i h; simp [regLookup, Nat.ne_of_lt h, ih]
    · split <;> simp [regLookup]

theorem regLookup_tput_other (t : List (Nat × Nat)) {k j : Nat} (v : Nat) (h : j ≠ k) :
    regLookup (tput t k v) j = regLookup t j := by
  induction t with
  | nil => simp [tput, regLookup, Ne.symm h]
  | cons e t ih =>
    obtain ⟨k', v'⟩ := e
    simp only [tput]
    split
    · simp [regLookup, ih]
    · split
      · rename_i hk; subst hk; simp [regLookup, Ne.symm h]
      · simp [regLookup, Ne.symm h]

theorem regLookup_erase_same (t : List (Nat × Nat)) (k : Nat) :
    regLookup (t.filter fun e => e.1 != k) k = none := by
  induction t with
  | nil => rfl
  | cons e t ih =>
    obtain ⟨k', v'⟩ := e
    by_cases hk : k' = k
    · simp [hk, ih]
    · simp [hk, regLookup, ih]

theorem regLookup_erase_other (t : List (Nat × Nat)) {k j : Nat} (h : j ≠ k) :
    regLookup (t.filter fun e => e.1 != k) j = regLookup t j := by
  induction t with
  | nil => simp
  | cons e t ih =>
    obtain ⟨k', v'⟩ := e
    by_cases hk : k' = k
    · subst hk; simp [regLookup, Ne.symm h, ih]
    · simp [hk, regLookup, ih]

theorem Field.ctorIdx_lt (f : Field) : f.ctorIdx < 512 := by cases f <;> decide

theorem Field.ctorIdx_inj {f g : Field} (h : f.ctorIdx = g.ctorIdx) : f = g := by
  rw [← Field.ofNat_ctorIdx f, ← Field.ofNat_ctorIdx g, h]

theorem Field.key_inj {f g : Field} {i j : Nat} (h : Field.key f i = Field.key g j) : f = g ∧ i = j := by
  have hf := Field.ctorIdx_lt f
  have hg := Field.ctorIdx_lt g
  unfold Field.key at h
  exact ⟨Field.ctorIdx_inj (by omega), by omega⟩

/-- A field reads what was written, cut to its width. -/
@[simp] theorem fget_fset_same (s : State) (f : Field) (i v : Nat) :
    fget (fset s f i v) f i = v % 2 ^ f.spec.width := by
  unfold fget fset regStore
  split
  · rename_i h; simp [regLookup_erase_same, h]
  · simp [regLookup_tput_same]

/-- A write leaves every other field, and the same field at another index, as it was. -/
theorem fget_fset_other (s : State) {f g : Field} {i j : Nat} (v : Nat) (h : ¬(g = f ∧ j = i)) :
    fget (fset s f i v) g j = fget s g j := by
  have hk : Field.key g j ≠ Field.key f i := fun e => h (Field.key_inj e)
  unfold fget fset regStore
  split
  · rw [regLookup_erase_other _ hk]
  · rw [regLookup_tput_other _ _ hk]

end Sys2Proof.Machine
end

