-- ==== Sys2Proof/Laws/State.lean ====
section
/-! SUPPORT. Laws of the state's parts: what each update of one part leaves in every other, each true by unfolding, and a
part read after an update of the same kind of part. -/

namespace Sys2Proof.Machine

/-! ### State.setCore -/

@[simp] theorem State.setCore_pending (s : State) (c : Core) (x : CoreX) : (s.setCore c x).pending = s.pending := rfl
@[simp] theorem State.setCore_sent (s : State) (c : Core) (x : CoreX) : (s.setCore c x).sent = s.sent := rfl
@[simp] theorem State.setCore_regs (s : State) (c : Core) (x : CoreX) : (s.setCore c x).regs = s.regs := rfl
@[simp] theorem State.setCore_mem (s : State) (c : Core) (x : CoreX) : (s.setCore c x).mem = s.mem := rfl
@[simp] theorem State.setCore_grnSyn (s : State) (c : Core) (x : CoreX) : (s.setCore c x).grnSyn = s.grnSyn := rfl
@[simp] theorem State.setCore_grnValid (s : State) (c : Core) (x : CoreX) : (s.setCore c x).grnValid = s.grnValid := rfl
@[simp] theorem State.setCore_hbmSyn (s : State) (c : Core) (x : CoreX) : (s.setCore c x).hbmSyn = s.hbmSyn := rfl
@[simp] theorem State.setCore_scrambled (s : State) (c : Core) (x : CoreX) : (s.setCore c x).scrambled = s.scrambled := rfl
@[simp] theorem State.setCore_sramErr (s : State) (c : Core) (x : CoreX) : (s.setCore c x).sramErr = s.sramErr := rfl
@[simp] theorem State.setCore_dieFlags (s : State) (c : Core) (x : CoreX) : (s.setCore c x).dieFlags = s.dieFlags := rfl
@[simp] theorem State.setCore_devFlags (s : State) (c : Core) (x : CoreX) : (s.setCore c x).devFlags = s.devFlags := rfl
@[simp] theorem State.setCore_signals (s : State) (c : Core) (x : CoreX) : (s.setCore c x).signals = s.signals := rfl
@[simp] theorem State.setCore_waiters (s : State) (c : Core) (x : CoreX) : (s.setCore c x).waiters = s.waiters := rfl
@[simp] theorem State.setCore_ctrQueue (s : State) (c : Core) (x : CoreX) : (s.setCore c x).ctrQueue = s.ctrQueue := rfl
@[simp] theorem State.setCore_grnQueue (s : State) (c : Core) (x : CoreX) : (s.setCore c x).grnQueue = s.grnQueue := rfl
@[simp] theorem State.setCore_hbmQueue (s : State) (c : Core) (x : CoreX) : (s.setCore c x).hbmQueue = s.hbmQueue := rfl
@[simp] theorem State.setCore_grn (s : State) (c : Core) (x : CoreX) : (s.setCore c x).grn = s.grn := rfl
@[simp] theorem State.setCore_hbm (s : State) (c : Core) (x : CoreX) : (s.setCore c x).hbm = s.hbm := rfl
@[simp] theorem State.setCore_groups (s : State) (c : Core) (x : CoreX) : (s.setCore c x).groups = s.groups := rfl
@[simp] theorem State.setCore_lifts (s : State) (c : Core) (x : CoreX) : (s.setCore c x).lifts = s.lifts := rfl
@[simp] theorem State.setCore_posts (s : State) (c : Core) (x : CoreX) : (s.setCore c x).posts = s.posts := rfl
@[simp] theorem State.setCore_parts (s : State) (c : Core) (x : CoreX) : (s.setCore c x).parts = s.parts := rfl
@[simp] theorem State.setCore_ports (s : State) (c : Core) (x : CoreX) : (s.setCore c x).ports = s.ports := rfl
@[simp] theorem State.setCore_net (s : State) (c : Core) (x : CoreX) : (s.setCore c x).net = s.net := rfl
@[simp] theorem State.setCore_fns (s : State) (c : Core) (x : CoreX) : (s.setCore c x).fns = s.fns := rfl
@[simp] theorem State.setCore_hub (s : State) (c : Core) (x : CoreX) : (s.setCore c x).hub = s.hub := rfl
@[simp] theorem State.setCore_fuses (s : State) (c : Core) (x : CoreX) : (s.setCore c x).fuses = s.fuses := rfl
@[simp] theorem State.setCore_flash (s : State) (c : Core) (x : CoreX) : (s.setCore c x).flash = s.flash := rfl
@[simp] theorem State.setCore_rot (s : State) (c : Core) (x : CoreX) : (s.setCore c x).rot = s.rot := rfl
@[simp] theorem State.setCore_pwr (s : State) (c : Core) (x : CoreX) : (s.setCore c x).pwr = s.pwr := rfl
@[simp] theorem State.setCore_errQueue (s : State) (c : Core) (x : CoreX) : (s.setCore c x).errQueue = s.errQueue := rfl
@[simp] theorem State.setCore_snaps (s : State) (c : Core) (x : CoreX) : (s.setCore c x).snaps = s.snaps := rfl
@[simp] theorem State.setCore_fresh (s : State) (c : Core) (x : CoreX) : (s.setCore c x).fresh = s.fresh := rfl

/-! ### State.setPart -/

@[simp] theorem State.setPart_pending (s : State) (p : Part) (x : PartX) : (s.setPart p x).pending = s.pending := rfl
@[simp] theorem State.setPart_sent (s : State) (p : Part) (x : PartX) : (s.setPart p x).sent = s.sent := rfl
@[simp] theorem State.setPart_regs (s : State) (p : Part) (x : PartX) : (s.setPart p x).regs = s.regs := rfl
@[simp] theorem State.setPart_mem (s : State) (p : Part) (x : PartX) : (s.setPart p x).mem = s.mem := rfl
@[simp] theorem State.setPart_grnSyn (s : State) (p : Part) (x : PartX) : (s.setPart p x).grnSyn = s.grnSyn := rfl
@[simp] theorem State.setPart_grnValid (s : State) (p : Part) (x : PartX) : (s.setPart p x).grnValid = s.grnValid := rfl
@[simp] theorem State.setPart_hbmSyn (s : State) (p : Part) (x : PartX) : (s.setPart p x).hbmSyn = s.hbmSyn := rfl
@[simp] theorem State.setPart_scrambled (s : State) (p : Part) (x : PartX) : (s.setPart p x).scrambled = s.scrambled := rfl
@[simp] theorem State.setPart_sramErr (s : State) (p : Part) (x : PartX) : (s.setPart p x).sramErr = s.sramErr := rfl
@[simp] theorem State.setPart_cores (s : State) (p : Part) (x : PartX) : (s.setPart p x).cores = s.cores := rfl
@[simp] theorem State.setPart_dieFlags (s : State) (p : Part) (x : PartX) : (s.setPart p x).dieFlags = s.dieFlags := rfl
@[simp] theorem State.setPart_devFlags (s : State) (p : Part) (x : PartX) : (s.setPart p x).devFlags = s.devFlags := rfl
@[simp] theorem State.setPart_signals (s : State) (p : Part) (x : PartX) : (s.setPart p x).signals = s.signals := rfl
@[simp] theorem State.setPart_waiters (s : State) (p : Part) (x : PartX) : (s.setPart p x).waiters = s.waiters := rfl
@[simp] theorem State.setPart_ctrQueue (s : State) (p : Part) (x : PartX) : (s.setPart p x).ctrQueue = s.ctrQueue := rfl
@[simp] theorem State.setPart_grnQueue (s : State) (p : Part) (x : PartX) : (s.setPart p x).grnQueue = s.grnQueue := rfl
@[simp] theorem State.setPart_hbmQueue (s : State) (p : Part) (x : PartX) : (s.setPart p x).hbmQueue = s.hbmQueue := rfl
@[simp] theorem State.setPart_grn (s : State) (p : Part) (x : PartX) : (s.setPart p x).grn = s.grn := rfl
@[simp] theorem State.setPart_hbm (s : State) (p : Part) (x : PartX) : (s.setPart p x).hbm = s.hbm := rfl
@[simp] theorem State.setPart_groups (s : State) (p : Part) (x : PartX) : (s.setPart p x).groups = s.groups := rfl
@[simp] theorem State.setPart_lifts (s : State) (p : Part) (x : PartX) : (s.setPart p x).lifts = s.lifts := rfl
@[simp] theorem State.setPart_posts (s : State) (p : Part) (x : PartX) : (s.setPart p x).posts = s.posts := rfl
@[simp] theorem State.setPart_ports (s : State) (p : Part) (x : PartX) : (s.setPart p x).ports = s.ports := rfl
@[simp] theorem State.setPart_net (s : State) (p : Part) (x : PartX) : (s.setPart p x).net = s.net := rfl
@[simp] theorem State.setPart_fns (s : State) (p : Part) (x : PartX) : (s.setPart p x).fns = s.fns := rfl
@[simp] theorem State.setPart_hub (s : State) (p : Part) (x : PartX) : (s.setPart p x).hub = s.hub := rfl
@[simp] theorem State.setPart_fuses (s : State) (p : Part) (x : PartX) : (s.setPart p x).fuses = s.fuses := rfl
@[simp] theorem State.setPart_flash (s : State) (p : Part) (x : PartX) : (s.setPart p x).flash = s.flash := rfl
@[simp] theorem State.setPart_rot (s : State) (p : Part) (x : PartX) : (s.setPart p x).rot = s.rot := rfl
@[simp] theorem State.setPart_pwr (s : State) (p : Part) (x : PartX) : (s.setPart p x).pwr = s.pwr := rfl
@[simp] theorem State.setPart_errQueue (s : State) (p : Part) (x : PartX) : (s.setPart p x).errQueue = s.errQueue := rfl
@[simp] theorem State.setPart_snaps (s : State) (p : Part) (x : PartX) : (s.setPart p x).snaps = s.snaps := rfl
@[simp] theorem State.setPart_fresh (s : State) (p : Part) (x : PartX) : (s.setPart p x).fresh = s.fresh := rfl

/-! ### State.setGroup -/

@[simp] theorem State.setGroup_pending (s : State) (g : Group) (x : GroupX) : (s.setGroup g x).pending = s.pending := rfl
@[simp] theorem State.setGroup_sent (s : State) (g : Group) (x : GroupX) : (s.setGroup g x).sent = s.sent := rfl
@[simp] theorem State.setGroup_regs (s : State) (g : Group) (x : GroupX) : (s.setGroup g x).regs = s.regs := rfl
@[simp] theorem State.setGroup_mem (s : State) (g : Group) (x : GroupX) : (s.setGroup g x).mem = s.mem := rfl
@[simp] theorem State.setGroup_grnSyn (s : State) (g : Group) (x : GroupX) : (s.setGroup g x).grnSyn = s.grnSyn := rfl
@[simp] theorem State.setGroup_grnValid (s : State) (g : Group) (x : GroupX) : (s.setGroup g x).grnValid = s.grnValid := rfl
@[simp] theorem State.setGroup_hbmSyn (s : State) (g : Group) (x : GroupX) : (s.setGroup g x).hbmSyn = s.hbmSyn := rfl
@[simp] theorem State.setGroup_scrambled (s : State) (g : Group) (x : GroupX) : (s.setGroup g x).scrambled = s.scrambled := rfl
@[simp] theorem State.setGroup_sramErr (s : State) (g : Group) (x : GroupX) : (s.setGroup g x).sramErr = s.sramErr := rfl
@[simp] theorem State.setGroup_cores (s : State) (g : Group) (x : GroupX) : (s.setGroup g x).cores = s.cores := rfl
@[simp] theorem State.setGroup_dieFlags (s : State) (g : Group) (x : GroupX) : (s.setGroup g x).dieFlags = s.dieFlags := rfl
@[simp] theorem State.setGroup_devFlags (s : State) (g : Group) (x : GroupX) : (s.setGroup g x).devFlags = s.devFlags := rfl
@[simp] theorem State.setGroup_signals (s : State) (g : Group) (x : GroupX) : (s.setGroup g x).signals = s.signals := rfl
@[simp] theorem State.setGroup_waiters (s : State) (g : Group) (x : GroupX) : (s.setGroup g x).waiters = s.waiters := rfl
@[simp] theorem State.setGroup_ctrQueue (s : State) (g : Group) (x : GroupX) : (s.setGroup g x).ctrQueue = s.ctrQueue := rfl
@[simp] theorem State.setGroup_grnQueue (s : State) (g : Group) (x : GroupX) : (s.setGroup g x).grnQueue = s.grnQueue := rfl
@[simp] theorem State.setGroup_hbmQueue (s : State) (g : Group) (x : GroupX) : (s.setGroup g x).hbmQueue = s.hbmQueue := rfl
@[simp] theorem State.setGroup_grn (s : State) (g : Group) (x : GroupX) : (s.setGroup g x).grn = s.grn := rfl
@[simp] theorem State.setGroup_hbm (s : State) (g : Group) (x : GroupX) : (s.setGroup g x).hbm = s.hbm := rfl
@[simp] theorem State.setGroup_lifts (s : State) (g : Group) (x : GroupX) : (s.setGroup g x).lifts = s.lifts := rfl
@[simp] theorem State.setGroup_posts (s : State) (g : Group) (x : GroupX) : (s.setGroup g x).posts = s.posts := rfl
@[simp] theorem State.setGroup_parts (s : State) (g : Group) (x : GroupX) : (s.setGroup g x).parts = s.parts := rfl
@[simp] theorem State.setGroup_ports (s : State) (g : Group) (x : GroupX) : (s.setGroup g x).ports = s.ports := rfl
@[simp] theorem State.setGroup_net (s : State) (g : Group) (x : GroupX) : (s.setGroup g x).net = s.net := rfl
@[simp] theorem State.setGroup_fns (s : State) (g : Group) (x : GroupX) : (s.setGroup g x).fns = s.fns := rfl
@[simp] theorem State.setGroup_hub (s : State) (g : Group) (x : GroupX) : (s.setGroup g x).hub = s.hub := rfl
@[simp] theorem State.setGroup_fuses (s : State) (g : Group) (x : GroupX) : (s.setGroup g x).fuses = s.fuses := rfl
@[simp] theorem State.setGroup_flash (s : State) (g : Group) (x : GroupX) : (s.setGroup g x).flash = s.flash := rfl
@[simp] theorem State.setGroup_rot (s : State) (g : Group) (x : GroupX) : (s.setGroup g x).rot = s.rot := rfl
@[simp] theorem State.setGroup_pwr (s : State) (g : Group) (x : GroupX) : (s.setGroup g x).pwr = s.pwr := rfl
@[simp] theorem State.setGroup_errQueue (s : State) (g : Group) (x : GroupX) : (s.setGroup g x).errQueue = s.errQueue := rfl
@[simp] theorem State.setGroup_snaps (s : State) (g : Group) (x : GroupX) : (s.setGroup g x).snaps = s.snaps := rfl
@[simp] theorem State.setGroup_fresh (s : State) (g : Group) (x : GroupX) : (s.setGroup g x).fresh = s.fresh := rfl

/-! ### State.setPort -/

@[simp] theorem State.setPort_pending (s : State) (n : Port) (x : PortX) : (s.setPort n x).pending = s.pending := rfl
@[simp] theorem State.setPort_sent (s : State) (n : Port) (x : PortX) : (s.setPort n x).sent = s.sent := rfl
@[simp] theorem State.setPort_regs (s : State) (n : Port) (x : PortX) : (s.setPort n x).regs = s.regs := rfl
@[simp] theorem State.setPort_mem (s : State) (n : Port) (x : PortX) : (s.setPort n x).mem = s.mem := rfl
@[simp] theorem State.setPort_grnSyn (s : State) (n : Port) (x : PortX) : (s.setPort n x).grnSyn = s.grnSyn := rfl
@[simp] theorem State.setPort_grnValid (s : State) (n : Port) (x : PortX) : (s.setPort n x).grnValid = s.grnValid := rfl
@[simp] theorem State.setPort_hbmSyn (s : State) (n : Port) (x : PortX) : (s.setPort n x).hbmSyn = s.hbmSyn := rfl
@[simp] theorem State.setPort_scrambled (s : State) (n : Port) (x : PortX) : (s.setPort n x).scrambled = s.scrambled := rfl
@[simp] theorem State.setPort_sramErr (s : State) (n : Port) (x : PortX) : (s.setPort n x).sramErr = s.sramErr := rfl
@[simp] theorem State.setPort_cores (s : State) (n : Port) (x : PortX) : (s.setPort n x).cores = s.cores := rfl
@[simp] theorem State.setPort_dieFlags (s : State) (n : Port) (x : PortX) : (s.setPort n x).dieFlags = s.dieFlags := rfl
@[simp] theorem State.setPort_devFlags (s : State) (n : Port) (x : PortX) : (s.setPort n x).devFlags = s.devFlags := rfl
@[simp] theorem State.setPort_signals (s : State) (n : Port) (x : PortX) : (s.setPort n x).signals = s.signals := rfl
@[simp] theorem State.setPort_waiters (s : State) (n : Port) (x : PortX) : (s.setPort n x).waiters = s.waiters := rfl
@[simp] theorem State.setPort_ctrQueue (s : State) (n : Port) (x : PortX) : (s.setPort n x).ctrQueue = s.ctrQueue := rfl
@[simp] theorem State.setPort_grnQueue (s : State) (n : Port) (x : PortX) : (s.setPort n x).grnQueue = s.grnQueue := rfl
@[simp] theorem State.setPort_hbmQueue (s : State) (n : Port) (x : PortX) : (s.setPort n x).hbmQueue = s.hbmQueue := rfl
@[simp] theorem State.setPort_grn (s : State) (n : Port) (x : PortX) : (s.setPort n x).grn = s.grn := rfl
@[simp] theorem State.setPort_hbm (s : State) (n : Port) (x : PortX) : (s.setPort n x).hbm = s.hbm := rfl
@[simp] theorem State.setPort_groups (s : State) (n : Port) (x : PortX) : (s.setPort n x).groups = s.groups := rfl
@[simp] theorem State.setPort_lifts (s : State) (n : Port) (x : PortX) : (s.setPort n x).lifts = s.lifts := rfl
@[simp] theorem State.setPort_posts (s : State) (n : Port) (x : PortX) : (s.setPort n x).posts = s.posts := rfl
@[simp] theorem State.setPort_parts (s : State) (n : Port) (x : PortX) : (s.setPort n x).parts = s.parts := rfl
@[simp] theorem State.setPort_net (s : State) (n : Port) (x : PortX) : (s.setPort n x).net = s.net := rfl
@[simp] theorem State.setPort_fns (s : State) (n : Port) (x : PortX) : (s.setPort n x).fns = s.fns := rfl
@[simp] theorem State.setPort_hub (s : State) (n : Port) (x : PortX) : (s.setPort n x).hub = s.hub := rfl
@[simp] theorem State.setPort_fuses (s : State) (n : Port) (x : PortX) : (s.setPort n x).fuses = s.fuses := rfl
@[simp] theorem State.setPort_flash (s : State) (n : Port) (x : PortX) : (s.setPort n x).flash = s.flash := rfl
@[simp] theorem State.setPort_rot (s : State) (n : Port) (x : PortX) : (s.setPort n x).rot = s.rot := rfl
@[simp] theorem State.setPort_pwr (s : State) (n : Port) (x : PortX) : (s.setPort n x).pwr = s.pwr := rfl
@[simp] theorem State.setPort_errQueue (s : State) (n : Port) (x : PortX) : (s.setPort n x).errQueue = s.errQueue := rfl
@[simp] theorem State.setPort_snaps (s : State) (n : Port) (x : PortX) : (s.setPort n x).snaps = s.snaps := rfl
@[simp] theorem State.setPort_fresh (s : State) (n : Port) (x : PortX) : (s.setPort n x).fresh = s.fresh := rfl

/-! ### State.setGrnDie -/

@[simp] theorem State.setGrnDie_pending (s : State) (q : MemDie) (x : GrnX) : (s.setGrnDie q x).pending = s.pending := rfl
@[simp] theorem State.setGrnDie_sent (s : State) (q : MemDie) (x : GrnX) : (s.setGrnDie q x).sent = s.sent := rfl
@[simp] theorem State.setGrnDie_regs (s : State) (q : MemDie) (x : GrnX) : (s.setGrnDie q x).regs = s.regs := rfl
@[simp] theorem State.setGrnDie_mem (s : State) (q : MemDie) (x : GrnX) : (s.setGrnDie q x).mem = s.mem := rfl
@[simp] theorem State.setGrnDie_grnSyn (s : State) (q : MemDie) (x : GrnX) : (s.setGrnDie q x).grnSyn = s.grnSyn := rfl
@[simp] theorem State.setGrnDie_grnValid (s : State) (q : MemDie) (x : GrnX) : (s.setGrnDie q x).grnValid = s.grnValid := rfl
@[simp] theorem State.setGrnDie_hbmSyn (s : State) (q : MemDie) (x : GrnX) : (s.setGrnDie q x).hbmSyn = s.hbmSyn := rfl
@[simp] theorem State.setGrnDie_scrambled (s : State) (q : MemDie) (x : GrnX) : (s.setGrnDie q x).scrambled = s.scrambled := rfl
@[simp] theorem State.setGrnDie_sramErr (s : State) (q : MemDie) (x : GrnX) : (s.setGrnDie q x).sramErr = s.sramErr := rfl
@[simp] theorem State.setGrnDie_cores (s : State) (q : MemDie) (x : GrnX) : (s.setGrnDie q x).cores = s.cores := rfl
@[simp] theorem State.setGrnDie_dieFlags (s : State) (q : MemDie) (x : GrnX) : (s.setGrnDie q x).dieFlags = s.dieFlags := rfl
@[simp] theorem State.setGrnDie_devFlags (s : State) (q : MemDie) (x : GrnX) : (s.setGrnDie q x).devFlags = s.devFlags := rfl
@[simp] theorem State.setGrnDie_signals (s : State) (q : MemDie) (x : GrnX) : (s.setGrnDie q x).signals = s.signals := rfl
@[simp] theorem State.setGrnDie_waiters (s : State) (q : MemDie) (x : GrnX) : (s.setGrnDie q x).waiters = s.waiters := rfl
@[simp] theorem State.setGrnDie_ctrQueue (s : State) (q : MemDie) (x : GrnX) : (s.setGrnDie q x).ctrQueue = s.ctrQueue := rfl
@[simp] theorem State.setGrnDie_grnQueue (s : State) (q : MemDie) (x : GrnX) : (s.setGrnDie q x).grnQueue = s.grnQueue := rfl
@[simp] theorem State.setGrnDie_hbmQueue (s : State) (q : MemDie) (x : GrnX) : (s.setGrnDie q x).hbmQueue = s.hbmQueue := rfl
@[simp] theorem State.setGrnDie_hbm (s : State) (q : MemDie) (x : GrnX) : (s.setGrnDie q x).hbm = s.hbm := rfl
@[simp] theorem State.setGrnDie_groups (s : State) (q : MemDie) (x : GrnX) : (s.setGrnDie q x).groups = s.groups := rfl
@[simp] theorem State.setGrnDie_lifts (s : State) (q : MemDie) (x : GrnX) : (s.setGrnDie q x).lifts = s.lifts := rfl
@[simp] theorem State.setGrnDie_posts (s : State) (q : MemDie) (x : GrnX) : (s.setGrnDie q x).posts = s.posts := rfl
@[simp] theorem State.setGrnDie_parts (s : State) (q : MemDie) (x : GrnX) : (s.setGrnDie q x).parts = s.parts := rfl
@[simp] theorem State.setGrnDie_ports (s : State) (q : MemDie) (x : GrnX) : (s.setGrnDie q x).ports = s.ports := rfl
@[simp] theorem State.setGrnDie_net (s : State) (q : MemDie) (x : GrnX) : (s.setGrnDie q x).net = s.net := rfl
@[simp] theorem State.setGrnDie_fns (s : State) (q : MemDie) (x : GrnX) : (s.setGrnDie q x).fns = s.fns := rfl
@[simp] theorem State.setGrnDie_hub (s : State) (q : MemDie) (x : GrnX) : (s.setGrnDie q x).hub = s.hub := rfl
@[simp] theorem State.setGrnDie_fuses (s : State) (q : MemDie) (x : GrnX) : (s.setGrnDie q x).fuses = s.fuses := rfl
@[simp] theorem State.setGrnDie_flash (s : State) (q : MemDie) (x : GrnX) : (s.setGrnDie q x).flash = s.flash := rfl
@[simp] theorem State.setGrnDie_rot (s : State) (q : MemDie) (x : GrnX) : (s.setGrnDie q x).rot = s.rot := rfl
@[simp] theorem State.setGrnDie_pwr (s : State) (q : MemDie) (x : GrnX) : (s.setGrnDie q x).pwr = s.pwr := rfl
@[simp] theorem State.setGrnDie_errQueue (s : State) (q : MemDie) (x : GrnX) : (s.setGrnDie q x).errQueue = s.errQueue := rfl
@[simp] theorem State.setGrnDie_snaps (s : State) (q : MemDie) (x : GrnX) : (s.setGrnDie q x).snaps = s.snaps := rfl
@[simp] theorem State.setGrnDie_fresh (s : State) (q : MemDie) (x : GrnX) : (s.setGrnDie q x).fresh = s.fresh := rfl

/-! ### State.setStack -/

@[simp] theorem State.setStack_pending (s : State) (k : Stack) (x : HbmX) : (s.setStack k x).pending = s.pending := rfl
@[simp] theorem State.setStack_sent (s : State) (k : Stack) (x : HbmX) : (s.setStack k x).sent = s.sent := rfl
@[simp] theorem State.setStack_regs (s : State) (k : Stack) (x : HbmX) : (s.setStack k x).regs = s.regs := rfl
@[simp] theorem State.setStack_mem (s : State) (k : Stack) (x : HbmX) : (s.setStack k x).mem = s.mem := rfl
@[simp] theorem State.setStack_grnSyn (s : State) (k : Stack) (x : HbmX) : (s.setStack k x).grnSyn = s.grnSyn := rfl
@[simp] theorem State.setStack_grnValid (s : State) (k : Stack) (x : HbmX) : (s.setStack k x).grnValid = s.grnValid := rfl
@[simp] theorem State.setStack_hbmSyn (s : State) (k : Stack) (x : HbmX) : (s.setStack k x).hbmSyn = s.hbmSyn := rfl
@[simp] theorem State.setStack_scrambled (s : State) (k : Stack) (x : HbmX) : (s.setStack k x).scrambled = s.scrambled := rfl
@[simp] theorem State.setStack_sramErr (s : State) (k : Stack) (x : HbmX) : (s.setStack k x).sramErr = s.sramErr := rfl
@[simp] theorem State.setStack_cores (s : State) (k : Stack) (x : HbmX) : (s.setStack k x).cores = s.cores := rfl
@[simp] theorem State.setStack_dieFlags (s : State) (k : Stack) (x : HbmX) : (s.setStack k x).dieFlags = s.dieFlags := rfl
@[simp] theorem State.setStack_devFlags (s : State) (k : Stack) (x : HbmX) : (s.setStack k x).devFlags = s.devFlags := rfl
@[simp] theorem State.setStack_signals (s : State) (k : Stack) (x : HbmX) : (s.setStack k x).signals = s.signals := rfl
@[simp] theorem State.setStack_waiters (s : State) (k : Stack) (x : HbmX) : (s.setStack k x).waiters = s.waiters := rfl
@[simp] theorem State.setStack_ctrQueue (s : State) (k : Stack) (x : HbmX) : (s.setStack k x).ctrQueue = s.ctrQueue := rfl
@[simp] theorem State.setStack_grnQueue (s : State) (k : Stack) (x : HbmX) : (s.setStack k x).grnQueue = s.grnQueue := rfl
@[simp] theorem State.setStack_hbmQueue (s : State) (k : Stack) (x : HbmX) : (s.setStack k x).hbmQueue = s.hbmQueue := rfl
@[simp] theorem State.setStack_grn (s : State) (k : Stack) (x : HbmX) : (s.setStack k x).grn = s.grn := rfl
@[simp] theorem State.setStack_groups (s : State) (k : Stack) (x : HbmX) : (s.setStack k x).groups = s.groups := rfl
@[simp] theorem State.setStack_lifts (s : State) (k : Stack) (x : HbmX) : (s.setStack k x).lifts = s.lifts := rfl
@[simp] theorem State.setStack_posts (s : State) (k : Stack) (x : HbmX) : (s.setStack k x).posts = s.posts := rfl
@[simp] theorem State.setStack_parts (s : State) (k : Stack) (x : HbmX) : (s.setStack k x).parts = s.parts := rfl
@[simp] theorem State.setStack_ports (s : State) (k : Stack) (x : HbmX) : (s.setStack k x).ports = s.ports := rfl
@[simp] theorem State.setStack_net (s : State) (k : Stack) (x : HbmX) : (s.setStack k x).net = s.net := rfl
@[simp] theorem State.setStack_fns (s : State) (k : Stack) (x : HbmX) : (s.setStack k x).fns = s.fns := rfl
@[simp] theorem State.setStack_hub (s : State) (k : Stack) (x : HbmX) : (s.setStack k x).hub = s.hub := rfl
@[simp] theorem State.setStack_fuses (s : State) (k : Stack) (x : HbmX) : (s.setStack k x).fuses = s.fuses := rfl
@[simp] theorem State.setStack_flash (s : State) (k : Stack) (x : HbmX) : (s.setStack k x).flash = s.flash := rfl
@[simp] theorem State.setStack_rot (s : State) (k : Stack) (x : HbmX) : (s.setStack k x).rot = s.rot := rfl
@[simp] theorem State.setStack_pwr (s : State) (k : Stack) (x : HbmX) : (s.setStack k x).pwr = s.pwr := rfl
@[simp] theorem State.setStack_errQueue (s : State) (k : Stack) (x : HbmX) : (s.setStack k x).errQueue = s.errQueue := rfl
@[simp] theorem State.setStack_snaps (s : State) (k : Stack) (x : HbmX) : (s.setStack k x).snaps = s.snaps := rfl
@[simp] theorem State.setStack_fresh (s : State) (k : Stack) (x : HbmX) : (s.setStack k x).fresh = s.fresh := rfl

/-! ### State.setFn -/

@[simp] theorem State.setFn_pending (s : State) (f : Fn) (x : FnX) : (s.setFn f x).pending = s.pending := rfl
@[simp] theorem State.setFn_sent (s : State) (f : Fn) (x : FnX) : (s.setFn f x).sent = s.sent := rfl
@[simp] theorem State.setFn_regs (s : State) (f : Fn) (x : FnX) : (s.setFn f x).regs = s.regs := rfl
@[simp] theorem State.setFn_mem (s : State) (f : Fn) (x : FnX) : (s.setFn f x).mem = s.mem := rfl
@[simp] theorem State.setFn_grnSyn (s : State) (f : Fn) (x : FnX) : (s.setFn f x).grnSyn = s.grnSyn := rfl
@[simp] theorem State.setFn_grnValid (s : State) (f : Fn) (x : FnX) : (s.setFn f x).grnValid = s.grnValid := rfl
@[simp] theorem State.setFn_hbmSyn (s : State) (f : Fn) (x : FnX) : (s.setFn f x).hbmSyn = s.hbmSyn := rfl
@[simp] theorem State.setFn_scrambled (s : State) (f : Fn) (x : FnX) : (s.setFn f x).scrambled = s.scrambled := rfl
@[simp] theorem State.setFn_sramErr (s : State) (f : Fn) (x : FnX) : (s.setFn f x).sramErr = s.sramErr := rfl
@[simp] theorem State.setFn_cores (s : State) (f : Fn) (x : FnX) : (s.setFn f x).cores = s.cores := rfl
@[simp] theorem State.setFn_dieFlags (s : State) (f : Fn) (x : FnX) : (s.setFn f x).dieFlags = s.dieFlags := rfl
@[simp] theorem State.setFn_devFlags (s : State) (f : Fn) (x : FnX) : (s.setFn f x).devFlags = s.devFlags := rfl
@[simp] theorem State.setFn_signals (s : State) (f : Fn) (x : FnX) : (s.setFn f x).signals = s.signals := rfl
@[simp] theorem State.setFn_waiters (s : State) (f : Fn) (x : FnX) : (s.setFn f x).waiters = s.waiters := rfl
@[simp] theorem State.setFn_ctrQueue (s : State) (f : Fn) (x : FnX) : (s.setFn f x).ctrQueue = s.ctrQueue := rfl
@[simp] theorem State.setFn_grnQueue (s : State) (f : Fn) (x : FnX) : (s.setFn f x).grnQueue = s.grnQueue := rfl
@[simp] theorem State.setFn_hbmQueue (s : State) (f : Fn) (x : FnX) : (s.setFn f x).hbmQueue = s.hbmQueue := rfl
@[simp] theorem State.setFn_grn (s : State) (f : Fn) (x : FnX) : (s.setFn f x).grn = s.grn := rfl
@[simp] theorem State.setFn_hbm (s : State) (f : Fn) (x : FnX) : (s.setFn f x).hbm = s.hbm := rfl
@[simp] theorem State.setFn_groups (s : State) (f : Fn) (x : FnX) : (s.setFn f x).groups = s.groups := rfl
@[simp] theorem State.setFn_lifts (s : State) (f : Fn) (x : FnX) : (s.setFn f x).lifts = s.lifts := rfl
@[simp] theorem State.setFn_posts (s : State) (f : Fn) (x : FnX) : (s.setFn f x).posts = s.posts := rfl
@[simp] theorem State.setFn_parts (s : State) (f : Fn) (x : FnX) : (s.setFn f x).parts = s.parts := rfl
@[simp] theorem State.setFn_ports (s : State) (f : Fn) (x : FnX) : (s.setFn f x).ports = s.ports := rfl
@[simp] theorem State.setFn_net (s : State) (f : Fn) (x : FnX) : (s.setFn f x).net = s.net := rfl
@[simp] theorem State.setFn_hub (s : State) (f : Fn) (x : FnX) : (s.setFn f x).hub = s.hub := rfl
@[simp] theorem State.setFn_fuses (s : State) (f : Fn) (x : FnX) : (s.setFn f x).fuses = s.fuses := rfl
@[simp] theorem State.setFn_flash (s : State) (f : Fn) (x : FnX) : (s.setFn f x).flash = s.flash := rfl
@[simp] theorem State.setFn_rot (s : State) (f : Fn) (x : FnX) : (s.setFn f x).rot = s.rot := rfl
@[simp] theorem State.setFn_pwr (s : State) (f : Fn) (x : FnX) : (s.setFn f x).pwr = s.pwr := rfl
@[simp] theorem State.setFn_errQueue (s : State) (f : Fn) (x : FnX) : (s.setFn f x).errQueue = s.errQueue := rfl
@[simp] theorem State.setFn_snaps (s : State) (f : Fn) (x : FnX) : (s.setFn f x).snaps = s.snaps := rfl
@[simp] theorem State.setFn_fresh (s : State) (f : Fn) (x : FnX) : (s.setFn f x).fresh = s.fresh := rfl

/-! ### State.setSnap -/

@[simp] theorem State.setSnap_pending (s : State) (k : Nat) (x : SnapX) : (s.setSnap k x).pending = s.pending := rfl
@[simp] theorem State.setSnap_sent (s : State) (k : Nat) (x : SnapX) : (s.setSnap k x).sent = s.sent := rfl
@[simp] theorem State.setSnap_regs (s : State) (k : Nat) (x : SnapX) : (s.setSnap k x).regs = s.regs := rfl
@[simp] theorem State.setSnap_mem (s : State) (k : Nat) (x : SnapX) : (s.setSnap k x).mem = s.mem := rfl
@[simp] theorem State.setSnap_grnSyn (s : State) (k : Nat) (x : SnapX) : (s.setSnap k x).grnSyn = s.grnSyn := rfl
@[simp] theorem State.setSnap_grnValid (s : State) (k : Nat) (x : SnapX) : (s.setSnap k x).grnValid = s.grnValid := rfl
@[simp] theorem State.setSnap_hbmSyn (s : State) (k : Nat) (x : SnapX) : (s.setSnap k x).hbmSyn = s.hbmSyn := rfl
@[simp] theorem State.setSnap_scrambled (s : State) (k : Nat) (x : SnapX) : (s.setSnap k x).scrambled = s.scrambled := rfl
@[simp] theorem State.setSnap_sramErr (s : State) (k : Nat) (x : SnapX) : (s.setSnap k x).sramErr = s.sramErr := rfl
@[simp] theorem State.setSnap_cores (s : State) (k : Nat) (x : SnapX) : (s.setSnap k x).cores = s.cores := rfl
@[simp] theorem State.setSnap_dieFlags (s : State) (k : Nat) (x : SnapX) : (s.setSnap k x).dieFlags = s.dieFlags := rfl
@[simp] theorem State.setSnap_devFlags (s : State) (k : Nat) (x : SnapX) : (s.setSnap k x).devFlags = s.devFlags := rfl
@[simp] theorem State.setSnap_signals (s : State) (k : Nat) (x : SnapX) : (s.setSnap k x).signals = s.signals := rfl
@[simp] theorem State.setSnap_waiters (s : State) (k : Nat) (x : SnapX) : (s.setSnap k x).waiters = s.waiters := rfl
@[simp] theorem State.setSnap_ctrQueue (s : State) (k : Nat) (x : SnapX) : (s.setSnap k x).ctrQueue = s.ctrQueue := rfl
@[simp] theorem State.setSnap_grnQueue (s : State) (k : Nat) (x : SnapX) : (s.setSnap k x).grnQueue = s.grnQueue := rfl
@[simp] theorem State.setSnap_hbmQueue (s : State) (k : Nat) (x : SnapX) : (s.setSnap k x).hbmQueue = s.hbmQueue := rfl
@[simp] theorem State.setSnap_grn (s : State) (k : Nat) (x : SnapX) : (s.setSnap k x).grn = s.grn := rfl
@[simp] theorem State.setSnap_hbm (s : State) (k : Nat) (x : SnapX) : (s.setSnap k x).hbm = s.hbm := rfl
@[simp] theorem State.setSnap_groups (s : State) (k : Nat) (x : SnapX) : (s.setSnap k x).groups = s.groups := rfl
@[simp] theorem State.setSnap_lifts (s : State) (k : Nat) (x : SnapX) : (s.setSnap k x).lifts = s.lifts := rfl
@[simp] theorem State.setSnap_posts (s : State) (k : Nat) (x : SnapX) : (s.setSnap k x).posts = s.posts := rfl
@[simp] theorem State.setSnap_parts (s : State) (k : Nat) (x : SnapX) : (s.setSnap k x).parts = s.parts := rfl
@[simp] theorem State.setSnap_ports (s : State) (k : Nat) (x : SnapX) : (s.setSnap k x).ports = s.ports := rfl
@[simp] theorem State.setSnap_net (s : State) (k : Nat) (x : SnapX) : (s.setSnap k x).net = s.net := rfl
@[simp] theorem State.setSnap_fns (s : State) (k : Nat) (x : SnapX) : (s.setSnap k x).fns = s.fns := rfl
@[simp] theorem State.setSnap_hub (s : State) (k : Nat) (x : SnapX) : (s.setSnap k x).hub = s.hub := rfl
@[simp] theorem State.setSnap_fuses (s : State) (k : Nat) (x : SnapX) : (s.setSnap k x).fuses = s.fuses := rfl
@[simp] theorem State.setSnap_flash (s : State) (k : Nat) (x : SnapX) : (s.setSnap k x).flash = s.flash := rfl
@[simp] theorem State.setSnap_rot (s : State) (k : Nat) (x : SnapX) : (s.setSnap k x).rot = s.rot := rfl
@[simp] theorem State.setSnap_pwr (s : State) (k : Nat) (x : SnapX) : (s.setSnap k x).pwr = s.pwr := rfl
@[simp] theorem State.setSnap_errQueue (s : State) (k : Nat) (x : SnapX) : (s.setSnap k x).errQueue = s.errQueue := rfl
@[simp] theorem State.setSnap_fresh (s : State) (k : Nat) (x : SnapX) : (s.setSnap k x).fresh = s.fresh := rfl

/-! ### fset -/

@[simp] theorem fset_pending (s : State) (f : Field) (i v : Nat) : (fset s f i v).pending = s.pending := rfl
@[simp] theorem fset_sent (s : State) (f : Field) (i v : Nat) : (fset s f i v).sent = s.sent := rfl
@[simp] theorem fset_mem (s : State) (f : Field) (i v : Nat) : (fset s f i v).mem = s.mem := rfl
@[simp] theorem fset_grnSyn (s : State) (f : Field) (i v : Nat) : (fset s f i v).grnSyn = s.grnSyn := rfl
@[simp] theorem fset_grnValid (s : State) (f : Field) (i v : Nat) : (fset s f i v).grnValid = s.grnValid := rfl
@[simp] theorem fset_hbmSyn (s : State) (f : Field) (i v : Nat) : (fset s f i v).hbmSyn = s.hbmSyn := rfl
@[simp] theorem fset_scrambled (s : State) (f : Field) (i v : Nat) : (fset s f i v).scrambled = s.scrambled := rfl
@[simp] theorem fset_sramErr (s : State) (f : Field) (i v : Nat) : (fset s f i v).sramErr = s.sramErr := rfl
@[simp] theorem fset_cores (s : State) (f : Field) (i v : Nat) : (fset s f i v).cores = s.cores := rfl
@[simp] theorem fset_dieFlags (s : State) (f : Field) (i v : Nat) : (fset s f i v).dieFlags = s.dieFlags := rfl
@[simp] theorem fset_devFlags (s : State) (f : Field) (i v : Nat) : (fset s f i v).devFlags = s.devFlags := rfl
@[simp] theorem fset_signals (s : State) (f : Field) (i v : Nat) : (fset s f i v).signals = s.signals := rfl
@[simp] theorem fset_waiters (s : State) (f : Field) (i v : Nat) : (fset s f i v).waiters = s.waiters := rfl
@[simp] theorem fset_ctrQueue (s : State) (f : Field) (i v : Nat) : (fset s f i v).ctrQueue = s.ctrQueue := rfl
@[simp] theorem fset_grnQueue (s : State) (f : Field) (i v : Nat) : (fset s f i v).grnQueue = s.grnQueue := rfl
@[simp] theorem fset_hbmQueue (s : State) (f : Field) (i v : Nat) : (fset s f i v).hbmQueue = s.hbmQueue := rfl
@[simp] theorem fset_grn (s : State) (f : Field) (i v : Nat) : (fset s f i v).grn = s.grn := rfl
@[simp] theorem fset_hbm (s : State) (f : Field) (i v : Nat) : (fset s f i v).hbm = s.hbm := rfl
@[simp] theorem fset_groups (s : State) (f : Field) (i v : Nat) : (fset s f i v).groups = s.groups := rfl
@[simp] theorem fset_lifts (s : State) (f : Field) (i v : Nat) : (fset s f i v).lifts = s.lifts := rfl
@[simp] theorem fset_posts (s : State) (f : Field) (i v : Nat) : (fset s f i v).posts = s.posts := rfl
@[simp] theorem fset_parts (s : State) (f : Field) (i v : Nat) : (fset s f i v).parts = s.parts := rfl
@[simp] theorem fset_ports (s : State) (f : Field) (i v : Nat) : (fset s f i v).ports = s.ports := rfl
@[simp] theorem fset_net (s : State) (f : Field) (i v : Nat) : (fset s f i v).net = s.net := rfl
@[simp] theorem fset_fns (s : State) (f : Field) (i v : Nat) : (fset s f i v).fns = s.fns := rfl
@[simp] theorem fset_hub (s : State) (f : Field) (i v : Nat) : (fset s f i v).hub = s.hub := rfl
@[simp] theorem fset_fuses (s : State) (f : Field) (i v : Nat) : (fset s f i v).fuses = s.fuses := rfl
@[simp] theorem fset_flash (s : State) (f : Field) (i v : Nat) : (fset s f i v).flash = s.flash := rfl
@[simp] theorem fset_rot (s : State) (f : Field) (i v : Nat) : (fset s f i v).rot = s.rot := rfl
@[simp] theorem fset_pwr (s : State) (f : Field) (i v : Nat) : (fset s f i v).pwr = s.pwr := rfl
@[simp] theorem fset_errQueue (s : State) (f : Field) (i v : Nat) : (fset s f i v).errQueue = s.errQueue := rfl
@[simp] theorem fset_snaps (s : State) (f : Field) (i v : Nat) : (fset s f i v).snaps = s.snaps := rfl
@[simp] theorem fset_fresh (s : State) (f : Field) (i v : Nat) : (fset s f i v).fresh = s.fresh := rfl

/-! ### fclear -/

@[simp] theorem fclear_pending (s : State) (f : Field) (i : Nat) : (fclear s f i).pending = s.pending := rfl
@[simp] theorem fclear_sent (s : State) (f : Field) (i : Nat) : (fclear s f i).sent = s.sent := rfl
@[simp] theorem fclear_mem (s : State) (f : Field) (i : Nat) : (fclear s f i).mem = s.mem := rfl
@[simp] theorem fclear_grnSyn (s : State) (f : Field) (i : Nat) : (fclear s f i).grnSyn = s.grnSyn := rfl
@[simp] theorem fclear_grnValid (s : State) (f : Field) (i : Nat) : (fclear s f i).grnValid = s.grnValid := rfl
@[simp] theorem fclear_hbmSyn (s : State) (f : Field) (i : Nat) : (fclear s f i).hbmSyn = s.hbmSyn := rfl
@[simp] theorem fclear_scrambled (s : State) (f : Field) (i : Nat) : (fclear s f i).scrambled = s.scrambled := rfl
@[simp] theorem fclear_sramErr (s : State) (f : Field) (i : Nat) : (fclear s f i).sramErr = s.sramErr := rfl
@[simp] theorem fclear_cores (s : State) (f : Field) (i : Nat) : (fclear s f i).cores = s.cores := rfl
@[simp] theorem fclear_dieFlags (s : State) (f : Field) (i : Nat) : (fclear s f i).dieFlags = s.dieFlags := rfl
@[simp] theorem fclear_devFlags (s : State) (f : Field) (i : Nat) : (fclear s f i).devFlags = s.devFlags := rfl
@[simp] theorem fclear_signals (s : State) (f : Field) (i : Nat) : (fclear s f i).signals = s.signals := rfl
@[simp] theorem fclear_waiters (s : State) (f : Field) (i : Nat) : (fclear s f i).waiters = s.waiters := rfl
@[simp] theorem fclear_ctrQueue (s : State) (f : Field) (i : Nat) : (fclear s f i).ctrQueue = s.ctrQueue := rfl
@[simp] theorem fclear_grnQueue (s : State) (f : Field) (i : Nat) : (fclear s f i).grnQueue = s.grnQueue := rfl
@[simp] theorem fclear_hbmQueue (s : State) (f : Field) (i : Nat) : (fclear s f i).hbmQueue = s.hbmQueue := rfl
@[simp] theorem fclear_grn (s : State) (f : Field) (i : Nat) : (fclear s f i).grn = s.grn := rfl
@[simp] theorem fclear_hbm (s : State) (f : Field) (i : Nat) : (fclear s f i).hbm = s.hbm := rfl
@[simp] theorem fclear_groups (s : State) (f : Field) (i : Nat) : (fclear s f i).groups = s.groups := rfl
@[simp] theorem fclear_lifts (s : State) (f : Field) (i : Nat) : (fclear s f i).lifts = s.lifts := rfl
@[simp] theorem fclear_posts (s : State) (f : Field) (i : Nat) : (fclear s f i).posts = s.posts := rfl
@[simp] theorem fclear_parts (s : State) (f : Field) (i : Nat) : (fclear s f i).parts = s.parts := rfl
@[simp] theorem fclear_ports (s : State) (f : Field) (i : Nat) : (fclear s f i).ports = s.ports := rfl
@[simp] theorem fclear_net (s : State) (f : Field) (i : Nat) : (fclear s f i).net = s.net := rfl
@[simp] theorem fclear_fns (s : State) (f : Field) (i : Nat) : (fclear s f i).fns = s.fns := rfl
@[simp] theorem fclear_hub (s : State) (f : Field) (i : Nat) : (fclear s f i).hub = s.hub := rfl
@[simp] theorem fclear_fuses (s : State) (f : Field) (i : Nat) : (fclear s f i).fuses = s.fuses := rfl
@[simp] theorem fclear_flash (s : State) (f : Field) (i : Nat) : (fclear s f i).flash = s.flash := rfl
@[simp] theorem fclear_rot (s : State) (f : Field) (i : Nat) : (fclear s f i).rot = s.rot := rfl
@[simp] theorem fclear_pwr (s : State) (f : Field) (i : Nat) : (fclear s f i).pwr = s.pwr := rfl
@[simp] theorem fclear_errQueue (s : State) (f : Field) (i : Nat) : (fclear s f i).errQueue = s.errQueue := rfl
@[simp] theorem fclear_snaps (s : State) (f : Field) (i : Nat) : (fclear s f i).snaps = s.snaps := rfl
@[simp] theorem fclear_fresh (s : State) (f : Field) (i : Nat) : (fclear s f i).fresh = s.fresh := rfl

/-! ### fbump -/

@[simp] theorem fbump_pending (s : State) (f : Field) (i n : Nat) : (fbump s f i n).pending = s.pending := rfl
@[simp] theorem fbump_sent (s : State) (f : Field) (i n : Nat) : (fbump s f i n).sent = s.sent := rfl
@[simp] theorem fbump_mem (s : State) (f : Field) (i n : Nat) : (fbump s f i n).mem = s.mem := rfl
@[simp] theorem fbump_grnSyn (s : State) (f : Field) (i n : Nat) : (fbump s f i n).grnSyn = s.grnSyn := rfl
@[simp] theorem fbump_grnValid (s : State) (f : Field) (i n : Nat) : (fbump s f i n).grnValid = s.grnValid := rfl
@[simp] theorem fbump_hbmSyn (s : State) (f : Field) (i n : Nat) : (fbump s f i n).hbmSyn = s.hbmSyn := rfl
@[simp] theorem fbump_scrambled (s : State) (f : Field) (i n : Nat) : (fbump s f i n).scrambled = s.scrambled := rfl
@[simp] theorem fbump_sramErr (s : State) (f : Field) (i n : Nat) : (fbump s f i n).sramErr = s.sramErr := rfl
@[simp] theorem fbump_cores (s : State) (f : Field) (i n : Nat) : (fbump s f i n).cores = s.cores := rfl
@[simp] theorem fbump_dieFlags (s : State) (f : Field) (i n : Nat) : (fbump s f i n).dieFlags = s.dieFlags := rfl
@[simp] theorem fbump_devFlags (s : State) (f : Field) (i n : Nat) : (fbump s f i n).devFlags = s.devFlags := rfl
@[simp] theorem fbump_signals (s : State) (f : Field) (i n : Nat) : (fbump s f i n).signals = s.signals := rfl
@[simp] theorem fbump_waiters (s : State) (f : Field) (i n : Nat) : (fbump s f i n).waiters = s.waiters := rfl
@[simp] theorem fbump_ctrQueue (s : State) (f : Field) (i n : Nat) : (fbump s f i n).ctrQueue = s.ctrQueue := rfl
@[simp] theorem fbump_grnQueue (s : State) (f : Field) (i n : Nat) : (fbump s f i n).grnQueue = s.grnQueue := rfl
@[simp] theorem fbump_hbmQueue (s : State) (f : Field) (i n : Nat) : (fbump s f i n).hbmQueue = s.hbmQueue := rfl
@[simp] theorem fbump_grn (s : State) (f : Field) (i n : Nat) : (fbump s f i n).grn = s.grn := rfl
@[simp] theorem fbump_hbm (s : State) (f : Field) (i n : Nat) : (fbump s f i n).hbm = s.hbm := rfl
@[simp] theorem fbump_groups (s : State) (f : Field) (i n : Nat) : (fbump s f i n).groups = s.groups := rfl
@[simp] theorem fbump_lifts (s : State) (f : Field) (i n : Nat) : (fbump s f i n).lifts = s.lifts := rfl
@[simp] theorem fbump_posts (s : State) (f : Field) (i n : Nat) : (fbump s f i n).posts = s.posts := rfl
@[simp] theorem fbump_parts (s : State) (f : Field) (i n : Nat) : (fbump s f i n).parts = s.parts := rfl
@[simp] theorem fbump_ports (s : State) (f : Field) (i n : Nat) : (fbump s f i n).ports = s.ports := rfl
@[simp] theorem fbump_net (s : State) (f : Field) (i n : Nat) : (fbump s f i n).net = s.net := rfl
@[simp] theorem fbump_fns (s : State) (f : Field) (i n : Nat) : (fbump s f i n).fns = s.fns := rfl
@[simp] theorem fbump_hub (s : State) (f : Field) (i n : Nat) : (fbump s f i n).hub = s.hub := rfl
@[simp] theorem fbump_fuses (s : State) (f : Field) (i n : Nat) : (fbump s f i n).fuses = s.fuses := rfl
@[simp] theorem fbump_flash (s : State) (f : Field) (i n : Nat) : (fbump s f i n).flash = s.flash := rfl
@[simp] theorem fbump_rot (s : State) (f : Field) (i n : Nat) : (fbump s f i n).rot = s.rot := rfl
@[simp] theorem fbump_pwr (s : State) (f : Field) (i n : Nat) : (fbump s f i n).pwr = s.pwr := rfl
@[simp] theorem fbump_errQueue (s : State) (f : Field) (i n : Nat) : (fbump s f i n).errQueue = s.errQueue := rfl
@[simp] theorem fbump_snaps (s : State) (f : Field) (i n : Nat) : (fbump s f i n).snaps = s.snaps := rfl
@[simp] theorem fbump_fresh (s : State) (f : Field) (i n : Nat) : (fbump s f i n).fresh = s.fresh := rfl

/-! ### mset -/

@[simp] theorem mset_pending (s : State) (a : Nat) (b : Byte) : (mset s a b).pending = s.pending := rfl
@[simp] theorem mset_sent (s : State) (a : Nat) (b : Byte) : (mset s a b).sent = s.sent := rfl
@[simp] theorem mset_regs (s : State) (a : Nat) (b : Byte) : (mset s a b).regs = s.regs := rfl
@[simp] theorem mset_grnSyn (s : State) (a : Nat) (b : Byte) : (mset s a b).grnSyn = s.grnSyn := rfl
@[simp] theorem mset_grnValid (s : State) (a : Nat) (b : Byte) : (mset s a b).grnValid = s.grnValid := rfl
@[simp] theorem mset_hbmSyn (s : State) (a : Nat) (b : Byte) : (mset s a b).hbmSyn = s.hbmSyn := rfl
@[simp] theorem mset_scrambled (s : State) (a : Nat) (b : Byte) : (mset s a b).scrambled = s.scrambled := rfl
@[simp] theorem mset_sramErr (s : State) (a : Nat) (b : Byte) : (mset s a b).sramErr = s.sramErr := rfl
@[simp] theorem mset_cores (s : State) (a : Nat) (b : Byte) : (mset s a b).cores = s.cores := rfl
@[simp] theorem mset_dieFlags (s : State) (a : Nat) (b : Byte) : (mset s a b).dieFlags = s.dieFlags := rfl
@[simp] theorem mset_devFlags (s : State) (a : Nat) (b : Byte) : (mset s a b).devFlags = s.devFlags := rfl
@[simp] theorem mset_signals (s : State) (a : Nat) (b : Byte) : (mset s a b).signals = s.signals := rfl
@[simp] theorem mset_waiters (s : State) (a : Nat) (b : Byte) : (mset s a b).waiters = s.waiters := rfl
@[simp] theorem mset_ctrQueue (s : State) (a : Nat) (b : Byte) : (mset s a b).ctrQueue = s.ctrQueue := rfl
@[simp] theorem mset_grnQueue (s : State) (a : Nat) (b : Byte) : (mset s a b).grnQueue = s.grnQueue := rfl
@[simp] theorem mset_hbmQueue (s : State) (a : Nat) (b : Byte) : (mset s a b).hbmQueue = s.hbmQueue := rfl
@[simp] theorem mset_grn (s : State) (a : Nat) (b : Byte) : (mset s a b).grn = s.grn := rfl
@[simp] theorem mset_hbm (s : State) (a : Nat) (b : Byte) : (mset s a b).hbm = s.hbm := rfl
@[simp] theorem mset_groups (s : State) (a : Nat) (b : Byte) : (mset s a b).groups = s.groups := rfl
@[simp] theorem mset_lifts (s : State) (a : Nat) (b : Byte) : (mset s a b).lifts = s.lifts := rfl
@[simp] theorem mset_posts (s : State) (a : Nat) (b : Byte) : (mset s a b).posts = s.posts := rfl
@[simp] theorem mset_parts (s : State) (a : Nat) (b : Byte) : (mset s a b).parts = s.parts := rfl
@[simp] theorem mset_ports (s : State) (a : Nat) (b : Byte) : (mset s a b).ports = s.ports := rfl
@[simp] theorem mset_net (s : State) (a : Nat) (b : Byte) : (mset s a b).net = s.net := rfl
@[simp] theorem mset_fns (s : State) (a : Nat) (b : Byte) : (mset s a b).fns = s.fns := rfl
@[simp] theorem mset_hub (s : State) (a : Nat) (b : Byte) : (mset s a b).hub = s.hub := rfl
@[simp] theorem mset_fuses (s : State) (a : Nat) (b : Byte) : (mset s a b).fuses = s.fuses := rfl
@[simp] theorem mset_flash (s : State) (a : Nat) (b : Byte) : (mset s a b).flash = s.flash := rfl
@[simp] theorem mset_rot (s : State) (a : Nat) (b : Byte) : (mset s a b).rot = s.rot := rfl
@[simp] theorem mset_pwr (s : State) (a : Nat) (b : Byte) : (mset s a b).pwr = s.pwr := rfl
@[simp] theorem mset_errQueue (s : State) (a : Nat) (b : Byte) : (mset s a b).errQueue = s.errQueue := rfl
@[simp] theorem mset_snaps (s : State) (a : Nat) (b : Byte) : (mset s a b).snaps = s.snaps := rfl
@[simp] theorem mset_fresh (s : State) (a : Nat) (b : Byte) : (mset s a b).fresh = s.fresh := rfl

/-! ### mput -/

@[simp] theorem mput_pending (s : State) (l : List Host.Cell) : (mput s l).pending = s.pending := rfl
@[simp] theorem mput_sent (s : State) (l : List Host.Cell) : (mput s l).sent = s.sent := rfl
@[simp] theorem mput_regs (s : State) (l : List Host.Cell) : (mput s l).regs = s.regs := rfl
@[simp] theorem mput_grnSyn (s : State) (l : List Host.Cell) : (mput s l).grnSyn = s.grnSyn := rfl
@[simp] theorem mput_grnValid (s : State) (l : List Host.Cell) : (mput s l).grnValid = s.grnValid := rfl
@[simp] theorem mput_hbmSyn (s : State) (l : List Host.Cell) : (mput s l).hbmSyn = s.hbmSyn := rfl
@[simp] theorem mput_scrambled (s : State) (l : List Host.Cell) : (mput s l).scrambled = s.scrambled := rfl
@[simp] theorem mput_sramErr (s : State) (l : List Host.Cell) : (mput s l).sramErr = s.sramErr := rfl
@[simp] theorem mput_cores (s : State) (l : List Host.Cell) : (mput s l).cores = s.cores := rfl
@[simp] theorem mput_dieFlags (s : State) (l : List Host.Cell) : (mput s l).dieFlags = s.dieFlags := rfl
@[simp] theorem mput_devFlags (s : State) (l : List Host.Cell) : (mput s l).devFlags = s.devFlags := rfl
@[simp] theorem mput_signals (s : State) (l : List Host.Cell) : (mput s l).signals = s.signals := rfl
@[simp] theorem mput_waiters (s : State) (l : List Host.Cell) : (mput s l).waiters = s.waiters := rfl
@[simp] theorem mput_ctrQueue (s : State) (l : List Host.Cell) : (mput s l).ctrQueue = s.ctrQueue := rfl
@[simp] theorem mput_grnQueue (s : State) (l : List Host.Cell) : (mput s l).grnQueue = s.grnQueue := rfl
@[simp] theorem mput_hbmQueue (s : State) (l : List Host.Cell) : (mput s l).hbmQueue = s.hbmQueue := rfl
@[simp] theorem mput_grn (s : State) (l : List Host.Cell) : (mput s l).grn = s.grn := rfl
@[simp] theorem mput_hbm (s : State) (l : List Host.Cell) : (mput s l).hbm = s.hbm := rfl
@[simp] theorem mput_groups (s : State) (l : List Host.Cell) : (mput s l).groups = s.groups := rfl
@[simp] theorem mput_lifts (s : State) (l : List Host.Cell) : (mput s l).lifts = s.lifts := rfl
@[simp] theorem mput_posts (s : State) (l : List Host.Cell) : (mput s l).posts = s.posts := rfl
@[simp] theorem mput_parts (s : State) (l : List Host.Cell) : (mput s l).parts = s.parts := rfl
@[simp] theorem mput_ports (s : State) (l : List Host.Cell) : (mput s l).ports = s.ports := rfl
@[simp] theorem mput_net (s : State) (l : List Host.Cell) : (mput s l).net = s.net := rfl
@[simp] theorem mput_fns (s : State) (l : List Host.Cell) : (mput s l).fns = s.fns := rfl
@[simp] theorem mput_hub (s : State) (l : List Host.Cell) : (mput s l).hub = s.hub := rfl
@[simp] theorem mput_fuses (s : State) (l : List Host.Cell) : (mput s l).fuses = s.fuses := rfl
@[simp] theorem mput_flash (s : State) (l : List Host.Cell) : (mput s l).flash = s.flash := rfl
@[simp] theorem mput_rot (s : State) (l : List Host.Cell) : (mput s l).rot = s.rot := rfl
@[simp] theorem mput_pwr (s : State) (l : List Host.Cell) : (mput s l).pwr = s.pwr := rfl
@[simp] theorem mput_errQueue (s : State) (l : List Host.Cell) : (mput s l).errQueue = s.errQueue := rfl
@[simp] theorem mput_snaps (s : State) (l : List Host.Cell) : (mput s l).snaps = s.snaps := rfl
@[simp] theorem mput_fresh (s : State) (l : List Host.Cell) : (mput s l).fresh = s.fresh := rfl

/-! ### emit -/

@[simp] theorem emit_pending (s : State) (o : Out) : (emit s o).pending = s.pending := rfl
@[simp] theorem emit_regs (s : State) (o : Out) : (emit s o).regs = s.regs := rfl
@[simp] theorem emit_mem (s : State) (o : Out) : (emit s o).mem = s.mem := rfl
@[simp] theorem emit_grnSyn (s : State) (o : Out) : (emit s o).grnSyn = s.grnSyn := rfl
@[simp] theorem emit_grnValid (s : State) (o : Out) : (emit s o).grnValid = s.grnValid := rfl
@[simp] theorem emit_hbmSyn (s : State) (o : Out) : (emit s o).hbmSyn = s.hbmSyn := rfl
@[simp] theorem emit_scrambled (s : State) (o : Out) : (emit s o).scrambled = s.scrambled := rfl
@[simp] theorem emit_sramErr (s : State) (o : Out) : (emit s o).sramErr = s.sramErr := rfl
@[simp] theorem emit_cores (s : State) (o : Out) : (emit s o).cores = s.cores := rfl
@[simp] theorem emit_dieFlags (s : State) (o : Out) : (emit s o).dieFlags = s.dieFlags := rfl
@[simp] theorem emit_devFlags (s : State) (o : Out) : (emit s o).devFlags = s.devFlags := rfl
@[simp] theorem emit_signals (s : State) (o : Out) : (emit s o).signals = s.signals := rfl
@[simp] theorem emit_waiters (s : State) (o : Out) : (emit s o).waiters = s.waiters := rfl
@[simp] theorem emit_ctrQueue (s : State) (o : Out) : (emit s o).ctrQueue = s.ctrQueue := rfl
@[simp] theorem emit_grnQueue (s : State) (o : Out) : (emit s o).grnQueue = s.grnQueue := rfl
@[simp] theorem emit_hbmQueue (s : State) (o : Out) : (emit s o).hbmQueue = s.hbmQueue := rfl
@[simp] theorem emit_grn (s : State) (o : Out) : (emit s o).grn = s.grn := rfl
@[simp] theorem emit_hbm (s : State) (o : Out) : (emit s o).hbm = s.hbm := rfl
@[simp] theorem emit_groups (s : State) (o : Out) : (emit s o).groups = s.groups := rfl
@[simp] theorem emit_lifts (s : State) (o : Out) : (emit s o).lifts = s.lifts := rfl
@[simp] theorem emit_posts (s : State) (o : Out) : (emit s o).posts = s.posts := rfl
@[simp] theorem emit_parts (s : State) (o : Out) : (emit s o).parts = s.parts := rfl
@[simp] theorem emit_ports (s : State) (o : Out) : (emit s o).ports = s.ports := rfl
@[simp] theorem emit_net (s : State) (o : Out) : (emit s o).net = s.net := rfl
@[simp] theorem emit_fns (s : State) (o : Out) : (emit s o).fns = s.fns := rfl
@[simp] theorem emit_hub (s : State) (o : Out) : (emit s o).hub = s.hub := rfl
@[simp] theorem emit_fuses (s : State) (o : Out) : (emit s o).fuses = s.fuses := rfl
@[simp] theorem emit_flash (s : State) (o : Out) : (emit s o).flash = s.flash := rfl
@[simp] theorem emit_rot (s : State) (o : Out) : (emit s o).rot = s.rot := rfl
@[simp] theorem emit_pwr (s : State) (o : Out) : (emit s o).pwr = s.pwr := rfl
@[simp] theorem emit_errQueue (s : State) (o : Out) : (emit s o).errQueue = s.errQueue := rfl
@[simp] theorem emit_snaps (s : State) (o : Out) : (emit s o).snaps = s.snaps := rfl
@[simp] theorem emit_fresh (s : State) (o : Out) : (emit s o).fresh = s.fresh := rfl

/-! ### A part after an update of the same kind -/

@[simp] theorem State.core_setCore_same (s : State) (c : Core) (x : CoreX) : (s.setCore c x).core c = x := by
  simp [State.core, State.setCore]
theorem State.core_setCore_other (s : State) {c j : Core} (x : CoreX) (h : j ≠ c) : (s.setCore c x).core j = s.core j := by
  simp only [State.core, State.setCore]
  exact tget_tset_other _ _ _ fun e => h (Fin.ext e)
@[simp] theorem State.part_setPart_same (s : State) (p : Part) (x : PartX) : (s.setPart p x).part p = x := by
  simp [State.part, State.setPart]
theorem State.part_setPart_other (s : State) {p j : Part} (x : PartX) (h : j ≠ p) : (s.setPart p x).part j = s.part j := by
  simp only [State.part, State.setPart]
  exact tget_tset_other _ _ _ fun e => h (Fin.ext e)
@[simp] theorem State.group_setGroup_same (s : State) (g : Group) (x : GroupX) : (s.setGroup g x).group g = x := by
  simp [State.group, State.setGroup]
theorem State.group_setGroup_other (s : State) {g j : Group} (x : GroupX) (h : j ≠ g) : (s.setGroup g x).group j = s.group j := by
  simp only [State.group, State.setGroup]
  exact tget_tset_other _ _ _ fun e => h (Fin.ext e)
@[simp] theorem State.port_setPort_same (s : State) (n : Port) (x : PortX) : (s.setPort n x).port n = x := by
  simp [State.port, State.setPort]
theorem State.port_setPort_other (s : State) {n j : Port} (x : PortX) (h : j ≠ n) : (s.setPort n x).port j = s.port j := by
  simp only [State.port, State.setPort]
  exact tget_tset_other _ _ _ fun e => h (Fin.ext e)
@[simp] theorem State.grnDie_setGrnDie_same (s : State) (q : MemDie) (x : GrnX) : (s.setGrnDie q x).grnDie q = x := by
  simp [State.grnDie, State.setGrnDie]
theorem State.grnDie_setGrnDie_other (s : State) {q j : MemDie} (x : GrnX) (h : j ≠ q) : (s.setGrnDie q x).grnDie j = s.grnDie j := by
  simp only [State.grnDie, State.setGrnDie]
  exact tget_tset_other _ _ _ fun e => h (Fin.ext e)
@[simp] theorem State.stack_setStack_same (s : State) (k : Stack) (x : HbmX) : (s.setStack k x).stack k = x := by
  simp [State.stack, State.setStack]
theorem State.stack_setStack_other (s : State) {k j : Stack} (x : HbmX) (h : j ≠ k) : (s.setStack k x).stack j = s.stack j := by
  simp only [State.stack, State.setStack]
  exact tget_tset_other _ _ _ fun e => h (Fin.ext e)
@[simp] theorem State.fn_setFn_same (s : State) (f : Fn) (x : FnX) : (s.setFn f x).fn f = x := by
  simp [State.fn, State.setFn]
theorem State.fn_setFn_other (s : State) {f j : Fn} (x : FnX) (h : j ≠ f) : (s.setFn f x).fn j = s.fn j := by
  simp only [State.fn, State.setFn]
  exact tget_tset_other _ _ _ fun e => h (Fin.ext e)
@[simp] theorem State.snap_setSnap_same (s : State) (k : Nat) (x : SnapX) : (s.setSnap k x).snap k = x := by
  simp [State.snap, State.setSnap]
theorem State.snap_setSnap_other (s : State) {k j : Nat} (x : SnapX) (h : j ≠ k) : (s.setSnap k x).snap j = s.snap j := by
  simp only [State.snap, State.setSnap]
  exact tget_tset_other _ _ _ h

/-! ### A part after an update of another kind -/

@[simp] theorem State.setCore_part (s : State) (c : Core) (x : CoreX) (j : Part) : (s.setCore c x).part j = s.part j := rfl
@[simp] theorem State.setCore_group (s : State) (c : Core) (x : CoreX) (j : Group) : (s.setCore c x).group j = s.group j := rfl
@[simp] theorem State.setCore_port (s : State) (c : Core) (x : CoreX) (j : Port) : (s.setCore c x).port j = s.port j := rfl
@[simp] theorem State.setCore_grnDie (s : State) (c : Core) (x : CoreX) (j : MemDie) : (s.setCore c x).grnDie j = s.grnDie j := rfl
@[simp] theorem State.setCore_stack (s : State) (c : Core) (x : CoreX) (j : Stack) : (s.setCore c x).stack j = s.stack j := rfl
@[simp] theorem State.setCore_fn (s : State) (c : Core) (x : CoreX) (j : Fn) : (s.setCore c x).fn j = s.fn j := rfl
@[simp] theorem fget_setCore (s : State) (c : Core) (x : CoreX) (f' : Field) (i' : Nat) : fget (s.setCore c x) f' i' = fget s f' i' := rfl
@[simp] theorem mget_setCore (s : State) (c : Core) (x : CoreX) (a' : Nat) : mget (s.setCore c x) a' = mget s a' := rfl
@[simp] theorem State.setPart_core (s : State) (p : Part) (x : PartX) (j : Core) : (s.setPart p x).core j = s.core j := rfl
@[simp] theorem State.setPart_group (s : State) (p : Part) (x : PartX) (j : Group) : (s.setPart p x).group j = s.group j := rfl
@[simp] theorem State.setPart_port (s : State) (p : Part) (x : PartX) (j : Port) : (s.setPart p x).port j = s.port j := rfl
@[simp] theorem State.setPart_grnDie (s : State) (p : Part) (x : PartX) (j : MemDie) : (s.setPart p x).grnDie j = s.grnDie j := rfl
@[simp] theorem State.setPart_stack (s : State) (p : Part) (x : PartX) (j : Stack) : (s.setPart p x).stack j = s.stack j := rfl
@[simp] theorem State.setPart_fn (s : State) (p : Part) (x : PartX) (j : Fn) : (s.setPart p x).fn j = s.fn j := rfl
@[simp] theorem fget_setPart (s : State) (p : Part) (x : PartX) (f' : Field) (i' : Nat) : fget (s.setPart p x) f' i' = fget s f' i' := rfl
@[simp] theorem mget_setPart (s : State) (p : Part) (x : PartX) (a' : Nat) : mget (s.setPart p x) a' = mget s a' := rfl
@[simp] theorem State.setGroup_core (s : State) (g : Group) (x : GroupX) (j : Core) : (s.setGroup g x).core j = s.core j := rfl
@[simp] theorem State.setGroup_part (s : State) (g : Group) (x : GroupX) (j : Part) : (s.setGroup g x).part j = s.part j := rfl
@[simp] theorem State.setGroup_port (s : State) (g : Group) (x : GroupX) (j : Port) : (s.setGroup g x).port j = s.port j := rfl
@[simp] theorem State.setGroup_grnDie (s : State) (g : Group) (x : GroupX) (j : MemDie) : (s.setGroup g x).grnDie j = s.grnDie j := rfl
@[simp] theorem State.setGroup_stack (s : State) (g : Group) (x : GroupX) (j : Stack) : (s.setGroup g x).stack j = s.stack j := rfl
@[simp] theorem State.setGroup_fn (s : State) (g : Group) (x : GroupX) (j : Fn) : (s.setGroup g x).fn j = s.fn j := rfl
@[simp] theorem fget_setGroup (s : State) (g : Group) (x : GroupX) (f' : Field) (i' : Nat) : fget (s.setGroup g x) f' i' = fget s f' i' := rfl
@[simp] theorem mget_setGroup (s : State) (g : Group) (x : GroupX) (a' : Nat) : mget (s.setGroup g x) a' = mget s a' := rfl
@[simp] theorem State.setPort_core (s : State) (n : Port) (x : PortX) (j : Core) : (s.setPort n x).core j = s.core j := rfl
@[simp] theorem State.setPort_part (s : State) (n : Port) (x : PortX) (j : Part) : (s.setPort n x).part j = s.part j := rfl
@[simp] theorem State.setPort_group (s : State) (n : Port) (x : PortX) (j : Group) : (s.setPort n x).group j = s.group j := rfl
@[simp] theorem State.setPort_grnDie (s : State) (n : Port) (x : PortX) (j : MemDie) : (s.setPort n x).grnDie j = s.grnDie j := rfl
@[simp] theorem State.setPort_stack (s : State) (n : Port) (x : PortX) (j : Stack) : (s.setPort n x).stack j = s.stack j := rfl
@[simp] theorem State.setPort_fn (s : State) (n : Port) (x : PortX) (j : Fn) : (s.setPort n x).fn j = s.fn j := rfl
@[simp] theorem fget_setPort (s : State) (n : Port) (x : PortX) (f' : Field) (i' : Nat) : fget (s.setPort n x) f' i' = fget s f' i' := rfl
@[simp] theorem mget_setPort (s : State) (n : Port) (x : PortX) (a' : Nat) : mget (s.setPort n x) a' = mget s a' := rfl
@[simp] theorem State.setGrnDie_core (s : State) (q : MemDie) (x : GrnX) (j : Core) : (s.setGrnDie q x).core j = s.core j := rfl
@[simp] theorem State.setGrnDie_part (s : State) (q : MemDie) (x : GrnX) (j : Part) : (s.setGrnDie q x).part j = s.part j := rfl
@[simp] theorem State.setGrnDie_group (s : State) (q : MemDie) (x : GrnX) (j : Group) : (s.setGrnDie q x).group j = s.group j := rfl
@[simp] theorem State.setGrnDie_port (s : State) (q : MemDie) (x : GrnX) (j : Port) : (s.setGrnDie q x).port j = s.port j := rfl
@[simp] theorem State.setGrnDie_stack (s : State) (q : MemDie) (x : GrnX) (j : Stack) : (s.setGrnDie q x).stack j = s.stack j := rfl
@[simp] theorem State.setGrnDie_fn (s : State) (q : MemDie) (x : GrnX) (j : Fn) : (s.setGrnDie q x).fn j = s.fn j := rfl
@[simp] theorem fget_setGrnDie (s : State) (q : MemDie) (x : GrnX) (f' : Field) (i' : Nat) : fget (s.setGrnDie q x) f' i' = fget s f' i' := rfl
@[simp] theorem mget_setGrnDie (s : State) (q : MemDie) (x : GrnX) (a' : Nat) : mget (s.setGrnDie q x) a' = mget s a' := rfl
@[simp] theorem State.setStack_core (s : State) (k : Stack) (x : HbmX) (j : Core) : (s.setStack k x).core j = s.core j := rfl
@[simp] theorem State.setStack_part (s : State) (k : Stack) (x : HbmX) (j : Part) : (s.setStack k x).part j = s.part j := rfl
@[simp] theorem State.setStack_group (s : State) (k : Stack) (x : HbmX) (j : Group) : (s.setStack k x).group j = s.group j := rfl
@[simp] theorem State.setStack_port (s : State) (k : Stack) (x : HbmX) (j : Port) : (s.setStack k x).port j = s.port j := rfl
@[simp] theorem State.setStack_grnDie (s : State) (k : Stack) (x : HbmX) (j : MemDie) : (s.setStack k x).grnDie j = s.grnDie j := rfl
@[simp] theorem State.setStack_fn (s : State) (k : Stack) (x : HbmX) (j : Fn) : (s.setStack k x).fn j = s.fn j := rfl
@[simp] theorem fget_setStack (s : State) (k : Stack) (x : HbmX) (f' : Field) (i' : Nat) : fget (s.setStack k x) f' i' = fget s f' i' := rfl
@[simp] theorem mget_setStack (s : State) (k : Stack) (x : HbmX) (a' : Nat) : mget (s.setStack k x) a' = mget s a' := rfl
@[simp] theorem State.setFn_core (s : State) (f : Fn) (x : FnX) (j : Core) : (s.setFn f x).core j = s.core j := rfl
@[simp] theorem State.setFn_part (s : State) (f : Fn) (x : FnX) (j : Part) : (s.setFn f x).part j = s.part j := rfl
@[simp] theorem State.setFn_group (s : State) (f : Fn) (x : FnX) (j : Group) : (s.setFn f x).group j = s.group j := rfl
@[simp] theorem State.setFn_port (s : State) (f : Fn) (x : FnX) (j : Port) : (s.setFn f x).port j = s.port j := rfl
@[simp] theorem State.setFn_grnDie (s : State) (f : Fn) (x : FnX) (j : MemDie) : (s.setFn f x).grnDie j = s.grnDie j := rfl
@[simp] theorem State.setFn_stack (s : State) (f : Fn) (x : FnX) (j : Stack) : (s.setFn f x).stack j = s.stack j := rfl
@[simp] theorem fget_setFn (s : State) (f : Fn) (x : FnX) (f' : Field) (i' : Nat) : fget (s.setFn f x) f' i' = fget s f' i' := rfl
@[simp] theorem mget_setFn (s : State) (f : Fn) (x : FnX) (a' : Nat) : mget (s.setFn f x) a' = mget s a' := rfl
@[simp] theorem State.setSnap_core (s : State) (k : Nat) (x : SnapX) (j : Core) : (s.setSnap k x).core j = s.core j := rfl
@[simp] theorem State.setSnap_part (s : State) (k : Nat) (x : SnapX) (j : Part) : (s.setSnap k x).part j = s.part j := rfl
@[simp] theorem State.setSnap_group (s : State) (k : Nat) (x : SnapX) (j : Group) : (s.setSnap k x).group j = s.group j := rfl
@[simp] theorem State.setSnap_port (s : State) (k : Nat) (x : SnapX) (j : Port) : (s.setSnap k x).port j = s.port j := rfl
@[simp] theorem State.setSnap_grnDie (s : State) (k : Nat) (x : SnapX) (j : MemDie) : (s.setSnap k x).grnDie j = s.grnDie j := rfl
@[simp] theorem State.setSnap_stack (s : State) (k : Nat) (x : SnapX) (j : Stack) : (s.setSnap k x).stack j = s.stack j := rfl
@[simp] theorem State.setSnap_fn (s : State) (k : Nat) (x : SnapX) (j : Fn) : (s.setSnap k x).fn j = s.fn j := rfl
@[simp] theorem fget_setSnap (s : State) (k : Nat) (x : SnapX) (f' : Field) (i' : Nat) : fget (s.setSnap k x) f' i' = fget s f' i' := rfl
@[simp] theorem mget_setSnap (s : State) (k : Nat) (x : SnapX) (a' : Nat) : mget (s.setSnap k x) a' = mget s a' := rfl
@[simp] theorem fset_core (s : State) (f : Field) (i v : Nat) (j : Core) : (fset s f i v).core j = s.core j := rfl
@[simp] theorem fset_part (s : State) (f : Field) (i v : Nat) (j : Part) : (fset s f i v).part j = s.part j := rfl
@[simp] theorem fset_group (s : State) (f : Field) (i v : Nat) (j : Group) : (fset s f i v).group j = s.group j := rfl
@[simp] theorem fset_port (s : State) (f : Field) (i v : Nat) (j : Port) : (fset s f i v).port j = s.port j := rfl
@[simp] theorem fset_grnDie (s : State) (f : Field) (i v : Nat) (j : MemDie) : (fset s f i v).grnDie j = s.grnDie j := rfl
@[simp] theorem fset_stack (s : State) (f : Field) (i v : Nat) (j : Stack) : (fset s f i v).stack j = s.stack j := rfl
@[simp] theorem fset_fn (s : State) (f : Field) (i v : Nat) (j : Fn) : (fset s f i v).fn j = s.fn j := rfl
@[simp] theorem mget_fset (s : State) (f : Field) (i v : Nat) (a' : Nat) : mget (fset s f i v) a' = mget s a' := rfl
@[simp] theorem fclear_core (s : State) (f : Field) (i : Nat) (j : Core) : (fclear s f i).core j = s.core j := rfl
@[simp] theorem fclear_part (s : State) (f : Field) (i : Nat) (j : Part) : (fclear s f i).part j = s.part j := rfl
@[simp] theorem fclear_group (s : State) (f : Field) (i : Nat) (j : Group) : (fclear s f i).group j = s.group j := rfl
@[simp] theorem fclear_port (s : State) (f : Field) (i : Nat) (j : Port) : (fclear s f i).port j = s.port j := rfl
@[simp] theorem fclear_grnDie (s : State) (f : Field) (i : Nat) (j : MemDie) : (fclear s f i).grnDie j = s.grnDie j := rfl
@[simp] theorem fclear_stack (s : State) (f : Field) (i : Nat) (j : Stack) : (fclear s f i).stack j = s.stack j := rfl
@[simp] theorem fclear_fn (s : State) (f : Field) (i : Nat) (j : Fn) : (fclear s f i).fn j = s.fn j := rfl
@[simp] theorem mget_fclear (s : State) (f : Field) (i : Nat) (a' : Nat) : mget (fclear s f i) a' = mget s a' := rfl
@[simp] theorem fbump_core (s : State) (f : Field) (i n : Nat) (j : Core) : (fbump s f i n).core j = s.core j := rfl
@[simp] theorem fbump_part (s : State) (f : Field) (i n : Nat) (j : Part) : (fbump s f i n).part j = s.part j := rfl
@[simp] theorem fbump_group (s : State) (f : Field) (i n : Nat) (j : Group) : (fbump s f i n).group j = s.group j := rfl
@[simp] theorem fbump_port (s : State) (f : Field) (i n : Nat) (j : Port) : (fbump s f i n).port j = s.port j := rfl
@[simp] theorem fbump_grnDie (s : State) (f : Field) (i n : Nat) (j : MemDie) : (fbump s f i n).grnDie j = s.grnDie j := rfl
@[simp] theorem fbump_stack (s : State) (f : Field) (i n : Nat) (j : Stack) : (fbump s f i n).stack j = s.stack j := rfl
@[simp] theorem fbump_fn (s : State) (f : Field) (i n : Nat) (j : Fn) : (fbump s f i n).fn j = s.fn j := rfl
@[simp] theorem mget_fbump (s : State) (f : Field) (i n : Nat) (a' : Nat) : mget (fbump s f i n) a' = mget s a' := rfl
@[simp] theorem mset_core (s : State) (a : Nat) (b : Byte) (j : Core) : (mset s a b).core j = s.core j := rfl
@[simp] theorem mset_part (s : State) (a : Nat) (b : Byte) (j : Part) : (mset s a b).part j = s.part j := rfl
@[simp] theorem mset_group (s : State) (a : Nat) (b : Byte) (j : Group) : (mset s a b).group j = s.group j := rfl
@[simp] theorem mset_port (s : State) (a : Nat) (b : Byte) (j : Port) : (mset s a b).port j = s.port j := rfl
@[simp] theorem mset_grnDie (s : State) (a : Nat) (b : Byte) (j : MemDie) : (mset s a b).grnDie j = s.grnDie j := rfl
@[simp] theorem mset_stack (s : State) (a : Nat) (b : Byte) (j : Stack) : (mset s a b).stack j = s.stack j := rfl
@[simp] theorem mset_fn (s : State) (a : Nat) (b : Byte) (j : Fn) : (mset s a b).fn j = s.fn j := rfl
@[simp] theorem fget_mset (s : State) (a : Nat) (b : Byte) (f' : Field) (i' : Nat) : fget (mset s a b) f' i' = fget s f' i' := rfl
@[simp] theorem mput_core (s : State) (l : List Host.Cell) (j : Core) : (mput s l).core j = s.core j := rfl
@[simp] theorem mput_part (s : State) (l : List Host.Cell) (j : Part) : (mput s l).part j = s.part j := rfl
@[simp] theorem mput_group (s : State) (l : List Host.Cell) (j : Group) : (mput s l).group j = s.group j := rfl
@[simp] theorem mput_port (s : State) (l : List Host.Cell) (j : Port) : (mput s l).port j = s.port j := rfl
@[simp] theorem mput_grnDie (s : State) (l : List Host.Cell) (j : MemDie) : (mput s l).grnDie j = s.grnDie j := rfl
@[simp] theorem mput_stack (s : State) (l : List Host.Cell) (j : Stack) : (mput s l).stack j = s.stack j := rfl
@[simp] theorem mput_fn (s : State) (l : List Host.Cell) (j : Fn) : (mput s l).fn j = s.fn j := rfl
@[simp] theorem fget_mput (s : State) (l : List Host.Cell) (f' : Field) (i' : Nat) : fget (mput s l) f' i' = fget s f' i' := rfl
@[simp] theorem emit_core (s : State) (o : Out) (j : Core) : (emit s o).core j = s.core j := rfl
@[simp] theorem emit_part (s : State) (o : Out) (j : Part) : (emit s o).part j = s.part j := rfl
@[simp] theorem emit_group (s : State) (o : Out) (j : Group) : (emit s o).group j = s.group j := rfl
@[simp] theorem emit_port (s : State) (o : Out) (j : Port) : (emit s o).port j = s.port j := rfl
@[simp] theorem emit_grnDie (s : State) (o : Out) (j : MemDie) : (emit s o).grnDie j = s.grnDie j := rfl
@[simp] theorem emit_stack (s : State) (o : Out) (j : Stack) : (emit s o).stack j = s.stack j := rfl
@[simp] theorem emit_fn (s : State) (o : Out) (j : Fn) : (emit s o).fn j = s.fn j := rfl
@[simp] theorem fget_emit (s : State) (o : Out) (f' : Field) (i' : Nat) : fget (emit s o) f' i' = fget s f' i' := rfl
@[simp] theorem mget_emit (s : State) (o : Out) (a' : Nat) : mget (emit s o) a' = mget s a' := rfl

/-! ### Streams of a core -/

@[simp] theorem CoreX.stream_setStream_same (x : CoreX) (st : Stream) (v : StreamX) : (x.setStream st v).stream st = v := by
  cases st <;> rfl
theorem CoreX.stream_setStream_other (x : CoreX) {st u : Stream} (v : StreamX) (h : u ≠ st) :
    (x.setStream st v).stream u = x.stream u := by
  cases st <;> cases u <;> first | rfl | exact absurd rfl h
@[simp] theorem CoreX.setStream_flags (x : CoreX) (st : Stream) (v : StreamX) : (x.setStream st v).flags = x.flags := by
  cases st <;> rfl
@[simp] theorem CoreX.setStream_dirty (x : CoreX) (st : Stream) (v : StreamX) : (x.setStream st v).dirty = x.dirty := by
  cases st <;> rfl
@[simp] theorem CoreX.setStream_marks (x : CoreX) (st : Stream) (v : StreamX) : (x.setStream st v).marks = x.marks := by
  cases st <;> rfl
@[simp] theorem CoreX.setStream_markLost (x : CoreX) (st : Stream) (v : StreamX) : (x.setStream st v).markLost = x.markLost := by
  cases st <;> rfl
@[simp] theorem CoreX.setStream_vregs (x : CoreX) (st : Stream) (v : StreamX) : (x.setStream st v).vregs = x.vregs := by
  cases st <;> rfl
@[simp] theorem CoreX.setStream_bank0 (x : CoreX) (st : Stream) (v : StreamX) : (x.setStream st v).bank0 = x.bank0 := by
  cases st <;> rfl
@[simp] theorem CoreX.setStream_bank1 (x : CoreX) (st : Stream) (v : StreamX) : (x.setStream st v).bank1 = x.bank1 := by
  cases st <;> rfl
@[simp] theorem CoreX.setStream_crib (x : CoreX) (st : Stream) (v : StreamX) : (x.setStream st v).crib = x.crib := by
  cases st <;> rfl
@[simp] theorem CoreX.setStream_chain (x : CoreX) (st : Stream) (v : StreamX) : (x.setStream st v).chain = x.chain := by
  cases st <;> rfl
@[simp] theorem CoreX.setStream_pipe (x : CoreX) (st : Stream) (v : StreamX) : (x.setStream st v).pipe = x.pipe := by
  cases st <;> rfl
@[simp] theorem CoreX.setStream_readouts (x : CoreX) (st : Stream) (v : StreamX) : (x.setStream st v).readouts = x.readouts := by
  cases st <;> rfl
@[simp] theorem CoreX.setStream_taken (x : CoreX) (st : Stream) (v : StreamX) : (x.setStream st v).taken = x.taken := by
  cases st <;> rfl
@[simp] theorem CoreX.setStream_finished (x : CoreX) (st : Stream) (v : StreamX) : (x.setStream st v).finished = x.finished := by
  cases st <;> rfl
@[simp] theorem CoreX.setStream_rings (x : CoreX) (st : Stream) (v : StreamX) : (x.setStream st v).rings = x.rings := by
  cases st <;> rfl
@[simp] theorem CoreX.setStream_loads (x : CoreX) (st : Stream) (v : StreamX) : (x.setStream st v).loads = x.loads := by
  cases st <;> rfl
@[simp] theorem CoreX.setStream_stores (x : CoreX) (st : Stream) (v : StreamX) : (x.setStream st v).stores = x.stores := by
  cases st <;> rfl
@[simp] theorem CoreX.setStream_copies (x : CoreX) (st : Stream) (v : StreamX) : (x.setStream st v).copies = x.copies := by
  cases st <;> rfl
@[simp] theorem CoreX.setStream_nextOp (x : CoreX) (st : Stream) (v : StreamX) : (x.setStream st v).nextOp = x.nextOp := by
  cases st <;> rfl
@[simp] theorem CoreX.setStream_answers (x : CoreX) (st : Stream) (v : StreamX) : (x.setStream st v).answers = x.answers := by
  cases st <;> rfl
@[simp] theorem CoreX.setStream_sealPhase (x : CoreX) (st : Stream) (v : StreamX) : (x.setStream st v).sealPhase = x.sealPhase := by
  cases st <;> rfl
@[simp] theorem CoreX.setStream_sealWait (x : CoreX) (st : Stream) (v : StreamX) : (x.setStream st v).sealWait = x.sealWait := by
  cases st <;> rfl
@[simp] theorem CoreX.setStream_resetting (x : CoreX) (st : Stream) (v : StreamX) : (x.setStream st v).resetting = x.resetting := by
  cases st <;> rfl
@[simp] theorem CoreX.setStream_errTally (x : CoreX) (st : Stream) (v : StreamX) : (x.setStream st v).errTally = x.errTally := by
  cases st <;> rfl

end Sys2Proof.Machine
end

