-- ==== Sys2Proof/Laws/Mem.lean ====
section
/-! SUPPORT. Laws of device memory: every operation keeps the canonical form, a byte read after a write, and what a
write leaves alone. -/

namespace Sys2Proof.Machine

/-! ### Runs of numbers -/

theorem mem_span {a n i : Nat} : i ∈ span a n ↔ a ≤ i ∧ i < a + n := by
  induction n generalizing a with
  | zero => simp only [span, List.not_mem_nil, false_iff]; omega
  | succ n ih => simp only [span, List.mem_cons, ih]; omega

@[simp] theorem length_span (a n : Nat) : (span a n).length = n := by
  induction n generalizing a with
  | zero => rfl
  | succ n ih => simp [span, ih]

/-! ### Reading after writing -/

theorem mget_mset_same (s : State) (a : Nat) (b : Byte) : mget (mset s a b) a = b := by simp [mget, mset]

theorem mget_mset_other (s : State) {a j : Nat} (b : Byte) (h : j ≠ a) : mget (mset s a b) j = mget s j := by
  simp only [mget, mset]; exact tget_tset_other _ _ _ h

theorem tget_tsetAll_other {α : Type} [DecidableEq α] (d : Nat → α) (r : List (Nat × α)) {j : Nat} :
    ∀ {t : List (Nat × α)}, (∀ e ∈ r, e.1 ≠ j) → tget d (tsetAll d t r) j = tget d t j := by
  induction r with
  | nil => intro t _; rfl
  | cons e r ih =>
    obtain ⟨k, v⟩ := e
    intro t h
    rw [tsetAll, ih fun e he => h e (List.mem_cons_of_mem _ he)]
    exact tget_tset_other _ _ _ fun e => h (k, v) (List.mem_cons_self ..) e.symm

/-- Of several values stored under distinct keys each is read back. -/
theorem tget_tsetAll_mem {α : Type} [DecidableEq α] (d : Nat → α) (r : List (Nat × α)) {k : Nat} {v : α} :
    ∀ {t : List (Nat × α)}, (r.map (·.1)).Nodup → (k, v) ∈ r → tget d (tsetAll d t r) k = v := by
  induction r with
  | nil => intro t _ h; simp at h
  | cons e r ih =>
    obtain ⟨k', v'⟩ := e
    intro t hn hm
    simp only [List.map_cons, List.nodup_cons] at hn
    rcases List.mem_cons.mp hm with he | he
    · cases he
      rw [tsetAll, tget_tsetAll_other _ _ fun e hr h => hn.1 (List.mem_map.mpr ⟨e, hr, h⟩)]
      exact tget_tset_same _ _ _ _
    · exact ih hn.2 he

theorem mget_mput_other (s : State) {l : List Host.Cell} {j : Nat} (h : ∀ e ∈ l, e.1 ≠ j) :
    mget (mput s l) j = mget s j := by
  simp only [mget, mput]; exact tget_tsetAll_other _ _ h

theorem mget_mput_mem (s : State) {l : List Host.Cell} {a : Nat} {b : Byte} (hn : (l.map (·.1)).Nodup)
    (h : (a, b) ∈ l) : mget (mput s l) a = b := by
  simp only [mget, mput]; exact tget_tsetAll_mem _ _ hn h

/-! ### The canonical form -/

theorem Memory.wf_reset : Memory.wf State.reset = true := rfl

theorem Memory.wf_of_mem {s t : State} (h : t.mem = s.mem) (hb : t.scrambled = s.scrambled) (hs : Memory.wf s = true) :
    Memory.wf t = true := by
  simpa [Memory.wf, h, hb] using hs

/-- Memory reads alike in states that list the same bytes and have the same half-stacks destroyed. -/
theorem mget_of_mem {s t : State} (h : t.mem = s.mem) (hb : t.scrambled = s.scrambled) (a : Nat) : mget t a = mget s a := by
  simp [mget, h, hb]

theorem Memory.wf_mset {s : State} (a : Nat) (b : Byte) (h : Memory.wf s = true) : Memory.wf (mset s a b) = true :=
  twf_tset a b h

theorem Memory.wf_mput {s : State} (l : List Host.Cell) (h : Memory.wf s = true) : Memory.wf (mput s l) = true :=
  twf_tsetAll l h

/-- A record of an error joins the queue while it has room, and is counted as dropped otherwise (16 R388). -/
theorem record_cases (s : State) (cls : Cls) (sev : Sev) (p : Option Part) (u : UnitRef) (op : OpRef) (code : Nat)
    (synd : Synd) :
    (s.errQueue.length < 256 ∧ ∃ r, record s cls sev p u op code synd = { s with errQueue := s.errQueue ++ [r] }) ∨
      (256 ≤ s.errQueue.length ∧ record s cls sev p u op code synd = fbump s .errLostDropped 0 1) := by
  by_cases h : s.errQueue.length < 256
  · refine .inl ⟨h, ?_⟩
    simp only [record, h, if_true]
    exact ⟨_, rfl⟩
  · exact .inr ⟨by omega, by simp only [record, h, if_false]⟩

@[simp] theorem record_mem (s : State) (cls : Cls) (sev : Sev) (p : Option Part) (u : UnitRef) (op : OpRef) (code : Nat)
    (synd : Synd) : (record s cls sev p u op code synd).mem = s.mem := by
  rcases record_cases s cls sev p u op code synd with ⟨-, r, h⟩ | ⟨-, h⟩ <;> simp [h]

@[simp] theorem record_scrambled (s : State) (cls : Cls) (sev : Sev) (p : Option Part) (u : UnitRef) (op : OpRef) (code : Nat)
    (synd : Synd) : (record s cls sev p u op code synd).scrambled = s.scrambled := by
  rcases record_cases s cls sev p u op code synd with ⟨-, r, h⟩ | ⟨-, h⟩ <;> simp [h]

@[simp] theorem setStatus_scrambled (s : State) (p : Option Part) (b : StepBit) : (setStatus s p b).scrambled = s.scrambled := by
  cases p <;> rfl

@[simp] theorem setStatus_mem (s : State) (p : Option Part) (b : StepBit) : (setStatus s p b).mem = s.mem := by
  cases p <;> rfl

@[simp] theorem memFault_scrambled (s : State) (a : Nat) (ag : MemAgent) (p : Option Part) (u : UnitRef) (l : List Nat) :
    (memFault s a ag p u l).scrambled = s.scrambled := by simp [memFault]

@[simp] theorem memFault_mem (s : State) (a : Nat) (ag : MemAgent) (p : Option Part) (u : UnitRef) (l : List Nat) :
    (memFault s a ag p u l).mem = s.mem := by simp [memFault]

@[simp] theorem grnFault_scrambled (s : State) (q : MemDie) (a : Nat) (ag : MemAgent) (p : Option Part) :
    (grnFault s q a ag p).scrambled = s.scrambled := by simp [grnFault]

@[simp] theorem grnFault_mem (s : State) (q : MemDie) (a : Nat) (ag : MemAgent) (p : Option Part) :
    (grnFault s q a ag p).mem = s.mem := by simp [grnFault]

@[simp] theorem hbmFault_scrambled (s : State) (k : Stack) (a : Nat) (ag : MemAgent) (p : Option Part) :
    (hbmFault s k a ag p).scrambled = s.scrambled := by simp [hbmFault]

@[simp] theorem hbmFault_mem (s : State) (k : Stack) (a : Nat) (ag : MemAgent) (p : Option Part) :
    (hbmFault s k a ag p).mem = s.mem := by simp [hbmFault]

theorem Memory.wf_grnWrite {s : State} (q : MemDie) (ag : MemAgent) (p : Option Part) (cells : List Host.Cell)
    (h : Memory.wf s = true) : Memory.wf (grnWrite s q ag p cells) = true := by
  unfold grnWrite
  split
  · exact h
  · split
    · exact Memory.wf_of_mem (by simp) (by simp) h
    · refine twf_tsetAll _ ?_
      split
      · exact twf_tsetAll _ h
      · exact h

theorem Memory.wf_hbmWrite {s : State} (k : Stack) (ag : MemAgent) (p : Option Part) (cells : List Host.Cell)
    (h : Memory.wf s = true) : Memory.wf (hbmWrite s k ag p cells) = true := by
  unfold hbmWrite
  split
  · exact h
  · split
    · exact h
    · simp only
      split
      · split
        · exact Memory.wf_of_mem (s := mput s _) rfl rfl (Memory.wf_mput _ h)
        · exact Memory.wf_of_mem (s := mput s _) rfl rfl (Memory.wf_mput _ h)
      · refine Memory.wf_of_mem (s := mput (mput _ _) _) rfl rfl (Memory.wf_mput _ (Memory.wf_mput _ ?_))
        split <;> split <;> first | exact h | exact Memory.wf_of_mem (by simp) (by simp) h

theorem Memory.wf_windowWrite {s : State} (c : Core) (off : Nat) (b : Bytes) (h : Memory.wf s = true) :
    Memory.wf (windowWrite s c off b) = true := by
  unfold windowWrite
  split
  · exact Memory.wf_of_mem (by simp) (by simp) h
  · exact Memory.wf_mput _ h

theorem Memory.wf_unitWrite {s : State} (ag : MemAgent) (p : Option Part) (cells : List Host.Cell)
    (h : Memory.wf s = true) : Memory.wf (unitWrite s ag p cells) = true := by
  unfold unitWrite
  split
  · exact h
  · split
    · exact Memory.wf_grnWrite _ _ _ _ h
    · exact Memory.wf_hbmWrite _ _ _ _ h
    · exact Memory.wf_windowWrite _ _ _ h
    · exact h
    · exact h

/-- Reading the core's stores changes no byte. -/
theorem sramRead_mem (s : State) (c : Core) (runs : List (Nat × Nat)) :
    (sramRead s c runs).mem = s.mem ∧ (sramRead s c runs).scrambled = s.scrambled := by
  have faults : ∀ (l : List (Nat × Nat)) (t : State),
      (l.foldl (fun s e => memFault s (4 * e.1) (.core c) (partOfCore s c) (.core c) []) t).mem = t.mem ∧
        (l.foldl (fun s e => memFault s (4 * e.1) (.core c) (partOfCore s c) (.core c) []) t).scrambled = t.scrambled := by
    intro l
    induction l with
    | nil => intro t; exact ⟨rfl, rfl⟩
    | cons e l ih => intro t; simpa using ih (memFault t (4 * e.1) (.core c) (partOfCore t c) (.core c) [])
  unfold sramRead
  simp only
  refine ⟨(faults _ _).1.trans ?_, (faults _ _).2.trans ?_⟩ <;> split <;> rfl

/-- A read within one line or granule changes no byte. -/
theorem unitRead_mem (s : State) (ag : MemAgent) (p : Option Part) (a n : Nat) :
    (unitRead s ag p a n).1.mem = s.mem ∧ (unitRead s ag p a n).1.scrambled = s.scrambled := by
  unfold unitRead
  split
  · unfold grnRead; simp only; repeat' split
    all_goals simp
  · unfold hbmRead; simp only; repeat' split
    all_goals simp
  · unfold windowRead
    split
    · simp
    · exact sramRead_mem _ _ _
  · exact ⟨rfl, rfl⟩
  · exact ⟨rfl, rfl⟩

/-- Requests that take effect before another access keep the form. -/
theorem Memory.wf_takeEffects (pick seen : MemReq → Bool) (l : List MemReq) : ∀ (n : Nat) {s : State}, Memory.wf s = true →
    Memory.wf (takeEffects pick seen n l s).1 = true := by
  induction l with
  | nil => intro n s h; exact h
  | cons r l ih =>
    intro n s h
    simp only [takeEffects]
    split
    · exact h
    · refine ih _ ?_
      split
      · unfold takeEffect
        simp only
        split
        · exact Memory.wf_of_mem (unitRead_mem _ _ _ _ _).1 (unitRead_mem _ _ _ _ _).2 h
        · exact Memory.wf_unitWrite _ _ _ h
        · exact h
      · exact h

/-- What an access does to those that stand before it keeps the form. -/
theorem Memory.wf_arrive {s : State} (ag : MemAgent) (a : Nat) (h : Memory.wf s = true) : Memory.wf (arrive s ag a) = true := by
  unfold arrive
  split
  · split
    · exact h
    · exact Memory.wf_takeEffects _ _ _ _ h
  · split
    · exact h
    · exact Memory.wf_takeEffects _ _ _ _ h
  · exact h

/-- A write of any run of bytes keeps the form. -/
theorem Memory.wf_memWrite {s : State} (ag : MemAgent) (p : Option Part) (a : Nat) (b : Bytes)
    (h : Memory.wf s = true) : Memory.wf (memWrite s ag p a b) = true := by
  unfold memWrite
  generalize cutRun b.length a b.length = l
  induction l generalizing s with
  | nil => exact h
  | cons u l ih => exact ih (Memory.wf_unitWrite _ _ _ (Memory.wf_arrive _ _ h))

/-! ### What a write leaves alone -/

/-- A write to the Granary changes no byte outside the line it writes. -/
theorem mget_grnWrite_other (s : State) (q : MemDie) (ag : MemAgent) (p : Option Part) {cells : List Host.Cell}
    {j : Nat} (hc : ∀ e ∈ cells, e.1 ≠ j) (hl : ∀ e ∈ cells, lineOf e.1 ≠ lineOf j) :
    mget (grnWrite s q ag p cells) j = mget s j := by
  unfold grnWrite
  split
  · rfl
  · rename_i a b r
    split
    · exact mget_of_mem (by simp) (by simp) j
    · have hj : ∀ e ∈ (span (lineOf a * 32) 32).map fun i => (i, (0 : Byte)), e.1 ≠ j := by
        intro e he heq
        simp only [List.mem_map] at he
        obtain ⟨i, hi, rfl⟩ := he
        have hlt := hl (a, b) (List.mem_cons_self ..)
        have hi' := mem_span.mp hi
        simp only [lineOf] at hlt heq hi'
        omega
      simp only [mget]
      rw [tget_tsetAll_other _ _ hc]
      split
      · exact tget_tsetAll_other _ _ hj
      · rfl

end Sys2Proof.Machine
end

