-- ==== Sys2Proof/Laws/Reached.lean ====
section
/-! SUPPORT. The registers that an access reaches: an access inside one register reaches that register's fields and no
other, for every index. -/

namespace Sys2Proof.Machine

/-- How many bytes an array of registers spans. -/
def dimsSpan : List (Nat × Nat) → Nat → Nat
  | [], b => b
  | (n, s) :: r, b => (n - 1) * s + dimsSpan r b

/-- Each stride holds what lies inside it. -/
def dimsOk : List (Nat × Nat) → Nat → Bool
  | [], b => decide (0 < b)
  | (n, s) :: r, b => decide (0 < n) && decide (dimsSpan r b ≤ s) && dimsOk r b

/-- Two arrays of registers share no byte: one lies before the other, or they share their outer stride and lie apart
inside it. -/
def dimsApart : Nat → List (Nat × Nat) → Nat → Nat → List (Nat × Nat) → Nat → Bool
  | b, (n, s) :: r, nb, b', (n', s') :: r', nb' =>
    decide (b + dimsSpan ((n, s) :: r) nb ≤ b') || decide (b' + dimsSpan ((n', s') :: r') nb' ≤ b) ||
      (s == s' && decide (b - min b b' + dimsSpan r nb ≤ s) && decide (b' - min b b' + dimsSpan r' nb' ≤ s) &&
        dimsApart (b - min b b') r nb (b' - min b b') r' nb')
  | b, d, nb, b', d', nb' => decide (b + dimsSpan d nb ≤ b') || decide (b' + dimsSpan d' nb' ≤ b)

/-- The offset of an element, and its index. -/
def dimsAt : List (Nat × Nat) → List Nat → Nat
  | (_, s) :: r, i :: l => i * s + dimsAt r l
  | _, _ => 0
def dimsIndex : List (Nat × Nat) → Nat → List Nat → Nat
  | (n, _) :: r, a, i :: l => dimsIndex r (a * n + i) l
  | _, a, _ => a
def dimsIn : List (Nat × Nat) → List Nat → Bool
  | [], [] => true
  | (n, _) :: r, i :: l => decide (i < n) && dimsIn r l
  | _, _ => false

theorem splitIndex_lt {d : List (Nat × Nat)} {nb : Nat} :
    ∀ {i rem j r : Nat}, splitIndex d i rem = some (j, r) → r < nb → rem < dimsSpan d nb := by
  induction d with
  | nil => intro i rem j r h hr; simp only [splitIndex, Option.some.injEq, Prod.mk.injEq] at h; simp [dimsSpan]; omega
  | cons e d ih =>
    obtain ⟨n, s⟩ := e
    intro i rem j r h hr
    simp only [splitIndex] at h
    split at h
    · rename_i hq
      have h1 := ih h hr
      have h2 := Nat.div_add_mod rem s
      have h3 : s * (rem / s) ≤ (n - 1) * s := by
        rw [Nat.mul_comm]; exact Nat.mul_le_mul_right _ (by omega)
      simp only [dimsSpan]; omega
    · cases h

theorem dimsApart_sound : ∀ {d d' : List (Nat × Nat)} {b nb b' nb' off i j r i' j' r' : Nat},
    dimsApart b d nb b' d' nb' = true → b ≤ off → b' ≤ off → splitIndex d i (off - b) = some (j, r) → r < nb →
    splitIndex d' i' (off - b') = some (j', r') → r' < nb' → False := by
  intro d
  induction d with
  | nil =>
    intro d' b nb b' nb' off i j r i' j' r' h h1 h2 h3 h4 h5 h6
    have hx := splitIndex_lt h3 h4
    have hy := splitIndex_lt h5 h6
    simp only [dimsApart, Bool.or_eq_true, decide_eq_true_eq] at h
    omega
  | cons e d ih =>
    intro d' b nb b' nb' off i j r i' j' r' h h1 h2 h3 h4 h5 h6
    have hx := splitIndex_lt h3 h4
    have hy := splitIndex_lt h5 h6
    cases d' with
    | nil =>
      obtain ⟨n, s⟩ := e
      simp only [dimsApart, Bool.or_eq_true, decide_eq_true_eq] at h
      omega
    | cons e' d' =>
      obtain ⟨n, s⟩ := e
      obtain ⟨n', s'⟩ := e'
      simp only [dimsApart, Bool.or_eq_true, Bool.and_eq_true, decide_eq_true_eq, beq_iff_eq] at h
      rcases h with (h | h) | ⟨⟨⟨hs, hb⟩, hb'⟩, ha⟩
      · omega
      · omega
      · subst hs
        simp only [splitIndex] at h3 h5
        split at h3 <;> [skip; cases h3]
        split at h5 <;> [skip; cases h5]
        have hu := splitIndex_lt h3 h4
        have hv := splitIndex_lt h5 h6
        -- the place inside the stride, measured from the lower base
        obtain ⟨m, hm⟩ : ∃ m, m = min b b' := ⟨_, rfl⟩
        rw [← hm] at hb hb' ha
        have key : ∀ x, m ≤ x → x ≤ off → x - m + (off - x) % s < s → (off - x) % s = (off - m) % s - (x - m) ∧
            x - m ≤ (off - m) % s := by
          intro x hx1 hx2 hlt
          have e1 : off - m = (x - m + (off - x) % s) + s * ((off - x) / s) := by
            have := Nat.div_add_mod (off - x) s; omega
          have e2 : (off - m) % s = x - m + (off - x) % s := by
            rw [e1, Nat.add_mul_mod_self_left, Nat.mod_eq_of_lt hlt]
          omega
        have k1 := key b (by omega) h1 (by omega)
        have k2 := key b' (by omega) h2 (by omega)
        rw [k1.1] at h3
        rw [k2.1] at h5
        exact ih ha k1.2 k2.2 h3 h4 h5 h6

/-- The offset of an element splits into its index and the place in its register. -/
theorem splitIndex_at : ∀ {d : List (Nat × Nat)} {l : List Nat} {nb a k : Nat}, dimsOk d nb = true → dimsIn d l = true →
    k < nb → splitIndex d a (dimsAt d l + k) = some (dimsIndex d a l, k) ∧ dimsAt d l + k < dimsSpan d nb := by
  intro d
  induction d with
  | nil => intro l nb a k _ hl hk; cases l <;> simp_all [dimsAt, dimsIndex, splitIndex, dimsIn, dimsSpan]
  | cons e d ih =>
    obtain ⟨n, s⟩ := e
    intro l nb a k hd hl hk
    cases l with
    | nil => simp [dimsIn] at hl
    | cons i l =>
      simp only [dimsOk, dimsIn, Bool.and_eq_true, decide_eq_true_eq] at hd hl
      obtain ⟨h1, h2⟩ := ih (a := a * n + i) hd.2 hl.2 hk
      have hs : dimsAt d l + k < s := by omega
      have hq : (dimsAt ((n, s) :: d) (i :: l) + k) / s = i := by
        simp only [dimsAt]
        rw [Nat.add_assoc, Nat.mul_comm, Nat.mul_add_div (by omega), Nat.div_eq_of_lt hs, Nat.add_zero]
      have hr : (dimsAt ((n, s) :: d) (i :: l) + k) % s = dimsAt d l + k := by
        simp only [dimsAt]
        rw [Nat.add_assoc, Nat.mul_comm, Nat.mul_add_mod, Nat.mod_eq_of_lt hs]
      constructor
      · simp only [splitIndex, hq, hr, hl.1, if_true, dimsIndex, h1]
      · have : i * s ≤ (n - 1) * s := Nat.mul_le_mul_right _ (by omega)
        simp only [dimsAt, dimsSpan]; omega

/-! ### The fields of one register -/

/-- Two fields of one register. -/
def sameReg (g f : Field) : Bool := f.spec.base == g.spec.base && f.spec.dims == g.spec.dims && f.spec.bytes == g.spec.bytes

/-- Every field lies in the register of `g` or apart from it. -/
def regAlone (g : Field) : Bool :=
  dimsOk g.spec.dims g.spec.bytes && Field.all.all fun f => sameReg g f ||
    dimsApart f.spec.base f.spec.dims f.spec.bytes g.spec.base g.spec.dims g.spec.bytes

/-- The offset of the register of `g` at an index, and the index as one number. -/
def regAt (g : Field) (l : List Nat) : Nat := g.spec.base + dimsAt g.spec.dims l
def regIndex (g : Field) (l : List Nat) : Nat := dimsIndex g.spec.dims 0 l

theorem locate_same {g f : Field} {l : List Nat} {k : Nat} (hg : regAlone g = true) (hl : dimsIn g.spec.dims l = true)
    (hk : k < g.spec.bytes) (hf : sameReg g f = true) : Field.locate f (regAt g l + k) = some (regIndex g l, k) := by
  simp only [sameReg, Bool.and_eq_true, beq_iff_eq] at hf
  simp only [regAlone, Bool.and_eq_true] at hg
  have h := (splitIndex_at (a := 0) hg.1 hl hk).1
  unfold Field.locate regAt
  rw [hf.1.1, hf.1.2, hf.2, if_neg (by omega), show g.spec.base + dimsAt g.spec.dims l + k - g.spec.base =
    dimsAt g.spec.dims l + k by omega, h]
  simp [hk, regIndex]

theorem locate_apart {g f : Field} {l : List Nat} {k : Nat} (hg : regAlone g = true) (hl : dimsIn g.spec.dims l = true)
    (hk : k < g.spec.bytes) (hm : f ∈ Field.all) (hf : sameReg g f = false) : Field.locate f (regAt g l + k) = none := by
  simp only [regAlone, Bool.and_eq_true, List.all_eq_true] at hg
  have ha := hg.2 f hm
  rw [hf, Bool.false_or] at ha
  have h := (splitIndex_at (a := 0) hg.1 hl hk).1
  unfold Field.locate regAt
  split
  · rfl
  · rename_i hb
    split
    · rename_i i r hs
      split
      · rename_i hr
        exact (dimsApart_sound ha (by omega) (by omega) hs hr (i' := 0) (j' := dimsIndex g.spec.dims 0 l) (r' := k)
          (by rw [show g.spec.base + dimsAt g.spec.dims l + k - g.spec.base = dimsAt g.spec.dims l + k by omega, h])
          hk).elim
      · rfl
    · rfl

/-- The fields that one byte adds to those an access has reached. -/
def reachedAt (seen : List Reached) (b : Nat) (fs : List Field) : List Reached :=
  fs.filterMap fun f => (Field.locate f b).bind fun x =>
    if seen.contains ⟨f, x.1, b - x.2⟩ then none else some ⟨f, x.1, b - x.2⟩

theorem reached_eq (off n : Nat) :
    reached off n = (span off n).foldl (fun l b => l ++ reachedAt l b Field.all) [] := by
  unfold reached
  congr
  funext l b
  congr 1
  unfold reachedAt
  congr
  funext f
  cases Field.locate f b <;> rfl

/-- The fields of the register of `g`, each at the register's index. -/
def regFields (g : Field) (l : List Nat) (fs : List Field) : List Reached :=
  (fs.filter (sameReg g)).map fun f => ⟨f, regIndex g l, regAt g l⟩

/-- One byte more of an access reaches the register's fields that are not yet listed. -/
theorem reachedAt_reg {g : Field} {l : List Nat} {k : Nat} (hg : regAlone g = true) (hl : dimsIn g.spec.dims l = true)
    (hk : k < g.spec.bytes) (seen : List Reached) : ∀ (fs : List Field), (∀ f ∈ fs, f ∈ Field.all) →
    reachedAt seen (regAt g l + k) fs = (regFields g l fs).filter fun r => !seen.contains r := by
  intro fs
  induction fs with
  | nil => intro _; rfl
  | cons f fs ih =>
    intro hm
    have ih := ih fun x hx => hm x (List.mem_cons_of_mem _ hx)
    unfold reachedAt regFields at *
    by_cases hf : sameReg g f = true
    · rw [List.filterMap_cons, locate_same hg hl hk hf, List.filter_cons_of_pos hf, List.map_cons, List.filter_cons, ih]
      simp only [Option.bind_some, Nat.add_sub_cancel]
      cases hc : seen.contains (⟨f, regIndex g l, regAt g l⟩ : Reached) <;> simp
    · have hf' : sameReg g f = false := by simpa using hf
      rw [List.filterMap_cons, locate_apart hg hl hk (hm f (List.mem_cons_self ..)) hf', List.filter_cons_of_neg hf, ih]
      simp

theorem reached_from {g : Field} {l : List Nat} (hg : regAlone g = true) (hl : dimsIn g.spec.dims l = true) :
    ∀ (n k : Nat), k + n ≤ g.spec.bytes →
      (span (regAt g l + k) n).foldl (fun a b => a ++ reachedAt a b Field.all) (regFields g l Field.all) =
        regFields g l Field.all := by
  intro n
  induction n with
  | zero => intro k _; rfl
  | succ n ih =>
    intro k hk
    rw [span, List.foldl_cons, reachedAt_reg hg hl (by omega) _ _ fun _ h => h, List.filter_eq_nil_iff.mpr, List.append_nil]
    · exact ih (k + 1) (by omega)
    · intro a ha
      simp [ha]

/-- An access inside one register reaches the fields of that register, each at the register's index. -/
theorem reached_reg {g : Field} {l : List Nat} {k n : Nat} (hg : regAlone g = true) (hl : dimsIn g.spec.dims l = true)
    (hn : 0 < n) (hk : k + n ≤ g.spec.bytes) : reached (regAt g l + k) n = regFields g l Field.all := by
  obtain ⟨m, rfl⟩ : ∃ m, n = m + 1 := ⟨n - 1, by omega⟩
  rw [reached_eq, span, List.foldl_cons, List.nil_append, reachedAt_reg hg hl (by omega) _ _ fun _ h => h,
    List.filter_eq_self.mpr fun _ _ => by simp]
  exact reached_from hg hl m (k + 1) (by omega)

end Sys2Proof.Machine
end

