-- ==== Sys2Proof/WellFormed.lean ====
section
/-! DEFINITION. Which operands a command may carry. The types of the operands bound most of them; what is left is a
relation between operands or a range that a rule gives. The machine does not rest on these checks: a command that fails
one still has an outcome. -/

namespace Sys2Proof

/-- A packet carries at most the 2,048 bytes that LEN can say (11 R257). -/
def Packet.wf (p : Packet) : Bool := decide (p.data.length ≤ 2048)

/-- Transfers to BAR2 stay inside the aperture of the request size that PCIe allows: 1 to 4,096 bytes (13 R317). -/
def bar2LenOk (n : Nat) : Bool := decide (1 ≤ n ∧ n ≤ 4096)

/-- A finding of the start-up self-test names banks and rows that exist (07 R156, R168). -/
def SelfTestFinding.wf (f : SelfTestFinding) : Bool :=
  f.rows.all (fun r => decide (r.1 < 260 ∧ r.2 < 8192)) && f.banks.all (fun b => decide (b < 260))

/-- A link that is up has a rate and a width (13 R311). -/
def linkOk (rate width : Fin 4) : Bool := decide (rate ≠ 0 ∧ width ≠ 0)

/-- A link flit carries 120 bytes of content (11 R253). -/
def Flit.wf (f : Flit) : Bool := decide (f.content.length = 120)

/-- A cable joins each lane to one lane at most (19 R445). -/
def RxLanes.wf (r : RxLanes) : Bool :=
  r.fibres.isEmpty || decide (r.fibres.length = 34) && decide r.fibres.Nodup && r.fibres.all (fun i => decide (i < 34))

/-- Each core is reported at most once. -/
def coresOnce (cs : List Core) : Bool := decide cs.Nodup

/-- Well-formed commands. -/
def Instr.wf : Instr → Bool
  | .bar2Read _ _ _ _ len => bar2LenOk len
  | .bar2Write _ _ _ _ data => bar2LenOk data.length
  | .selftestDone _ f => f.wf
  | .por f _ => decide (f.length = 16) && f.all SelfTestFinding.wf
  | .linkUp _ rate width => linkOk rate width
  | .flitReceive _ f => f.wf
  | .trainingDone _ _ seen => seen.wf
  | .fieldTest _ _ found => coresOnce (found.map (·.core))
  | .marginCal _ _ found => coresOnce (found.map (·.core))
  | .packetRoute _ p _ => p.wf
  | .blockPacket p | .extentNotice p | .xrec p | .agreedNotice p | .dataPacket p | .poisonNotice p | .verdictQuery p
  | .verdictAnswer p | .write p | .read p | .readData p | .ack p | .nak p | .svcRequest p | .epochArm p | .epochDone p
  | .epochRetire p | .fencedNotice p | .unfencedNotice p => p.wf
  | .runStart .. | .runStop .. | .next .. | .loop .. | .endl .. | .br .. | .setp .. | .addp .. | .work ..
  | .halt .. | .setlc .. | .snop .. | .load .. | .gather .. | .store .. | .scatter .. | .copy ..
  | .waitSatisfied .. | .pfenceRendezvous .. | .markRecordPass .. | .sealWord .. | .sealReport ..
  | .tileDone .. | .dieOrDeviceFlagSignal .. | .mma .. | .clr .. | .drn .. | .lift .. | .spill .. | .restore ..
  | .insertion .. | .sweep .. | .readout .. | .drainRowWrite .. | .vnop .. | .vfma32 .. | .vadd32 ..
  | .vmul32 .. | .vmax32 .. | .vmin32 .. | .vfma64 .. | .vadd64 .. | .vmul64 .. | .vdiv32 .. | .vsqrt32 ..
  | .vexp32 .. | .vcvt .. | .vamax .. | .vscale .. | .vld .. | .vst .. | .feedSlotReady .. | .loadLand ..
  | .storeAck .. | .copyComplete .. | .boundWordsRead .. | .workFetchadd .. | .workAnswer .. | .workArm ..
  | .pshadowWrite .. | .paramReadyWrite .. | .coreReset .. | .coreDone .. | .granaryAccess ..
  | .granaryRefresh .. | .grnSchedWrite .. | .schedFrameApply .. | .flashClear .. | .flashClearDone ..
  | .selftest .. | .hbmAccess .. | .hbmRefresh .. | .patrolScrub .. | .hbmTempReport .. | .injectArm ..
  | .reduceScatter .. | .allGather .. | .allReduce .. | .broadcast .. | .allToAll .. | .send .. | .recv ..
  | .liftAccumulate .. | .blockReady .. | .collectiveComplete .. | .sealGather .. | .verdictQueryRetry ..
  | .commit .. | .release .. | .updPrepare .. | .buddySlotValid .. | .retry .. | .retryRepeat .. | .flow ..
  | .laneswap .. | .laneswapRepeat .. | .laneSwitch .. | .laneFail .. | .train .. | .lightDetect ..
  | .lightLoss .. | .trainingTimeout .. | .beacon .. | .beaconSend ..
  | .grandmasterElection .. | .timeOffsetAlarm .. | .epochFlip .. | .drainLimit .. | .injectionRateRaise ..
  | .bankStateWrite .. | .portEnWrite .. | .structLoad .. | .structLoadDone .. | .registerWrite ..
  | .dmaCompletion .. | .dmaTimeout .. | .vfEnableClear .. | .flrVf .. | .flrPf0 .. | .linkDown .. | .ideKm ..
  | .msixUnmask .. | .entdaa .. | .setEndpointId .. | .getEndpointId .. | .getEndpointUuid ..
  | .getMctpVersionSupport .. | .getMessageTypeSupport .. | .getVendorDefinedMessageSupport .. | .regRead ..
  | .regWrite .. | .ownClaim .. | .ownRelease .. | .ownHandover .. | .heartbeat .. | .electionWindowEnd ..
  | .handoverExpire .. | .ownershipLapse .. | .getVersion .. | .getCapabilities .. | .negotiateAlgorithms ..
  | .getDigests .. | .getCertificate .. | .challenge .. | .getMeasurements .. | .keyExchange .. | .finish ..
  | .endSession .. | .spdmHeartbeat .. | .keyUpdate .. | .mldsaSig .. | .getChain .. | .attest .. | .report ..
  | .log .. | .callSubmit .. | .callStart .. | .callComplete .. | .loadProgram .. | .stepLoop .. | .seal ..
  | .ingest .. | .batchLanded .. | .checkpoint .. | .restoreCall .. | .replay .. | .install .. | .clearwin ..
  | .probe .. | .probeTimeout .. | .errlogRead .. | .cancel .. | .fwbeat .. | .hoursWrite .. | .warmReset ..
  | .perst .. | .apply .. | .svnCommit .. | .fuseOpDone .. | .erase .. | .program .. | .flashRead ..
  | .switch .. | .confirm .. | .flashOpDone .. | .errRecordWrite .. | .errRingWrite .. | .registerUpset ..
  | .take .. | .fence .. | .fenceTimeout .. | .fenced .. | .unfence .. | .partReset .. | .partDone ..
  | .portReset .. | .quarantineExpire .. | .inputSample .. | .shedStageLift .. | .holdupExpire ..
  | .retentionExpire .. | .stage5Exit .. | .modeSelect .. | .railSettled .. | .refclkLoss .. | .refclkReturn ..
  | .thermalSample .. | .thermalLevelDrop .. | .thermalCooldown .. | .targetD0 .. | .targetIdle ..
  | .targetDrowse .. | .powerApply .. | .storeCharged .. | .perstDeassertion .. | .vfEnableSet .. => true

end Sys2Proof
end

