-- ==== Sys2Proof/Tests/Slice0.lean ====
section
/-! SUPPORT. Tests of the model on small states: for every statement a state that meets its hypotheses and what the command
then does there, in named theorems; the ill-formed commands that WellFormed refuses; known answers of two codes. -/

open Sys2Proof Sys2Proof.Machine

namespace Sys2Proof.Tests

set_option Elab.async false

/-! ### Building small states -/

/-- Registers set, each by field, index and value. -/
def sets (l : List (Field × Nat × Nat)) (s : State) : State := l.foldl (fun s e => fset s e.1 e.2.1 e.2.2) s

/-- What holds after a command; false when it has no next state. -/
def after (i : Instr) (s : State) (p : State → Bool) : Bool :=
  match exec i s with
  | .next t => p t
  | _ => false

/-- A partition that has every core of die 0, the first MiB of the address space, open to the fabric and groups 3 and 4, of job 7. -/
def devImg : PartImg :=
  { groups := [0xFFFF_FFFF_FFFF_FFFF], pgroups := [3, 4], job := 7, wcmask := 1, carve := [{ base := 0, len := 2 ^ 20, use := 1 }] }

/-- A device that has booted, with its link up, owned by the host, and with that partition. -/
def dev : State :=
  sets [(.rotBootStatusStage, 0, 2), (.hstOwnStatusState, 0, 2), (.hstOwnStatusOwner, 0, 1), (.hstLinkStatusUp, 0, 1),
      (.hstOwnPolicyLock, 0, 1), (.rotPmapValid, 0, 1), (.rotPmapQmask, 0, 3), (.sklDevidDevid, 0, 5), (.sklDevidValid, 0, 1),
      (.coreBalCtrlDynamic, 0, 1), (.hstOwnPolicyFmdev, 0, 9), (.hstOwnPolicyFmep, 0, 268)]
    { pwr := { cold := false }, parts := [(0, { enabled := true, img := devImg })], fns := [(0, { memSpace := true })],
      hub := { i3cAddr := some 9 } }

/-- Core 0 runs, its streams as given. -/
def running (x : CoreX) (s : State) : State :=
  sets [(.coreSeqCtrlRun, 0, 1), (.coreSeqStatusState, 0, 1)] { s with cores := [(0, x)] }

/-- All four streams of a core stand running at address 0. -/
def streams : CoreX :=
  { sm := { run := .running }, sl := { run := .running }, ss := { run := .running }, sc := { run := .running } }

/-- A word at row 0, or stream address 0, of core 0. -/
def withWord (n w : Nat) (s : State) : State := mput s (cellsAt (winAddr 0 storeOff) (leBytes n w))

/-- A control word by its operation, condition, immediate and parameter (05 R101). -/
def mWord (op cond imm psel : Nat) : Nat := psel * 2 ^ 10 + imm * 2 ^ 232 + cond * 2 ^ 248 + op * 2 ^ 251

/-- A stream word by its operation, condition, immediate and parameter (05 R111). -/
def sWord (op cond imm psel : Nat) : Nat := psel * 2 ^ 40 + imm * 2 ^ 48 + cond * 2 ^ 120 + op * 2 ^ 123

/-- The M stream of core 0 stands at the control word `w`. -/
def atM (w : Nat) : State := withWord 32 w (running streams dev)

/-- A side stream of core 0 stands at the stream word `w`. -/
def atS (w : Nat) : State := withWord 16 w (running streams dev)

/-- A descriptor of core 0. -/
def withDesc (h d : Nat) (s : State) : State := mput s (cellsAt (winAddr 0 (descOff + 64 * h)) (leBytes 64 d))

/-- A descriptor of F32 elements by base, kind, tile and extents (06 R135). -/
def f32Desc (base kind t0 t1 d0 d1 d2 : Nat) : Nat :=
  base + 4 * 2 ^ 48 + kind * 2 ^ 52 + d0 * 2 ^ 64 + d1 * 2 ^ 96 + d2 * 2 ^ 128 + t0 * 2 ^ 208 + t1 * 2 ^ 224 + 4 * t0 * 2 ^ 256

/-! ### The block -/

theorem witness_StepRunsFrontCommand : ({ dev with pending := [.entdaa (.entdaa 9), .perst] } : State).pending = .entdaa (.entdaa 9) :: [.perst] := by
  decide +kernel

theorem witness_EmptyQueueLetsTimePass : dev.pending = [] ∧ dev.net.slew = 0 ∧
    (match step dev with | .next t => fget t .sklTimeNow 0 == 10 | _ => false) = true := by decide +kernel

theorem witness_StepKeepsForms : Claims.Inv dev ∧ ∃ t, step dev = .next t := by
  constructor
  · unfold Claims.Inv; decide +kernel
  · exact ⟨_, rfl⟩

theorem witness_FusesOnlyRise : ∃ t, step { dev with fuses := { svnFw := 3 } } = .next t := ⟨_, rfl⟩

/-! ### The sequencer (05) -/

theorem witness_SequencerWords_next : Claims.atOp (atM (mWord 0 0 0 0)) 0 .m 0 ⟨.m, 0, mWord 0 0 0 0⟩ ∧
    after (.next 0) (atM (mWord 0 0 0 0)) (fun t => (t.core 0).sm.pc == 1) = true := by
  unfold Claims.atOp; decide +kernel

theorem witness_SequencerWords_snop : Claims.atOp (atS (sWord 0 0 0 0)) 0 .l 0 ⟨.l, 0, sWord 0 0 0 0⟩ ∧
    after (.snop 0 .l) (atS (sWord 0 0 0 0)) (fun t => (t.core 0).sl.pc == 1) = true := by
  unfold Claims.atOp; decide +kernel

/-- A LOOP of `n` iterations whose ENDL stands at row 5. -/
def atLoop (n : Nat) : State := mput (atM (mWord 1 0 5 n)) (cellsAt (winAddr 0 (storeOff + 160)) (leBytes 32 (mWord 2 0 0 0)))

/-- A count of 3 and a count of 0 (05 R102). -/
theorem witness_SequencerWords_loop : Claims.atOp (atLoop 3) 0 .m 1 ⟨.m, 0, mWord 1 0 5 3⟩ ∧
    after (.loop 0 .m) (atLoop 3) (fun t => (t.core 0).sm.loops == [⟨1, 5, 3⟩] && (t.core 0).sm.pc == 1) = true ∧
    Claims.atOp (atLoop 0) 0 .m 1 ⟨.m, 0, mWord 1 0 5 0⟩ ∧
    after (.loop 0 .m) (atLoop 0) (fun t => (t.core 0).sm.loops == [] && (t.core 0).sm.pc == 6) = true := by
  unfold Claims.atOp; decide +kernel

/-- The M stream stands at the ENDL of row 2 with `n` iterations left. -/
def atEndl (n : Nat) : State :=
  mput (running { streams with sm := { run := .running, pc := 2, loops := [⟨1, 2, n⟩] } } dev)
    (cellsAt (winAddr 0 (storeOff + 64)) (leBytes 32 (mWord 2 0 0 0)))

theorem witness_SequencerWords_endl : Claims.atOp (atEndl 2) 0 .m 2 ⟨.m, 2, mWord 2 0 0 0⟩ ∧
    after (.endl 0 .m) (atEndl 2) (fun t => (t.core 0).sm.loops == [⟨1, 2, 1⟩] && (t.core 0).sm.pc == 1) = true ∧
    Claims.atOp (atEndl 1) 0 .m 2 ⟨.m, 2, mWord 2 0 0 0⟩ ∧
    after (.endl 0 .m) (atEndl 1) (fun t => (t.core 0).sm.loops == [] && (t.core 0).sm.pc == 3) = true := by
  unfold Claims.atOp; decide +kernel

/-- P[9] is 0: COND 1 branches, COND 2 does not (05 R103). -/
theorem witness_SequencerWords_br : Claims.atOp (atM (mWord 3 1 7 9)) 0 .m 3 ⟨.m, 0, mWord 3 1 7 9⟩ ∧
    Claims.branches 1 (pget (atM (mWord 3 1 7 9)) 0 9) ∧
    after (.br 0 .m) (atM (mWord 3 1 7 9)) (fun t => (t.core 0).sm.pc == 7) = true ∧
    Claims.atOp (atM (mWord 3 2 7 9)) 0 .m 3 ⟨.m, 0, mWord 3 2 7 9⟩ ∧ ¬ Claims.branches 2 (pget (atM (mWord 3 2 7 9)) 0 9) ∧
    after (.br 0 .m) (atM (mWord 3 2 7 9)) (fun t => (t.core 0).sm.pc == 1) = true := by
  unfold Claims.atOp Claims.branches; decide +kernel

/-- SETP of 0x8000 to the whole register is sign-extended; to bits 31:16 it is not (05 R102). -/
theorem witness_SequencerWords_setp : Claims.atOp (atM (mWord 4 0 0x8000 9)) 0 .m 4 ⟨.m, 0, mWord 4 0 0x8000 9⟩ ∧
    after (.setp 0 .m) (atM (mWord 4 0 0x8000 9)) (fun t => pget t 0 9 == 0xFFFF_FFFF_FFFF_8000) = true ∧
    Claims.atOp (atM (mWord 4 1 0x8000 9)) 0 .m 4 ⟨.m, 0, mWord 4 1 0x8000 9⟩ ∧
    after (.setp 0 .m) (atM (mWord 4 1 0x8000 9)) (fun t => pget t 0 9 == 0x8000_0000) = true := by
  unfold Claims.atOp; decide +kernel

theorem witness_SequencerWords_addp : Claims.atOp (atM (mWord 5 0 0xFFFF 9)) 0 .m 5 ⟨.m, 0, mWord 5 0 0xFFFF 9⟩ ∧
    after (.addp 0 .m) (atM (mWord 5 0 0xFFFF 9)) (fun t => pget t 0 9 == 2 ^ 64 - 1) = true := by
  unfold Claims.atOp; decide +kernel

theorem witness_SequencerWords_setlc : Claims.atOp (atM (mWord 8 7 0xFFFF 0)) 0 .m 8 ⟨.m, 0, mWord 8 7 0xFFFF 0⟩ ∧
    after (.setlc 0) (atM (mWord 8 7 0xFFFF 0)) (fun t => fget t .coreLcCount 7 == 0xFFFF) = true := by
  unfold Claims.atOp; decide +kernel

theorem witness_SequencerWords_halt : Claims.atOp (atM (mWord 7 0 0 0)) 0 .m 7 ⟨.m, 0, mWord 7 0 0 0⟩ ∧
    after (.halt 0 .m) (atM (mWord 7 0 0 0)) (fun t => (t.core 0).sm.run == .halted && (t.core 0).sm.pc == 0) = true := by
  unfold Claims.atOp; decide +kernel

/-! ### Work counters and moves (06) -/

/-- A WORK word with VARY on counter 0 with an increment of 4 into P[9]. -/
def workWord : Nat := mWord 6 0 4 9 + 2 ^ 231

theorem witness_WorkCounterClaims_work : Claims.atOp (atM workWord) 0 .m 6 ⟨.m, 0, workWord⟩ ∧
    after (.work 0 .m) (atM workWord) (fun t => t.ctrQueue == [(0, .claim 0 .m 4)]) = true := by
  unfold Claims.atOp; decide +kernel

/-- Counter 0 counts from 8 to 10; a claim of 4 waits. -/
def counting (next : Nat) : State :=
  sets [(.hstWorkNext, 0, next), (.hstWorkLimit, 0, 10)] { running streams dev with ctrQueue := [(0, .claim 0 .m 4)] }

theorem witness_WorkCounterClaims_fetchadd :
    Claims.behindArms (Claims.asksOf (counting 8) 0) = [.claim 0 .m 4] ∧ fget (counting 8) .hstWorkNext 0 < 2 ^ 32 ∧
    fget (counting 8) .hstWorkLimit 0 < 2 ^ 32 ∧ fget (counting 8) .hstWorkBase 0 < 2 ^ 32 ∧
    after (.workFetchadd 0) (counting 8) (fun t => fget t .hstWorkNext 0 == 10 && (t.core 0).answers == [(.m, 8)]) = true ∧
    after (.workFetchadd 0) (counting 10) (fun t => fget t .hstWorkNext 0 == 10 &&
      (t.core 0).answers == [(.m, 0xFFFF_FFFF)]) = true := by decide +kernel

/-- Before a claim without a core and after it stand arms to BASE = 6. -/
def armed : State :=
  sets [(.hstWorkNext, 0, 10), (.hstWorkLimit, 0, 10), (.hstWorkBase, 0, 6)]
    { dev with ctrQueue := [(0, .arm), (1, .arm), (0, .orphan 2), (0, .arm)] }

theorem witness_WorkCounterClaims_arms :
    Claims.behindArms (Claims.asksOf armed 0) = [.orphan 2, .arm] ∧ Claims.nextArmed armed 0 (Claims.asksOf armed 0) 10 = 6 ∧
    after (.workFetchadd 0) armed (fun t => fget t .hstWorkNext 0 == 6 && t.ctrQueue == [(1, .arm)]) = true := by decide +kernel

/-- The claim of a WORK word that names P[9] is answered with 8. -/
def answered : State :=
  let x : CoreX := { sm := { run := .running, done := { begun := true, claimed := true } }, answers := [(.m, 8)] }
  withWord 32 workWord (running x dev)

theorem witness_WorkCounterClaims_answer : (answered.core 0).answers = (.m, 8) :: [] ∧
    fetchWord answered 0 .m 0 = some ⟨.m, 0, workWord⟩ ∧ (answered.core 0).sm.done.claimed = true ∧
    after (.workAnswer 0 .m) answered (fun t => pget t 0 9 == 8 && (t.core 0).sm.pc == 1) = true := by decide +kernel

/-- A stream word of HANDLE 1, XHANDLE 2 and LADDR 4 at a stream of core 0, with the descriptors given. -/
def moveAt (op d x : Nat) : State :=
  withDesc 2 x (withDesc 1 d (atS (sWord op 0 0 0 + 1 * 2 ^ 78 + 4 * 2 ^ 64 + 2 * 2 ^ 30)))

def moveWord (st : Stream) (op : Nat) : WordX := ⟨st, 0, sWord op 0 0 0 + 1 * 2 ^ 78 + 4 * 2 ^ 64 + 2 * 2 ^ 30⟩

/-- A tensor of 4 by 2 elements at 0x1000 as one tile. -/
def tensorAt (base : Nat) : Nat := f32Desc base 0 4 2 4 2 1
/-- Its extents are read from 0x2000. -/
def boundTensor : Nat := tensorAt 0x1000 + 2 * 2 ^ 56 + 2 * 2 ^ 58 + 2 * 2 ^ 60 + 0x2000 * 2 ^ 160

/-- The word reads no bounds, and nothing that it needs is in a host's memory. -/
def atHand (s : State) (st : Stream) (w : WordX) : Bool :=
  let b := boundAtIssue s 0 w
  ((s.core 0).stream st).bound == none && !needsBounds s 0 w &&
    (stageHost (holdMove s 0 w b) (partOfCore s 0) .event (indexNeeds s 0 w b)).isNone

theorem witness_MovesStart_load : Claims.atMove (moveAt 8 (tensorAt 0x1000) 0) 0 .l 8 (moveWord .l 8) ∧
    atHand (moveAt 8 (tensorAt 0x1000) 0) .l (moveWord .l 8) = true ∧
    after (.load 0) (moveAt 8 (tensorAt 0x1000) 0) (fun t => (t.core 0).sl.pc == 1 && (t.core 0).loads.length == 1) = true := by
  unfold Claims.atMove; decide +kernel

theorem witness_MovesStart_bounds : Claims.atMove (moveAt 8 boundTensor 0) 0 .l 8 (moveWord .l 8) ∧
    ((moveAt 8 boundTensor 0).core 0).sl.bound = none ∧ needsBounds (moveAt 8 boundTensor 0) 0 (moveWord .l 8) = true ∧
    after (.load 0) (moveAt 8 boundTensor 0) (fun t => (t.core 0).sl.pc == 0 && (t.core 0).sl.done.bounds) = true := by
  unfold Claims.atMove; decide +kernel

/-- The index tensor of 2 rows at 0x2000 for GATHER and SCATTER. -/
def indexAt : Nat := 0x2000 + 1 * 2 ^ 52 + 2 * 2 ^ 64 + 2 * 2 ^ 96 + 1 * 2 ^ 128 + 4 * 2 ^ 208 + 2 * 2 ^ 224 + 4 * 2 ^ 256

theorem witness_MovesStart_gather : Claims.atMove (moveAt 9 (tensorAt 0x1000) indexAt) 0 .l 9 (moveWord .l 9) ∧
    atHand (moveAt 9 (tensorAt 0x1000) indexAt) .l (moveWord .l 9) = true ∧
    after (.gather 0) (moveAt 9 (tensorAt 0x1000) indexAt) (fun t => (t.core 0).loads.length == 1) = true := by
  unfold Claims.atMove; decide +kernel

theorem witness_MovesStart_store : Claims.atMove (moveAt 10 (tensorAt 0x1000) 0) 0 .s 10 (moveWord .s 10) ∧
    atHand (moveAt 10 (tensorAt 0x1000) 0) .s (moveWord .s 10) = true ∧
    after (.store 0) (moveAt 10 (tensorAt 0x1000) 0) (fun t => (t.core 0).stores.length == 1) = true := by
  unfold Claims.atMove; decide +kernel

theorem witness_MovesStart_scatter : Claims.atMove (moveAt 11 (tensorAt 0x1000) indexAt) 0 .s 11 (moveWord .s 11) ∧
    atHand (moveAt 11 (tensorAt 0x1000) indexAt) .s (moveWord .s 11) = true ∧
    after (.scatter 0) (moveAt 11 (tensorAt 0x1000) indexAt) (fun t => (t.core 0).stores.length == 1) = true := by
  unfold Claims.atMove; decide +kernel

theorem witness_MovesStart_copy : Claims.atMove (moveAt 12 (tensorAt 0x1000) (tensorAt 0x3000)) 0 .c 12 (moveWord .c 12) ∧
    atHand (moveAt 12 (tensorAt 0x1000) (tensorAt 0x3000)) .c (moveWord .c 12) = true ∧
    after (.copy 0) (moveAt 12 (tensorAt 0x1000) (tensorAt 0x3000)) (fun t => (t.core 0).copies.length == 1) = true := by
  unfold Claims.atMove; decide +kernel
/-- A LOAD word whose bound words at 0x2000 hold 4, 2 and 1. -/
def boundsRead : State :=
  let s := memWrite (moveAt 8 boundTensor 0) (.core 0) (some 0) 0x2000 (leBytes 4 4 ++ leBytes 4 2 ++ leBytes 4 1)
  s.setCore 0 { s.core 0 with sl := { run := .running, done := { begun := true, bounds := true }
                                      bound := some ⟨0, (0, 0, 0), (0, 0, 0)⟩ } }

theorem witness_MovesStart_boundWords :
    ((boundsRead.core 0).stream .l).bound = some ⟨0, (0, 0, 0), (0, 0, 0)⟩ ∧
    fetchWord boundsRead 0 .l 0 = some (moveWord .l 8) ∧ ((boundsRead.core 0).stream .l).done.bounds = true ∧
    (readBounds boundsRead 0 (Desc.of (descOf boundsRead 0 1)) (0, 0, 0)).2 = some (4, 2, 1) ∧
    chooseCharge (rangeCharges boundsRead 0 (moveWord .l 8) (Desc.of (descOf boundsRead 0 1)) (Desc.of (descOf boundsRead 0 2))
      ⟨0, (4, 2, 1), (0, 0, 0)⟩) = none ∧ (moveWord .l 8).usesX = false ∧
    stageHost boundsRead (partOfCore boundsRead 0) .event (boundNeeds boundsRead 0 (moveWord .l 8)) = none ∧
    indexNeeds boundsRead 0 (moveWord .l 8) ⟨0, (4, 2, 1), (0, 0, 0)⟩ = [] ∧
    after (.boundWordsRead 0 .l) boundsRead (fun t => (t.core 0).sl.pc == 1 && (t.core 0).loads.length == 1) = true := by
  decide +kernel

/-- A load into slot 0 of a tracked ring, a store, a transfer and a drained tile that wait for no answer; words with SIGNAL
to local flag 3. -/
def readTile : Readout :=
  { id := 7, kind := .drain, bank := 0, chain := false, word := 2 ^ 226, row := 0, pval := 0, handle := 1, cdesc := 0
    ext := (1, 1, 1), bias := none, chanA := 0, chanB := 0, intPair := false }
def tile : Taken :=
  { req := readTile, t2 := false, regs := [], row := 1, left := 0, mse := .fin 0 0 false, mseIn := 0, mseOut := 0 }
/-- A stream word with SIGNAL to local flag 3. -/
def signalWord : Nat := sWord 8 0 0 0 + 2 ^ 118 + 3 * 2 ^ 88
def aLoad : LoadOp :=
  { id := 5, word := signalWord, plan := [], header := leBytes 8 1, headerAt := 256, ring := some (1, 0), left := 0
    reqs := [], todo := [], got := [] }
def aMove (id : Nat) : MoveOp := { id := id, word := signalWord, left := 0, reqs := [], todo := [], reading := false, plan := [], got := [] }
def answeredMoves : State :=
  running { streams with loads := [aLoad], stores := [aMove 6], copies := [aMove 8], finished := [tile] } dev

theorem witness_MovesComplete :
    ((answeredMoves.core 0).loads.find? fun m => m.id == 5) = some aLoad ∧ aLoad.left = 0 ∧ aLoad.todo = [] ∧ aLoad.ring = some (1, 0) ∧
    after (.loadLand 0 5) answeredMoves (fun t => (t.core 0).loads == [] && ((t.core 0).ring 1).full == [0] &&
      (t.core 0).flag 3 == 1 && mget t (winAddr 0 (larderOff + 256)) == 1) = true ∧
    ((answeredMoves.core 0).stores.find? fun m => m.id == 6) = some (aMove 6) ∧ (aMove 6).left = 0 ∧ (aMove 6).todo = [] ∧
    after (.storeAck 0 6) answeredMoves (fun t => (t.core 0).stores == [] && (t.core 0).flag 3 == 1) = true ∧
    ((answeredMoves.core 0).copies.find? fun m => m.id == 8) = some (aMove 8) ∧ (aMove 8).left = 0 ∧ (aMove 8).reading = false ∧
    after (.copyComplete 0 8) answeredMoves (fun t => (t.core 0).copies == [] && (t.core 0).flag 3 == 1) = true ∧
    ((answeredMoves.core 0).finished.find? (·.acked)) = some tile ∧ tile.req.wordX.tileDone = true ∧
    after (.tileDone 0) answeredMoves (fun t => (t.core 0).finished == [] &&
      tget (fun _ => []) t.posts 0 == [{ core := 0, handle := 1, tile := 0 }]) = true := by decide +kernel

/-- A tile without TILE_DONE is posted nowhere. -/
theorem witness_MovesComplete_quietTile :
    let x := { tile with req := { readTile with word := 0 } }
    ({ tile with req := { readTile with word := 0 } } : Taken).req.wordX.tileDone = false ∧
    after (.tileDone 0) (running { streams with finished := [x] } dev)
      (fun t => (t.core 0).finished == [] && t.posts == dev.posts && t.signals == []) = true := by decide +kernel

/-! ### Waits, rendezvous, marks, seals and signals (05) -/

/-- A word with WAIT on local flag 3 and a slack of 4 cycles, while the flag is 1. -/
def waitWord : Nat := 2 ^ 229 + 3 * 2 ^ 36 + 4 * 2 ^ 2
def waiting : State := withWord 32 waitWord (running { streams with flags := [(3, 1)] } dev)

theorem witness_WaitTakesFlag : atWord waiting 0 .m true = .word ⟨.m, 0, waitWord⟩ ∧
    flagRef 0 (WordX.mk .m 0 waitWord).wflag = some (.loc 0 3) ∧
    waitReady waiting 0 .m 5 ⟨.m, 0, waitWord⟩ ((waiting.core 0).stream .m).done = true ∧
    chooseCharge (allCharges waiting 0 .m ⟨.m, 0, waitWord⟩ (!(Stream.m == .m && feedDue waiting 0 ⟨.m, 0, waitWord⟩))) = none ∧
    after (.waitSatisfied 0 .m 5) waiting (fun t => (t.core 0).flag 3 == 0 && (t.core 0).sm.done.waited &&
      (fget t .updStatusStatus 0).testBit 5) = true ∧
    after (.waitSatisfied 0 .m 4) waiting (fun t => !(fget t .updStatusStatus 0).testBit 5) = true := by decide +kernel

/-- A COPY whose WAIT is satisfied while 64 copies are under way has not issued; with 63 it has. -/
def copyWaits (n : Nat) : State :=
  let s := moveAt 12 (tensorAt 0x1000) (tensorAt 0x3000)
  let s := mput s (cellsAt (winAddr 0 storeOff) (leBytes 16 ((moveWord .c 12).raw + 2 ^ 119 + 3 * 2 ^ 100)))
  s.setCore 0 { s.core 0 with flags := [(3, 1)], copies := List.replicate n (aMove 8) }

theorem witness_WaitTakesFlag_room :
    let w : WordX := ⟨.c, 0, (moveWord .c 12).raw + 2 ^ 119 + 3 * 2 ^ 100⟩
    (∀ n ∈ [63, 64], atWord (copyWaits n) 0 .c true = .word w ∧ flagRef 0 w.wflag = some (.loc 0 3) ∧
      waitReady (copyWaits n) 0 .c 0 w (((copyWaits n).core 0).stream .c).done = true ∧
      chooseCharge (allCharges (copyWaits n) 0 .c w (!(Stream.c == .m && feedDue (copyWaits n) 0 w))) = none ∧
      w.moves = true ∧ w.pfence = false ∧ engineRoom (copyWaits n) 0 w = decide (n < 64)) ∧
    after (.waitSatisfied 0 .c 0) (copyWaits 63) (fun t => (t.core 0).sc.done.begun && (t.core 0).flag 3 == 0) = true ∧
    after (.waitSatisfied 0 .c 0) (copyWaits 64) (fun t => !(t.core 0).sc.done.begun && (t.core 0).sc.done.waited &&
      (t.core 0).flag 3 == 0) = true := by decide +kernel

/-- A HALT that waits for flag 3 and signals it: in its issue cycle it gives back what the WAIT took. -/
theorem witness_WaitTakesFlag_halt :
    let w : WordX := ⟨.m, 0, waitWord + mWord 7 0 0 0 + 2 ^ 228 + 3 * 2 ^ 24⟩
    let s := withWord 32 w.raw (running { streams with flags := [(3, 1)] } dev)
    atWord s 0 .m true = .word w ∧ flagRef 0 w.wflag = some (.loc 0 3) ∧ waitReady s 0 .m 4 w ((s.core 0).stream .m).done = true ∧
    chooseCharge (allCharges s 0 .m w (!(Stream.m == .m && feedDue s 0 w))) = none ∧
    Claims.backAtIssue s 0 .m w (.loc 0 3) = 1 ∧
    after (.waitSatisfied 0 .m 4) s (fun t => (t.core 0).flag 3 == 1 && (t.core 0).sm.done.waited) = true := by
  unfold Claims.backAtIssue; decide +kernel

/-- All streams stand at a PFENCE or have halted; entry 9 of the shadows is dirty and READY is 1. -/
def rendezvous : State :=
  let x : CoreX := { sm := { run := .running }, sl := { run := .halted }, ss := { run := .halted }, sc := { run := .running }
                     dirty := [9] }
  sets [(.coreParamReadyReady, 0, 1), (.corePshadowValue, 9, 77), (.coreStreamBaseBase, 2, 100)]
    (mput (withWord 32 (2 ^ 225) (running x dev)) (cellsAt (winAddr 0 (storeOff + 1600)) (leBytes 16 (2 ^ 115))))

theorem witness_RendezvousPublishesShadows : atWord rendezvous 0 .m true = .word ⟨.m, 0, 2 ^ 225⟩ ∧
    (WordX.mk .m 0 (2 ^ 225)).pfence = true ∧ (rendezvous.core 0).sm.done.fenced = false ∧
    (WordX.mk .m 0 (2 ^ 225)).wait = false ∧ fget rendezvous .coreParamReadyReady 0 = 1 ∧
    (∀ st ∈ [Stream.l, Stream.s, Stream.c], ((rendezvous.core 0).stream st).run = .halted ∨ atFence rendezvous 0 st = true) ∧
    after (.pfenceRendezvous 0) rendezvous (fun t => pget t 0 9 == 77 && fget t .coreParamReadyReady 0 == 0 &&
      (t.core 0).dirty == [] && (t.core 0).sm.done.fenced && (t.core 0).sc.done.fenced) = true := by decide +kernel

/-- A tile of one BF16 element in ring slots of two units: A in descriptor 1 at unit 0, B in descriptor 2 at unit 2. -/
def bf16Desc (rbase : Nat) : Nat :=
  3 * 2 ^ 48 + 1 * 2 ^ 64 + 1 * 2 ^ 96 + 1 * 2 ^ 128 + 1 * 2 ^ 208 + 1 * 2 ^ 224 + 2 * 2 ^ 256 + rbase * 2 ^ 400
/-- The header and the one element of a slot. -/
def slotBytes (x : Nat) : Bytes := leBytes 8 1 ++ leBytes 2 1 ++ List.replicate 118 0 ++ leBytes 2 x
/-- CLR and MMA of one contraction index of BF16 operands in EXACT, no C and no bias. -/
def mmaWord : Nat :=
  1 * 2 ^ 220 + 3 * 2 ^ 214 + 3 * 2 ^ 210 + 2 ^ 205 + 1 * 2 ^ 192 + 1 * 2 ^ 166 + 2 * 2 ^ 156 + 0x3FF * 2 ^ 146
/-- A holds 1.5 and B holds 2. `track` makes A's ring a tracked one. -/
def mmaAt (track : Nat) (x : CoreX) : State :=
  mput (mput (withDesc 2 (bf16Desc 2) (withDesc 1 (bf16Desc 0 + track * 2 ^ 62 + 3 * 2 ^ 420) (withWord 32 mmaWord (running x dev))))
    (cellsAt (winAddr 0 larderOff) (slotBytes 0x3FC0))) (cellsAt (winAddr 0 (larderOff + 256)) (slotBytes 0x4000))

theorem witness_FeedEntersSlot :
    let s := mmaAt 1 { streams with rings := [(1, { full := [0] })] }
    let w : WordX := ⟨.m, 0, mmaWord⟩
    atWord s 0 .m false = .word w ∧ issued w (s.core 0).sm.done = true ∧ w.hA (w.p s 0) = some 1 ∧
    (entersA (s.core 0) w && !(s.core 0).sm.done.feedA) = true ∧ (Desc.of (descOf s 0 1)).rtrack = true ∧
    ((s.core 0).ring 1).feed ∈ ((s.core 0).ring 1).full ∧ (Desc.of (descOf s 0 1)).rslack ≤ 5 ∧
    (Desc.of (descOf s 0 1)).rslack ≠ 255 ∧
    after (.feedSlotReady 0 false 5) s (fun t => (t.core 0).sm.done.feedA && (fget t .updStatusStatus 0).testBit 5) = true := by
  decide +kernel

/-- The same for B, whose descriptor 2 is a tracked ring of 4 slots with slack 3. -/
theorem witness_WaitsFeedsAndRendezvous_feedB :
    let s := withDesc 2 (bf16Desc 2 + 2 ^ 62 + 3 * 2 ^ 420) (mmaAt 0 { streams with rings := [(2, { full := [0] })] })
    let w : WordX := ⟨.m, 0, mmaWord⟩
    atWord s 0 .m false = .word w ∧ issued w (s.core 0).sm.done = true ∧ w.hB (w.p s 0) = some 2 ∧
    (entersB (s.core 0) w && !(s.core 0).sm.done.feedB) = true ∧ (Desc.of (descOf s 0 2)).rtrack = true ∧
    ((s.core 0).ring 2).feed ∈ ((s.core 0).ring 2).full ∧ (Desc.of (descOf s 0 2)).rslack ≤ 3 ∧
    after (.feedSlotReady 0 true 3) s (fun t => (t.core 0).sm.done.feedB && !(fget t .updStatusStatus 0).testBit 5) = true := by
  decide +kernel

/-- A mark waits, the core holds at its SEAL with nothing outstanding, and a signal of device flag 9 is on its way. -/
def marked (phase : SealPhase) (l : Option LoopSvc) : State :=
  let s := running { streams with marks := [⟨1000, 4, 5, .m, false, 0⟩], sealPhase := phase } dev
  { s.setPart 0 { s.part 0 with loop := l } with signals := [.dev 9] }

theorem witness_MarksSealsSignals_marks :
    ((marked .none none).core 0).marks = ⟨1000, 4, 5, .m, false, 0⟩ :: [] ∧ partOfCore (marked .none none) 0 = some 0 ∧
    after (.markRecordPass 0) (marked .none none) (fun t => (t.core 0).marks == [] && t.mem == (marked .none none).mem) = true ∧
    ((marked .none (some { fn := 1, slot := 0, plog := 0x8000, plogn := 4 })).part 0).loop =
      some { fn := 1, slot := 0, plog := 0x8000, plogn := 4 } ∧
    after (.markRecordPass 0) (marked .none (some { fn := 1, slot := 0, plog := 0x8000, plogn := 4 }))
      (fun t => fget t .svcLoopPlogcnt 0 == 1 && mbytes t 0x8000 8 == leBytes 8 1000) = true := by decide +kernel

/-- Its phase log lies in a host window that no mapping holds: the loop ends with DMAERR. -/
theorem witness_MarksSealsSignals_dmaerr :
    let l : LoopSvc := { fn := 1, slot := 0, plog := hostBase, plogn := 4 }
    let s := marked .none (some l)
    ((s.part 0).loop) = some l ∧ hostTakes s hostBase 16 = false ∧
    after (.markRecordPass 0) s (fun t => (t.part 0).loop == none && fget t .svcLoopPlogcnt 0 == 1) = true := by decide +kernel

theorem witness_MarksSealsSignals_seals : ((marked .due none).core 0).sealPhase = .due ∧ fget (marked .due none) .updSealState 0 = 0 ∧
    after (.sealWord 0) (marked .due none) (fun t => (t.core 0).sealPhase == .held && fget t .updSealState 0 == 1) = true ∧
    ((marked .held none).core 0).sealPhase = .held ∧ ((marked .held none).core 0).sealWait = [] ∧
    ((marked .held none).core 0).pipe = [] ∧
    after (.sealReport 0) (marked .held none) (fun t => (t.core 0).sealPhase == .reported && (t.part 0).reported == [0]) = true ∧
    (marked .none none).signals = .dev 9 :: [] ∧
    after .dieOrDeviceFlagSignal (marked .none none) (fun t => flagGet t (.dev 9) == 1 && t.signals == []) = true := by
  decide +kernel

/-- A device flag at 0xFFFF stays so, and the record that this owes is counted or written. -/
theorem witness_MarksSealsSignals_fullFlag :
    let s := flagPut (marked .none none) (.dev 9) 0xFFFF
    s.signals = .dev 9 :: [] ∧ flagGet s (.dev 9) = 0xFFFF ∧
    after .dieOrDeviceFlagSignal s (fun t => flagGet t (.dev 9) == 0xFFFF && t.signals == []) = true := by decide +kernel

/-! ### The matrix unit and the crib (03, 04) -/

/-- A register that holds a number, +∞ and the flag SAT. -/
def dirtyReg : LongReg := { digit := List.replicate 10 7, count := 1, res := 5, lane := .pinf, sat := true }

theorem witness_ClearZeroesBank :
    let s := mmaAt 0 { streams with crib := [(0, dirtyReg)], bank0 := { kind := .ordinary } }
    let w : WordX := ⟨.m, 0, mmaWord⟩
    atWord s 0 .m true = .word w ∧ w.clr = true ∧ issued w (s.core 0).sm.done = true ∧ (s.core 0).sm.done.clr = false ∧
    bankHeld (s.core 0) w.bank (takesBoth (s.core 0) w) = false ∧ bankInPipe (s.core 0) w.bank (takesBoth (s.core 0) w) = false ∧
    after (.mma ⟨0, []⟩) s (fun t => t == s) = true ∧
    after (.clr 0) s (fun t => (t.core 0).sm.done.clr && ((t.core 0).bank0.kind == .empty) && (t.core 0).reg 0 0 == {}) = true := by
  decide +kernel

/-- 1.5 × 2 goes into the pipeline as 3, in units of 2^−304. -/
theorem witness_MatrixWords_mma :
    let s := mmaAt 0 { streams with sm := { run := .running, done := { begun := true, clr := true } } }
    let w : WordX := ⟨.m, 0, mmaWord⟩
    Claims.atMatrix s 0 1 w ∧ w.hA (w.p s 0) = some 1 ∧ w.hB (w.p s 0) = some 2 ∧
    bankHeld (s.core 0) w.bank (takesBoth (s.core 0) w) = false ∧
    after (.mma ⟨0, []⟩) s (fun t => (t.core 0).sm.done.mxu && ((t.core 0).bank0.kind == .ordinary) &&
      ((t.core 0).pipe.map fun e => match e.what with | .add x b => x * 2 ^ b | _ => 0) == [3 * 2 ^ 304]) = true := by
  unfold Claims.atMatrix; decide +kernel

/-- Multiplier 2 of position 0 forms a product that lies 64 too high, in units of its bit 0 (2^291): the term goes in as formed,
the residue path forms 3, and CHECKSUM is set (04 R77; 03 R71). -/
theorem witness_MatrixWords_faultyFeed :
    let s := mmaAt 0 { streams with sm := { run := .running, done := { begun := true, clr := true } } }
    after (.mma ⟨0, [⟨0, 2, 0, 0, 0, 64⟩]⟩) s (fun t => (fget t .updStatusStatus 0).testBit 8 &&
      ((t.core 0).pipe.map fun e => match e.what with
        | .stray x y b => (x * 2 ^ b, y * 2 ^ b)
        | _ => (0, 0)) == [(3 * 2 ^ 304 + 2 ^ 297, 3 * 2 ^ 304)]) = true := by
  decide +kernel
/-- The M stream of core 0 has begun its word `w`. -/
def begunM (w : Nat) (x : CoreX) (s : State) : State :=
  withWord 32 w (running { x with sm := { run := .running, done := { begun := true } } } s)

/-- DRN, LIFT of the tag 0x0013, SPILL and RESTORE. -/
theorem witness_MatrixWords_readouts :
    (atWord (begunM (2 ^ 204) {} dev) 0 .m true = .word ⟨.m, 0, 2 ^ 204⟩ ∧ (WordX.mk .m 0 (2 ^ 204)).drn = true ∧
      (WordX.mk .m 0 (2 ^ 204)).clr = false ∧ (WordX.mk .m 0 (2 ^ 204)).mop = 0 ∧
      after (.drn 0) (begunM (2 ^ 204) {} dev) (fun t => ((t.core 0).readouts.map (·.kind)) == [.drain]) = true) ∧
    (Claims.atMatrix (begunM (2 * 2 ^ 220 + 0x13 * 2 ^ 176) {} dev) 0 2 ⟨.m, 0, 2 * 2 ^ 220 + 0x13 * 2 ^ 176⟩ ∧
      liftEarly (begunM (2 * 2 ^ 220 + 0x23 * 2 ^ 176) {} dev) ⟨.m, 0, 2 * 2 ^ 220 + 0x23 * 2 ^ 176⟩ = false ∧
      after (.lift 0) (begunM (2 * 2 ^ 220 + 0x23 * 2 ^ 176) {} dev) (fun t =>
        ((t.core 0).readouts.map (·.kind)) == [.lift]) = true) ∧
    (Claims.atMatrix (begunM (3 * 2 ^ 220) {} dev) 0 3 ⟨.m, 0, 3 * 2 ^ 220⟩ ∧
      after (.spill 0) (begunM (3 * 2 ^ 220) {} dev) (fun t => ((t.core 0).readouts.map (·.kind)) == [.spill]) = true) := by
  unfold Claims.atMatrix; decide +kernel

/-- A word that restores from the ring of descriptor 1. -/
def restoreWord : Nat := 4 * 2 ^ 220 + 1 * 2 ^ 166

theorem witness_MatrixWords_restore : Claims.atMatrix (begunM restoreWord {} dev) 0 4 ⟨.m, 0, restoreWord⟩ ∧
    (WordX.mk .m 0 restoreWord).hA 0 = some 1 ∧ pget (begunM restoreWord {} dev) 0 0 = 0 ∧
    bankHeld ((begunM restoreWord {} dev).core 0) 0 false = false ∧
    bankInPipe ((begunM restoreWord {} dev).core 0) 0 false = false := by
  unfold Claims.atMatrix; decide +kernel

/-- −5 × 2^70 is on its way to position 3 of bank 0, which holds 2^64. -/
def inserting : State :=
  running { streams with
    pipe := [⟨false, 0, 3, .add (-5) 70⟩]
    crib := [(6, { digit := [0, 1, 0, 0, 0, 0, 0, 0, 0, 0], count := 1, res := 2 ^ 2 })] } dev

theorem witness_InsertionAddsExactly : (inserting.core 0).pipe = ⟨false, 0, 3, .add (-5) 70⟩ :: [] ∧
    ((inserting.core 0).reg 0 3).sweepDue = false ∧ ((inserting.core 0).reg 0 3).sat = false ∧
    ((inserting.core 0).reg 0 3).carry.length = ((inserting.core 0).reg 0 3).digit.length ∧
    (((-5 : Int) * 2 ^ 70).natAbs < 2 ^ (64 * ((inserting.core 0).reg 0 3).digit.length - 2)) ∧
    after (.insertion 0) inserting (fun t => (t.core 0).pipe == [] && ((t.core 0).reg 0 3).ext == 2 ^ 64 - 5 * 2 ^ 70) = true := by
  decide +kernel

/-- A register that has taken 32,768 insertions, with a carry out of its first digit. -/
def fullReg : LongReg :=
  { digit := [5, 0, 0, 0, 0, 0, 0, 0, 0, 0], carry := [-1, 0, 0, 0, 0, 0, 0, 0, 0, 0], count := 32768 }

theorem witness_SweepKeepsValue :
    let s := running { streams with crib := [(6, fullReg)] } dev
    (s.core 0).isChain 0 = false ∧ ((s.core 0).crib.any fun e => e.1 % 2 == 0 && e.2.sweepDue) = true ∧
    0 < fullReg.digit.length ∧ fullReg.sat = false ∧ fullReg.sweep.ext = 5 - 2 ^ 64 ∧
    after (.sweep 0 0) s (fun t => (t.core 0).reg 0 3 == fullReg.sweep) = true := by decide +kernel

theorem witness_ReadoutTakesBank_readout :
    let s := fun k => running { streams with readouts := [{ readTile with kind := k }], crib := [(0, { digit := List.replicate 10 1 })] } dev
    (∀ k ∈ [ReadKind.drain, .lift, .spill], ((s k).core 0).readouts = { readTile with kind := k } :: [] ∧
      bankInPipe ((s k).core 0) 0 false = false ∧ ((s k).core 0).taken.length < 2 ∧ drainFull ((s k).core 0) = false ∧
      liftFull (s k) 0 { readTile with kind := k } = false ∧
      stageHost (s k) (partOfCore (s k) 0) .event ({ readTile with kind := k } : Readout).needs = none) ∧
    after (.readout 0) (s .drain) (fun t => (t.core 0).readouts == [] && (t.core 0).taken.length == 1) = true ∧
    after (.readout 0) (s .lift) (fun t => (t.core 0).readouts == [] && (tget (fun _ => []) t.lifts 0).length == 1) = true ∧
    after (.readout 0) (s .spill) (fun t => (t.core 0).readouts == [] && (t.core 0).taken.length == 1) = true := by
  decide +kernel

/-- A recomputed tile (the word has SHADOW) is compared at once: nothing of it is left. -/
theorem witness_ReadoutTakesBank_shadow :
    let r := { readTile with word := 2 ^ 226 + 2 ^ 74 }
    let s := running { streams with readouts := [r] } dev
    (s.core 0).readouts = r :: [] ∧ bankInPipe (s.core 0) 0 false = false ∧
    stageHost s (partOfCore s 0) .event r.needs = none ∧
    after (.readout 0) s (fun t => (t.core 0).readouts == [] && (t.core 0).taken == []) = true := by decide +kernel

/-- The register holds 2.0 and the tile in memory 1.0, with K = 2 and NMAX = 0: the element exceeds. -/
theorem witness_ReadoutTakesBank_exceeds :
    let r := { readTile with word := 2 ^ 226 + 2 ^ 74, cdesc := f32Desc 0x1000 0 1 1 1 1 1 + 2 * 2 ^ 448 }
    let s := running { streams with readouts := [r], crib := [(0, { digit := [0, 0, 0, 0, 2 ^ 49, 0, 0, 0, 0, 0], res := 2 ^ 305 % resP })] } dev
    let s := sets [(.coreEpiShadowPtrAddr, 0, 0x4000)] (memWrite s (.core 0) (some 0) 0x1000 (leBytes 4 0x3F80_0000))
    (s.core 0).readouts = r :: [] ∧ bankInPipe (s.core 0) 0 false = false ∧ (s.core 0).taken.length < 2 ∧
    drainFull (s.core 0) = false ∧ stageHost s (partOfCore s 0) .event r.needs = none ∧ grantedRun s 0 0x4000 32 = true ∧
    after (.readout 0) s (fun t => (fget t .updStatusStatus 0).testBit 9 && fget t .coreEpiShadowPtrAddr 0 == 0x4020 &&
      !(fget t .updStatusStatus 0).testBit 8 && t.grnQueue.length != 0) = true := by decide +kernel

/-- A second readout begins while the rows of one tile still go out. -/
theorem test_readout_overlaps :
    let s := running { streams with readouts := [readTile], taken := [{ tile with row := 5 }] } dev
    (s.core 0).taken.length < 2 ∧ drainFull (s.core 0) = false ∧
    after (.readout 0) s (fun t => (t.core 0).readouts == [] && ((t.core 0).taken.map (·.row)) == [5, 0]) = true := by decide +kernel

/-- A drained tile stands at its first row, with a C descriptor of one element of F32 at 0x1000. -/
theorem witness_ReadoutTakesBank_drainedRow :
    let x := { tile with req := { readTile with cdesc := f32Desc 0x1000 0 1 1 1 1 1 }, row := 0 }
    let s := running { streams with taken := [x] } dev
    (s.core 0).taken = x :: [] ∧ drainFull (s.core 0) = false ∧ x.rowsLeft ≠ 0 ∧ x.req.kind ≠ .spill ∧
    stageHost s (partOfCore s 0) .event x.needs = none ∧
    after (.drainRowWrite 0) s (fun t => ((t.core 0).taken.map (·.row)) == [1] && t.grnQueue.length == 1) = true := by
  decide +kernel

/-- A spilled tile of 1 row has left or stands at its first row. -/
theorem witness_ReadoutTakesBank_rows :
    let x := { tile with req := { readTile with kind := .spill }, row := 0 }
    let y := { x with row := 64 }
    let s := fun z : Taken => running { streams with taken := [z] } dev
    ((s x).core 0).taken = x :: [] ∧ drainFull ((s x).core 0) = false ∧ x.needs = [] ∧ x.rowsLeft ≠ 0 ∧
    after (.drainRowWrite 0) (s x) (fun t => ((t.core 0).taken.map (·.row)) == [1]) = true ∧
    y.rowsLeft = 0 ∧ after (.drainRowWrite 0) (s y) (fun t => (t.core 0).taken == []) = true := by decide +kernel

/-! ### The vector unit (04) -/

/-- V1 holds 3.0, V2 holds 2.0 and V3 holds 0.5 in lane 0, in binary32, or in binary64; the word takes V1, V2, V3 to V4. -/
def vectorAt (code : Nat) (wide : Bool) : State :=
  let x := if wide then [0x4008_0000_0000_0000, 0x4000_0000_0000_0000, 0x3FE0_0000_0000_0000] else [0x4040_0000, 0x4000_0000, 0x3F00_0000]
  begunM (code * 2 ^ 136 + 4 * 2 ^ 131 + 1 * 2 ^ 126 + 2 * 2 ^ 121 + 3 * 2 ^ 116)
    { vregs := [(256, x.getD 0 0), (512, x.getD 1 0), (768, x.getD 2 0)] } dev

/-- Lane 0 of V4 after an operation. -/
def lane4 (i : Instr) (code : Nat) (wide : Bool) (v : Nat) : Bool :=
  after i (vectorAt code wide) (fun t => (t.core 0).lane 4 0 == v)

theorem witness_VectorArithmetic :
    (∀ code ∈ [0x01, 0x02, 0x03, 0x04, 0x05, 0x06, 0x07, 0x08, 0x09, 0x0A, 0x0B],
      atWord (vectorAt code false) 0 .m true =
        .word ⟨.m, 0, code * 2 ^ 136 + 4 * 2 ^ 131 + 1 * 2 ^ 126 + 2 * 2 ^ 121 + 3 * 2 ^ 116⟩) ∧
    (WordX.mk .m 0 (7 * 2 ^ 136 + 4 * 2 ^ 131)).vop = 7 ∧ ((vectorAt 7 true).core 0).sm.done.vec = false := by decide +kernel

/-- 3 × 2 + 0.5 = 6.5, 3 + 2 = 5, 3 × 2 = 6, max 3, min 2, 3 ÷ 2 = 1.5. -/
theorem test_vector_binary32 : lane4 (.vfma32 0) 1 false 0x40D0_0000 = true ∧ lane4 (.vadd32 0) 2 false 0x40A0_0000 = true ∧
    lane4 (.vmul32 0) 3 false 0x40C0_0000 = true ∧ lane4 (.vmax32 0) 4 false 0x4040_0000 = true ∧
    lane4 (.vmin32 0) 5 false 0x4000_0000 = true ∧ lane4 (.vdiv32 0) 9 false 0x3FC0_0000 = true := by decide +kernel

/-- In binary64; and in binary32 √3 = 1.7320508 and e^3 = 20.085537. -/
theorem test_vector_binary64 : lane4 (.vfma64 0) 6 true 0x401A_0000_0000_0000 = true ∧
    lane4 (.vadd64 0) 7 true 0x4014_0000_0000_0000 = true ∧ lane4 (.vmul64 0) 8 true 0x4018_0000_0000_0000 = true ∧
    lane4 (.vsqrt32 0) 10 false 0x3FDD_B3D7 = true ∧ lane4 (.vexp32 0) 11 false 0x41A0_AF2E = true := by decide +kernel

/-- A begun word of the vector unit without registers. -/
def movesAt (w : Nat) : State := begunM w { vregs := [(256, 0x1122_3344_5566_7788)] } dev

theorem witness_VectorMoves :
    (∀ code ∈ [0x00, 0x0F, 0x10, 0x0C, 0x0D, 0x0E],
      Claims.atVector (movesAt (code * 2 ^ 136 + 4 * 2 ^ 131 + 1 * 2 ^ 126)) 0 code ⟨.m, 0, code * 2 ^ 136 + 4 * 2 ^ 131 + 1 * 2 ^ 126⟩) ∧
    (let w : WordX := ⟨.m, 0, 0x0C * 2 ^ 136 + 4 * 2 ^ 131 + 1 * 2 ^ 126⟩
     stageHost (issueWord (movesAt w.raw) 0 w) (partOfCore (movesAt w.raw) 0) .event (cvtNeeds (movesAt w.raw) 0 w) = none) ∧
    after (.vnop 0) (movesAt 0) (fun t => (t.core 0).sm.done.vec) = true ∧
    after (.vst 0) (movesAt (0x10 * 2 ^ 136 + 1 * 2 ^ 126 + 2 * 2 ^ 96))
      (fun t => (t.core 0).sm.done.vec) = true ∧
    after (.vld 0) (movesAt (0x0F * 2 ^ 136 + 4 * 2 ^ 131 + 2 * 2 ^ 96)) (fun t => (t.core 0).sm.done.vec) = true := by
  unfold Claims.atVector; decide +kernel

/-- VAMAX of lane 0 of V1 = 3.0 and lane 1 = −2.0 sets MAX and MIN of scale register 0 and 1; VSCALE derives scales. -/
theorem test_vector_scales :
    after (.vamax 0) (begunM (0x0D * 2 ^ 136 + 1 * 2 ^ 126 + 1 * 2 ^ 96)
        { vregs := [(256, 0x4040_0000), (257, 0xC000_0000)] } dev) (fun t => (t.core 0).sm.done.vec) = true ∧
    after (.vscale 0) (movesAt (0x0E * 2 ^ 136)) (fun t => (t.core 0).sm.done.vec) = true ∧
    after (.vcvt 0) (movesAt (0x0C * 2 ^ 136 + 4 * 2 ^ 131 + 1 * 2 ^ 126 + 4 * 2 ^ 112 + 4 * 2 ^ 108)) (fun t => (t.core 0).sm.done.vec) = true := by
  decide +kernel
/-! ### The Granary and HBM (07, 08) -/

/-- Line 1 of memory die 0 is valid and holds the bytes 0x85, 0, 0, … with a syndrome for its first byte. -/
def line1 (valid syn : Nat) : State :=
  { mput dev [(32, 0x85)] with grnValid := [(1, valid)], grnSyn := if syn = 0 then [] else [(32, syn)] }

theorem witness_GranaryValidBits : grnReady (line1 0 0) 0 = true ∧ validOf (line1 0 0) (lineOf 32) = 0 ∧
    (grnRead (line1 0 0) 0 (.core 0) (some 0) 32 2).2 = ([0, 0], false) ∧
    validOf (line1 1 0) (lineOf 32) ≠ 0 ∧ validOf (line1 1 0) (lineOf 32) ≠ 3 ∧
    (grnRead (line1 1 0) 0 (.core 0) (some 0) 32 2).2 = ([0x85, 0], true) ∧
    fget (grnRead (line1 1 0) 0 (.core 0) (some 0) 32 2).1 .grnErrTallyUe 0 = 1 := by decide +kernel

theorem witness_GranaryWritesNeverMerge : grnReady (line1 3 0) 0 = true ∧ (∀ e ∈ [((33 : Nat), (7 : Byte))], lineOf e.1 = 1) ∧
    (∀ e ∈ [((40 : Nat), (9 : Byte))], lineOf e.1 = 1) ∧ validOf (line1 3 0) 1 = 3 ∧ validOf (line1 0 0) 1 = 0 ∧
    mbytes (grnWrite (grnWrite (line1 3 0) 0 (.core 0) none [(33, 7)]) 0 (.core 1) none [(40, 9)]) 32 9 =
      [0x85, 7, 0, 0, 0, 0, 0, 0, 9] ∧
    mbytes (grnWrite (line1 0 0) 0 (.core 0) none [(33, 7)]) 32 2 = [0, 7] := by decide +kernel

/-- The example of R164: 0xA5 with d5 flipped reads 0x85, the syndrome 0xA names d5, and the read delivers 0xA5. -/
theorem witness_GranaryCorrectsSingleFlips : grnReady (line1 3 0xA) 0 = true ∧ validOf (line1 3 0xA) (lineOf 32) = 3 ∧
    mget (line1 3 0xA) 32 = 0xA5 ^^^ BitVec.ofNat 8 (2 ^ 5) ∧ synOf (line1 3 0xA) 32 = Claims.dataPositions.getD 5 0 ∧
    (grnRead (line1 3 0xA) 0 (.core 0) none 32 1).2 = ([0xA5], false) ∧
    fget (grnRead (line1 3 0xA) 0 (.core 0) none 32 1).1 .grnErrTallyCe 0 = 1 ∧
    synOf (line1 3 4) 32 ∈ [1, 2, 4, 8] ∧ (grnRead (line1 3 4) 0 (.core 0) none 32 1).2 = ([0x85], false) ∧
    synOf (line1 3 0) 32 = 0 ∧ 13 ≤ synOf (line1 3 13) 32 ∧
    (grnRead (line1 3 13) 0 (.core 0) none 32 1).2 = ([0x85], true) := by decide +kernel

theorem witness_GranaryReturnsWhatWasWritten : grnReady (line1 1 13) 0 = true ∧
    (∀ i, i < 4 → placeOf (30 + i) = .granary 0) ∧
    (memRead (memWrite (line1 1 13) (.core 0) none 30 [1, 2, 3, 4]) (.core 1) none 30 4).2 = ([1, 2, 3, 4], false) := by
  decide +kernel

/-- A request of core 0 waits at bank 1 of die 0, whose slot 5 the schedule gives to core 0. -/
def queued (act : MemAct) : State :=
  { (running { streams with loads := [{ aLoad with left := 1 }] } (line1 3 0)) with
    grnQueue := [⟨0, .load, 5, 32, act, false⟩], grn := [(0, { table := [(4, 0)] })] }

theorem witness_GranaryCommands_access :
    (∀ act ∈ [MemAct.read 1, .held [0x44], .write [(33, 7)]], (queued act).grnQueue.find? (fun r => atBank 0 1 r &&
      slotServes (queued act) 0 (grnOwner (queued act) 0 ((5 + 256 - 1) % 64)) r) = some ⟨0, .load, 5, 32, act, false⟩) ∧
    (∀ m ∈ ((queued (.read 1)).core 0).loads, m.todo = []) ∧ ((queued (.read 1)).core 0).stores = [] ∧
    after (.granaryAccess 0 1 5) (queued (.read 1)) (fun t => t.grnQueue == [] &&
      (t.core 0).loads == [{ aLoad with got := [(32, 0x85)] }]) = true ∧
    after (.granaryAccess 0 1 5) (queued (.held [0x44])) (fun t => t.grnQueue == [] &&
      (t.core 0).loads == [{ aLoad with got := [(32, 0x44)] }]) = true ∧
    after (.granaryAccess 0 1 5) (queued (.write [(33, 7)])) (fun t => t.grnQueue == [] && mget t 33 == 7) = true := by
  decide +kernel

/-- Entry 4 has been written to name core 9; the die is in the state given. -/
def dieAt (k : Nat) : State :=
  sets [(.grnStatusState, 0, k), (.grnCtrlBusy, 0, 1)] { line1 3 0xA with grn := [(0, { written := [(4, 9)] })] }

theorem witness_GranaryCommands_units :
    twf (fun _ => 0) (dieAt 0).grnSyn = true ∧
    after (.granaryRefresh 0 0) (dieAt 0) (fun t => tget (fun _ => 0) (t.grnDie 0).refresh 0 == 1) = true ∧
    after (.granaryRefresh 0 1) (dieAt 0) (fun t => mget t 32 == 0xA5 && synOf t 32 == 0) = true ∧
    twf (fun _ => 0x200) ((dieAt 0).grnDie 0).written = true ∧
    after (.schedFrameApply 0) (dieAt 0) (fun t => grnOwner t 0 4 == 9 && (t.grnDie 0).written == []) = true ∧
    fget (dieAt 1) .grnStatusState 0 = 1 ∧
    after (.flashClearDone 0) (dieAt 1) (fun t => validOf t 1 == 0 && fget t .grnStatusState 0 == 0 && mget t 32 == 0x85) = true ∧
    fget (dieAt 2) .grnStatusState 0 = 2 ∧
    after (.selftestDone 0 { rows := [], banks := [], validBad := false }) (dieAt 2)
      (fun t => validOf t 1 == 0 && mget t 32 == 0 && fget t .grnStatusState 0 == 0) = true := by decide +kernel

/-- Stack 0 is READY and scrubbed; a request of core 0 waits at its first pseudo-channel, whose granule 0 has a deviating
check symbol. -/
def stack0 (act : MemAct) : State :=
  sets [(.hbmStatusState, 0, 1), (.hbmScrubEn, 0, 1)]
    { (running { streams with loads := [{ aLoad with left := 1 }] } dev) with
      hbmQueue := [⟨0, .load, 5, hbmBase, act, true⟩], hbmSyn := [(hbmBase / 64, 1)] }

theorem witness_HbmCommands :
    hbmReady (stack0 (.read 1)) (stackOf 0) = true ∧
    (∀ act ∈ [MemAct.read 1, .held [0x44], .write [(hbmBase, 7)]], (accepted (stack0 act) (stackOf 0)).find? (fun r => pchanOf r.addr == 0) =
      some ⟨0, .load, 5, hbmBase, act, true⟩) ∧
    (∀ x ∈ (stack0 (.write [(hbmBase, 7)])).hbmQueue, x.acked = true) ∧
    (∀ m ∈ ((stack0 (.read 1)).core 0).loads, m.todo = []) ∧ ((stack0 (.read 1)).core 0).stores = [] ∧
    after (.hbmAccess 0) (stack0 (.read 1)) (fun t => t.hbmQueue == []) = true ∧
    after (.hbmAccess 0) (stack0 (.held [0x44])) (fun t => t.hbmQueue == [] &&
      (t.core 0).loads == [{ aLoad with got := [(hbmBase, 0x44)] }]) = true ∧
    after (.hbmAccess 0) (stack0 (.write [(hbmBase, 7)])) (fun t => t.hbmQueue == [] && mget t hbmBase == 7) = true ∧
    after (.hbmRefresh 0 3) (stack0 (.read 1)) (fun t => tget (fun _ => 0) (t.stack 0).refresh 3 == 1) = true ∧
    (let s := { stack0 (.read 1) with hbmQueue := [] }
     fget s .hbmScrubEn 0 = 1 ∧ fget s .pwrStatusPstate 0 ≤ 1 ∧ devOf s (granuleOf hbmBase) = 1 ∧
     (granuleRead (mbytes s (64 * granuleOf hbmBase) 64) (devOf s (granuleOf hbmBase))).2 = (true, false) ∧
     after (.patrolScrub 0) s (fun t => tget (fun _ => 0) (t.stack 0).scrub 0 == 1 && devOf t (granuleOf hbmBase) == 0) = true) ∧
    after (.hbmTempReport 0 86) (stack0 (.read 1)) (fun t => fget t .hbmStatusRefx2 0 == 1 && t.errQueue == []) = true ∧
    after (.hbmTempReport 0 101) (stack0 (.read 1)) (fun t => t.errQueue.length == 1) = true := by decide +kernel

/-- A granule with five check symbols that deviate, more than can be corrected; a scrub finds it. -/
theorem witness_HbmCommands_uncorrectable :
    let s := { stack0 (.read 1) with hbmQueue := [], hbmSyn := [(hbmBase / 64, 0x0908030201)] }
    hbmReady s (stackOf 0) = true ∧ fget s .hbmScrubEn 0 = 1 ∧ fget s .pwrStatusPstate 0 ≤ 1 ∧
    (granuleRead (mbytes s (64 * granuleOf hbmBase) 64) (devOf s (granuleOf hbmBase))).2.2 = true ∧
    after (.patrolScrub 0) s (fun t => fget t .hbmErrTallyUe 0 == 1 && devOf t (granuleOf hbmBase) == 0x0908030201 &&
      ((t.errQueue.map fun e => (e.cls, e.sev)) == [(Cls.code .memory, Sev.code .info)])) = true := by decide +kernel

/-- A byte that a refresh finds uncorrectable. -/
theorem witness_GranaryCommands_refreshUncorrectable :
    let s := line1 3 13
    placeOf 32 = .granary 0 ∧ bankHolds s 0 1 = some (bankOf 32) ∧ rowHolds s 0 1 0 = some (rowOf 32) ∧
    (hammingRead (mget s 32) (synOf s 32)).2.2 = true ∧
    after (.granaryRefresh 0 1) s (fun t => mget t 32 == 0x85 && synOf t 32 == 13 && fget t .grnErrTallyUe 0 == 1 &&
      t.errQueue.length == 1) = true := by decide +kernel

/-! ### Register writes that are commands of their own (00, 13, 18) -/

/-- The host as owner, through PF0. -/
def host : Who := .host 0 false .sound

/-- Core 0 at rest, and running. -/
theorem witness_RunStartsAndStopsCore :
    Claims.admits dev host (coreReg 0 0) 4 (1 + 5 * 2 ^ 16) ∧ fget dev .coreSeqCtrlRun 0 = 0 ∧ inCoreGroup dev 0 = true ∧
    onRetired dev 0 = false ∧
    after (.runStart host 0 5) dev (fun t => coreState t 0 == 1 && (t.core 0).sm.pc == 5) = true ∧
    (let s := running streams dev
     Claims.admits s host (coreReg 0 0) 4 (1 + 5 * 2 ^ 16) ∧ fget s .coreSeqCtrlRun 0 = 1 ∧
     Claims.admits s host (coreReg 0 0) 4 (5 * 2 ^ 16) ∧ coreState s 0 = 1 ∧ ((s.core 0).stream .m).run = .running ∧
     ((s.core 0).stream .m).done.begun = false ∧
     after (.runStop host 0 5) s (fun t => coreState t 0 == 3 && (t.core 0).sm.run == .stopped) = true) := by
  unfold Claims.admits; decide +kernel

theorem witness_ShadowsAndCoreReset :
    (let s := sets [(.coreParamReadyReady, 0, 1)] dev
     Claims.admits dev host (coreReg 0 (0x1000 + 8 * 9)) 8 77 ∧ fget dev .coreParamReadyReady 0 = 0 ∧
     after (.pshadowWrite host 0 9 77) dev (fun t => fget t .corePshadowValue 9 == 77 && (t.core 0).dirty == [9]) = true ∧
     Claims.admits s host (coreReg 0 (0x1000 + 8 * 9)) 8 77 ∧ fget s .coreParamReadyReady 0 = 1 ∧
     after (.pshadowWrite host 0 9 77) s (fun t => fget t .corePshadowValue 9 == 0) = true) ∧
    Claims.admits dev host (coreReg 0 0x300) 4 (ofBool true) ∧
    after (.paramReadyWrite host 0 true) dev (fun t => fget t .coreParamReadyReady 0 == 1) = true ∧
    Claims.admits dev host (coreReg 0 0x40) 4 1 ∧ fget dev .coreResetBusy 0 = 0 ∧
    (∀ p, partOfCore dev 0 = some p → (dev.part p).resetDue = false) ∧
    after (.coreReset host 0) (running streams dev) (fun t => fget t .coreResetBusy 0 == 1 && coreState t 0 == 3) = true ∧
    (let s := sets [(.coreResetBusy, 0, 1)] (running { streams with resetting := some (false, 3) } dev)
     (s.core 0).resetting = some (false, 3) ∧ (∀ r ∈ s.grnQueue ++ s.hbmQueue, r.core ≠ 0) ∧ dmaOfCore s 0 = [] ∧
     after (.coreDone 0) s (fun t => t.core 0 == {} && fget t .coreResetBusy 0 == 0 && coreState t 0 == 0) = true) := by
  unfold Claims.admits; decide +kernel

theorem witness_UnitRegisterRows :
    (∀ i ∈ [(4 : Fin 64), 62, 63], Claims.admits dev host (grnReg 0 (4 * i.val)) 4 9) ∧ fget dev .grnCtrlBusy 0 = 0 ∧
    schedKeepsShared dev 0 4 9 = true ∧
    after (.grnSchedWrite host 0 4 9) dev (fun t => fget t .grnSchedOwner 4 == 9 && grnOwner t 0 4 == 0x1FF) = true ∧
    after (.grnSchedWrite host 0 63 9) dev (fun t => fget t .grnSchedOwner 63 == 0x103) = true ∧
    Claims.admits dev host (grnReg 0 0x400) 4 1 ∧
    after (.flashClear host 0) dev (fun t => fget t .grnStatusState 0 == 1 && fget t .grnCtrlBusy 0 == 1) = true ∧
    Claims.admits dev host (grnReg 0 0x400) 4 4 ∧ after (.selftest host 0) dev (fun t => fget t .grnStatusState 0 == 2) = true := by
  unfold Claims.admits; decide +kernel

/-- An injection of one symbol at an offset of stack 0; a work counter from 5 to 10. -/
theorem witness_UnitRegisterRows_arm :
    Claims.admits dev host 0xC0_0030 8 ((64 + 2 ^ 39) % 2 ^ 42 + 2 ^ 42) ∧ (64 + 2 ^ 39) % 2 ^ 39 / 2 ^ 36 = 0 ∧
    (64 + 2 ^ 39) / 2 ^ 39 % 8 ≠ 0 ∧
    after (.injectArm host 0 (BitVec.ofNat 64 (64 + 2 ^ 39))) dev (fun t => fget t .hbmInjectArm 0 == 1 &&
      fget t .hbmInjectOffset 0 == 64) = true ∧
    (let s := sets [(.hstWorkBase, 0, 5), (.hstWorkLimit, 0, 10)] dev
     Claims.admits s host 0x8_000C 4 (fget s .hstWorkAuto 0 + 2) ∧ (∀ e ∈ s.ctrQueue, e.1 ≠ 0) ∧
     fget s .hstWorkBase 0 < 2 ^ 32 ∧ fget s .hstWorkAuto 0 < 2 ∧
     after (.workArm host 0) s (fun t => fget t .hstWorkNext 0 == 5) = true) := by
  unfold Claims.admits; decide +kernel
/-! ### Collectives (09) -/

/-- Group 3 has two members, of which this device is rank 0 and device 6 rank 1; its list at 0x4000 has one entry. -/
def ring (s : State) : State :=
  memWrite (sets [(.xceGroupEn, 3, 1), (.xceGroupSizem1, 3, 1), (.xceListBase, 3, 0x4000), (.xceListCount, 3, 1),
    (.xceMembersAddr, 3, 0x4800)] s) (.core 0) (some 0) 0x4800 (leBytes 4 5 ++ leBytes 4 6)

/-- An entry of 4 blocks or bytes, in F32, from 0x5000 to 0x6000 with its windows at 0x7000; CONTRIB 1 or PEER 1. -/
def entryOf (op : Nat) : Nat :=
  op + 4 * 2 ^ 8 + 0xFFF * 2 ^ 28 + 4 * 2 ^ 64 + (if op = 0 ∨ op = 2 then 2 ^ 96 else 0) +
    (if op = 3 ∨ op = 5 ∨ op = 6 then 2 ^ 128 else 0) + 0x5000 * 2 ^ 192 + 0x6000 * 2 ^ 256 +
    (if op = 0 ∨ op = 2 then 0x7000 * 2 ^ 320 else 0)

def listed (op : Nat) : State := memWrite (ring dev) (.core 0) (some 0) 0x4000 (leBytes 64 (entryOf op))

theorem witness_CollectivesStart : ∀ e ∈ [(Instr.reduceScatter 3, 0), (Instr.allGather 3, 1), (Instr.allReduce 3, 2),
      (Instr.broadcast 3, 3), (Instr.allToAll 3, 4), (Instr.send 3, 5), (Instr.recv 3, 6)],
    Claims.entryDue (listed e.2) 3 e.2 (entryBytes (listed e.2) 3 0).1 (leBytes 64 (entryOf e.2)) ∧
    ((listed e.2).group 3).poisonLater.contains (grpInst (listed e.2) 3) = false ∧
    ((listed e.2).group 3).badLater = [] ∧
    after e.1 (listed e.2) (fun t => grpState t 3 == 1 && ((t.group 3).entry == some (collEntryOf (leBytes 64 (entryOf e.2)))))
      = true := by
  unfold Claims.entryDue; decide +kernel

/-- The entry is active at group 3, as it stands with `x`. -/
def active (op : Nat) (x : GroupX) : State :=
  sets [(.xceCstatState, 3, 1)] ((listed op).setGroup 3 { x with entry := some (collEntryOf (leBytes 64 (entryOf op))) })

/-- A lifted tile of one block of 32 elements. -/
def liftDesc : Nat := f32Desc 0 0 32 1 32 1 1
def lifted : LiftX := { core := 0, xtag := 3, cdesc := BitVec.ofNat 512 liftDesc, ext := (32, 1, 1), tile := 0, regs := [] }

/-- Block 1 of 4 is rank 0's own; this rank, the one after the owner of block 3, starts that. -/
theorem witness_LiftsAndBlocksStart :
    (let s := { active 0 {} with lifts := [(0, [lifted])] }
     let e := collEntryOf (leBytes 64 (entryOf 0))
     grpActive s 3 = true ∧ (s.group 3).entry = some e ∧ (s.group 3).stopped = false ∧ e.reduces = true ∧ e.contrib ≠ 0 ∧
     tget (fun _ => []) s.lifts 0 = lifted :: [] ∧ lifted.xtag % 16 = 3 ∧ lifted.xtag / 16 = grpInst s 3 ∧
     accInUse s (grpServe s 3) + ((liftParts lifted).filter fun c =>
       decide (c.1 < e.count) && !((s.group 3).acc.any fun a => a.1 == c.1)).length ≤ 4096 ∧
     after (.liftAccumulate 0) s (fun t => tget (fun _ => []) t.lifts 0 == [] &&
       ((t.group 3).acc.map fun a => (a.1, a.2.lifts)) == [(0, 1)]) = true) ∧
    (let s := active 0 { acc := [(3, { elems := [], lifts := 1 })] }
     let e := collEntryOf (leBytes 64 (entryOf 0))
     (s.group 3).sent.contains 3 = false ∧ (ownerOf e.count (grpSize s 3) 3 + 1) % grpSize s 3 = grpRank s 3 ∧
     ownReady s 3 e 3 = true ∧ (starterWindow s 3 e 3).2 = some (2, 0) ∧
     after (.blockReady 3 3) s (fun t => (t.group 3).sent == [3]) = true) := by decide +kernel

/-- A collective packet from device 6 for group 3, job 7. -/
def xcePacket (kind xtag block rest : Nat) (body : Bytes) : Packet :=
  Packet.sealed { type := tXCE, len := BitVec.ofNat 12 (32 + body.length), dstDev := 5, dstEp := 256, srcDev := 6, srcEp := 256
                  tag := 0, vc := 3, hoplim := 8, job := 7, pcrc := 0
                  data := leBytes 32 (kind + xtag * 2 ^ 16 + block * 2 ^ 32 + rest) ++ body }

/-! A packet sealed with its own CRC passes the check of its CRC. -/

theorem crcBit_lt {c : Nat} (h : c < 2 ^ 32) : crcBit c < 2 ^ 32 := by
  unfold crcBit; split
  · exact Nat.xor_lt_two_pow (by omega) (by decide)
  · omega

theorem crcBits_lt (n : Nat) : ∀ {c : Nat}, c < 2 ^ 32 → crcBits n c < 2 ^ 32 := by
  induction n with
  | zero => exact fun h => h
  | succ n ih => exact fun h => ih (crcBit_lt h)

theorem crc32c_lt (b : Bytes) : crc32c b < 2 ^ 32 := by
  have h : ∀ (b : Bytes) (c : Nat), c < 2 ^ 32 → b.foldl (fun c x => crcBits 8 (c ^^^ x.toNat)) c < 2 ^ 32 := by
    intro b
    induction b with
    | nil => exact fun _ h => h
    | cons x b ih => exact fun c h => ih _ (crcBits_lt 8 (Nat.xor_lt_two_pow h (by have := x.isLt; omega)))
  exact Nat.xor_lt_two_pow (h b _ (by decide)) (by decide)

theorem sealed_pcrcOk (p : Packet) : p.sealed.pcrcOk = true := by
  have h : p.sealed.crc = p.crc := rfl
  have l : p.crc < 2 ^ 32 := crc32c_lt _
  simp only [Packet.pcrcOk, h, Bool.or_eq_true, beq_iff_eq]
  right
  show (BitVec.ofNat 32 p.crc).toNat = p.crc
  rw [BitVec.toNat_ofNat, Nat.mod_eq_of_lt l]

/-- The block packet of 32 zero elements for block 0. -/
def blockPkt : Packet := xcePacket 1 3 0 (2 ^ 192) (List.replicate 256 0)

theorem witness_CollectivePackets_block : Claims.collArrived (active 0 {}) blockPkt 1 3 0 (collEntryOf (leBytes 64 (entryOf 0))) ∧
    blockFits (active 0 {}) 3 (collEntryOf (leBytes 64 (entryOf 0))) (xhdrOf blockPkt.data) = true := by
  have h : destCheck (active 0 {}) blockPkt (xceMalformed blockPkt.data) = none := by
    unfold destCheck
    rw [show blockPkt.pcrcOk = true from sealed_pcrcOk _]
    decide +kernel
  unfold Claims.collArrived
  simp only [h, true_and]
  decide +kernel

/-- Poison, bytes. -/
theorem witness_CollectivePackets_bytes :
    (let q := xcePacket 6 3 0 0 []
     Claims.collArrived (active 0 {}) q 6 3 0 (collEntryOf (leBytes 64 (entryOf 0))) ∧
     after (.poisonNotice q) (active 0 {}) (fun t => (t.group 3).stopped && (t.group 3).poisoned) = true) ∧
    (let q := xcePacket 2 3 0 (2 ^ 192) [1, 2, 3, 4]
     let s := active 1 {}
     let e := collEntryOf (leBytes 64 (entryOf 1))
     Claims.collArrived s q 2 3 0 e ∧ (dataPlace s 3 e q (xhdrOf q.data)).2 = some (1, 0x6004, 4) ∧
     chunkFits (2048 * (xhdrOf q.data).block) (q.data.length - 32 - (if (xhdrOf q.data).v then 16 else 0)) 4 = true ∧
     after (.dataPacket q) s (fun t => mbytes t 0x6004 4 == [1, 2, 3, 4]) = true) := by
  unfold Claims.collArrived; decide +kernel

/-- The agreed form of the reducing entry. -/
def agreed (x : GroupX) : State :=
  sets [(.xceCstatState, 3, 1)] ((listed 0).setGroup 3 { x with entry := some { collEntryOf (leBytes 64 (entryOf 0)) with agreed := true } })

theorem witness_CollectivePackets_extents :
    (let q := xcePacket 3 3 2 (2 ^ 192) (leBytes 4 0)
     let e := collEntryOf (leBytes 64 (entryOf 0))
     Claims.collArrived (active 0 {}) q 3 3 0 e ∧ inShard (active 0 {}) 3 e (predRank (active 0 {}) 3) (xhdrOf q.data) = true ∧
     e.agreed = false ∧ after (.extentNotice q) (active 0 {}) (fun _ => true) = true) ∧
    (let q := xcePacket 4 3 0 (2 ^ 192) (leBytes 4 0)
     let e := { collEntryOf (leBytes 64 (entryOf 0)) with agreed := true }
     Claims.collArrived (agreed {}) q 4 3 0 e ∧
     inShard (agreed {}) 3 e (ownerOf e.count (grpSize (agreed {}) 3) (xhdrOf q.data).block) (xhdrOf q.data) = true ∧
     (ownerOf e.count (grpSize (agreed {}) 3) (xhdrOf q.data).block + 1) % grpSize (agreed {}) 3 ≠ grpRank (agreed {}) 3 ∧
     after (.xrec q) (agreed {}) (fun t => (t.group 3).xheld.length == 1) = true) ∧
    (let q := xcePacket 5 3 2 (2 ^ 192) (leBytes 4 0)
     let e := { collEntryOf (leBytes 64 (entryOf 0)) with agreed := true }
     Claims.collArrived (agreed {}) q 5 3 0 e ∧ inShard (agreed {}) 3 e (predRank (agreed {}) 3) (xhdrOf q.data) = true ∧
     after (.agreedNotice q) (agreed {}) (fun t => (t.group 3).windows.length == 1) = true) := by
  unfold Claims.collArrived; decide +kernel

theorem witness_CollectivesComplete :
    let s := active 1 { chunks := [(1, 0)] }
    (s.group 3).entry = some (collEntryOf (leBytes 64 (entryOf 1))) ∧ grpActive s 3 = true ∧ (s.group 3).unacked = 0 ∧
    allReceived s 3 (collEntryOf (leBytes 64 (entryOf 1))) = true ∧ (s.group 3).isSeal = false ∧
    after (.collectiveComplete 3) s (fun t => (t.group 3).entry == none && grpInst t 3 == 1 && grpState t 3 == 3) = true := by
  decide +kernel

/-! ### The seal, the commit and the release (10) -/

/-- A partition whose loop runs, whose list is prepared and whose cores are at rest. -/
def ready (notices : List (Nat × Nat)) : State :=
  let s := sets [(.updSealSgrp, 0, 4), (.xceGroupEn, 4, 1), (.updSealSbuf, 0, 0x9000)] dev
  let s := s.setPart 0 { s.part 0 with loop := some { fn := 1, slot := 0 }, prep := some [] }
  { s with hub := { s.hub with notices := notices } }

theorem witness_SealGathers : readyToGather (ready []) 0 = true ∧ noticeStands (ready []) 0 = false ∧
    after (.sealGather 0) (ready []) (fun t => sealState t 0 == 2 || sealState t 0 == 3 || sealState t 0 == 4) = true ∧
    readyToGather (ready [(6, 7)]) 0 = true ∧ noticeStands (ready [(6, 7)]) 0 = true ∧
    after (.sealGather 0) (ready [(6, 7)]) (fun t => fget t .updSealVerdict 0 == 2) = true := by decide +kernel

/-- A service packet from device 6 with a step and a code. -/
def svcPacket (aux step code : Nat) : Packet :=
  Packet.sealed { type := tSVC, len := 16, dstDev := 5, dstEp := 264, srcDev := 6, srcEp := 264, tag := 0, vc := 22, hoplim := 8
                  job := 7, aux := BitVec.ofNat 16 aux, pcrc := 0, data := leBytes 8 step ++ leBytes 8 code }

/-- A partition in LOST for step 0. -/
def lost (notYet : Bool) : State :=
  let s := sets [(.updSealState, 0, 6)] dev
  s.setPart 0 { s.part 0 with notYet := notYet }

theorem witness_VerdictsTravel :
    (∀ q ∈ [svcPacket 0x20 0 0, svcPacket 0x21 0 0, svcPacket 0x21 0 1, svcPacket 0x21 0 2, svcPacket 0x21 0 3],
      q.type = tSVC ∧ isForUs (lost false) q = true ∧ q.job.toNat ≠ 0 ∧
      destCheck (lost false) q (decide (q.data.length ≠ 16)) = none ∧ partOfJob (lost false) q.job.toNat = some 0) ∧
    sealState (lost false) 0 = 6 ∧ field (svcPacket 0x21 0 1).data 0 8 = fget (lost false) .updStepStep 0 ∧
    after (.verdictAnswer (svcPacket 0x21 0 1)) (lost false) (fun t => fget t .updSealVerdict 0 == 1) = true ∧
    after (.verdictAnswer (svcPacket 0x21 0 0)) (lost false) (fun t => (t.part 0).notYet && sealState t 0 == 6) = true ∧
    after (.verdictQuery (svcPacket 0x20 0 0)) (lost false) (fun t => t.net.out.length != 0 || t.net.inject.length != 0) = true ∧
    (lost true |>.part 0).notYet = true ∧
    after (.verdictQueryRetry 0 100) (lost true) (fun t => !(t.part 0).notYet) = true := by decide +kernel

/-- The rank in LOST hears CLEAN, with and without a checkpoint that holds it, ABORT, and an answer that is none. -/
theorem witness_VerdictsTravel_states :
    let h := (lost false).setPart 0 { (lost false).part 0 with ckptBusy := true }
    sealState h 0 = 6 ∧ fget (lost false) .hstPartCtrlFence 0 = 0 ∧ fget (lost false) .updSealCken 0 = 0 ∧
    ((lost false).part 0).ckptBusy = false ∧
    after (.verdictAnswer (svcPacket 0x21 0 1)) (lost false) (fun t => sealState t 0 == 4 && t.hub.commits == [0]) = true ∧
    after (.verdictAnswer (svcPacket 0x21 0 1)) h (fun t => sealState t 0 == 3) = true ∧
    after (.verdictAnswer (svcPacket 0x21 0 2)) (lost false) (fun t => sealState t 0 == 5 && fget t .updSealVerdict 0 == 2) = true ∧
    after (.verdictAnswer (svcPacket 0x21 0 3)) (lost true) (fun t => sealState t 0 == 6 && !(t.part 0).notYet) = true := by
  decide +kernel

/-- A committing partition with an empty list, and one that is about to release. -/
def committing : State :=
  let s := sets [(.updSealState, 0, 4)] dev
  let s := s.setPart 0 { s.part 0 with prep := some [] }
  { s with hub := { s.hub with commits := [0] } }

theorem witness_CommitWritesList : sealState committing 0 = 4 ∧ (committing.part 0).committed = false ∧
    firstOnEngine committing 0 = true ∧ deviceHeld committing = false ∧
    (committing.part 0).prep = some [] ∧ stageHost committing (some 0) .event (commitReads []) = none ∧
    after (.commit 0 none) committing (fun t => (t.part 0).committed && (t.part 0).releaseDue == some 0 && t.hub.commits == []) =
      true := by decide +kernel

/-- An SGDM entry over 4 elements of F32 (10 R229): weights at 0x8100, first moments at 0x8200, gradient at 0x8300. -/
def updEntry : Nat :=
  4 * 2 ^ 16 + 2 * 2 ^ 21 + 2 ^ 28 + 4 * 2 ^ 64 + 0x8100 * 2 ^ 128 + 0x8200 * 2 ^ 256 + 0x8300 * 2 ^ 384

/-- It is the list of partition 0, snapshot taken. -/
def preparing : State :=
  let s := memWrite dev (.core 0) (some 0) 0x8000 (leBytes 64 updEntry)
  s.setPart 0 { s.part 0 with snapTaken := true, snapList := (0x8000, 1) }

/-- The list as its engine prepares it. -/
def preparedList : List UpdEntry :=
  match prepareList preparing 0 [(0, leBytes 64 updEntry)] with
  | .ok l => l
  | .error _ => []

theorem witness_updPrepare : (preparing.part 0).enabled = true ∧ (preparing.part 0).snapTaken = true ∧
    (preparing.part 0).prep = none ∧ (preparing.part 0).prepFailed = false ∧ sealState preparing 0 ≤ 1 ∧
    fbit preparing .hstPartCtrlFence 0 = false ∧ (preparing.part 0).snapList = (0x8000, 1) ∧
    grantedRun preparing 0 0x8000 64 = true ∧ stageHost preparing (some 0) .event [(0x8000, 64)] = none ∧
    preparedList.length = 1 ∧
    after (.updPrepare 0) preparing (fun t => ((t.part 0).prep.map (·.length)) == some 1) = true := by decide +kernel

/-- The copies disagree in the first element. -/
theorem witness_CommitWritesList_mismatch :
    let s := committing.setPart 0 { committing.part 0 with prep := some preparedList }
    sealState s 0 = 4 ∧ 0 < (preparedList.map (·.nelem)).sum ∧ stageHost s (some 0) .event (commitReads preparedList) = none ∧
    after (.commit 0 (some 0)) s (fun t => sealState t 0 == 7 && t.hub.commits == []) = true := by decide +kernel

/-- A step whose release is due as `k` says: 0 after a commit that raised OVF and CHECKSUM, 1 of a replay, 2 of a resume. -/
def releasing (k : Nat) (carry : List Nat) : State :=
  let s := sets [(.updSealState, 0, 4), (.updStatusStatus, 0, 2)] dev
  s.setPart 0 { s.part 0 with releaseDue := some k, committed := true, carry := carry }

theorem witness_ReleasePreparesAndCopies_release :
    releaseReady (releasing 0 [4, 8]) 0 = true ∧ ((releasing 0 [4, 8]).part 0).releaseDue = some 0 ∧
    fget (releasing 0 [4, 8]) .hstPartCtrlFence 0 = 0 ∧ replayStage (releasing 0 [4, 8]) 0 = none ∧
    fget (releasing 0 [4, 8]) .updSealCken 0 = 0 ∧
    after (.release 0) (releasing 0 [4, 8]) (fun t => fget t .updStepStep 0 == 1 && fget t .svcPulseStep 0 == 1 &&
      (t.part 0).releaseDue == none && fget t .updStatusPrev 0 == 2 && fget t .updStatusStatus 0 == 2 ^ 4 + 2 ^ 8) = true ∧
    after (.release 0) (releasing 0 []) (fun t => fget t .updStatusStatus 0 == 0) = true := by decide +kernel

/-- A release after an ABORT and the release of a resume leave STEP; that of the resume moves the cursor. -/
theorem witness_ReleasePreparesAndCopies_again :
    let i : IngestX := { nbatch := 4, depth := 4, landed := [0], fn := 1 }
    let s := (releasing 1 []).setPart 0 { (releasing 1 []).part 0 with ingest := some i }
    let r := (releasing 2 []).setPart 0 { (releasing 2 []).part 0 with ingest := some i }
    releaseReady s 0 = true ∧ (s.part 0).releaseDue = some 1 ∧ releaseReady r 0 = true ∧ (r.part 0).releaseDue = some 2 ∧
    after (.release 0) s (fun t => fget t .updStepStep 0 == 0 && fget t .svcLoopCursor 0 == 0 && fget t .svcPulseCount 0 == 1 &&
      fget t .updStatusPrev 0 == 2) = true ∧
    after (.release 0) r (fun t => fget t .updStepStep 0 == 0 && fget t .svcLoopCursor 0 == 1) = true := by decide +kernel

/-- The copy of step 9 is written, then its last write is out, then acknowledged; a commit has waited for it in CKWAIT. -/
theorem witness_ReleasePreparesAndCopies_buddy :
    let b : BuddyX := { step := 9, started := true, left := 0, failed := false, payload := 8, cks := 0 }
    let s := sets [(.updSealState, 0, 3), (.updSealCken, 0, 1)] (dev.setPart 0 { dev.part 0 with buddyCopy := some b })
    let r := s.setPart 0 { s.part 0 with buddyCopy := some { b with sealing := true } }
    (s.part 0).buddyCopy = some b ∧ copiesHeld s = false ∧ fbit s .hstPartCtrlFence 0 = false ∧
    after (.buddySlotValid 0) s (fun t => (t.part 0).buddyCopy == some { b with sealing := true, left := 1 } &&
      sealState t 0 == 3 && fget t .updCkptStep 0 == 0) = true ∧
    copiesHeld r = false ∧
    after (.buddySlotValid 0) r (fun t => (t.part 0).buddyCopy == none && fget t .updCkptStep 0 == 9 && sealState t 0 == 4) = true := by
  decide +kernel
/-! ### Links and ports (11) -/

/-- Port 2 is UP with light; `x` is its link state. -/
def linked (x : PortX) (s : State) : State :=
  (sets [(.sklPortStatusState, 2, 2), (.sklPortCtrlEn, 2, 1), (.sklPortCtrlSpthr, 2, 8)] s).setPort 2
    { x with light := true, lanesTx := span 0 32, lanesRx := span 0 32 }

/-- A sequenced flit of zeros with its own CRC (11 R253). -/
def flitOf (seq : Nat) : Flit := mkFlit seq 0 0 false false (List.replicate 120 0)

theorem witness_FlitsAreTakenInOrder :
    let s := linked { expectRx := 4, buffer := [(7, flitOf 7), (8, flitOf 8)] } dev
    portUp s 2 = true ∧ (flitOf 4).ftype = 0 ∧ (flitOf 4).crcOk = true ∧ (flitOf 4).decoded = true ∧
    (flitOf 4).fseq.toNat = (s.port 2).expectRx ∧ (s.port 2).retryWanted = false ∧
    after (.flitReceive 2 (flitOf 4)) s (fun t => (t.port 2).expectRx == 5) = true ∧
    (flitOf 5).fseq.toNat ≠ (s.port 2).expectRx ∧
    after (.flitReceive 2 (flitOf 5)) s (fun t => (t.port 2).expectRx == 4 && t.sent == [.link 2 1 [4]]) = true ∧
    ((linked { expectRx := 4, retryWanted := true } dev).port 2).retryWanted = true ∧
    after (.retryRepeat 2 1000) (linked { expectRx := 4, retryWanted := true } dev) (fun t => t.sent == [.link 2 1 [4]]) = true ∧
    (7, flitOf 7) ∈ (s.port 2).buffer ∧ (s.port 2).resent.1 ≠ 7 ∧
    after (.retry 2 7) s (fun t => t.sent.length == 2 && (t.port 2).resent == (7, 1)) = true ∧
    ((linked { buffer := [(7, flitOf 7)], resent := (7, 15) } dev).port 2).resent = (7, 15) ∧
    after (.retry 2 7) (linked { buffer := [(7, flitOf 7)], resent := (7, 15) } dev) (fun t => portState t 2 == 1) = true ∧
    after (.flow 2 5) s (fun t => (t.port 2).xoff == 5) = true := by decide +kernel

/-- Lane 3 fails, and the substitution that its receiver asks for. -/
def swap3 : SwapX := { lane := 3, spare := 0, count := 84, active := false }

/-- A sound lane; one that fails onto spare 0, or onto spare 1 when spare 0 is bad; the request of the peer and its repetition. -/
theorem witness_SparesCarryLanes :
    let s := linked {} dev
    portUp s 2 = true ∧ 2 ≤ fget s .sklPortCtrlSpthr 2 ∧
    after (.laneFail 2 3 false 16 2 20) s (fun t => fget t .sklLinkTallyCsym 2 == 2 && t.sent == []) = true ∧
    3 ∉ (s.port 2).badRx ∧ laneCarried (s.port 2) 3 = some 3 ∧ sparesOn s = true ∧
    [0, 1].find? (Claims.spareIsFree (s.port 2) 3) = some 0 ∧
    after (.laneFail 2 3 true 0 0 20) s (fun t => (t.port 2).swapsRx == [swap3] && t.sent == [.link 2 2 [3, 0, 84]]) = true ∧
    [0, 1].find? (Claims.spareIsFree ((linked { badRx := [32] } dev).port 2) 3) = some 1 ∧
    (s.port 2).lanesTx.contains 32 = false ∧ (s.port 2).swapsTx.any (fun w => w.spare == 0) = false ∧
    after (.laneswap 2 3 0 84) s (fun t => (t.port 2).swapsTx == [swap3]) = true ∧
    after (.laneswapRepeat 2 4000) (linked { swapsRx := [swap3] } dev) (fun t => t.sent == [.link 2 2 [3, 0, 84]]) = true := by
  decide +kernel

/-- With both spares bad the port trains again; a spare that carries nothing is only noted; at the switch, by either end, the lane
stands on the spare. -/
theorem witness_SparesCarryLanes_switch :
    let s := linked { badRx := [32, 33] } dev
    let u := linked { swapsTx := [swap3], swapsRx := [swap3] } dev
    portUp s 2 = true ∧ laneCarried (s.port 2) 3 = some 3 ∧ [0, 1].find? (Claims.spareIsFree (s.port 2) 3) = none ∧
    after (.laneFail 2 3 true 0 0 20) s (fun t => portState t 2 == 1 && t.sent == [.link 2 4 [devId s, 2]]) = true ∧
    laneCarried ((linked {} dev).port 2) 32 = none ∧
    after (.laneFail 2 32 true 0 0 20) (linked {} dev) (fun t => (t.port 2).badRx == [32] && t.sent == []) = true ∧
    (∀ tx, (Claims.swaps (u.port 2) tx).find? (fun w => w.spare == 0 && !w.active && w.count == 84) = some swap3) ∧
    after (.laneSwitch 2 true 0 84) u (fun t => fget t .sklSpareMapTx0en 2 == 1 && fget t .sklSpareMapTx0 2 == 3 &&
      (t.port 2).lanesTx.getD 3 0 == 32 && (t.port 2).lanesRx == span 0 32) = true ∧
    after (.laneSwitch 2 false 0 84) u (fun t => fget t .sklSpareMapRx0en 2 == 1 && (t.port 2).lanesRx.getD 3 0 == 32) = true := by
  decide +kernel

/-- Port 2 is in the state `k`, enabled, and has failed `fails` trainings in a row. -/
def portIn (k fails : Nat) : State :=
  sets [(.sklPortStatusState, 2, k)] (linked { fails := fails } dev)

/-- All 34 lanes are good, and no fibre is permuted. -/
def allLanes : RxLanes := { good := BitVec.ofNat 34 (2 ^ 34 - 1) }

theorem witness_PortsTrain :
    portState (portIn 0 0) 2 = 0 ∧ opticsOn (portIn 0 0) 2 = true ∧
    after (.lightDetect 2) (portIn 0 0) (fun t => portState t 2 == 1) = true ∧
    after (.lightLoss 2) (portIn 2 0) (fun t => portState t 2 == 0) = true ∧
    after (.lightLoss 2) (portIn 5 0) (fun t => portState t 2 == 5) = true ∧ portState (portIn 1 0) 2 = 1 ∧
    after (.train 2 6 1 40) (portIn 1 0) (fun t => fget t .sklPortStatusPeerdev 2 == 6 && fget t .sklPortStatusRtt 2 == 40 &&
      fget t .sklPortStatusHead 2 == 268) = true ∧
    16 ≤ min (usableLanes (portIn 1 0) (2 ^ 31 - 1) []).length (usableLanes (portIn 1 0) (2 ^ 34 - 1) []).length ∧
    resTooLarge (portIn 1 0) 2 = false ∧
    after (.trainingDone 2 (BitVec.ofNat 34 (2 ^ 32 - 1)) allLanes) (portIn 1 0)
      (fun t => portState t 2 == 2) = true ∧
    after (.trainingDone 2 (BitVec.ofNat 34 (2 ^ 31 - 1)) allLanes) (portIn 1 0)
      (fun t => portState t 2 == 3 && (t.port 2).lanesTx == span 0 16) = true ∧
    after (.trainingDone 2 (BitVec.ofNat 34 (2 ^ 33 - 1 - 8)) allLanes) (portIn 1 0)
      (fun t => portState t 2 == 2 && (t.port 2).lanesTx.getD 3 0 == 32 && (t.port 2).lanesRx == span 0 32) = true := by
  decide +kernel

/-- A cable that crosses the fibres of lanes 0 and 1; a receiver whose lane 5 is bad. -/
theorem witness_PortsTrain_fibres :
    let s := portIn 1 0
    let b : RxLanes := { good := BitVec.ofNat 34 (2 ^ 34 - 1 - 32), fibres := 1 :: 0 :: span 2 32 }
    16 ≤ min (usableLanes s (2 ^ 34 - 1) []).length (usableLanes s (RxLanes.lit b) []).length ∧ resTooLarge s 2 = false ∧
    after (.trainingDone 2 (BitVec.ofNat 34 (2 ^ 34 - 1)) b) s (fun t => portState t 2 == 2 &&
      ((t.port 2).lanesRx.take 2) == [1, 0] && (t.port 2).lanesRx.getD 5 0 == 32 && (t.port 2).badRx == [5]) = true := by
  decide +kernel

theorem witness_PortsTrain_timeout :
    portState (portIn 1 6) 2 = 1 ∧
    after (.trainingTimeout 2 20000) (portIn 1 6) (fun t => portState t 2 == 0 && (t.port 2).fails == 7) = true ∧
    after (.trainingTimeout 2 20000) (portIn 1 7) (fun t => portState t 2 == 5) = true := by decide +kernel

/-- Reservations of the port exceed its buffer when every channel reserves the most. -/
theorem witness_PortsTrain_config :
    let s := ((span 0 48).foldl (fun s c => fset s .sklChanRes (chanIx 2 c) 1000) (portIn 1 0))
    portState s 2 = 1 ∧ resTooLarge s 2 = true ∧
    after (.trainingDone 2 (BitVec.ofNat 34 (2 ^ 32 - 1)) allLanes) s (fun t => portState t 2 == 4) = true := by
  decide +kernel

theorem witness_PortEnableAndReset :
    let word := fun s en => ofBool en + fget s .sklPortCtrlForce16 2 * 2 + fget s .sklPortCtrlSpthr 2 * 2 ^ 8
    let s := portIn 5 0
    let u := linked {} dev
    fget s .sklPortCtrlForce16 2 < 2 ∧ fget s .sklPortCtrlSpthr 2 < 2 ^ 16 ∧
    Claims.admits s host (0x40_1000 + 0x400 * 2) 4 (word s true) ∧ portState s 2 = 5 ∧ (s.port 2).light = true ∧
    fabricOn s = true ∧ fget s .pwrStatusStage 0 < 5 ∧
    after (.portEnWrite host 2 true) s (fun t => portState t 2 == 1) = true ∧
    Claims.admits u host (0x40_1000 + 0x400 * 2) 4 (word u false) ∧ fget u .sklPortCtrlEn 2 = 1 ∧
    after (.portEnWrite host 2 false) u (fun t => portState t 2 == 0 && fget t .sklPortCtrlEn 2 == 0) = true ∧
    Claims.admits u host 0x400 4 (2 ^ 3) ∧
    after (.portReset host 2) u (fun t => portState t 2 == 1 &&
      (t.errQueue.any fun e => e.cls == Cls.code .reset && e.code == 5 && e.unitIdx == 2)) = true := by
  unfold Claims.admits; decide +kernel

/-- A beacon of a better grandmaster at port 2; the device may be one itself when GMPRI is not 0. -/
def beaconOf : BeaconMsg := { gmpri := 1, gmid := 6, hops := 0, bseq := 1, rseq := 0, t3 := 1000, t2 := 0, t4 := 4000 }

theorem witness_BeaconsSetTime :
    let s := linked {} dev
    portUp s 2 = true ∧
    after (.beacon 2 beaconOf) s (fun t => (t.port 2).heard && parentPort t == some 2 && fget t .sklTimeCtrlGmid 0 == 6) = true ∧
    parentPort s = none ∧ ownGm s = some (128, 5) ∧ ownGm (sets [(.sklTimeCtrlGmpri, 0, 255)] s) = none ∧
    after (.beaconSend 2) s (fun t => (t.port 2).bseq == 1 && t.sent.length == 1) = true ∧
    (let u := linked { heard := true, lastGmpri := 1, lastGmid := 6 } dev
     parentPort u = some 2 ∧ after (.grandmasterElection 64000) u (fun t => parentPort t == none && !(t.port 2).heard &&
      fget t .sklTimeCtrlGm 0 == 1) = true) ∧
    1000 < (1001 : Int).natAbs ∧ after (.timeOffsetAlarm 1001 1000) s (fun t => t.errQueue.length == 1) = true := by decide +kernel

/-- A beacon that answers one of ours: with T1 = 1,000, T2 = 5,000, T3 = 6,000 and T4 = 2,000 quarters of a nanosecond the clock
lies 4,000 quarters behind. Before LOCKED the counter jumps by 1,000 ns, after it it is slewed. -/
theorem witness_BeaconsSetTime_locks :
    let s := linked { heard := true, lastGmpri := 1, lastGmid := 6, sentT1 := [(3, 1001)] } dev
    let b : BeaconMsg := { beaconOf with rseq := 3, t2 := 5000, t3 := 6000, t4 := 2000 }
    portUp s 2 = true ∧ offset2 (s.port 2) b = some 8000 ∧ fget s .sklTimeCtrlLocked 0 = 0 ∧
    after (.beacon 2 b) s (fun t => parentPort t == some 2 && fget t .sklTimeCtrlLocked 0 == 1 &&
      fget t .sklTimeNow 0 == fget s .sklTimeNow 0 + 1000) = true ∧
    after (.beacon 2 b) (sets [(.sklTimeCtrlLocked, 0, 1)] s) (fun t => parentPort t == some 2 &&
      fget t .sklTimeNow 0 == fget s .sklTimeNow 0 && t.net.slew == 1000000) = true := by decide +kernel

/-! ### The fabric (11, 12) -/

/-- Epoch 0 routes device 6 out of port 2; bank 0 is LIVE, bank 1 in the state given. -/
def routed (bank1 : Nat) (draining : Nat) : State :=
  sets [(.sklEpochBank0, 0, 2), (.sklEpochBank1, 0, bank1), (.sklEpochDraining, 0, draining), (.sklRouteOut, 6, 2),
    (.sklEpochDrainLimit, 0, 1000)] (linked {} dev)

/-- A WRITE of the device itself to a device. -/
def writeTo (dev' hop : Nat) : Packet :=
  { type := tWRITE, len := 4, dstDev := BitVec.ofNat 17 dev', dstEp := 264, srcDev := 5, srcEp := 264, tag := 0, vc := 20
    hoplim := BitVec.ofNat 8 hop, addr := 0x3000, job := 7, data := [1, 2, 3, 4], pcrc := 0 }

def injecting (p : Packet) (s : State) : State := { s with net := { s.net with inject := [p] } }

/-- The device's own packets: forwarded, out of hops, for itself, unroutable; over a dead port; with a bank that is not LIVE. -/
theorem witness_RouterForwards :
    (∀ p ∈ [writeTo 6 8, writeTo 6 0, writeTo 5 8, writeTo 9 8], p.malformed = false ∧ p.mc = false ∧
      (injecting p (routed 0 0)).net.inject.find? (fun q => q.chan == p.chan) = some p) ∧
    bankState (routed 0 0) false = 2 ∧ bankState dev false ≠ 2 ∧ devValid (routed 0 0) = true ∧
    (writeTo 5 8).dstDev.toNat = devId (routed 0 0) ∧ routeOf (routed 0 0) false 9 = 7 ∧ routeOf (routed 0 0) false 6 = 2 ∧
    portUp (routed 0 0) 2 = true ∧ portUp (sets [(.sklPortStatusState, 2, 0)] (routed 0 0)) 2 = false ∧
    after (.packetRoute .own (writeTo 6 8) []) (injecting (writeTo 6 8) (routed 0 0)) (fun t => t.net.inject == [] &&
      t.sent.length == 2 || (t.port 2).pkts.length + (t.port 2).queue.length != 0) = true := by decide +kernel

/-- A multicast packet of index 1, whose entry is valid and names this device and port 2. -/
def multicast : Packet := { writeTo 1 8 with mc := true }
def branching : State := sets [(.sklMcastValid, 1, 1), (.sklMcastPorts, 1, 4), (.sklMcastLocal, 1, 1)] (injecting multicast (routed 0 0))

theorem witness_RouterForwards_multicast :
    multicast.malformed = false ∧ multicast.mc = true ∧ bankState branching false = 2 ∧
    (branching.net.inject.find? fun q => q.chan == multicast.chan) = some multicast ∧
    fget branching .sklMcastValid 1 = 1 ∧ multicast.hoplim.toNat ≠ 0 ∧
    (portRange.filter fun n => bit (fget branching .sklMcastPorts 1) n.val && Ingress.own != .port n) = [2] ∧
    after (.packetRoute .own multicast []) branching (fun t => t.net.inject == [] && t.sent.length != 0) = true := by decide +kernel

/-- One that is out of hops goes nowhere, to no port and not to this device, and is answered. -/
theorem witness_RouterForwards_multicastHops :
    let p := { multicast with hoplim := 0 }
    let s := { branching with net := { branching.net with inject := [p] } }
    (s.net.inject.find? fun q => q.chan == p.chan) = some p ∧ p.malformed = false ∧ p.mc = true ∧ p.hoplim.toNat = 0 ∧
    after (.packetRoute .own p []) s (fun t => t.sent == s.sent && t.ports == s.ports &&
      t.net.inbox.all fun x => !x.1.mc) = true := by decide +kernel

/-- A packet for this device that port 2 holds goes to its endpoint and leaves the buffer. -/
theorem witness_RouterForwards_held :
    let p := { writeTo 5 8 with job := 0 }
    let s := sets [(.sklChanRes, chanIx 2 p.chan, 40)] (routed 0 0)
    Claims.enters s (takeHeld s 2 p.chan).1 (.port 2) (takeHeld s 2 p.chan).2 p ∧ bankState s false = 2 ∧ p.malformed = false ∧
    p.mc = false ∧ devValid s = true ∧ p.dstDev.toNat = devId s ∧
    after (.packetRoute (.port 2) p []) s (fun t => t.net.inbox.length == 1) = true := by
  refine ⟨⟨rfl, ?_⟩, ?_⟩ <;> decide +kernel

/-- From port 2: a packet of a channel that has no reservation, one of a channel that has, and one too long. -/
theorem witness_RouterForwards_port :
    let p := { writeTo 6 8 with job := 0 }
    let s := sets [(.sklChanRes, chanIx 2 (p.chan % 48), 40)] (routed 0 0)
    p.len.toNat ≤ 2112 ∧ p.ends = true ∧ p.chan < 48 ∧ fget (routed 0 0) .sklChanRes (chanIx 2 p.chan) = 0 ∧
    fget s .sklChanRes (chanIx 2 p.chan) ≠ 0 ∧ 2112 < ({ p with len := 2113 } : Packet).len.toNat ∧
    after (.packetRoute (.port 2) p []) (routed 0 0) (fun t => t.errQueue.length == 1) = true ∧
    after (.packetRoute (.port 2) { p with len := 2113 } []) s (fun t => t.errQueue.length == 1) = true := by decide +kernel

/-- A request from device 6 to the memory of partition 0. -/
def request (type : Byte) (aux : Nat) (data : Bytes) : Packet :=
  Packet.sealed { type := type, len := BitVec.ofNat 12 data.length, dstDev := 5, dstEp := 264, srcDev := 6, srcEp := 264, tag := 0
                  vc := 20, hoplim := 8, addr := 0x3000, job := 7, aux := BitVec.ofNat 16 aux, data := data, pcrc := 0 }

theorem witness_RequestsAreServed :
    Claims.arrives dev (request tWRITE 0 [1, 2, 3, 4]) tWRITE ∧
    after (.write (request tWRITE 0 [1, 2, 3, 4])) dev (fun t => mbytes t 0x3000 4 == [1, 2, 3, 4]) = true ∧
    Claims.arrives dev (request tREAD 4 []) tREAD ∧ stageHost dev (accessPart dev (request tREAD 4 [])) .event [(0x3000, 4)] = none ∧
    after (.read (request tREAD 4 [])) dev (fun t => t.net.inject.length + t.sent.length != 0) = true ∧
    (let u := { svcPacket 0x55 0 0 with job := 0 }.sealed
     u.job = 0 ∧ ¬ (u.vc.toNat = 22 ∧ isFm dev u.srcDev.toNat u.srcEp.toNat = true) ∧ Claims.arrives dev u tSVC ∧
     after (.svcRequest u) dev (fun t => t.errQueue.length == 1) = true) ∧
    Claims.arrives dev (svcPacket 0x55 0 0) tSVC ∧ (0x55 : Nat) ∉ [0x20, 0x21, 0x10, 0x12] ∧ (svcPacket 0x55 0 0).job ≠ 0 ∧
    after (.svcRequest (svcPacket 0x55 0 0)) dev (fun t => t.net.inject.length + t.sent.length != 0) = true := by
  unfold Claims.arrives; decide +kernel

/-- An answer from device 6 to the request of tag 3, which waits as `o` says. -/
def answerOf (type : Byte) (data : Bytes) : Packet :=
  Packet.sealed { type := type, ans := true, len := BitVec.ofNat 12 data.length, dstDev := 5, dstEp := 264, srcDev := 6, srcEp := 264
                  tag := 3, vc := 20, hoplim := 8, job := 7, data := data, pcrc := 0 }
def outstanding (leaves quarantine : Nat) : OutReq :=
  { pkt := writeTo 6 8, part := some 0, why := .event, leaves := leaves, quarantine := quarantine }
def asked (o : List OutReq) : State := { dev with net := { dev.net with out := o.map fun x => (3, x) } }

theorem witness_AnswersEndRequests :
    Claims.arrives dev (answerOf tACK []) tACK ∧ Claims.arrives dev (answerOf tREADDATA [1]) tREADDATA ∧
    Claims.arrives dev (answerOf tNAK []) tNAK ∧ outOf dev (answerOf tACK []).tag.toNat = none ∧
    after (.ack (answerOf tACK [])) dev (fun t => t.errQueue.length == 1) = true ∧
    (∀ e ∈ [(1, 0), (2, 0), (1, 1), (1, 2)], outOf (asked [outstanding e.1 e.2]) 3 = some (outstanding e.1 e.2)) ∧
    after (.ack (answerOf tACK [])) (asked [outstanding 1 0]) (fun t => outOf t 3 == none && t.errQueue == []) = true ∧
    after (.ack (answerOf tACK [])) (asked [outstanding 2 0]) (fun t => outOf t 3 == some (outstanding 1 0)) = true := by
  unfold Claims.arrives; decide +kernel

/-- An EPOCH packet of the fabric manager: bit 0 the epoch, bits 2:1 the kind. -/
def epochPacket (aux : Nat) : Packet :=
  Packet.sealed { type := tEPOCH, len := 0, dstDev := 5, dstEp := 268, srcDev := 9, srcEp := 268, tag := 0, vc := 22, hoplim := 8
                  job := 0, aux := BitVec.ofNat 16 aux, pcrc := 0 }

theorem witness_EpochsTurn :
    bit (epochPacket 0).aux.toNat 0 = epochNow (routed 2 0) ∧
    Claims.epochFrom (routed 2 0) (epochPacket 0) 0 ∧ after (.epochArm (epochPacket 0)) (routed 2 0) (fun t => !draining t) = true ∧
    Claims.epochFrom (routed 2 0) (epochPacket 1) 0 ∧ bit (epochPacket 1).aux.toNat 0 ≠ epochNow (routed 2 0) ∧
    draining (routed 2 0) = false ∧ bankState (routed 2 0) true = 2 ∧
    after (.epochArm (epochPacket 1)) (routed 2 0) (fun t => draining t) = true ∧
    Claims.epochFrom (routed 2 0) (epochPacket 3) 1 ∧ Claims.epochFrom (routed 2 0) (epochPacket 5) 2 ∧
    bankState (routed 2 0) true ≠ 1 ∧ bankState (routed 2 0) true ≠ 3 ∧
    after (.epochRetire (epochPacket 5)) (routed 2 0) (fun t => bankState t true == 0) = true ∧
    after (.epochDone (epochPacket 3)) (routed 2 0) (fun _ => true) = true ∧
    draining (routed 2 1) = true ∧ awaited (routed 2 1) = [] ∧
    after .epochFlip (routed 2 1) (fun t => epochNow t && !draining t) = true ∧ fget (routed 2 1) .sklEpochDrainLimit 0 ≤ 1000 ∧
    after (.drainLimit 1000) (routed 2 1) (fun t => epochNow t && !draining t) = true ∧
    fget (sets [(.sklInjCap, 4, 100)] dev) .sklInjCap 4 < 2 ^ 16 ∧
    after (.injectionRateRaise 4 5000) (sets [(.sklInjCap, 4, 100), (.sklInjRate, 4, 10)] dev) (fun t => fget t .sklInjRate 4 == 100) = true := by
  unfold Claims.epochFrom Claims.arrives; decide +kernel

/-- RETIRED to LOADING is allowed, RETIRED to LIVE is not. -/
theorem witness_BankStatesFollowRule :
    let s := routed 0 0
    (∀ v ∈ [1, 2], Claims.admits s host 0x40_0008 4 (fget s .sklEpochBank0 0 * 4 + v * 16 + fget s .sklEpochDrainLimit 0 * 2 ^ 8)) ∧
    fget s .sklEpochBank0 0 < 4 ∧ fget s .sklEpochBank1 0 < 4 ∧ fget s .sklEpochDrainLimit 0 < 2 ^ 24 ∧
    bankStep s 1 1 = true ∧ after (.bankStateWrite host 1 1) s (fun t => bankState t true == 1) = true ∧
    bankStep s 1 2 = false ∧ after (.bankStateWrite host 1 2) s (fun t => bankState t true == 0) = true := by
  unfold Claims.admits; decide +kernel
/-! ### The structure image, the host link and management (12, 13) -/

/-- A place in stack 0. -/
def imageAt : Nat := hbmBase + 0x1_0000

/-- A load of the image there is under way, for a check only. -/
def loading : State := { sets [(.hbmStatusState, 0, 1)] dev with rot := { dev.rot with op := some (.load imageAt true) } }

theorem witness_StructureLoads :
    Claims.admits dev host 0x10_0808 4 (1 + 4 * ofBool true) ∧ rotBusy dev = false ∧
    after (.structLoad host true) dev (fun t => fget t .rotSimgCtrlStart 0 == 1 && fget t .rotSimgCtrlCheckonly 0 == 1) = true ∧
    loading.rot.op = some (.load imageAt true) ∧ imageAt % 64 = 0 ∧ 128 ≤ imageAt ∧
    (match rotImage loading (imageAt - 128) with | .inr (t, some _) => !t.rot.readErr | _ => false) = true ∧
    after .structLoadDone loading (fun t => t.rot.op == none) = true := by
  unfold Claims.admits; decide +kernel

/-- Stack 0 is READY and holds two bytes at its foot; VF 1 has partition 0. -/
def served : State :=
  let s := mput (sets [(.hbmStatusState, 0, 1)] dev) (cellsAt (hbmBase + 0x40) [7, 8])
  { (s.setPart 0 { s.part 0 with vf := 1 }) with hub := { s.hub with vfEnable := true } }

theorem witness_Bar2ReachesMemory :
    Claims.bar2Reaches served 0 false .sound false 0x40 2 [(hbmBase + 0x40, 2)] ∧
    after (.bar2Read 0 false .sound 0x40 2) served (fun t => t.sent == [.cpl 0 .sc [7, 8]]) = true ∧
    Claims.bar2Reaches served 0 false .sound true 0x40 2 [(hbmBase + 0x40, 2)] ∧ isOwner served (.host 0 false .sound) = true ∧ 2 ≤ payloadMax served ∧
    after (.bar2Write 0 false .sound 0x40 [5, 6]) served (fun t => mbytes t (hbmBase + 0x40) 2 == [5, 6]) = true := by
  unfold Claims.bar2Reaches; decide +kernel

/-- A request that VF 1 may not make before VF Enable, and what becomes of it. -/
theorem witness_Bar2ReachesMemory_turnedAway :
    linkOn dev = true ∧ (requestFault dev 1 false .sound false).isSome = true ∧
    (requestFault dev 0 false .broken true).isSome = true ∧
    after (.bar2Read 1 false .sound 0x40 2) dev (fun t => t.sent.length == 1) = true ∧
    after (.bar2Write 0 false .broken 0x40 [5]) dev (fun t => t.sent == [] && t.errQueue.length == 1) = true := by decide +kernel

/-- The device owned by the baseboard controller. -/
def bmcOwned : State := sets [(.hstOwnStatusOwner, 0, 2)] dev

theorem witness_RegistersAreReached :
    linkOn dev = true ∧ requestFault dev 0 false .sound false = none ∧
    gateOf dev host 0x20_0008 4 none = .pass ∧
    after (.regRead host .bar0 0x20_0008 0) dev (fun t => t.sent.length == 1) = true ∧
    Claims.heard dev (.bmc false) true ∧ Claims.heard dev (.bmc false) false ∧
    (∀ u ∈ piecesOf 0x20_0000 16, gateOf dev (.bmc false) u.1 u.2 none = .pass) ∧
    after (.regRead (.bmc false) .mgmt 0x20_0000 2) dev (fun t => t.sent.length == 2) = true ∧
    after (.regRead (.bmc false) (.operation 9) 0 0) dev (fun t => t.sent.length == 2 && t.errQueue.length == 1) = true ∧
    Claims.admits bmcOwned (.bmc false) 0x8_0000 4 9 ∧
    after (.regWrite (.bmc false) 0x8_0000 0 9) bmcOwned (fun t => t.sent.length == 2) = true ∧
    gateOf bmcOwned (.bmc false) 0x8_0000 4 (some 9) = .pass ∧ Claims.configThere dev 0 false .sound false ∧ Claims.configThere dev 0 false .sound true ∧
    after (.regRead host (.config .vendorId) 0 0) dev (fun t => t.sent == [.cpl 0 .sc (leBytes 4 0x1E47)]) = true ∧
    Claims.admits dev host 0x300_0008 8 9 ∧ after (.registerWrite host (.bar0 0x300_0008 true 9)) dev (fun _ => true) = true ∧
    after (.registerWrite host (.config .busMaster 1)) dev (fun t => (t.fn 0).busMaster) = true := by
  unfold Claims.admits Claims.heard Claims.configThere; decide +kernel

/-- Configuration requests in the clear where IDE is required, and one whose integrity check fails. -/
theorem witness_RegistersAreReached_configTurnedAway :
    let s := sets [(.hstLinkStatusReqide, 0, 1)] dev
    linkOn s = true ∧ (configFault s 0 false .sound false).isSome = true ∧ (configFault s 0 false .sound true).isSome = true ∧
    after (.regRead host (.config .vendorId) 0 0) s (fun t => t.sent == [.cpl 0 .ur []] && t.errQueue.length == 1) = true ∧
    after (.registerWrite host (.config .busMaster 1)) s (fun t => !(t.fn 0).busMaster && t.errQueue.length == 1) = true ∧
    (configFault dev 0 false .broken true).isSome = true := by decide +kernel

/-- A claim that the baseboard controller makes by REG_WRITE while the host owns the module is answered BUSY; its release is not
its to make. -/
theorem witness_RegistersAreReached_ownCtrl :
    let s := sets [(.hstOwnPolicyLock, 0, 1)] dev
    isOwnCtrl 0x118 = true ∧ gateOf s (.bmc false) 0x118 4 (some 1) = .pass ∧
    after (.regWrite (.bmc false) 0x118 0 1) s (fun t => t.sent == [.ibi, .mgmt (.bmc false) kBUSY []]) = true ∧
    after (.regWrite (.bmc false) 0x118 0 2) s (fun t => t.sent == [.ibi, .mgmt (.bmc false) kNOTOWNER []]) = true ∧
    after (.regWrite (.bmc false) 0x118 0 0) s (fun t => t.sent == [.ibi, .mgmt (.bmc false) kSUCCESS []]) = true := by
  decide +kernel

/-- Vector 2 of PF0 is masked and pending, with an address and data. -/
def pendingVector : State :=
  dev.setFn 0 { memSpace := true, busMaster := true, msixEnable := true, vectors := [(2, 0x1000 + 5 * 2 ^ 64 + 2 ^ 96)], pendingVec := [2] }

theorem witness_RegistersAreReached_mask :
    Claims.admits pendingVector (.host 0 false .sound) (0x1_000C + 16 * 2) 4 0 ∧ (pendingVector.fn 0).mayIssue = true ∧
    (pendingVector.fn 0).msixEnable = true ∧ 2 ∈ (pendingVector.fn 0).pendingVec ∧
    after (.msixUnmask 0 false 2) pendingVector (fun t => t.sent == [.msix 0 2 0x1000 5] && (t.fn 0).pendingVec == []) = true := by
  unfold Claims.admits; decide +kernel

theorem witness_ListRegisterHoldsWrite :
    Claims.admits dev (.host 0 false .sound) 0xA0_0018 8 (0x8000 + 3 * 2 ^ 48) ∧
    after (.registerWrite (.host 0 false .sound) (.bar0 0xA0_0018 true (BitVec.ofNat 64 (0x8000 + 3 * 2 ^ 48)))) dev
      (fun t => fget t .updListBase 0 == 0x8000 && fget t .updListCount 0 == 3) = true := by
  unfold Claims.admits; decide +kernel

/-- A read of 4 bytes of host memory is out under tag 9. -/
def dmaOut (quarantine : Bool) : State :=
  let d : DmaX := { tag := 9, fn := 1, part := some 0, hostAddr := 0x10, len := 4, why := .event, devAddr := hostBase, quarantine := quarantine }
  { dev with net := { dev.net with dma := [d] } }

theorem witness_DmaReadsEnd :
    dmaOf dev 9 = none ∧ (ideOf dev 1).any (fun x => !x.secure) = false ∧
    after (.dmaCompletion 9 .sc []) dev (fun t => t.errQueue.length == 1) = true ∧
    (dmaOf (dmaOut false) 9).map (fun d => (d.fn, d.quarantine, d.len)) = some (1, false, 4) ∧
    after (.dmaCompletion 9 .broken [1, 2, 3, 4]) (dmaOut false) (fun t => t.net.dma.length == 1 && t.errQueue.length == 1) = true ∧
    after (.dmaCompletion 9 .sc [1, 2, 3]) (dmaOut false) (fun t => t.net.dma.length == 1 && t.errQueue.length == 1) = true ∧
    after (.dmaCompletion 9 .sc [1, 2, 3, 4]) (dmaOut false) (fun t => t.net.dma == []) = true ∧
    after (.dmaCompletion 9 .ur []) (dmaOut false) (fun t => t.net.dma == [] && t.errQueue.length == 1) = true ∧
    after (.dmaTimeout 9 50) (dmaOut false) (fun t => t.net.dma == [] && t.errQueue.length == 1) = true ∧
    (dmaOf (dmaOut true) 9).map (·.quarantine) = some true ∧
    after (.dmaCompletion 9 .sc [1, 2, 3, 4]) (dmaOut true) (fun t => t.net.dma == [] && t.errQueue.length == 1) = true ∧
    after (.dmaTimeout 9 100) (dmaOut true) (fun t => t.net.dma == [] && t.errQueue == []) = true := by decide +kernel

theorem witness_FunctionsAndLinkReset :
    linkOn served = true ∧ after .vfEnableSet dev (fun t => t.hub.vfEnable) = true ∧ served.hub.vfEnable = true ∧
    after .vfEnableClear served (fun t => !t.hub.vfEnable && (t.part 0).resetDue) = true ∧
    after (.flrVf 1) served (fun t => (t.part 0).resetDue && t.hub.vfEnable) = true ∧
    0 ∈ vfParts served ∧ partOfFn served 1 = some 0 ∧ served.net.dma = [] ∧
    after .flrPf0 served (fun t => !t.hub.vfEnable && !ownedBy t 1 && (t.part 0).resetDue && { t.fn 1 with pendingVec := [] } == ({} : FnX) && { t.fn 0 with pendingVec := [] } == ({} : FnX)) = true ∧
    after .linkDown served (fun t => fget t .hstLinkStatusUp 0 == 0 && !ownedBy t 1 && fget t .hstLinkStatusDowns 0 == 1) = true ∧
    hubOn dev = true ∧
    after (.linkUp true 2 3) (sets [(.hstLinkStatusUp, 0, 0)] dev) (fun t => fget t .hstLinkStatusUp 0 == 1 &&
      fget t .hstLinkStatusRate 0 == 2 && fget t .hstLinkStatusWidth 0 == 3) = true ∧
    after (.linkUp false 2 3) (sets [(.hstLinkStatusUp, 0, 0)] dev) (fun t => fget t .hstLinkStatusUp 0 == 0 &&
      fget t .hstLinkStatusNoflit 0 == 1) = true := by decide +kernel

/-! ### Messages (13, 15) -/

theorem witness_ControlRequestsAreAnswered :
    (let s := { dev with hub := {} }
     hubOn s = true ∧ s.hub.i3cAddr = none ∧ after (.entdaa (.entdaa 9)) s (fun t => t.hub.i3cAddr == some 9) = true) ∧
    after (.entdaa .malformed) dev (fun t => t.sent == [.i3c false 0] && t.errQueue.length == 1) = true ∧
    mctpOn dev .pcie = true ∧ mctpOn dev .i3c = true ∧
    after (.setEndpointId .pcie (.setEid 0x21)) dev (fun t => eidOf t .pcie == 0x21 && eidOf t .i3c == 0) = true ∧
    after (.setEndpointId .i3c (.setEid 0xFF)) dev (fun t => eidOf t .i3c == 0 && t.sent.length == 2) = true ∧
    after (.setEndpointId .pcie (.other 7)) dev (fun t => t.sent.length == 1 && t.errQueue.length == 1) = true ∧
    after (.setEndpointId .pcie .badPacket) dev (fun t => t.sent == [] && t.errQueue.length == 1) = true ∧
    (∀ i ∈ [Instr.getEndpointId .pcie, .getEndpointUuid .pcie, .getMctpVersionSupport .pcie, .getMessageTypeSupport .pcie,
      .getVendorDefinedMessageSupport .pcie], after i dev (fun t => t.sent.length == 1) = true) := by decide +kernel

/-- The second and last packet of a message, and one that is neither last nor short, after 64 bytes that have come. -/
theorem witness_ControlRequestsAreAnswered_packets :
    let x : AsmX := { tag := 9, next := 1, bytes := List.replicate 64 5 }
    let s := { dev with hub := { dev.hub with asm := [(bindingNo .pcie, x)] } }
    let p : McpPacket := { som := false, eom := true, seq := 1, tag := 9, payload := [1, 2] }
    mctpOn s .pcie = true ∧ (s.hub.asm.find? fun e => e.1 == bindingNo .pcie) = some (bindingNo .pcie, x) ∧
    p.payload.length ≤ 64 ∧ x.bytes.length + p.payload.length ≤ 4096 ∧
    after (.setEndpointId .pcie (.packet p)) s (fun t => t.hub.asm == [] &&
      t.hub.arrived == [(bindingNo .pcie, List.replicate 64 5 ++ [1, 2])]) = true ∧
    after (.setEndpointId .pcie (.packet { p with eom := false, payload := List.replicate 64 6 })) s (fun t =>
      t.hub.asm == [(bindingNo .pcie, { x with next := 2, bytes := List.replicate 64 5 ++ List.replicate 64 6 })]) = true ∧
    after (.setEndpointId .pcie .badPacket) s (fun t => t.hub.asm == [] && fget t .hstViolTallyCount 0x0C == 1) = true := by
  decide +kernel

theorem witness_ClaimsReleasesHandovers :
    Claims.heard dev host false ∧ isOwner dev host = true ∧ ownedBy dev (masterOf host) = true ∧
    after (.ownRelease host) dev (fun t => fget t .hstOwnStatusState 0 == 1 && fget t .hstOwnStatusCause 0 == 1) = true ∧
    after (.ownHandover host 2) dev (fun t => fget t .hstOwnStatusState 0 == 3 && fget t .hstOwnStatusSucc 0 == 2) = true := by
  unfold Claims.heard; decide +kernel

/-- The baseboard controller, in an established session, claims a module that nobody owns, that is handed to it, that holds its
election, or that the host owns. -/
def arbiter (state succ lock : Nat) : State :=
  sets [(.hstOwnStatusState, 0, state), (.hstOwnStatusOwner, 0, if state = 2 then 1 else 0), (.hstOwnStatusSucc, 0, succ),
    (.hstOwnPolicyLock, 0, lock)] { dev with hub := { dev.hub with sessions := [⟨2, .i3c, true⟩] } }

theorem witness_ClaimsReleasesHandovers_claims :
    (∀ s ∈ [arbiter 1 0 1, arbiter 3 2 1, arbiter 0 0 1, arbiter 2 0 1],
      Claims.heard s (.bmc true) false ∧ isOwner s (.bmc true) = false ∧ claimValid s (.bmc true) = true) ∧
    outranked (arbiter 1 0 1) (.bmc true) = false ∧
    after (.ownClaim (.bmc true)) (arbiter 1 0 1) (fun t => fget t .hstOwnStatusOwner 0 == 2) = true ∧
    after (.ownClaim (.bmc true)) (arbiter 3 2 1) (fun t => fget t .hstOwnStatusOwner 0 == 2) = true ∧
    after (.ownClaim (.bmc true)) (arbiter 2 0 1) (fun t => fget t .hstOwnStatusOwner 0 == 1 && t.errQueue.length == 1) = true ∧
    precedence (arbiter 0 0 1) 1 = 0 ∧ precedence (arbiter 0 0 1) 2 ≠ 0 ∧
    after (.ownClaim (.bmc true)) (arbiter 0 0 1) (fun t => t.hub.claims.length == 1) = true ∧
    after (.ownClaim (.bmc true)) (arbiter 0 0 0) (fun t => t.hub.claims.length == 1) = true ∧
    after (.heartbeat (.bmc true)) dev (fun t => t.sent.length == 2) = true := by
  unfold Claims.heard; decide +kernel

/-- While a handover to the fabric manager stands, the baseboard controller may not claim. -/
theorem witness_ClaimsReleasesHandovers_successor :
    Claims.heard (arbiter 3 3 1) (.bmc true) false ∧ isOwner (arbiter 3 3 1) (.bmc true) = false ∧
    claimValid (arbiter 3 3 1) (.bmc true) = true ∧ fget (arbiter 3 3 1) .hstOwnStatusSucc 0 ≠ masterOf (.bmc true) ∧
    after (.ownClaim (.bmc true)) (arbiter 3 3 1) (fun t => fget t .hstOwnStatusState 0 == 3 && t.errQueue.length == 1) = true := by
  unfold Claims.heard; decide +kernel

/-- The host's claim waits behind in the same cycle, and the host comes first; a claim of the baseboard controller that it may not
make; a release and a handover that are not its to make. -/
theorem witness_ClaimsReleasesHandovers_refused :
    (let s := { arbiter 1 0 1 with pending := [.ownClaim host] }
     Claims.heard s (.bmc true) false ∧ claimValid s (.bmc true) = true ∧ outranked s (.bmc true) = true ∧
     after (.ownClaim (.bmc true)) s (fun t => fget t .hstOwnStatusState 0 == 1 && t.errQueue.length == 1) = true) ∧
    (let s := sets [(.hstOwnPolicyElig, 0, 1)] (arbiter 1 0 1)
     Claims.heard s (.bmc true) false ∧ claimValid s (.bmc true) = false ∧
     after (.ownClaim (.bmc true)) s (fun t => fget t .hstOwnStatusState 0 == 1 && t.errQueue.length == 1) = true) ∧
    isOwner (arbiter 2 0 1) (.bmc true) = false ∧
    after (.ownRelease (.bmc true)) (arbiter 2 0 1) (fun t => fget t .hstOwnStatusOwner 0 == 1 && t.errQueue.length == 1) = true ∧
    after (.ownHandover (.bmc true) 2) (arbiter 2 0 1) (fun t => fget t .hstOwnStatusState 0 == 2 && t.errQueue.length == 1) = true := by
  unfold Claims.heard; decide +kernel

theorem witness_ElectionsEndAndOwnersLapse :
    let s := { arbiter 0 0 1 with hub := { dev.hub with claims := [{ who := .bmc true, secure := true }] } }
    hubOn s = true ∧ fget s .hstOwnStatusState 0 = 0 ∧ fget s .hstOwnPolicyWindow 0 ≤ 5000 ∧ fget s .hstOwnPolicyLock 0 = 1 ∧
    after (.electionWindowEnd 5000) s (fun t => fget t .hstOwnStatusState 0 == 2 && fget t .hstOwnStatusOwner 0 == 2) = true ∧
    after (.electionWindowEnd 5000) (arbiter 0 0 1) (fun t => fget t .hstOwnStatusState 0 == 1) = true ∧
    after (.electionWindowEnd 5000) (arbiter 0 0 0) (fun t => t.hub.windowDone) = true ∧
    fget (arbiter 3 2 1) .hstOwnStatusState 0 = 3 ∧
    after (.handoverExpire 100) (arbiter 3 2 1) (fun t => fget t .hstOwnStatusState 0 == 1 && fget t .hstOwnStatusCause 0 == 3) = true ∧
    ownedBy bmcOwned 2 = true ∧
    after (.ownershipLapse 2000) bmcOwned (fun t => fget t .hstOwnStatusState 0 == 1 && fget t .hstOwnStatusCause 0 == 2) = true ∧
    ownedBy (sets [(.hstOwnStatusOwner, 0, 3)] dev) 3 = true ∧
    after (.ownershipLapse 1000) (sets [(.hstOwnStatusOwner, 0, 3)] dev) (fun t => fget t .hstOwnStatusState 0 == 1) = true := by
  decide +kernel

/-- An SPDM connection over PCIe, `phase` steps open. -/
def spoken (phase : Nat) (signed : Option Bytes) (sessions : List SessionX) : State :=
  { dev with hub := { dev.hub with spdmPcie := { phase := phase, signedHash := signed }, sessions := sessions, nextSession := 4 } }

theorem witness_ConnectionsOpen :
    (∀ m ∈ [[0x10, 0x84, 0, 0], [0x10, 0x99, 0, 0]], Claims.spdmOn (spoken 0 none []) .pcie false m) ∧
    field [0x10, 0x84, 0, 0] 1 1 ∈ spdmCodes ∧ field [0x10, 0x99, 0, 0] 1 1 ∉ spdmCodes ∧
    after (.getVersion .pcie [0x10, 0x84, 0, 0]) (spoken 0 none []) (fun t => (spdmOf t .pcie).phase == 1) = true ∧
    after (.getVersion .pcie [0x10, 0x99, 0, 0]) (spoken 0 none []) (fun t => (spdmOf t .pcie).phase == 0 && t.sent.length == 1) = true ∧
    (spdmOf (spoken 1 none []) .pcie).phase = 1 ∧
    after (.getCapabilities .pcie [0x13, 0xE1, 0, 0]) (spoken 1 none []) (fun t => (spdmOf t .pcie).phase == 2) = true ∧
    after (.negotiateAlgorithms .pcie [0x13, 0xE3, 0, 0]) (spoken 2 none []) (fun t => (spdmOf t .pcie).phase == 3) = true := by
  unfold Claims.spdmOn; decide +kernel

theorem witness_EvidenceIsGiven :
    Claims.spdmOn (spoken 3 none []) .pcie false [0x13, 0x83, 0, 0] ∧ (spdmOf (spoken 3 none []) .pcie).phase = 3 ∧
    field [0x13, 0x82, 0, 0, 0, 0, 16, 0] 2 1 % 16 = 0 ∧ field [0x13, 0x82, 1, 0, 0, 0, 16, 0] 2 1 % 16 ≠ 0 ∧
    field [0x13, 0x83, 0, 0] 2 1 = 0 ∧
    (∀ i ∈ [0, 1, 9, 0xFF], field [0x13, 0xE0, 1, BitVec.ofNat 8 i] 3 1 = i) ∧
    after (.challenge .pcie [0x13, 0x83, 0, 0]) (spoken 3 none []) (fun t => t.fresh == 1) = true ∧
    after (.getMeasurements .pcie [0x13, 0xE0, 1, 0]) (spoken 3 none []) (fun t => t.fresh == 1) = true ∧
    after (.getDigests .pcie [0x13, 0x81, 0, 0]) (spoken 3 none []) (fun t => t.sent.length == 1) = true ∧
    after (.getCertificate .pcie [0x13, 0x82, 1, 0, 0, 0, 16, 0]) (spoken 3 none []) (fun t => t.sent.length == 1) = true := by
  unfold Claims.spdmOn; decide +kernel

theorem witness_SessionsRun :
    Claims.spdmOn (spoken 3 none []) .pcie false [0x13, 0xE4, 0, 0] ∧
    (spoken 3 none []).hub.sessions.length < 4 ∧ field [0x13, 0xE4, 0, 0] 3 1 = 0 ∧
    after (.keyExchange .pcie [0x13, 0xE4, 0, 0]) (spoken 3 none []) (fun t => t.hub.sessions.length == 1) = true ∧
    Claims.spdmOn (spoken 3 none [⟨2, .pcie, true⟩]) .pcie true [] ∧
    sessionOf (spoken 3 none [⟨2, .pcie, true⟩]) .pcie 2 = some ⟨2, .pcie, true⟩ ∧
    sessionOf (spoken 3 none [⟨2, .pcie, false⟩]) .pcie 2 = some ⟨2, .pcie, false⟩ ∧
    after (.endSession .pcie 2 []) (spoken 3 none [⟨2, .pcie, true⟩]) (fun t => t.hub.sessions == []) = true ∧
    after (.spdmHeartbeat .pcie 2 []) (spoken 3 none [⟨2, .pcie, true⟩]) (fun t => t.sent.length == 1) = true ∧
    after (.keyUpdate .pcie 2 []) (spoken 3 none [⟨2, .pcie, true⟩]) (fun t => t.sent.length == 1) = true := by
  unfold Claims.spdmOn; decide +kernel

/-- A request of the extension with the operation `op`. -/
def vendorAsks (op : Byte) : Bytes := [0x13, 0xFE, 0, 0, 3, 0, 2, 0x47, 0x1E, 8, 0, op, 0, 0, 0, 0]
/-- A response of one packet went out in place of an error. -/
def vendorSays (t : State) : Bool := match t.sent with
  | [.spdm .pcie none _] => true
  | _ => false

theorem witness_SecondSignatureAndKeys :
    Claims.spdmOn (spoken 3 (some [1]) []) .pcie false (vendorAsks 1) ∧ (spdmOf (spoken 3 (some [1]) []) .pcie).signedHash = some [1] ∧
    (∀ op ∈ [1, 2, 3, 4, 5, 0, 6], vendorOp (vendorAsks (BitVec.ofNat 8 op)) = some op) ∧ vendorOp [] = none ∧
    after (.mldsaSig .pcie 0 (vendorAsks 1)) (spoken 3 (some [1]) []) vendorSays = true ∧
    (spdmOf (spoken 3 none []) .pcie).signedHash = none ∧
    after (.mldsaSig .pcie 0 (vendorAsks 1)) (spoken 3 none []) vendorSays = true ∧
    after (.getChain .pcie 0 (vendorAsks 2)) (spoken 3 none []) vendorSays = true ∧
    after (.attest .pcie 5 (vendorAsks 3)) (spoken 3 none []) vendorSays = true ∧
    after (.report .pcie 0 (vendorAsks 4)) (spoken 3 none []) vendorSays = true ∧
    after (.log .pcie 0 (vendorAsks 5)) (spoken 3 none []) vendorSays = true ∧
    after (.log .pcie 0 (vendorAsks 6)) (spoken 3 none []) vendorSays = true ∧
    after (.log .pcie 0 []) (spoken 3 none []) (fun t => t.sent.length == 1) = true := by
  unfold Claims.spdmOn; decide +kernel

theorem witness_SecondSignatureAndKeys_ide :
    mctpOn (spoken 3 none [⟨2, .pcie, true⟩]) .pcie = true ∧
    ((spoken 3 none [⟨2, .pcie, true⟩]).hub.sessions.any fun e => e.on == .pcie && e.established) = true ∧
    ideOf (spoken 3 none [⟨2, .pcie, true⟩]) 1 = none ∧ (spoken 3 none [⟨2, .pcie, true⟩]).hub.ide.length < 8 ∧
    after (.ideKm 1 true) (spoken 3 none [⟨2, .pcie, true⟩]) (fun t => ideOf t 1 == some { fn := 1, secure := true }) = true := by
  decide +kernel

/-! ### Service calls (14) -/

/-- A started call of PF0 in slot 0 for partition 0. -/
def callNow (service : Nat) (args : Bytes) (phase : Nat) : CallX :=
  { fn := 0, slot := 0, addr := 0x2000, order := 0, started := true, service := service, part := 0, tag := 5, args := args, resp := 0
    respLen := 0, phase := phase }
def calling (c : CallX) (s : State) : State := { s with hub := { s.hub with calls := [c], callOrder := 1 } }

/-- GO to slot 0 of PF0; a queued call whose message of FIELD_TEST stands at 0x2000; a call that ended. -/
def message : Bytes := leBytes 2 8 ++ leBytes 2 40 ++ leBytes 4 5 ++ leBytes 56 0
def queuedCall : State :=
  calling { callNow 0 [] 0 with started := false }
    (sets [(.svcSlotState, 0, 1)] (memWrite dev (.core 0) (some 0) 0x2000 (message ++ leBytes 40 1)))

theorem witness_CallsLive :
    Claims.admits dev host 0x30_0000 8 (0x2000 + 2 ^ 48) ∧ fget dev .svcSlotState 0 = 0 ∧
    after (.callSubmit host 0 0 0x2000) dev (fun t => fget t .svcSlotState 0 == 1 && t.hub.calls.length == 1) = true ∧
    callOf queuedCall 0 0 = some { callNow 0 [] 0 with started := false } ∧ firmwareOn queuedCall = true ∧
    mayReach queuedCall 0 (callerPart queuedCall { callNow 0 [] 0 with started := false }) 0x2000 64 = true ∧
    stageHost queuedCall (partOfFn queuedCall 0) (.call 0 0) [(0x2000, 64)] = none ∧ headFault message = none ∧
    (memRead queuedCall (.sc 0) none 0x2000 64).2 = (message, false) ∧
    mayReach queuedCall 0 (callerPart queuedCall { callNow 0 [] 0 with started := false }) 0x2040 40 = true ∧
    stageHost queuedCall (partOfFn queuedCall 0) (.call 0 0) [(0x2040, 40)] = none ∧
    callMay queuedCall { callNow 0 [] 0 with started := false } 8 0 = true ∧
    after (.callStart 0 0) queuedCall (fun t => fget t .svcSlotState 0 == 2 && fget t .svcSlotTag 0 == 5) = true := by
  unfold Claims.admits; decide +kernel

/-- A call that has ended with CODE 5 and DETAIL 8, and names a result area at 0x2100. -/
def endedCall (resp : Nat) : State :=
  calling { callNow 8 [] 0 with finished := some (5, 8, [1, 2]), resp := resp, respLen := 64 } dev

theorem witness_CallsLive_complete :
    (∀ r ∈ [0, 0x2100], (callOf (endedCall r) 0 0).map (fun c => (c.finished, c.resp)) = some (some (5, 8, [1, 2]), r)) ∧
    callReads (endedCall 0x2100) 0 0 = false ∧ hubOn (endedCall 0x2100) = true ∧ placeOf 0x2100 = .granary 0 ∧
    hasResult (endedCall 0x2100) { callNow 8 [] 0 with finished := some (5, 8, [1, 2]), resp := 0x2100, respLen := 64 } = true ∧
    after (.callComplete 0 0) (endedCall 0x2100) (fun t => fget t .svcSlotState 0 == 3 && fget t .svcSlotCode 0 == 5 &&
      fget t .svcSlotDetail 0 == 8 && fget t .svcSlotTag 0 == 5 && t.hub.calls == [] && mbytes t 0x2120 2 == [1, 2]) = true := by
  decide +kernel

/-- A program package without sections at 0x2000. -/
def package : Bytes :=
  leBytes 4 0x47505248 ++ leBytes 2 1 ++ leBytes 2 0 ++ leBytes 4 64 ++ leBytes 4 (crc32c (leBytes 48 0)) ++ leBytes 48 0
def loadingProg : State :=
  calling (callNow 1 (leBytes 8 0x2000 ++ leBytes 2 0) 0) (memWrite dev (.core 0) (some 0) 0x2000 package)

theorem witness_loadProgram :
    Claims.runs loadingProg 0 0 1 (callNow 1 (leBytes 8 0x2000 ++ leBytes 2 0) 0) 0 ∧
    stageHost loadingProg (some 0) (.call 0 0) [(0x2000, 64)] = none ∧
    (callMem loadingProg (callNow 1 (leBytes 8 0x2000 ++ leBytes 2 0) 0) 0 0x2000 64).2 = some package ∧ progHeadOk package = true ∧
    mayReach loadingProg 0 0 0x2000 64 = true ∧
    progFault loadingProg 0 0 (groupCores loadingProg 0 0).length package = none ∧
    after (.loadProgram 0 0) loadingProg (fun t => (callOf t 0 0).map (·.finished) == some (some (0, 0, leBytes 8 64))) = true := by
  unfold Claims.runs; decide +kernel

theorem witness_ProgramsLoopsBatches :
    (let c := callNow 2 (leBytes 48 9) 0
     Claims.runs (calling c dev) 0 0 2 c 0 ∧ ((calling c dev).part 0).loop = none ∧ field c.args 32 8 = 0 ∧ field c.args 8 1 = 0 ∧
     after (.stepLoop 0 0) (calling c dev) (fun t => ((t.part 0).loop.map (·.steps)) == some 9 && fget t .svcLoopLoop 0 == 1) = true) ∧
    (let c := callNow 3 (leBytes 8 0) 0
     Claims.runs (calling c dev) 0 0 3 c 0 ∧ field c.args 0 1 = 0 ∧
     after (.seal 0 0) (calling c dev) (fun t => ((t.part 0).loop.map (·.single)) == some true) = true) ∧
    (let c := fun n => callNow 4 (leBytes 8 0x2000 ++ leBytes 4 n ++ [1, 2, 0, 0] ++ leBytes 4 0 ++ leBytes 4 0) 0
     (∀ n ∈ [0, 3], Claims.runs (calling (c n) dev) 0 0 4 (c n) 0 ∧ field (c n).args 8 4 = n) ∧
     (callMem (calling (c 3) dev) (c 3) 0 0x2000 96).2 = some (List.replicate 96 0) ∧
     listFault (calling (c 3) dev) 0 0 (List.replicate 96 0) = none ∧
     after (.ingest 0 0) (calling (c 0) dev) (fun t => fget t .svcLoopIngest 0 == 0) = true ∧
     after (.ingest 0 0) (calling (c 3) dev) (fun t => fget t .svcLoopIngest 0 == 1 && ((t.part 0).ingest.map (·.nbatch)) == some 3) =
       true) ∧
    (let i : IngestX := { list := 0x2000, nbatch := 1, epb := 1, depth := 1, flag := 0, fetching := [0], fn := 0 }
     let s := memWrite (memWrite dev (.core 0) (some 0) 0x2000 (leBytes 8 0x3000 ++ leBytes 8 0x3100 ++ leBytes 16 4)) (.core 0) (some 0)
       0x3000 [1, 2, 3, 4]
     let s := s.setPart 0 { s.part 0 with ingest := some i }
     (s.part 0).ingest = some i ∧ i.fetching = 0 :: [] ∧ (askBatch s 0 0).2 = some [(0x3000, 0x3100, 4)] ∧
     after (.batchLanded 0) s (fun t => mbytes t 0x3100 4 == [1, 2, 3, 4] && ((t.part 0).ingest.map (·.landed)) == some [0]) = true) := by
  unfold Claims.runs; decide +kernel

/-- A checkpoint slot of step 8 with an empty payload of 8 bytes at 0x2000. -/
def slotAt8 : State :=
  memWrite dev (.core 0) (some 0) 0x2000
    (slotHead dev 8 8 (ckWords (fingerprint [])) 1 ++ fingerprint [])

/-- The slot has come from the buddy, whose slots stand at 0x8000 there, for a call in its phase 2. -/
def fromBuddy (service : Nat) (args : Bytes) : State :=
  let s := sets [(.updStepStep, 0, 12)] dev
  let s := s.setPart 0 { s.part 0 with img := { devImg with ckbase := 0x8000, cklen := 4096 } }
  calling (callNow service args 2) (stageBytes s (fabKey 0 0x8000) (slotHead dev 8 8 (ckWords (fingerprint [])) 1 ++ fingerprint []))

/-- The slot is fetched and restored. -/
def buddyBrings (s : State) (want batch : Option Nat) : Bool :=
  match callOf s 0 0 with
  | none => false
  | some c => match fetchBuddy s c 0 want with
    | .got t step b => step == 8 && b == fingerprint [] && (restoreSlot t c 0 batch step b).2
    | _ => false

/-- ACTION 3 of STEP_LOOP and SEAL, RESTORE from the buddy, and REPLAY of step 9 when step 12 is at hand. -/
theorem witness_CheckpointsAndReplay_buddy :
    (∀ e ∈ [(2, leBytes 8 9 ++ leBytes 40 3), (3, leBytes 8 3), (6, leBytes 24 0)],
      buddyBrings (fromBuddy e.1 e.2) none none = true) ∧
    (let s := fromBuddy 2 (leBytes 8 9 ++ leBytes 40 3)
     field (leBytes 8 9 ++ leBytes 40 3) 8 1 = 3 ∧
     after (.stepLoop 0 0) s (fun t => fget t .svcLoopLoop 0 == 1 && (t.part 0).releaseDue == some 3) = true) ∧
    after (.seal 0 0) (fromBuddy 3 (leBytes 8 3)) (fun t => (t.part 0).releaseDue == some 3) = true ∧
    after (.restoreCall 0 0) (fromBuddy 6 (leBytes 24 0)) (fun t => fget t .updStepStep 0 == 9) = true ∧
    (let s := fromBuddy 10 (leBytes 8 9 ++ leBytes 8 3)
     field (leBytes 8 9 ++ leBytes 8 3) 0 8 ≠ fget s .updStepStep 0 ∧ replayBatch s 0 9 3 = some 3 ∧
     buddyBrings s (some 8) (some 3) = true ∧
     after (.replay 0 0) s (fun t => fget t .updStepStep 0 == 9 && fget t .svcLoopCursor 0 == 3) = true) := by decide +kernel

/-- A payload has gone to the buddy and is acknowledged. -/
theorem witness_CheckpointsAndReplay_goesOn :
    let c := { callNow 5 (leBytes 24 0) 0 with kept := some (8, 8, 5) }
    Claims.runs (calling c dev) 0 0 5 c 0 ∧ c.waiting = 0 ∧ copiesHeld (calling c dev) = false ∧
    after (.checkpoint 0 0) (calling c dev) (fun t => ((callOf t 0 0).map (·.phase)) == some 1) = true ∧
    after (.checkpoint 0 0) (calling { c with phase := 1 } dev) (fun t => fget t .updCkptStep 0 == 8 &&
      ((callOf t 0 0).map (fun d => d.finished.isSome)) == some true) = true := by
  unfold Claims.runs; decide +kernel

theorem witness_CheckpointsAndReplay :
    (let c := callNow 5 (leBytes 8 1 ++ leBytes 8 0x2000 ++ leBytes 8 4096) 0
     let s := calling c (sets [(.updStepStep, 0, 9)] dev)
     let u := s.setPart 0 { s.part 0 with ckptBusy := true }
     Claims.runs s 0 0 5 c 0 ∧ field c.args 0 1 ≠ 0 ∧ sealState s 0 ≠ 4 ∧ (s.part 0).releaseDue ≠ some 0 ∧ fget s .updStepStep 0 ≠ 0 ∧
     c.kept = none ∧ (lastCommitList u c 0).2 = some [] ∧ slotRuns u 0 [] = [] ∧ (slotPayload u (mayReach u 0 0) 0 []).2 = (fingerprint [], false) ∧
     hostTakes u 0x2000 72 = true ∧
     64 + (fingerprint []).length ≤ field c.args 16 8 ∧ (fingerprint []).length = 8 ∧
     after (.checkpoint 0 0) s (fun t => mbytes t 0x2000 8 == leBytes 8 8) = true) ∧
    (let c := callNow 6 (leBytes 8 1 ++ leBytes 8 0x2000 ++ leBytes 8 4096) 0
     let s := calling c slotAt8
     let h := slotHead dev 8 8 (ckWords (fingerprint [])) 1
     Claims.runs s 0 0 6 c 0 ∧ stageHost s (some 0) (.call 0 0) [(0x2000, 64)] = none ∧
     (callMem s c 0 0x2000 64).2 = some h ∧ (slotSays h).valid = true ∧ 64 + (slotSays h).len ≤ field c.args 16 8 ∧
     (callMem s c 0 0x2040 (slotSays h).len).2 = some (fingerprint []) ∧ ckWords (fingerprint []) = (slotSays h).cks ∧
     after (.restoreCall 0 0) s (fun t => ((callOf t 0 0).map (fun d => d.finished.isSome)) == some true) = true) ∧
    (let c := callNow 10 (leBytes 8 0 ++ leBytes 8 3) 0
     Claims.runs (calling c dev) 0 0 10 c 0 ∧ ((calling c dev).part 0).loop = none ∧
     field c.args 0 8 = fget (calling c dev) .updStepStep 0 ∧ replayBatch (calling c dev) 0 0 3 = some 3 ∧
     after (.replay 0 0) (calling c dev) (fun t => ((t.part 0).loop.map (·.replay)) == some true && fget t .svcLoopCursor 0 == 3) = true) := by
  unfold Claims.runs; decide +kernel

/-- COLLECTIVE_SETUP of group 3 with the operation and the arguments given. -/
def setup (op phase : Nat) (probe : List (Nat × Nat × Nat)) : CallX :=
  { callNow 7 ([3, BitVec.ofNat 8 op] ++ leBytes 6 0 ++ leBytes 8 0x4000 ++ leBytes 2 1 ++ leBytes 6 0 ++ leBytes 8 0x4400) phase with
    probe := probe }

theorem witness_CollectiveSetup :
    (∀ op ∈ [0, 1, 2], Claims.runs (calling (setup op 0 []) (listed 0)) 0 0 7 (setup op 0 []) 0 ∧ callGroup (setup op 0 []) = 3 ∧
      field (setup op 0 []).args 1 1 = op) ∧
    (callMem (calling (setup 0 0 []) (listed 0)) (setup 0 0 []) 0 0x4000 64).2 = some (leBytes 64 (entryOf 0)) ∧
    entryFault (listed 0) 3 (leNat (leBytes 64 (entryOf 0))) (collEntryOf (leBytes 64 (entryOf 0))) 0 = none ∧
    after (.install 0 0) (calling (setup 0 0 []) (listed 0)) (fun t => fget t .xceListBase 3 == 0x4400 &&
      mbytes t 0x4400 64 == leBytes 64 (entryOf 0)) = true ∧
    hostTakes (listed 0) 0x4400 64 = true ∧
    (callMem (calling (setup 1 0 []) (listed 0)) (setup 1 0 []) 0 0x4000 64).2 = some (leBytes 64 (entryOf 0)) ∧
    (fget (listed 0) .xceListBase 3, 64 * grpCount (listed 0) 3) = (0x4000, 64) ∧ mayReach (listed 0) 0 0 0x4000 64 = true ∧
    stageHost (calling (setup 1 0 []) (listed 0)) (some 0) (.call 0 0) [(0x4000, 64)] = none ∧
    windowTables (leBytes 64 (entryOf 0)) = [(0x7000, 64)] ∧ mayReach (listed 0) 0 0 0x7000 64 = true ∧
    after (.clearwin 0 0) (calling (setup 1 0 []) (listed 0)) (fun t => ((callOf t 0 0).map (·.finished)) == some (some (0, 0, []))) = true ∧
    after (.probe 0 0) (calling (setup 2 0 []) (listed 0)) (fun t => ((callOf t 0 0).map (·.phase)) == some 1 &&
      t.net.out.length == 2 && t.net.out.all fun o => o.2.pkt.type == tSVC && o.2.pkt.vc == 20) = true ∧
    after (.probe 0 0) (calling (setup 2 1 [(0, 5, 8), (1, 5, 9)]) (listed 0)) (fun t => ((callOf t 0 0).map (fun d => d.finished.isSome)) == some true) = true ∧
    after (.probeTimeout 0 0 10000) (calling (setup 2 1 [(0, 5, 8), (1, 5, 0)]) (listed 0))
      (fun t => ((callOf t 0 0).map (fun d => d.finished.isSome)) == some true) = true := by
  unfold Claims.runs; decide +kernel

theorem witness_TestsSweepsLogsCancels :
    (let c := callNow 8 (leBytes 32 1 ++ leBytes 8 1) 0
     Claims.runs (calling c dev) 0 0 8 c 0 ∧ fget dev .pwrStatusStage 0 < 2 ∧ c.cancelled = false ∧ bit (field c.args 32 8) 16 = false ∧ bit (field c.args 32 8) 17 = false ∧
     after (.fieldTest 0 0 []) (calling c dev) (fun t => ((callOf t 0 0).map (fun d => d.finished.isSome)) == some true) = true) ∧
    (let c := callNow 9 (leBytes 32 1 ++ [1, 0, 2, 0, 0, 0, 0, 0]) 0
     let e : SweepFinding := { core := 0, vpassE := 700, vpassT := 600, failE := false, failT := false }
     Claims.runs (calling c dev) 0 0 9 c 0 ∧ (∀ x ∈ maskCores c.args, ∃ f ∈ [e], f.core = x) ∧ bit (field c.args 34 1) 1 = true ∧
     after (.marginCal 0 0 [e]) (calling c dev) (fun t => ((callOf t 0 0).map (fun d => d.finished.isSome)) == some true &&
       t.flash == dev.flash) = true) ∧
    (let c := callNow 11 (leBytes 8 0 ++ leBytes 4 4 ++ leBytes 4 0 ++ leBytes 8 0x2000) 0
     Claims.runs (calling c dev) 0 0 11 c 0 ∧ (ringNumbers (calling c dev) 0).1 = [] ∧
     after (.errlogRead 0 0) (calling c dev) (fun t => ((callOf t 0 0).map (fun d => d.finished.isSome)) == some true) = true) ∧
    (let c := callNow 12 [1, 2, 0, 0, 0, 0, 0, 0] 1
     let d := { callNow 8 [] 0 with fn := 1, slot := 2 }
     let s := { dev with hub := { dev.hub with calls := [c, d] } }
     Claims.runs s 0 0 12 c 0 ∧ callOf s 1 2 = some d ∧ d.started = true ∧ d.finished = none ∧
     after (.cancel 0 0) s (fun t => ((callOf t 1 2).map (·.cancelled)) == some true) = true ∧
     callOf (calling c dev) 1 2 = none ∧
     after (.cancel 0 0) (calling c dev) (fun t => ((callOf t 0 0).bind (·.finished)).map (·.1) == some sSTATE) = true) := by
  unfold Claims.runs; decide +kernel

theorem witness_FirmwareBeatsAndHours : firmwareOn dev = true ∧
    after (.fwbeat 1) dev (fun t => fget t .svcFwbeatBeat 1 == 1) = true ∧
    after (.hoursWrite 77) dev (fun t => fget t .pwrHoursHours 0 == 77 && t.flash.hours == 77) = true := by decide +kernel


/-- FIELD_TEST of core 0 with test 17 and DESTROY. -/
def patterns : CallX := callNow 8 (leBytes 32 1 ++ leBytes 8 (2 ^ 17) ++ leBytes 8 (2 ^ 24)) 0

/-- The patterns of test 17 leave the partition's half-stack with open contents, and a byte written afterwards reads back. -/
theorem test_fieldTest_patterns :
    after (.fieldTest 0 0 []) (calling patterns (mput dev [(hbmBase, 7)]))
      (fun t => t.mem == [] && t.scrambled == [(0, 1), (1, 1)] && mget t (hbmBase + 2 * 2 ^ 35) == 0) = true := by decide +kernel

/-- CANCEL of a STEP_LOOP marks the loop too. -/
theorem witness_TestsSweepsLogsCancels_loop :
    let c := callNow 12 [1, 2, 0, 0, 0, 0, 0, 0] 1
    let d := { callNow 2 [] 0 with fn := 1, slot := 2 }
    let s := { dev.setPart 0 { dev.part 0 with loop := some { fn := 1, slot := 2, steps := 9 } } with hub := { dev.hub with calls := [c, d] } }
    Claims.runs s 0 0 12 c 0 ∧ callOf s 1 2 = some d ∧ d.started = true ∧ d.finished = none ∧
    ((s.part 0).loop.map (·.fn)) = some 1 ∧
    after (.cancel 0 0) s (fun t => ((t.part 0).loop.map (·.cancelled)) == some true) = true := by
  unfold Claims.runs; decide +kernel

/-! ### Resets, the root of trust, errors, fences and power (15, 16, 17) -/

theorem witness_ResetsBoot_por : State.reset.pwr.cold = true ∧ State.reset.pwr.off = false ∧ State.reset.pwr.inrush = false ∧
    after (.por [] 0) State.reset (fun t => !t.pwr.cold) = true := by decide +kernel

theorem witness_ResetsBoot : Claims.admits dev host 0x400 4 1 ∧ dev.hbmQueue = [] ∧
    dev.pwr.off = false ∧ dev.pwr.inrush = false ∧ dev.pwr.cold = false ∧ dev.pwr.safe = false ∧
    after .perst dev (fun t => t.hub.perstHeld && !hubOn t) = true ∧
    after (.perstDeassertion true) { dev with hub := { dev.hub with perst := true, perstHeld := true } }
      (fun t => !t.hub.perstHeld && hubOn t) = true ∧
    (let s := { dev with pwr := { dev.pwr with safe := true, exitReady := true } }
     s.pwr.safe = true ∧ s.pwr.exitReady = true) := by
  unfold Claims.admits; decide +kernel

/-- PERST# while the boot of a power-on reset is due, that boot, and PERST# deasserted while neither boot nor exit is. -/
theorem witness_ResetsBoot_perstInPor :
    (let s := { State.reset with hub := { State.reset.hub with perst := true, perstHeld := true } }
     after .perst State.reset (fun t => t == s) = true ∧ s.pwr.cold = true ∧ s.pwr.off = false ∧ s.pwr.inrush = false ∧
     s.hub.perstHeld = true) ∧
    State.reset.pwr.safe = false ∧
    (let s := { dev with pwr := { dev.pwr with safe := true }, hub := { dev.hub with perst := true, perstHeld := true } }
     s.pwr.safe = true ∧ s.pwr.exitReady = false ∧
     after (.perstDeassertion true) s (fun t => t.pwr.safe && !t.hub.perstHeld && !t.hub.perst) = true) := by decide +kernel

/-- A root-of-trust operation is under way. -/
def working (op : RotOp) : State :=
  { sets [(.hbmStatusState, 0, 1)] dev with rot := { dev.rot with op := some op } }

/-- A place in stack 0, which is READY: the root of trust reads it for the owner. -/
def inStack : Nat := hbmBase + 0x4000

theorem witness_FuseOperations : rotBusy dev = false ∧ fget dev .pwrStatusStage 0 = 0 ∧
    Claims.admits dev host 0x10_0030 8 (0x4000 + 2 ^ 48 + 2 ^ 63) ∧
    after (.apply host 0x4000) dev (fun t => t.rot.op == some (.apply 0x4000)) = true ∧
    fget dev .rotFuseCtrlAddr 0 < 2 ^ 48 ∧
    Claims.admits dev host 0x10_0030 8 (fget dev .rotFuseCtrlAddr 0 + 2 * 2 ^ 48 + 1 * 2 ^ 50 + 3 * 2 ^ 52 + 2 ^ 63) ∧
    after (.svnCommit host 1 3) dev (fun t => t.rot.op == some (.svn 1 3)) = true ∧
    (working (.svn 1 3)).rot.op = some (.svn 1 3) ∧
    after (.fuseOpDone none) (working (.svn 1 3)) (fun t => t.rot.op == none && fget t .rotFuseCtrlResult 0 == rROLLBACK) = true ∧
    (working (.apply inStack)).rot.op = some (.apply inStack) ∧ inStack % 64 = 0 ∧
    (match rotImage (working (.apply inStack)) inStack with | .inr (t, some _) => !t.rot.readErr | _ => false) = true ∧
    after (.fuseOpDone none) (working (.apply inStack)) (fun t => t.rot.op == none && t.fuses == dev.fuses) = true := by
  unfold Claims.admits; decide +kernel

/-- In a stage of shedding nothing is started. -/
theorem witness_FuseOperations_shedding :
    (let s := sets [(.pwrStatusStage, 0, 1)] dev
     rotBusy s = false ∧ 0 < fget s .pwrStatusStage 0 ∧ Claims.admits s host 0x10_0030 8 (0x4000 + 2 ^ 48 + 2 ^ 63) ∧
     after (.apply host 0x4000) s (fun t => t.rot.op == none && fget t .rotFuseCtrlResult 0 == rSHEDDING) = true) := by
  unfold Claims.admits; decide +kernel

/-- The fields of the two words of FLASH_CTRL stand as the last operation left them. -/
def flashSet : State := sets [(.rotFlashCtrlFoff, 0, 0x10000), (.rotFlashCtrlDaddr, 0, 0x4000), (.rotFlashCtrlLen, 0, 64)] dev

theorem witness_FlashOperations_start : rotBusy flashSet = false ∧ rotBusy dev = false ∧
    (∀ e ∈ [(Instr.erase host (.ofNat 26 0x10000) (.ofNat 48 0x4000) (.ofNat 24 64), 0),
        (Instr.program host (.ofNat 26 0x10000) (.ofNat 48 0x4000) (.ofNat 24 64), 1),
        (Instr.flashRead host (.ofNat 26 0x10000) (.ofNat 48 0x4000) (.ofNat 24 64), 2), (Instr.switch host, 3),
        (Instr.confirm host, 4)],
      Claims.admits flashSet host 0x10_0200 8 (flashWord e.2 0x10000 0x4000 64) ∧
      Claims.admits flashSet host 0x10_0208 8 (flashWord e.2 0x10000 0x4000 64 / 2 ^ 64) ∧
      after e.1 flashSet (fun t => t.rot.op == some (.flash e.2 0x10000 0x4000 64)) = true) := by
  unfold Claims.admits; decide +kernel

/-- Bank A is in use; the flash holds a byte of bank B. -/
def flashAt (op : Nat) (off a n : Nat) : State :=
  { working (.flash op off a n) with flash := { dev.flash with cells := [(bankBase true, 5)] } }

theorem witness_FlashOperations :
    mayWriteFlash dev (bankBase true) (2 ^ 16) = true ∧ bankBase true % 2 ^ 16 = 0 ∧
    after .flashOpDone (flashAt 0 (bankBase true) 0 (2 ^ 16)) (fun t => t.flash.cells == [] && fget t .rotFlashCtrlResult 0 == 0) = true ∧
    mayWriteFlash dev (bankBase true) 2 = true ∧ stageHost (flashAt 1 (bankBase true) inStack 2) none .loader [(0x4000, 2)] = none ∧
    (rotRead (flashAt 1 (bankBase true) inStack 2) inStack 2).2.isSome = true ∧
    (rotRead (flashAt 1 (bankBase true) inStack 2) inStack 2).1.rot.readErr = false ∧
    after .flashOpDone (flashAt 1 (bankBase true) inStack 2) (fun t => t.flash.cells.length == 2 && fget t .rotFlashCtrlResult 0 == 0) = true ∧
    (inBank false (bankBase true) 2 || inBank true (bankBase true) 2) = true ∧ ownerReads inStack = true ∧ ownerReads (inStack + 1) = true ∧
    after .flashOpDone (flashAt 2 (bankBase true) inStack 2) (fun t => mbytes t inStack 2 == [5, 0xFF]) = true ∧
    fget (flashAt 3 0 0 0) .rotBootStatusStage 0 = 2 ∧ (bootRecord (flashAt 3 0 0 0)).seq + 1 < 2 ^ 32 ∧
    after .flashOpDone (flashAt 3 0 0 0) (fun t => t.rot.op == none && fget t .rotFlashCtrlResult 0 != 0) = true ∧
    after .flashOpDone (flashAt 4 0 0 0) (fun t => t.rot.op == none && fget t .rotFlashCtrlResult 0 == 0) = true := by
  decide +kernel

/-- A record that waits to be written. -/
def waitingRec : ErrRec :=
  { time := 7, step := 0, cls := 1, sev := 0, part := none, unitKind := 0, unitIdx := 0, op := 0, temp := 0, volt := 0, code := 1
    synd := .bytes [] }

/-- A device with that record, and the ring of 64 records at the foot of stack 0, which is READY, or no ring. -/
def recording (en : Nat) : State :=
  { sets [(.hbmStatusState, 0, 1), (.errRingBase, 0, hbmBase), (.errRingLog2n, 0, 6), (.errRingEn, 0, en)] dev with errQueue := [waitingRec] }

theorem witness_RecordsAndSnapshots :
    (recording 1).errQueue = waitingRec :: [] ∧ hubOn (recording 1) = true ∧ fget (recording 1) .errRingEn 0 = 1 ∧
    stackReadyAt (recording 1) (fget (recording 1) .errRingBase 0 + 64 * (fget (recording 1) .errSeqNext 0 % 2 ^ 6)) = true ∧
    after .errRecordWrite (recording 1) (fun t => mbytes t hbmBase 64 == ErrRec.bytes waitingRec 0 && t.errQueue == []) = true ∧
    fget (recording 0) .errRingEn 0 ≠ 1 ∧
    after .errRecordWrite (recording 0) (fun t => fget t .errLostLoftonly 0 == 1 && fget t .errSeqNext 0 == 1) = true ∧
    (let v := hbmBase + 8 * 2 ^ 48 + 2 ^ 63
     Claims.admits dev host 0x300_0000 8 v ∧ ringOk dev (v % 2 ^ 48) (v / 2 ^ 48 % 32) = true ∧
     after (.errRingWrite host (BitVec.ofNat 64 v)) dev (fun t => fget t .errRingLog2n 0 == 8 && fget t .errRingEn 0 == 1) = true) ∧
    (let v := hbmBase + 5 * 2 ^ 48 + 2 ^ 63
     Claims.admits dev host 0x300_0000 8 v ∧ ringOk dev (v % 2 ^ 48) (v / 2 ^ 48 % 32) = false ∧
     after (.errRingWrite host (BitVec.ofNat 64 v)) dev (fun t => fget t .errRingEn 0 == 0) = true) := by
  unfold Claims.admits; decide +kernel

/-- The record that stage 5 leaves goes to the loft alone, whatever the ring; of the loft's 64 records one is written. -/
theorem witness_RecordsAndSnapshots_stage5 :
    let s := { sets [(.errLastRecord, 5, 77)] (recording 1) with errQueue := [{ waitingRec with cls := 12, code := 5 }] }
    after .errRecordWrite s (fun t => t.mem == s.mem && fget t .errLostLoftonly 0 == 1 && fget t .errLastRecord 5 == 77 &&
      fget t .errLastRecord 0 != 0) = true := by decide +kernel

/-- One error is counted on stack 0. -/
def tallied : State := sets [(.hbmErrTallyCe, 0, 1)] dev

theorem witness_RecordsAndSnapshots_take :
    (∀ e ∈ [(Block.core, coreReg 3 0xFF00), (Block.hbm, blockBase .hbm + 0xF_FF00)],
      Claims.admits tallied host e.2 4 (1 + 2 * ofBool true) ∧
      after (.take host e.1 3 true) tallied
        (fun t => (t.snap (viewKey e.1 (if e.1 = .core then 3 else 0) 0)).held) = true) ∧
    Field.hbmErrTallyCe.spec.block = .hbm ∧ Field.hbmErrTallyCe.spec.snap = true ∧ 0 ∈ snapIndices .hbmErrTallyCe 0 ∧
    Field.live tallied .hbmErrTallyCe 0 = 1 ∧
    after (.take host .hbm 3 true) tallied
      (fun t => decide ((Field.key .hbmErrTallyCe 0, 1) ∈ (t.snap (viewKey .hbm 0 0)).copy)) = true := by
  unfold Claims.admits; decide +kernel

theorem witness_UpsetsAreVotedOrFenced :
    criticalScope dev (some .updStepStep) 0 = some (.part 0) ∧ criticalScope dev (some .sklDevidDevid) 0 = some .device ∧
    criticalScope dev (some .xceGroupEn) 9 = some .nobody ∧
    fget dev .rotStructRegprot 0 = 0 ∧ dev.errQueue.length < 256 ∧ (dev.part 0).enabled = true ∧ loadMayBeFor dev 0 = false ∧
    fget dev .hstPartCtrlFence 0 ≠ 1 ∧ (dev.part 0).resetDue = false ∧
    after (.registerUpset (some .xceGroupEn) 9 true) dev (fun t => t.errQueue.length == 1 && t.parts == dev.parts) = true ∧
    after (.registerUpset (some .updStepStep) 0 false) dev (fun t => t.errQueue.length == 1 && t.parts == dev.parts) = true ∧
    after (.registerUpset (some .updStepStep) 0 true) dev (fun t => (t.part 0).resetDue && fget t .hstPartCtrlFence 0 == 1 &&
      fget t .hstPartCtrlCause 0 == 4) = true ∧
    after (.registerUpset (some .sklDevidDevid) 0 true) dev
      (fun t => fget t .hstDevStatusDevfault 0 == 1 && fget t .hstPartCtrlFence 0 == 1 && fget t .hstPartCtrlCause 0 == 4) = true := by decide +kernel

/-- Partition 0 is being fenced, or is fenced, with what the model keeps of the fence. -/
def fencing (fenced : Nat) (x : FenceX) (due : Bool) : State :=
  let s := sets [(.hstPartCtrlFence, 0, 1), (.hstPartCtrlFenced, 0, fenced), (.hstPartCtrlBusy, 0, 1)] dev
  s.setPart 0 { s.part 0 with fence := some x, resetDue := due }

theorem witness_FencesClose :
    Claims.admits (running streams dev) host 0x500 4 1 ∧ fget (running streams dev) .hstPartCtrlFence 0 ≠ 1 ∧
    loadMayBeFor (running streams dev) 0 = false ∧ 0 ∈ coresOf (running streams dev) 0 ∧ coreState (running streams dev) 0 = 1 ∧
    after (.fence host 0) (running streams dev) (fun t => fget t .hstPartCtrlFence 0 == 1 && coreState t 0 == 3) = true ∧
    fget (fencing 0 {} false) .hstPartCtrlFence 0 = 1 ∧ fget (fencing 0 {} false) .hstPartCtrlFenced 0 ≠ 1 ∧
    after (.fenceTimeout 0 150) (fencing 0 {} false) (fun t => t.parts == (fencing 0 {} false).parts) = true ∧
    after (.fenceTimeout 0 150) dev (fun t => t == dev) = true ∧
    drained (fencing 0 {} false) 0 = true ∧ ((fencing 0 {} false).part 0).resetDue = false ∧
    after (.fenced 0) (fencing 0 {} false) (fun t => fget t .hstPartCtrlFenced 0 == 1) = true ∧
    Claims.admits (fencing 1 { done := true } false) host 0x500 4 0 ∧
    ((fencing 1 { done := true } false).part 0).fence = some { done := true } ∧
    after (.unfence host 0) (fencing 1 { done := true } false) (fun t => fget t .hstPartCtrlFence 0 == 0) = true ∧
    (let s := sets [(.hstPartCtrlFence, 0, 1)] dev
     Claims.admits s host 0x500 4 0 ∧ fget s .hstPartCtrlFence 0 = 1 ∧ (s.part 0).fence = none ∧
     after (.unfence host 0) s (fun t => fget t .hstPartCtrlFence 0 == 1 && t.errQueue.length == 1) = true) := by
  unfold Claims.admits; decide +kernel

/-- A call of the partition runs as the fence begins. -/
theorem witness_FencesClose_calls :
    let c := callNow 2 (leBytes 48 9) 0
    let s := calling c dev
    Claims.admits s host 0x500 4 1 ∧ fget s .hstPartCtrlFence 0 ≠ 1 ∧ loadMayBeFor s 0 = false ∧ c.started = true ∧
    c.finished = none ∧ c.service ≠ 9 ∧ callPart s c = some 0 ∧
    after (.fence host 0) s (fun t => (callOf t 0 0).bind (·.finished) == some (sABORTED, 0, [])) = true := by
  unfold Claims.admits; decide +kernel

/-- A fence drained with a PART reset due: core 0 is at rest, its flags are 0, and the flash clear has started. -/
theorem witness_FencesClose_reset :
    let s := fencing 0 {} true
    let s := flagPut { s with cores := [(0, streams)] } (.dev 9) 3
    fget s .hstPartCtrlFence 0 = 1 ∧ fget s .hstPartCtrlFenced 0 ≠ 1 ∧ drained s 0 = true ∧ (s.part 0).resetDue = true ∧
    s.hbmQueue = [] ∧ 0 ∈ coresOf s 0 ∧ 0 ∈ quartersOf s 0 ∧
    after (.fenced 0) s (fun t => fget t .hstPartCtrlFenced 0 == 1 && fget t .hstPartCtrlBusy 0 == 1 && t.core 0 == {} &&
      coreState t 0 == 0 && fget t .grnStatusState 0 == 1) = true := by decide +kernel

/-- A write of 0 to FENCE of a partition that is not fenced. -/
theorem witness_FencesClose_notFenced :
    Claims.admits dev host 0x500 4 0 ∧ fget dev .hstPartCtrlFence 0 ≠ 1 ∧ (dev.part 0).fence = none ∧
    after (.unfence host 0) dev (fun t => t.parts == dev.parts && t.errQueue.length == 1) = true := by
  unfold Claims.admits; decide +kernel

/-- RESET while BUSY is 1. -/
theorem witness_PartResetsAndNotices_busy :
    Claims.admits (fencing 0 {} false) host 0x500 4 4 ∧ fget (fencing 0 {} false) .hstPartCtrlBusy 0 = 1 ∧
    after (.partReset host 0) (fencing 0 {} false) (fun t => t.parts == (fencing 0 {} false).parts && t.errQueue.length == 1) = true := by
  unfold Claims.admits; decide +kernel

/-- Partition 0 of job 7 has its seal reported: its verdict is awaited. -/
def noticed (aux : Nat) : Packet :=
  Packet.sealed { type := tSVC, len := 16, dstDev := 5, dstEp := 264, srcDev := 9, srcEp := 268, tag := 0, vc := 22, hoplim := 8
                  job := 0, aux := BitVec.ofNat 16 aux, data := leBytes 4 6 ++ leBytes 2 7 ++ List.replicate 10 0, pcrc := 0 }

/-- The tag 3 of a request that a fence has quarantined. -/
def quarantined : OutReq :=
  { pkt := noticed 0x10, part := some 0, why := .loader, leaves := 1, quarantine := 1 }

theorem witness_PartResetsAndNotices :
    Claims.admits dev host 0x500 4 4 ∧ (dev.part 0).resetDue = false ∧ fget dev .hstPartCtrlFence 0 = 0 ∧ loadMayBeFor dev 0 = false ∧ fget dev .hstPartCtrlBusy 0 ≠ 1 ∧
    after (.partReset host 0) dev (fun t => (t.part 0).resetDue && fget t .hstPartCtrlFence 0 == 1) = true ∧
    ((fencing 1 {} true).part 0).resetDue = true ∧ fget (fencing 1 {} true) .hstPartCtrlFenced 0 = 1 ∧
    diesClear (fencing 1 {} true) 0 = true ∧
    (match reapply (putImg (fencing 1 {} true) 0 ((fencing 1 {} true).part 0).full true) 0 with | .inr _ => true | .inl _ => false) = true ∧
    after (.partDone 0) (fencing 1 {} true) (fun t => !(t.part 0).resetDue && fget t .hstPartCtrlBusy 0 == 0) = true := by
  unfold Claims.admits; decide +kernel

theorem witness_PartResetsAndNotices_notices :
    (let s := { dev with net := { dev.net with out := [(3, quarantined)] } }
     outOf s 3 = some quarantined ∧ quarantined.quarantine = 1 ∧
     after (.quarantineExpire 3 100) s (fun t => (outOf t 3).isNone) = true) ∧
    (let s := sets [(.updSealState, 0, 2)] dev
     ∀ aux ∈ [0x10, 0x12], let q := noticed aux
       q.type = tSVC ∧ isForUs s q = true ∧ destCheck s q (decide (q.data.length ≠ 16)) = none ∧ q.job = 0 ∧ q.vc.toNat = 22 ∧
       isFm s q.srcDev.toNat q.srcEp.toNat = true ∧ field q.data 0 4 % 2 ^ 17 ≠ devId s ∧ q.aux.toNat % 256 = aux) ∧
    (let s := sets [(.updSealState, 0, 2)] dev
     (s.part 0).img.job = field (noticed 0x10).data 4 2 ∧ sealState s 0 = 2 ∧
     after (.fencedNotice (noticed 0x10)) s (fun t => t.hub.notices == [(6, 7)] && fget t .updSealVerdict 0 == 2) = true) ∧
    (let s := { dev with hub := { dev.hub with notices := [(6, 7)] } }
     after (.unfencedNotice (noticed 0x12)) s (fun t => t.hub.notices == []) = true) := by decide +kernel

/-- The supply stands as given, with a device that is otherwise up. -/
def supplied (x : PwrX) (l : List (Field × Nat × Nat)) : State := { sets l dev with pwr := { x with cold := false } }

theorem witness_SheddingFollowsInput :
    dev.pwr.off = false ∧ dev.pwr.inrush = false ∧ dev.pwr.safe = false ∧
    (let s := supplied { belowRun := [(2, 1), (3, 1)] } []
     stageMet (countSample s.pwr 0 41500 false) = 3 ∧ fget s .pwrStatusStage 0 < 3 ∧
     after (.inputSample 41500 5000) s (fun t => fget t .pwrStatusStage 0 == 3 && fget t .pwrStatusShedcap 0 == 2 &&
       fget t .pwrInputVin 0 == 4150) = true) ∧
    (let s := supplied { liftRun := 1000 } [(.pwrStatusStage, 0, 4), (.pwrStatusShedcap, 0, 2), (.pwrStatusQuiesced, 0, 1)]
     1 ≤ fget s .pwrStatusStage 0 ∧ fget s .pwrStatusStage 0 ≤ 4 ∧ 1000 ≤ s.pwr.liftRun ∧ fget s .pwrStatusRefloss 0 = 0 ∧
     after .shedStageLift s (fun t => fget t .pwrStatusStage 0 == 3 && fget t .pwrStatusQuiesced 0 == 0) = true) ∧
    (let s := supplied {} [(.pwrInputHoldus, 0, 2000), (.pwrStatusHold, 0, 1)]
     2000 ≤ fget s .pwrInputHoldus 0 ∧ fget s .pwrStatusHold 0 = 1 ∧ fget s .pwrStatusStage 0 < 5 ∧ hubOn s = true ∧
     after .holdupExpire s (fun t => fget t .pwrStatusStage 0 == 5 && t.pwr.safe) = true) ∧
    (let s := supplied { safe := true, retention := 200000, exitRun := 10000 } []
     s.pwr.safe = true ∧ 200000 ≤ s.pwr.retention ∧ s.pwr.hot = false ∧ 10000 ≤ s.pwr.exitRun ∧ s.hub.perst = false ∧
     after .retentionExpire s (fun t => t.pwr.off && t.pwr.cold && t.mem == []) = true) ∧
    (let s := { supplied { safe := true, exitRun := 10000 } [] with hub := { dev.hub with perst := true } }
     s.pwr.safe = true ∧ s.pwr.hot = false ∧ 10000 ≤ s.pwr.exitRun ∧ s.hub.perst = true ∧
     after .stage5Exit s (fun t => t.pwr.safe && t.pwr.exitReady) = true) ∧
    (supplied { off := true } []).pwr.off = true ∧
    after (.powerApply 42000 20) (supplied { off := true } []) (fun t => t.pwr.inrush) = true ∧
    after .storeCharged (supplied { inrush := true } []) (fun t => !t.pwr.inrush) = true := by decide +kernel

theorem witness_ModesAndReference :
    (let s := sets [(.rotStructEnmodes, 0, 3), (.pwrStatusShedcap, 0, 1), (.pwrStatusThermcap, 0, 1)] dev
     Claims.admits s host 0x20_0008 4 (0 : BitVec 2).toNat ∧ (0 : BitVec 2).toNat < 3 ∧ bit (fget s .rotStructEnmodes 0) 0 = true ∧
     fget s .pwrStatusShedcap 0 < 4 ∧ fget s .pwrStatusThermcap 0 < 4 ∧
     after (.modeSelect host 0) s (fun t => fget t .pwrModeCtrlSel 0 == 0) = true ∧
     Claims.admits s host 0x20_0008 4 (2 : BitVec 2).toNat ∧ bit (fget s .rotStructEnmodes 0) (2 : BitVec 2).toNat = false ∧
     after (.modeSelect host 2) s (fun t => fget t .pwrModeCtrlSel 0 == fget s .pwrModeCtrlSel 0) = true) ∧
    (let s := sets [(.pwrStatusDieslow, 0, 1)] dev
     fget s .pwrStatusDieslow 0 ≠ 0 ∧ after .railSettled s (fun t => fget t .pwrStatusPending 0 == 1) = true) ∧
    fget dev .pwrStatusRefloss 0 ≠ 1 ∧ hubOn dev = true ∧
    after (.refclkLoss 10) dev (fun t => fget t .pwrStatusRefloss 0 == 1 && fget t .pwrStatusQuiesced 0 == 1) = true ∧
    (let s := sets [(.pwrStatusRefloss, 0, 1), (.pwrStatusQuiesced, 0, 1)] dev
     fget s .pwrStatusRefloss 0 = 1 ∧
     after (.refclkReturn 1000) s (fun t => fget t .pwrStatusRefloss 0 == 0 && fget t .pwrStatusQuiesced 0 == 0) = true) := by
  unfold Claims.admits; decide +kernel

/-- A sample in which compute die 0 is at `x` eighths of a degree. -/
def heat (x : Int) : ThermalReading := { die0 := x, die1 := 0, die2 := 0, die3 := 0, hub := 0, granary := [1, 2], hbm := 0, rails := [790, 2000] }

theorem witness_HeatAndRest :
    atLevel (heat 960) 3 = true ∧ atLevel (heat 900) 3 = false ∧ atLevel (heat 900) 2 = true ∧
    (let s := supplied { thermRun := [(2, 1), (3, 1)] } []
     1 ≤ tget (fun _ => 0) s.pwr.thermRun 3 ∧ 1 ≤ tget (fun _ => 0) s.pwr.thermRun 2 ∧ fget s .pwrStatusTlevel 0 < 2 ∧
     after (.thermalSample (heat 960)) s (fun t => t.pwr.safe && t.pwr.hot && fget t .pwrTempTemp 0 == 960 &&
       fget t .pwrTempVdie 0 == 790 && fget t .pwrTempVdie 1 == 1023 && t.pwr.grnTemp == [1, 2]) = true ∧
     after (.thermalSample (heat 900)) s (fun t => fget t .pwrStatusTlevel 0 == 2 && fget t .pwrStatusThermcap 0 == 2) = true) ∧
    (let s := supplied { thermRun := [(1, 1)] } []
     atLevel (heat 850) 3 = false ∧ atLevel (heat 850) 2 = false ∧ atLevel (heat 850) 1 = true ∧
     1 ≤ tget (fun _ => 0) s.pwr.thermRun 1 ∧ fget s .pwrStatusTlevel 0 < 1 ∧
     after (.thermalSample (heat 850)) s (fun t => fget t .pwrStatusTlevel 0 == 1 && fget t .pwrStatusThermcap 0 == 0) = true) ∧
    (let s := supplied { dropRun := 100 } [(.pwrStatusTlevel, 0, 2), (.pwrStatusThermcap, 0, 2)]
     1 ≤ fget s .pwrStatusTlevel 0 ∧ 100 ≤ s.pwr.dropRun ∧ s.pwr.safe = false ∧
     after .thermalLevelDrop s (fun t => fget t .pwrStatusTlevel 0 == 1) = true) ∧
    (let s := supplied { safe := true, hot := true, coolRun := 10000 } []
     s.pwr.safe = true ∧ s.pwr.hot = true ∧ 10000 ≤ s.pwr.coolRun ∧ s.hub.perst = false) ∧
    (let s := sets [(.pwrStatusPstate, 0, 1)] dev
     Claims.admits s host 0x20_0020 4 0 ∧ fget s .pwrStatusPstate 0 = 1 ∧
     after (.targetD0 host) s (fun t => fget t .pwrStatusPstate 0 == 0) = true) ∧
    (let s := sets [(.pwrStatusPstate, 0, 2)] dev
     Claims.admits s host 0x20_0020 4 0 ∧ fget s .pwrStatusPstate 0 = 2) ∧
    Claims.admits dev host 0x20_0020 4 1 ∧ Claims.admits dev host 0x20_0020 4 2 ∧ fget dev .pwrStatusPstate 0 = 0 ∧
    mayRest dev = true ∧ dev.hbmQueue = [] ∧
    after (.targetIdle host) dev (fun t => fget t .pwrStatusPstate 0 == 1) = true ∧
    after (.targetDrowse host) dev (fun t => fget t .pwrStatusPstate 0 == 2 && t.cores == []) = true := by
  unfold Claims.admits; decide +kernel

/-! ### Ill-formed commands -/

theorem smoke_packet : ({ noticed 0x10 with data := List.replicate 2049 0 } : Packet).wf = false ∧ (noticed 0x10).wf = true ∧
    (Instr.fencedNotice { noticed 0x10 with data := List.replicate 2049 0 }).wf = false := by decide +kernel

theorem smoke_bar2 : (Instr.bar2Read 0 false .sound 0 0).wf = false ∧ (Instr.bar2Read 0 false .sound 0 4097).wf = false ∧
    (Instr.bar2Write 0 false .sound 0 []).wf = false ∧ (Instr.bar2Read 0 false .sound 0 4096).wf = true ∧
    (Instr.bar2Write 0 false .sound 0 [1]).wf = true := by decide +kernel

theorem smoke_selftest : (Instr.selftestDone 0 { rows := [(260, 0)], banks := [], validBad := false }).wf = false ∧
    (Instr.selftestDone 0 { rows := [(0, 8192)], banks := [], validBad := false }).wf = false ∧
    (Instr.selftestDone 0 { rows := [], banks := [260], validBad := false }).wf = false ∧
    (Instr.selftestDone 0 { rows := [(259, 8191)], banks := [259], validBad := true }).wf = true := by decide +kernel

theorem smoke_por : (Instr.por [] 0).wf = false ∧
    (Instr.por (List.replicate 16 { rows := [], banks := [260], validBad := false }) 0).wf = false ∧
    (Instr.por (List.replicate 16 { rows := [], banks := [], validBad := false }) 0).wf = true := by decide +kernel

theorem smoke_flit : (Instr.flitReceive 0 { mkFlit 0 0 0 false false [] with content := List.replicate 119 0 }).wf = false ∧
    (Instr.flitReceive 0 { mkFlit 0 0 0 false false [] with content := List.replicate 120 0 }).wf = true := by decide +kernel

theorem smoke_cores :
    (let x : CoreFinding := { core := 4, firstFail := 0, failures := 0, flags := 0, word := 0 }
     (Instr.fieldTest 0 0 [x, x]).wf = false ∧ (Instr.fieldTest 0 0 [x]).wf = true) ∧
    (let x : SweepFinding := { core := 4, vpassE := 700, vpassT := 600, failE := false, failT := false }
     (Instr.marginCal 0 0 [x, x]).wf = false ∧ (Instr.marginCal 0 0 [x]).wf = true) := by decide +kernel

theorem smoke_link : linkOk 0 1 = false ∧ linkOk 1 0 = false ∧ linkOk 1 1 = true := by decide +kernel

/-! ### Known answers -/

/-- The check value of CRC-32C (IETF RFC 3720, appendix B.4: of the digits 1 to 9 by its catalogue entry). -/
theorem test_crc32c : crc32c (ascii "123456789") = 0xE3069283 := by decide +kernel

/-- The first eight bytes of SHA-384 of abc (FIPS 180-4, the example of its SHA-384). -/
theorem test_sha384 : (sha384 (ascii "abc")).take 8 = [0xCB, 0x00, 0x75, 0x3F, 0x45, 0xA3, 0x5E, 0x8B] := by decide +kernel

end Sys2Proof.Tests
end

section
/-! O38: the clause on the mask of a vector leaves out the Function Mask of MSI-X, so the statement fails. Under the Function
Mask a vector whose own mask is cleared stays pending (13 R323, with PCI Express for what masks a vector). -/

namespace Sys2Proof.Machine

/-! ### Admitted writes of the host through BAR0 -/

/-- An admitted, fitting write through BAR0 reaches the register map. -/
theorem bar0Write_of_admits {s : State} {f : Fn} {ide : Bool} {tlp : Tlp} {off n data : Nat}
    (h : Claims.admits s (.host f ide tlp) off n data) (hfits : bar0Fits off n = true) :
    bar0Write s f ide tlp off n (bits data 0 (8 * n)) =
      writeBus s (.host f ide tlp) f.val (if f = 0 then 1 else 2) off n (bits data 0 (8 * n)) := by
  obtain ⟨hgate, hreach⟩ := h
  simp only [Claims.reaches, Bool.and_eq_true, Option.isNone_iff_eq_none] at hreach
  obtain ⟨hlink, hfault⟩ := hreach
  simp [bar0Write, gatedWrite, viewOf, hlink, hfault, hfits, hgate]

/-- An admitted, fitting register write by a command of its own reaches the register map. -/
theorem registerRow_of_admits {s : State} {f : Fn} {ide : Bool} {tlp : Tlp} {off n data : Nat}
    (h : Claims.admits s (.host f ide tlp) off n data) (hfits : bar0Fits off n = true) :
    registerRow s (.host f ide tlp) off n data =
      .next (writeBus s (.host f ide tlp) f.val (if f = 0 then 1 else 2) off n (bits data 0 (8 * n))) := by
  have hn : n ≠ 16 := by
    rintro rfl
    simp [bar0Fits] at hfits
  simp [registerRow, piecesOf, hn, bar0Write_of_admits h hfits]

/-- MSIX_UNMASK, admitted, is a write of 0 at its place in the register map. -/
theorem exec_msixUnmask_of_admits {s : State} {f : Fn} {ide : Bool} {v : Fin 64}
    (h : Claims.admits s (.host f ide .sound) (0x1_000C + 16 * v.val) 4 0) :
    exec (.msixUnmask f ide v) s =
      .next (writeBus s (.host f ide .sound) f.val (if f = 0 then 1 else 2) (0x1_000C + 16 * v.val) 4 0) :=
  registerRow_of_admits h (by simp only [bar0Fits, beq_self_eq_true, Bool.true_or, Bool.true_and, beq_iff_eq]; omega)

/-! ### A vector under the Function Mask -/

/-- PF0 may issue messages, with MSI-X enabled and its Function Mask set; vector 0 is masked and pending. -/
def functionMasked : FnX :=
  { memSpace := true, busMaster := true, msixEnable := true, msixMask := true, pendingVec := [0] }

/-- A running device, its link up and owned by the host, whose PF0 is `functionMasked`. -/
def functionMaskedState : State :=
  fset (fset (fset (fset { fns := [(0, functionMasked)] } .rotBootStatusStage 0 2) .hstLinkStatusUp 0 1)
    .hstOwnStatusState 0 2) .hstOwnStatusOwner 0 1

/-- The host's write of 0 to the mask of vector 0 is admitted. -/
theorem admits_functionMaskedState :
    Claims.admits functionMaskedState (.host 0 false .sound) (0x1_000C + 16 * (0 : Fin 64).val) 4 0 := by
  unfold Claims.admits
  decide +kernel

/-- After that write vector 0 is unmasked and still pending, and nothing has been sent. -/
theorem writeBus_functionMaskedState :
    let t := writeBus functionMaskedState (.host 0 false .sound) 0 1 0x1_000C 4 0
    bit ((t.fn 0).entry 0) 96 = false ∧ (t.fn 0).pendingVec = [0] ∧ t.sent = [] := by
  decide +kernel

/-- The clause on the mask of a vector fails: it asks of an enabled, pending vector that it is sent, whatever the Function
Mask says. -/
theorem not_registersAreReached : ¬ Claims.RegistersAreReached := by
  intro h
  obtain ⟨-, -, -, -, -, -, hunmask⟩ := h functionMaskedState 0
  obtain ⟨t, hexec, -, -, hsent⟩ := hunmask 0 false 0 admits_functionMaskedState
  obtain ⟨-, hpending, -⟩ := writeBus_functionMaskedState
  obtain rfl := Host.Outcome.next.inj ((exec_msixUnmask_of_admits admits_functionMaskedState).symm.trans hexec)
  have hgone := (hsent (by decide) (by decide) (by decide) (.inl rfl)).1
  exact hgone (hpending ▸ List.mem_singleton_self 0)

/-- Refutes O38: with the Function Mask of MSI-X set, the write that clears the mask of a pending vector leaves it pending. -/
theorem not_hostReachesRegistersAndMemory : ¬ Obligations.HostReachesRegistersAndMemory := by
  unfold Obligations.HostReachesRegistersAndMemory
  rintro ⟨-, hregs, -⟩
  exact not_registersAreReached hregs

end Sys2Proof.Machine
end

section
/-! What reports, memory accesses and the drain queue of a core leave alone. Each relation says what an operation may change;
each is reflexive and transitive, so that a loop of such operations keeps it. -/

namespace Sys2Proof.Machine

/-! ### The relations -/

/-- The registers that an error record and a step status bit may change. -/
def reportFields : List Field := [.updStatusStatus, .errLostDropped]

/-- The registers that an access to memory may change: those of a report, the tallies of the memories, an armed injection. -/
def accessFields : List Field :=
  [.updStatusStatus, .errLostDropped, .grnErrTallyCe, .grnErrTallyUe, .hbmErrTallyCe, .hbmErrTallyUe, .hbmInjectArm,
    .hstViolTallyCount]

/-- A bit of a partition's step status that is set stays set (10 R216). -/
def statusRises (s t : State) : Prop :=
  ∀ p k, k < 11 → (fget s .updStatusStatus p).testBit k = true → (fget t .updStatusStatus p).testBit k = true

/-- Registers outside `but` and the lifts are kept, and the step status only gains bits. -/
structure Kept (but : List Field) (s t : State) : Prop where
  regs : Claims.regsKept s t but
  lifts : t.lifts = s.lifts
  status : statusRises s t

/-- What a report keeps: the cores and memory too. -/
structure Reports (but : List Field) (s t : State) : Prop extends Kept but s t where
  mem : Claims.memSame s t
  cores : t.cores = s.cores

/-- What a write keeps: the cores too. -/
structure Writes (but : List Field) (s t : State) : Prop extends Kept but s t where
  cores : t.cores = s.cores

/-- What a read keeps: the cores too, but for their tallies of corrected errors. -/
structure Reads (but : List Field) (s t : State) : Prop extends Kept but s t where
  cores : ∀ d, t.core d = { s.core d with errTally := (t.core d).errTally }

/-- What the drain queue of core `c` keeps while it sends: every other core, and of `c` all but the writes of its tiles. -/
structure Drains (c : Core) (but : List Field) (s t : State) : Prop extends Kept but s t where
  others : Claims.coresKept s t c
  own : t.core c = { s.core c with taken := (t.core c).taken, finished := (t.core c).finished }
  keys : (t.core c).taken.map Claims.takenKey = (s.core c).taken.map Claims.takenKey

/-! ### Order -/

variable {but but' : List Field} {s t u : State} {c : Core}

theorem Claims.regsKept_trans (h : Claims.regsKept s t but) (h' : Claims.regsKept t u but) : Claims.regsKept s u but :=
  fun f i hf => (h' f i hf).trans (h f i hf)

theorem Claims.regsKept_mono (hb : but ⊆ but') (h : Claims.regsKept s t but) : Claims.regsKept s t but' :=
  fun f i hf => h f i fun hm => hf (hb hm)

theorem Claims.memSame_trans (h : Claims.memSame s t) (h' : Claims.memSame t u) : Claims.memSame s u :=
  ⟨h'.1.trans h.1, h'.2.trans h.2⟩

theorem core_of_cores (h : t.cores = s.cores) (d : Core) : t.core d = s.core d := by simp [State.core, h]

theorem fget_of_regs (h : t.regs = s.regs) (f : Field) (i : Nat) : fget t f i = fget s f i := by simp [fget, h]

theorem Kept.of_eq (h : t.regs = s.regs) (hl : t.lifts = s.lifts) : Kept but s t where
  regs f i _ := fget_of_regs h f i
  lifts := hl
  status p k _ hk := by rwa [fget_of_regs h]

theorem Kept.trans (h : Kept but s t) (h' : Kept but t u) : Kept but s u where
  regs := Claims.regsKept_trans h.regs h'.regs
  lifts := h'.lifts.trans h.lifts
  status p k hk hs := h'.status p k hk (h.status p k hk hs)

theorem Kept.mono (hb : but ⊆ but') (h : Kept but s t) : Kept but' s t where
  regs := Claims.regsKept_mono hb h.regs
  lifts := h.lifts
  status := h.status

theorem Reports.of_eq (hr : t.regs = s.regs) (hl : t.lifts = s.lifts) (hm : t.mem = s.mem) (hx : t.scrambled = s.scrambled)
    (hc : t.cores = s.cores) : Reports but s t where
  toKept := .of_eq hr hl
  mem := ⟨hm, hx⟩
  cores := hc

theorem Reports.refl (s : State) : Reports but s s := .of_eq rfl rfl rfl rfl rfl

theorem Reports.trans (h : Reports but s t) (h' : Reports but t u) : Reports but s u where
  toKept := h.toKept.trans h'.toKept
  mem := Claims.memSame_trans h.mem h'.mem
  cores := h'.cores.trans h.cores

theorem Reports.mono (hb : but ⊆ but') (h : Reports but s t) : Reports but' s t where
  toKept := h.toKept.mono hb
  mem := h.mem
  cores := h.cores

theorem Reports.ite {P : Prop} [Decidable P] (h : Reports but s t) : Reports but s (if P then t else s) := by
  split
  · exact h
  · exact .refl s

theorem Reports.core (h : Reports but s t) (d : Core) : t.core d = s.core d := core_of_cores h.cores d

theorem Reports.writes (h : Reports but s t) : Writes but s t where
  toKept := h.toKept
  cores := h.cores

theorem Writes.refl (s : State) : Writes but s s := (Reports.refl s).writes

theorem Writes.trans (h : Writes but s t) (h' : Writes but t u) : Writes but s u where
  toKept := h.toKept.trans h'.toKept
  cores := h'.cores.trans h.cores

theorem Writes.core (h : Writes but s t) (d : Core) : t.core d = s.core d := core_of_cores h.cores d

theorem Writes.reads (h : Writes but s t) : Reads but s t where
  toKept := h.toKept
  cores d := by rw [h.core d]

theorem Reports.reads (h : Reports but s t) : Reads but s t := h.writes.reads

theorem Reads.refl (s : State) : Reads but s s := (Reports.refl s).reads

theorem Reads.trans (h : Reads but s t) (h' : Reads but t u) : Reads but s u where
  toKept := h.toKept.trans h'.toKept
  cores d := by rw [h'.cores d, h.cores d]

theorem Reads.mono (hb : but ⊆ but') (h : Reads but s t) : Reads but' s t where
  toKept := h.toKept.mono hb
  cores := h.cores

theorem Drains.refl (c : Core) (s : State) : Drains c but s s where
  toKept := .of_eq rfl rfl
  others _ _ := rfl
  own := rfl
  keys := rfl

theorem Drains.trans (h : Drains c but s t) (h' : Drains c but t u) : Drains c but s u where
  toKept := h.toKept.trans h'.toKept
  others d hd := (h'.others d hd).trans (h.others d hd)
  own := by rw [h'.own, h.own]
  keys := h'.keys.trans h.keys

theorem Drains.mono (hb : but ⊆ but') (h : Drains c but s t) : Drains c but' s t where
  toKept := h.toKept.mono hb
  others := h.others
  own := h.own
  keys := h.keys

theorem Writes.drains (h : Writes but s t) (c : Core) : Drains c but s t where
  toKept := h.toKept
  others d _ := h.core d
  own := by rw [h.core c]
  keys := by rw [h.core c]

/-- A loop keeps what each of its rounds keeps. -/
theorem foldl_keeps {α β : Type} {R : β → β → Prop} (refl : ∀ b, R b b) (trans : ∀ {a b c}, R a b → R b c → R a c)
    {f : β → α → β} (step : ∀ b a, R b (f b a)) (l : List α) (b : β) : R b (l.foldl f b) :=
  List.foldlRecOn l f (refl b) fun _ h a _ => trans h (step _ a)

/-- What one round of a loop brings about holds after the loop, when the other rounds keep it. -/
theorem foldl_brings {α β : Type} {P : β → Prop} {f : β → α → β} (keep : ∀ b a, P b → P (f b a)) {a : α} {l : List α}
    (ha : a ∈ l) (brings : ∀ b, P (f b a)) (b : β) : P (l.foldl f b) := by
  obtain ⟨l₁, l₂, rfl⟩ := List.append_of_mem ha
  rw [List.foldl_append, List.foldl_cons]
  exact List.foldlRecOn l₂ f (brings _) fun b' h a' _ => keep b' a' h

theorem Reports.foldl {α : Type} {f : State → α → State} (step : ∀ s a, Reports but s (f s a)) (l : List α) (s : State) :
    Reports but s (l.foldl f s) := foldl_keeps Reports.refl Reports.trans step l s

/-- A loop of writes that carries a result along. -/
theorem Writes.foldl_fst {α β : Type} {f : State × β → α → State × β} (step : ∀ x a, Writes but x.1 (f x a).1)
    (l : List α) (x : State × β) : Writes but x.1 (l.foldl f x).1 :=
  foldl_keeps (R := fun x y : State × β => Writes but x.1 y.1) (fun _ => .refl _) (fun h h' => h.trans h') step l x

/-- A loop of reads that carries a result along. -/
theorem Reads.foldl_fst {α β : Type} {f : State × β → α → State × β} (step : ∀ x a, Reads but x.1 (f x a).1)
    (l : List α) (x : State × β) : Reads but x.1 (l.foldl f x).1 :=
  foldl_keeps (R := fun x y : State × β => Reads but x.1 y.1) (fun _ => .refl _) (fun h h' => h.trans h') step l x

/-! ### What a register decides -/

theorem partOfQuarter_of_regs (hv : ∀ i, fget t .rotPmapValid i = fget s .rotPmapValid i)
    (hq : ∀ i, fget t .rotPmapQmask i = fget s .rotPmapQmask i) (g : Nat) : partOfQuarter t g = partOfQuarter s g := by
  simp [partOfQuarter, fbit, hv, hq]

/-- A core's partition depends on the protection map alone. -/
theorem Kept.partOfCore (h : Kept but s t) (hv : .rotPmapValid ∉ but) (hq : .rotPmapQmask ∉ but) (c : Core) :
    Machine.partOfCore t c = Machine.partOfCore s c :=
  partOfQuarter_of_regs (fun i => h.regs _ i hv) (fun i => h.regs _ i hq) _

theorem Kept.grantedRun (h : Kept but s t) (hv : .rotPmapValid ∉ but) (hq : .rotPmapQmask ∉ but) (hw : .rotPmapHwin ∉ but)
    (p : Part) (a n : Nat) : Machine.grantedRun t p a n = Machine.grantedRun s p a n := by
  simp [Machine.grantedRun, granted, fbit, h.regs _ _ hv, h.regs _ _ hq, h.regs _ _ hw]

/-! ### Reports -/

theorem reports_fset (f : Field) (i v : Nat) (hf : f ∈ but) (hs : f ≠ .updStatusStatus) : Reports but s (fset s f i v) where
  regs g j hg := fget_fset_other s v fun h => hg (h.1 ▸ hf)
  lifts := rfl
  status p k _ hk := by rwa [fget_fset_other s v fun h => hs h.1.symm]
  mem := ⟨rfl, rfl⟩
  cores := rfl

theorem reports_fbump (f : Field) (i n : Nat) (hf : f ∈ but) (hs : f ≠ .updStatusStatus) : Reports but s (fbump s f i n) :=
  reports_fset f i _ hf hs

theorem StepBit.idx_lt (b : StepBit) : b.idx < 11 := by cases b <;> decide

theorem testBit_setStatus (s : State) (p : Part) (b : StepBit) (q k : Nat) (hk : k < 11) :
    (fget (setStatus s (some p) b) .updStatusStatus q).testBit k =
      ((fget s .updStatusStatus q).testBit k || decide (q = p.val ∧ k = b.idx)) := by
  unfold setStatus
  by_cases hq : q = p.val
  · subst hq
    rw [fget_fset_same, Nat.testBit_mod_two_pow, Nat.testBit_or, Nat.testBit_two_pow]
    simp [show Field.updStatusStatus.spec.width = 11 from rfl, hk, eq_comm]
  · rw [fget_fset_other s _ fun h => hq h.2]
    simp [hq]

/-- A status bit that is set reads 1. -/
theorem setStatus_bit (s : State) (p : Part) (b : StepBit) :
    (fget (setStatus s (some p) b) .updStatusStatus p.val).testBit b.idx = true := by
  simp [testBit_setStatus s p b _ _ b.idx_lt]

theorem reports_setStatus (p : Option Part) (b : StepBit) (hb : .updStatusStatus ∈ but) :
    Reports but s (setStatus s p b) := by
  cases p with
  | none => exact .refl s
  | some p =>
    exact {
      regs g j hg := fget_fset_other s _ fun h => hg (h.1 ▸ hb)
      lifts := rfl
      status q k hk hs := by simp [testBit_setStatus s p b q k hk, hs]
      mem := ⟨rfl, rfl⟩
      cores := rfl }

theorem reports_setStatusIf (p : Option Part) (b : StepBit) (on : Bool) (hb : .updStatusStatus ∈ but) :
    Reports but s (setStatusIf s p b on) := by
  cases on with
  | false => exact .refl s
  | true => exact reports_setStatus p b hb

theorem reports_record (cls : Cls) (sev : Sev) (p : Option Part) (x : UnitRef) (op : OpRef) (code : Nat) (synd : Synd)
    (hb : .errLostDropped ∈ but) : Reports but s (record s cls sev p x op code synd) := by
  rcases record_cases s cls sev p x op code synd with ⟨-, r, h⟩ | ⟨-, h⟩ <;> rw [h]
  · exact .of_eq rfl rfl rfl rfl rfl
  · exact reports_fbump _ _ _ hb (by decide)

theorem reports_memFault (a : Nat) (ag : MemAgent) (p : Option Part) (x : UnitRef) (l : List Nat)
    (hs : .updStatusStatus ∈ but) (he : .errLostDropped ∈ but) : Reports but s (memFault s a ag p x l) :=
  (reports_record _ _ _ _ _ _ _ he).trans (reports_setStatus _ _ hs)

theorem reports_grnFault (q : MemDie) (a : Nat) (ag : MemAgent) (p : Option Part) :
    Reports accessFields s (grnFault s q a ag p) :=
  (reports_fbump _ _ _ (by decide) (by decide)).trans (reports_memFault _ _ _ _ _ (by decide) (by decide))

theorem reports_hbmFault (k : Stack) (a : Nat) (ag : MemAgent) (p : Option Part) :
    Reports accessFields s (hbmFault s k a ag p) :=
  (reports_fbump _ _ _ (by decide) (by decide)).trans (reports_memFault _ _ _ _ _ (by decide) (by decide))

theorem reports_setFlags (p : Option Part) (f : Flags) (hb : .updStatusStatus ∈ but) : Reports but s (setFlags s p f) :=
  (((reports_setStatusIf _ _ _ hb).trans (reports_setStatusIf _ _ _ hb)).trans (reports_setStatusIf _ _ _ hb)).trans
    (reports_setStatusIf _ _ _ hb)

theorem reports_valueFlags (p : Option Part) (vs : List EpiVal) (hb : .updStatusStatus ∈ but) :
    Reports but s (valueFlags s p vs) :=
  .foldl (fun _ _ => ((reports_setStatusIf _ _ _ hb).trans (reports_setStatusIf _ _ _ hb)).trans (reports_setFlags _ _ hb)) _ _

theorem reports_countStopped (c : Core) : Reports but s (countStopped s c) := by
  unfold countStopped
  split
  · exact .refl s
  · split
    · exact .refl s
    · exact .of_eq rfl rfl rfl rfl rfl

/-- A core that comes to rest changes its STATE, and that it counts as stopped. -/
theorem reports_settle (c : Core) (hb : .coreSeqStatusState ∈ but) : Reports but s (settle s c) := by
  have h : Reports but s (fset s .coreSeqStatusState c.val 2) := reports_fset _ _ _ hb (by decide)
  exact .ite (h.trans (.ite (reports_countStopped c)))

theorem reports_unstage (s : State) (runs : List (Nat × Nat)) : Reports but s (unstage s runs) := .of_eq rfl rfl rfl rfl rfl

/-! ### Writes -/

theorem writes_mput (s : State) (l : List Host.Cell) : Writes but s (mput s l) := ⟨.of_eq rfl rfl, rfl⟩

theorem writes_setDev (s : State) (g d : Nat) : Writes but s (setDev s g d) := ⟨.of_eq rfl rfl, rfl⟩

theorem writes_grnWrite (q : MemDie) (ag : MemAgent) (p : Option Part) (cells : List Host.Cell) :
    Writes accessFields s (grnWrite s q ag p cells) := by
  unfold grnWrite
  split
  · exact .refl s
  · split
    · exact (reports_grnFault _ _ _ _).writes
    · dsimp only
      split <;> exact ⟨.of_eq rfl rfl, rfl⟩

theorem writes_hbmWrite (k : Stack) (ag : MemAgent) (p : Option Part) (cells : List Host.Cell) :
    Writes accessFields s (hbmWrite s k ag p cells) := by
  unfold hbmWrite
  split
  · exact .refl s
  · split
    · exact .refl s
    · dsimp only
      split
      · split
        · exact ((writes_mput _ _).trans (writes_setDev _ _ _)).trans
            (reports_fset _ _ _ (by decide) (by decide)).writes
        · exact (writes_mput _ _).trans (writes_setDev _ _ _)
      · refine Writes.trans ?_ (((writes_mput _ _).trans (writes_mput _ _)).trans (writes_setDev _ _ _))
        refine Reports.writes (.trans ?_ (.ite (reports_hbmFault _ _ _ _)))
        exact .ite (reports_fbump _ _ _ (by decide) (by decide))

theorem writes_windowWrite (c : Core) (off : Nat) (b : Bytes) : Writes accessFields s (windowWrite s c off b) := by
  unfold windowWrite
  split
  · exact (reports_record _ _ _ _ _ _ _ (by decide)).writes
  · exact ⟨.of_eq rfl rfl, rfl⟩

theorem writes_unitWrite (ag : MemAgent) (p : Option Part) (cells : List Host.Cell) :
    Writes accessFields s (unitWrite s ag p cells) := by
  unfold unitWrite
  split
  · exact .refl s
  · split
    · exact writes_grnWrite _ _ _ _
    · exact writes_hbmWrite _ _ _ _
    · exact writes_windowWrite _ _ _
    · exact .refl s
    · exact .refl s

theorem reports_violation (code requester : Nat) (info : List Nat) :
    Reports accessFields s (violation s code requester info) := by
  have h : Reports accessFields s (fbump s .hstViolTallyCount code 1) := reports_fbump _ _ _ (by decide) (by decide)
  unfold violation
  dsimp only
  split
  · exact h
  · refine (h.trans ?_).trans (reports_record _ _ _ _ _ _ _ (by decide))
    exact .of_eq rfl rfl rfl rfl rfl

theorem reports_dmaWrite (f : Fn) (p : Option Part) (off : Nat) (b : Bytes) :
    Reports accessFields s (dmaWrite s f p off b) := by
  unfold dmaWrite
  split
  · exact .of_eq rfl rfl rfl rfl rfl
  · exact (reports_violation _ _ _).trans (reports_setStatus _ _ (by decide))

theorem writes_askWrite (c : Core) (e : Engine) (op : Nat) (p : Option Part) (r : State × Nat) (a : Nat) (b : Bytes) :
    Writes accessFields r.1 (askWrite c e op p r a b).1 := by
  unfold askWrite
  dsimp only
  split
  · exact ⟨.of_eq rfl rfl, rfl⟩
  · exact ⟨.of_eq rfl rfl, rfl⟩
  · exact (reports_dmaWrite _ _ _ _).writes
  · exact writes_unitWrite _ _ _

theorem writes_askWrites (s : State) (c : Core) (e : Engine) (op : Nat) (ws : List (Nat × Bytes)) :
    Writes accessFields s (askWrites s c e op ws).1 :=
  Writes.foldl_fst (fun _ _ => Writes.foldl_fst (fun _ _ => writes_askWrite _ _ _ _ _ _ _) _ _) ws (s, 0)

/-! ### Reads -/

/-- Reading the core's stores changes no core's tally but its own. -/
theorem sramRead_keeps (s : State) (c : Core) (runs : List (Nat × Nat)) (hs : .updStatusStatus ∈ but)
    (he : .errLostDropped ∈ but) : Reads but s (sramRead s c runs) ∧ Claims.coresKept s (sramRead s c runs) c := by
  have count : ∀ n : Nat, let t := if n = 0 then s else s.setCore c { s.core c with errTally := (s.core c).errTally + n }
      Reads but s t ∧ Claims.coresKept s t c := by
    intro n
    dsimp only
    split
    · exact ⟨.refl s, fun _ _ => rfl⟩
    · refine ⟨⟨.of_eq rfl rfl, fun d => ?_⟩, fun d hd => State.core_setCore_other s _ hd⟩
      by_cases hd : d = c
      · subst hd; simp
      · rw [State.core_setCore_other s _ hd]
  have faults := fun (l : List (Nat × Nat)) (t : State) => Reports.foldl
    (f := fun t e => memFault t (4 * e.1) (.core c) (partOfCore t c) (.core c) [])
    (fun _ _ => reports_memFault _ _ _ _ _ hs he) l t
  exact ⟨(count _).1.trans (faults _ _).reads, fun d hd => ((faults _ _).core d).trans ((count _).2 d hd)⟩

theorem reads_sramRead (c : Core) (runs : List (Nat × Nat)) : Reads accessFields s (sramRead s c runs) :=
  (sramRead_keeps s c runs (by decide) (by decide)).1

theorem reads_unitRead (s : State) (ag : MemAgent) (p : Option Part) (a n : Nat) :
    Reads accessFields s (unitRead s ag p a n).1 := by
  unfold unitRead
  split
  · unfold grnRead
    split
    · exact (reports_grnFault _ _ _ _).reads
    · split
      · exact .refl s
      · refine Reports.reads (.trans ?_ (.ite (reports_grnFault _ _ _ _)))
        exact reports_fbump _ _ _ (by decide) (by decide)
      · exact (reports_grnFault _ _ _ _).reads
  · unfold hbmRead
    split
    · exact .refl s
    · refine Reports.reads (.trans ?_ (.ite (reports_hbmFault _ _ _ _)))
      exact .ite (reports_fbump _ _ _ (by decide) (by decide))
  · unfold windowRead
    split
    · exact (reports_record _ _ _ _ _ _ _ (by decide)).reads
    · exact reads_sramRead _ _
  · exact .refl s
  · exact .refl s

theorem reads_takeEffect (s : State) (r : MemReq) : Reads accessFields s (takeEffect s r).1 := by
  unfold takeEffect
  dsimp only
  split
  · exact reads_unitRead _ _ _ _ _
  · exact (writes_unitWrite _ _ _).reads
  · exact .refl s

theorem reads_takeEffects (pick seen : MemReq → Bool) (l : List MemReq) : ∀ (n : Nat) (s : State),
    Reads accessFields s (takeEffects pick seen n l s).1 := by
  induction l with
  | nil => intro n s; exact .refl s
  | cons r l ih =>
    intro n s
    simp only [takeEffects]
    split
    · exact .refl s
    · refine Reads.trans ?_ (ih _ _)
      split
      · exact reads_takeEffect s r
      · exact .refl s

theorem reads_arrive (s : State) (ag : MemAgent) (a : Nat) : Reads accessFields s (arrive s ag a) := by
  have taken := fun (pick seen : MemReq → Bool) (l : List MemReq) (n : Nat) => reads_takeEffects pick seen l n s
  unfold arrive
  split
  · split
    · exact .refl s
    · exact (taken _ _ _ _).trans ⟨.of_eq rfl rfl, fun _ => rfl⟩
  · split
    · exact .refl s
    · exact (taken _ _ _ _).trans ⟨.of_eq rfl rfl, fun _ => rfl⟩
  · exact .refl s

theorem reads_memRead (s : State) (ag : MemAgent) (p : Option Part) (a n : Nat) :
    Reads accessFields s (memRead s ag p a n).1 := by
  refine Reads.foldl_fst (fun _ _ => ?_) (cutRun n a n) (s, [], false)
  exact (reads_arrive _ _ _).trans (reads_unitRead _ _ _ _ _)

end Sys2Proof.Machine
end

section
/-! O14: what issuing a word leaves alone, and the clear of a bank (03 R55, R451; 05 R110). -/

namespace Sys2Proof.Machine

section Clear

/-! ### Issuing a word -/

/-- What issuing a word on core `c` keeps: memory, every other core, and of `c` all but its streams, flags, MARK records and
tally. -/
structure Issues (c : Core) (s t : State) : Prop extends Kept Claims.issueFields s t where
  mem : Claims.memSame s t
  others : Claims.coresKept s t c
  own : t.core c = { s.core c with
    sm := (t.core c).sm, sl := (t.core c).sl, ss := (t.core c).ss, sc := (t.core c).sc, flags := (t.core c).flags
    marks := (t.core c).marks, markLost := (t.core c).markLost, errTally := (t.core c).errTally }

variable {s t u : State} {c : Core}

theorem Issues.trans (h : Issues c s t) (h' : Issues c t u) : Issues c s u where
  toKept := h.toKept.trans h'.toKept
  mem := Claims.memSame_trans h.mem h'.mem
  others d hd := (h'.others d hd).trans (h.others d hd)
  own := by rw [h'.own, h.own]

theorem Reports.issues (h : Reports Claims.issueFields s t) (c : Core) : Issues c s t where
  toKept := h.toKept
  mem := h.mem
  others d _ := h.core d
  own := by rw [h.core c]

theorem Issues.refl (s : State) : Issues c s s := (Reports.refl s).issues c

theorem issues_setCore {x : CoreX} (h : x = { s.core c with
      sm := x.sm, sl := x.sl, ss := x.ss, sc := x.sc, flags := x.flags, marks := x.marks, markLost := x.markLost
      errTally := x.errTally }) : Issues c s (s.setCore c x) where
  toKept := .of_eq rfl rfl
  mem := ⟨rfl, rfl⟩
  others _ hd := State.core_setCore_other s x hd
  own := by rw [State.core_setCore_same]; exact h

theorem issues_setStream (st : Stream) (v : StreamX) : Issues c s (s.setCore c ((s.core c).setStream st v)) :=
  issues_setCore (by cases st <;> rfl)

theorem issues_markReady (st : Stream) (f : WordDone → WordDone) : Issues c s (markReady s c st f) :=
  issues_setStream st _

theorem flagRef_loc {d : Core} {id i : Nat} (h : flagRef c id = some (.loc d i)) : d = c := by
  unfold flagRef at h
  dsimp only at h
  split at h
  · split at h
    · cases h; rfl
    · cases h
  · split at h <;> cases h
  · cases h
  · cases h

theorem issues_signalFlag (id : Nat) : Issues c s (signalFlag s c id) := by
  unfold signalFlag
  split
  · next h =>
    obtain rfl := flagRef_loc h
    unfold flagAdd
    dsimp only
    split
    · exact (reports_record _ _ _ _ _ _ _ (by decide)).issues _
    · exact issues_setCore rfl
  · refine Reports.issues ?_ c
    exact .of_eq rfl rfl rfl rfl rfl
  · exact .refl s

theorem issues_issueMarks (w : WordX) : Issues c s (issueMarks s c w) := by
  have hv : Reports Claims.issueFields s (setStatusIf s (partOfCore s c) .vary w.vary) :=
    reports_setStatusIf _ _ _ (by decide)
  unfold issueMarks
  dsimp only
  split
  · exact hv.issues c
  · refine (hv.issues c).trans ?_
    split
    · exact issues_setCore rfl
    · exact (issues_setCore rfl).trans ((reports_fbump _ _ _ (by decide) (by decide)).issues c)

theorem issues_sramRead (runs : List (Nat × Nat)) : Issues c s (sramRead s c runs) where
  toKept := (sramRead_keeps s c runs (by decide) (by decide)).1.toKept
  mem := sramRead_mem s c runs
  others := (sramRead_keeps s c runs (but := Claims.issueFields) (by decide) (by decide)).2
  own := by rw [(sramRead_keeps s c runs (but := Claims.issueFields) (by decide) (by decide)).1.cores c]

theorem issues_issueWord (w : WordX) : Issues c s (issueWord s c w) := by
  have h := fun runs f => ((issues_issueMarks (s := s) w).trans (issues_sramRead (c := c) runs)).trans
    (issues_markReady w.st f)
  unfold issueWord
  split
  · exact .refl s
  · dsimp only
    split
    · exact (h _ _).trans (issues_signalFlag _)
    · exact h _ _

theorem issues_markDone (st : Stream) (f : WordDone → WordDone) : Issues c s (markDone s c st f) := by
  unfold markDone
  split
  · exact (issues_issueWord _).trans (issues_markReady _ _)
  · exact issues_markReady _ _

/-- After a part has been noted, the notes of the word are what noting makes of some. -/
theorem markDone_done (s : State) (c : Core) (st : Stream) (f : WordDone → WordDone) :
    ∃ d, (((markDone s c st f).core c).stream st).done = f d := by
  unfold markDone
  split
  · exact ⟨_, by simp only [markReady, State.core_setCore_same, CoreX.stream_setStream_same]; rfl⟩
  · exact ⟨_, by simp only [markReady, State.core_setCore_same, CoreX.stream_setStream_same]; rfl⟩

theorem Issues.bank (h : Issues c s t) (b : Fin 2) : (t.core c).bank b = (s.core c).bank b := by rw [h.own]; rfl

theorem Issues.crib (h : Issues c s t) : (t.core c).crib = (s.core c).crib := by rw [h.own]

theorem Issues.chain (h : Issues c s t) : (t.core c).chain = (s.core c).chain := by rw [h.own]

theorem Issues.reg (h : Issues c s t) (b : Fin 2) (pos : Nat) : (t.core c).reg b pos = (s.core c).reg b pos := by
  rw [CoreX.reg, h.crib]; rfl

/-! ### Clearing a bank -/

theorem CoreX.bank_setBank_same (x : CoreX) (b : Fin 2) (v : BankX) : (x.setBank b v).bank b = v := by
  unfold CoreX.setBank CoreX.bank
  split <;> simp

theorem CoreX.bank_setBank_other (x : CoreX) {a b : Fin 2} (v : BankX) (h : a ≠ b) : (x.setBank b v).bank a = x.bank a := by
  unfold CoreX.setBank CoreX.bank
  by_cases hb : b = 0
  · simp [hb, show a ≠ 0 from hb ▸ h]
  · simp [hb, show a = 0 by omega]

theorem CoreX.setBank_crib (x : CoreX) (b : Fin 2) (v : BankX) : (x.setBank b v).crib = x.crib := by
  unfold CoreX.setBank; split <;> rfl

theorem CoreX.setBank_chain (x : CoreX) (b : Fin 2) (v : BankX) : (x.setBank b v).chain = x.chain := by
  unfold CoreX.setBank; split <;> rfl

/-- Dropped keys read their default, the others as before. -/
theorem tget_tdrop {α : Type} (d : Nat → α) (p : Nat → Bool) (t : List (Nat × α)) (k : Nat) :
    tget d (tdrop p t) k = if p k then d k else tget d t k := by
  induction t with
  | nil => simp [tdrop, tget]
  | cons e t ih =>
    obtain ⟨k', v⟩ := e
    unfold tdrop at *
    by_cases hk : k' = k
    · subst hk
      by_cases hp : p k' = true <;> simp [hp, tget, ih]
    · by_cases hp : p k' = true <;> simp [hp, tget, ih, hk]

theorem CoreX.clearBank_crib (x : CoreX) (b : Fin 2) : (x.clearBank b).crib = tdrop (fun k => k % 2 == b.val) x.crib :=
  CoreX.setBank_crib _ _ _

theorem CoreX.clearBank_chain (x : CoreX) (b : Fin 2) : (x.clearBank b).chain = [] := CoreX.setBank_chain _ _ _

theorem CoreX.clearBank_kind (x : CoreX) (b : Fin 2) : ((x.clearBank b).bank b).kind = .empty := by
  rw [CoreX.clearBank, CoreX.bank_setBank_same]

theorem CoreX.clearBank_bank_other (x : CoreX) {a b : Fin 2} (h : a ≠ b) : (x.clearBank b).bank a = x.bank a :=
  CoreX.bank_setBank_other _ _ h

theorem CoreX.clearBank_reg_same (x : CoreX) (b : Fin 2) (pos : Nat) : (x.clearBank b).reg b pos = {} := by
  rw [CoreX.reg, CoreX.clearBank_crib, tget_tdrop, if_pos]
  simp only [beq_iff_eq]
  omega

theorem CoreX.clearBank_reg_other (x : CoreX) {a b : Fin 2} (h : a ≠ b) (pos : Nat) :
    (x.clearBank b).reg a pos = x.reg a pos := by
  rw [CoreX.reg, CoreX.clearBank_crib, tget_tdrop, if_neg]
  · rfl
  · simp only [beq_iff_eq]
    omega

theorem CoreX.clearBoth_kind (x : CoreX) (b : Fin 2) : (x.clearBoth.bank b).kind = .empty := by
  by_cases hb : b = 1
  · exact hb ▸ CoreX.clearBank_kind _ 1
  · rw [CoreX.clearBoth, CoreX.clearBank_bank_other _ hb, show b = 0 by omega, CoreX.clearBank_kind]

/-- Every position is one of bank 0 or of bank 1, so that nothing is left in the crib. -/
theorem CoreX.clearBoth_crib (x : CoreX) : x.clearBoth.crib = [] := by
  rw [CoreX.clearBoth, CoreX.clearBank_crib, CoreX.clearBank_crib, tdrop, tdrop, List.filter_filter, List.filter_eq_nil_iff]
  intro e _
  rcases Nat.mod_two_eq_zero_or_one e.1 with h | h <;> simp [h]

theorem CoreX.clearBoth_reg (x : CoreX) (b : Fin 2) (pos : Nat) : x.clearBoth.reg b pos = {} := by
  rw [CoreX.reg, CoreX.clearBoth_crib]; rfl

/-- The word takes the chain whole: it feeds one, or one holds the banks (03 R451). -/
def clearsPair (x : CoreX) (w : WordX) : Prop :=
  (w.mop = 1 ∧ w.isF64 = true) ∨ x.bank0.kind = .chain ∨ x.bank1.kind = .chain

theorem CoreX.clearFor_of_pair {x : CoreX} {w : WordX} (h : clearsPair x w) : x.clearFor w = x.clearBoth := by
  unfold CoreX.clearFor
  rw [if_pos]
  simpa [clearsPair, or_assoc] using h

theorem CoreX.clearFor_of_single {x : CoreX} {w : WordX} (h : ¬clearsPair x w) : x.clearFor w = x.clearBank w.bank := by
  unfold CoreX.clearFor
  rw [if_neg]
  simpa [clearsPair, or_assoc] using h

theorem CoreX.clearFor_kind (x : CoreX) (w : WordX) : ((x.clearFor w).bank w.bank).kind = .empty := by
  by_cases h : clearsPair x w
  · rw [CoreX.clearFor_of_pair h, CoreX.clearBoth_kind]
  · rw [CoreX.clearFor_of_single h, CoreX.clearBank_kind]

theorem CoreX.clearFor_reg (x : CoreX) (w : WordX) (pos : Nat) : (x.clearFor w).reg w.bank pos = {} := by
  by_cases h : clearsPair x w
  · rw [CoreX.clearFor_of_pair h, CoreX.clearBoth_reg]
  · rw [CoreX.clearFor_of_single h, CoreX.clearBank_reg_same]

/-- A register at zero holds the value 0, in its digits and its guard. -/
theorem LongReg.default_value : ({} : LongReg).ext = 0 ∧ ({} : LongReg).guard = 0 := by decide

/-! ### The commands -/

/-- A part that is not ready to be made at the word at hand is not made. -/
theorem atPart_idle {st : Stream} {w : WordX} {ready : WordX → WordDone → Bool} {effect : WordX → State}
    (hw : atWord s c st true = .word w) (hr : ready w ((s.core c).stream st).done = false) :
    atPart s c st ready effect = .next s := by
  simp [atPart, hw, hr, idle]

/-- A part that is ready at the word at hand is made. -/
theorem atPart_made {st : Stream} {w : WordX} {ready : WordX → WordDone → Bool} {effect : WordX → State}
    (hw : atWord s c st true = .word w) (hr : ready w ((s.core c).stream st).done = true) :
    atPart s c st ready effect = .next (effect w) := by
  simp [atPart, hw, hr]

theorem bankPart_idle {rest : Bool} {w : WordX} {ready : WordX → WordDone → Bool} {both : WordX → Bool}
    {effect : WordX → State} (hw : atWord s c .m true = .word w) (hr : ready w (s.core c).sm.done = false) :
    bankPart s c rest ready both effect = .next s := by
  unfold bankPart
  refine atPart_idle hw ?_
  simp [CoreX.stream, hr]

/-- A part that finds its bank at rest and not held is made. -/
theorem bankPart_made {rest : Bool} {w : WordX} {ready : WordX → WordDone → Bool} {both : WordX → Bool}
    {effect : WordX → State} (hw : atWord s c .m true = .word w) (hr : ready w (s.core c).sm.done = true)
    (hheld : bankHeld (s.core c) w.bank (both w) = false) (hpipe : bankInPipe (s.core c) w.bank (both w) = false) :
    bankPart s c rest ready both effect = .next (effect w) := by
  unfold bankPart
  refine (atPart_made hw ?_).trans ?_
  · simp [CoreX.stream, hr, hpipe]
  · simp only [hheld, Bool.false_eq_true, if_false]

/-- Until its clear is made, the MMA of a word makes nothing (03 R55). -/
theorem exec_mma_before_clear {w : WordX} (hw : atWord s c .m true = .word w) (hclr : w.clr = true)
    (hd : (s.core c).sm.done.clr = false) (faults : List MulFault) : exec (.mma ⟨c, faults⟩) s = .next s := by
  show execMma ⟨c, faults⟩ s = _
  unfold execMma
  refine bankPart_idle hw ?_
  simp [hclr, hd]

/-- A clear that finds its bank at rest is made; the word issues, and the clear is noted. -/
theorem exec_clr {w : WordX} (hw : atWord s c .m true = .word w) (hclr : w.clr = true)
    (hi : issued w (s.core c).sm.done = true) (hd : (s.core c).sm.done.clr = false)
    (hheld : bankHeld (s.core c) w.bank (takesBoth (s.core c) w) = false)
    (hpipe : bankInPipe (s.core c) w.bank (takesBoth (s.core c) w) = false) :
    ∃ t, exec (.clr c) s = .next t ∧ (t.core c).sm.done.clr = true ∧
      Issues c (s.setCore c ((s.core c).clearFor w)) t := by
  obtain ⟨d, hdone⟩ := markDone_done (s.setCore c ((s.core c).clearFor w)) c .m fun d => { d with clr := true }
  refine ⟨_, ?_, congrArg WordDone.clr hdone, issues_markDone .m _⟩
  show execClr c s = _
  unfold execClr
  refine bankPart_made hw ?_ hheld hpipe
  simp [hclr, hi, hd]

end Clear

/-- Settles O14: the clear drops every listed register of its bank, or of both banks, and the MMA waits for it. -/
theorem clearZeroesBank : Obligations.ClearZeroesBank := by
  intro s c w hw hclr hi hd
  refine ⟨exec_mma_before_clear hw hclr hd, fun hheld hpipe => ?_⟩
  obtain ⟨t, hexec, hdone, hissues⟩ := exec_clr hw hclr hi hd hheld hpipe
  have hbank := hissues.bank
  have hreg := hissues.reg
  have hcrib := hissues.crib
  have hchain := hissues.chain
  rw [State.core_setCore_same] at hbank hreg hcrib hchain
  refine ⟨t, hexec, hdone, ?_, fun pos => ?_, fun hpair => ?_, fun hsingle b hb => ?_, fun e he => ?_, hissues.mem,
    hissues.regs⟩
  · rw [hbank, CoreX.clearFor_kind]
  · rw [hreg, CoreX.clearFor_reg]
    exact ⟨LongReg.default_value.1, LongReg.default_value.2, rfl, rfl, rfl, rfl, rfl, rfl⟩
  · rw [hcrib, hchain, CoreX.clearFor_of_pair hpair]
    exact ⟨fun b => by rw [hbank, CoreX.clearFor_of_pair hpair, CoreX.clearBoth_kind], CoreX.clearBoth_crib _,
      CoreX.clearBank_chain _ _⟩
  · exact ⟨by rw [hbank, CoreX.clearFor_of_single hsingle, CoreX.clearBank_bank_other _ hb],
      fun pos => by rw [hreg, CoreX.clearFor_of_single hsingle, CoreX.clearBank_reg_other _ hb]⟩
  · exact (hissues.others e he).trans (State.core_setCore_other s _ he)

end Sys2Proof.Machine
end

section
/-! O16: the arithmetic of the long register in its limbs, and the two commands that change it (03 R51, R56, R57, R71). -/

namespace Sys2Proof.Machine

/-! ### Values of limbs -/

/-- The value of signed digits, least significant first. -/
def digitSum : List Int → Int
  | [] => 0
  | t :: ts => t + 2 ^ 64 * digitSum ts

theorem digitSum_append (a b : List Int) : digitSum (a ++ b) = digitSum a + 2 ^ (64 * a.length) * digitSum b := by
  induction a with
  | nil => simp [digitSum]
  | cons x a ih => simp only [List.cons_append, digitSum, ih, List.length_cons, Nat.mul_succ, pow_add]; ring

theorem digitSum_replicate_zero (n : Nat) : digitSum (List.replicate n 0) = 0 := by
  induction n with
  | zero => rfl
  | succ n ih => simp [List.replicate_succ, digitSum, ih]

theorem limbSum_cons (d c : Int) (ds cs : List Int) :
    limbSum (d :: ds) (c :: cs) = d + c * 2 ^ 64 + 2 ^ 64 * limbSum ds cs := by simp only [limbSum]

/-- Adding digits adds their value, as far as the limbs reach: a digit that overflows passes its carry to the count. -/
theorem limbSum_addDigits (ds cs ts : List Int) (h : cs.length = ds.length) :
    limbSum (addDigits ds cs ts).1 (addDigits ds cs ts).2 = limbSum ds cs + digitSum (ts.take ds.length) := by
  induction ds generalizing cs ts with
  | nil => simp [addDigits, digitSum]
  | cons d ds ih =>
    obtain ⟨c, cs, rfl⟩ := List.exists_cons_of_length_eq_add_one h
    cases ts with
    | nil => simp [addDigits, digitSum]
    | cons t ts =>
      have := ih cs ts (by simpa using h)
      simp only [addDigits, List.length_cons, List.take_succ_cons, digitSum]
      split
      · simp only [limbSum_cons, this]; ring
      · split
        · simp only [limbSum_cons, this]; ring
        · simp only [limbSum_cons, this]; ring

theorem balanced_bounds (z : Int) : -2 ^ 63 ≤ balanced z ∧ balanced z < 2 ^ 63 := by
  unfold balanced
  dsimp only
  split <;> omega

theorem two_pow_dvd_sub_balanced (z : Int) : (2 ^ 64 : Int) ∣ z - balanced z := by
  unfold balanced
  dsimp only
  split <;> omega

/-- A number within a quarter of what `m` digits span has at most `m` signed digits, and they give its value. -/
theorem signedDigits_of_bound (m n : Nat) (z : Int) (hm : m ≤ n) (hz : z = 0 ∨ 0 < m ∧ |z| ≤ 2 ^ (64 * m - 2)) :
    (signedDigits n z).length ≤ m ∧ digitSum (signedDigits n z) = z := by
  induction n generalizing m z with
  | zero =>
    obtain rfl : z = 0 := hz.elim id fun h => absurd h.1 (by omega)
    simp [signedDigits, digitSum]
  | succ n ih =>
    by_cases h0 : z = 0
    · simp [signedDigits, digitSum, h0]
    obtain ⟨hpos, hb⟩ := hz.resolve_left h0
    obtain ⟨k, rfl⟩ : ∃ k, m = k + 1 := ⟨m - 1, by omega⟩
    obtain ⟨hlo, hhi⟩ := balanced_bounds z
    obtain ⟨q, hq⟩ := two_pow_dvd_sub_balanced z
    have hdiv : (z - balanced z) / 2 ^ 64 = q := by rw [hq]; exact Int.mul_ediv_cancel_left _ (by norm_num)
    have hrest : q = 0 ∨ 0 < k ∧ |q| ≤ 2 ^ (64 * k - 2) := by
      rw [abs_le] at hb
      rcases Nat.eq_zero_or_pos k with rfl | hk
      · left; norm_num at hb; omega
      · right
        have hpow : (2 : Int) ^ (64 * (k + 1) - 2) = 2 ^ 64 * 2 ^ (64 * k - 2) := by
          rw [← pow_add]; congr 1; omega
        rw [hpow] at hb
        exact ⟨hk, abs_le.mpr ⟨by omega, by omega⟩⟩
    obtain ⟨hlen, hsum⟩ := ih k q (by omega) hrest
    simp only [signedDigits, h0, if_false, hdiv, List.length_cons, digitSum, hsum]
    exact ⟨by omega, by omega⟩

/-- A term within a quarter of a register's span begins below its top, and what stands of it from its first limb on is within
a quarter of what the limbs from there span. -/
theorem shifted_term_bound {n b : Nat} {x : Int} (hx : x ≠ 0) (h : (x * 2 ^ b).natAbs < 2 ^ (64 * n - 2)) :
    b / 64 < n ∧ |x * 2 ^ (b % 64)| ≤ 2 ^ (64 * (n - b / 64) - 2) := by
  have hb : 64 * (b / 64) + b % 64 = b := Nat.div_add_mod b 64
  have hlt : b < 64 * n - 2 := by
    refine (Nat.pow_lt_pow_iff_right (a := 2) (by norm_num)).mp (lt_of_le_of_lt ?_ h)
    rw [Int.natAbs_mul, Int.natAbs_pow]
    exact Nat.le_mul_of_pos_left _ (Int.natAbs_pos.mpr hx)
  have hspan : (2 : Int) ^ (64 * n - 2) = 2 ^ (64 * (b / 64)) * 2 ^ (64 * (n - b / 64) - 2) := by
    rw [← pow_add]; congr 1; omega
  have hterm : x * 2 ^ b = 2 ^ (64 * (b / 64)) * (x * 2 ^ (b % 64)) := by
    rw [← hb, pow_add, hb]; ring
  have habs : |x * 2 ^ b| < 2 ^ (64 * n - 2) := by
    rw [Int.abs_eq_natAbs]; exact_mod_cast h
  rw [hterm, hspan, abs_mul, abs_of_pos (by positivity)] at habs
  exact ⟨by omega, (lt_of_mul_lt_mul_left habs (by positivity)).le⟩

/-- The digits that an insertion adds have the value of the term, when that lies within a quarter of the register's span. -/
theorem digitSum_inserted (n b : Nat) (x : Int) (h : (x * 2 ^ b).natAbs < 2 ^ (64 * n - 2)) :
    digitSum ((List.replicate (b / 64) 0 ++ signedDigits n (x * 2 ^ (b % 64))).take n) = x * 2 ^ b := by
  by_cases hx : x = 0
  · subst hx
    have : signedDigits n 0 = [] := by cases n <;> simp [signedDigits]
    simp [this, List.take_replicate, digitSum_replicate_zero]
  · obtain ⟨hlow, hbound⟩ := shifted_term_bound hx h
    obtain ⟨hlen, hsum⟩ := signedDigits_of_bound (n - b / 64) n (x * 2 ^ (b % 64)) (Nat.sub_le ..)
      (.inr ⟨by omega, hbound⟩)
    rw [List.take_of_length_le (by rw [List.length_append, List.length_replicate]; omega), digitSum_append,
      digitSum_replicate_zero, List.length_replicate, hsum, zero_add]
    calc 2 ^ (64 * (b / 64)) * (x * 2 ^ (b % 64)) = x * 2 ^ (64 * (b / 64) + b % 64) := by rw [pow_add]; ring
      _ = x * 2 ^ b := by rw [Nat.div_add_mod]

/-! ### Insertion -/

theorem two_pow_mod_resP (b : Nat) : (2 : Int) ^ b % resP = 2 ^ (b % 31) % resP := by
  have h31 : (2 : Int) ^ 31 ≡ 1 [ZMOD resP] := by decide
  calc (2 : Int) ^ b % resP = ((2 ^ 31) ^ (b / 31) * 2 ^ (b % 31)) % resP := by rw [← pow_mul, ← pow_add, Nat.div_add_mod]
    _ = (1 ^ (b / 31) * 2 ^ (b % 31)) % resP := ((h31.pow _).mul_right _)
    _ = 2 ^ (b % 31) % resP := by rw [one_pow, one_mul]

/-- The residue takes a term along modulo 2^31 − 1 (03 R71). -/
theorem resAfter_mod (res : Nat) (x : Int) (b : Nat) :
    (resAfter res x b : Int) % resP = ((res : Int) + x * 2 ^ b) % resP := by
  have hpos : (0 : Int) ≤ res + x % resP * (2 ^ (b % 31) : Nat) := by
    have := Int.emod_nonneg x (show (resP : Int) ≠ 0 by decide)
    positivity
  unfold resAfter
  rw [Int.natCast_mod, Int.toNat_of_nonneg hpos, Int.emod_emod_of_dvd _ dvd_rfl]
  refine Int.ModEq.add_left _ ?_
  push_cast
  exact (Int.mod_modEq x resP).mul (two_pow_mod_resP b).symm

theorem LongReg.insert_of_sat {r : LongReg} (h : r.sat = true) (x : Int) (b : Nat) : r.insert x b = r := by
  simp [LongReg.insert, h]

/-- An insertion counts, takes the residue along, and adds its value unless the register saturates (03 R56, R57). -/
theorem LongReg.insert_adds {r : LongReg} (x : Int) (b : Nat) (hs : r.sat = false)
    (hl : r.carry.length = r.digit.length) (hx : (x * 2 ^ b).natAbs < 2 ^ (64 * r.digit.length - 2)) :
    (r.insert x b).count = r.count + 1 ∧ (r.insert x b).res = resAfter r.res x b ∧
      ((r.insert x b).sat = false → (r.insert x b).ext = r.ext + x * 2 ^ b) := by
  have hsum := limbSum_addDigits r.digit r.carry (List.replicate (b / 64) 0 ++ signedDigits r.digit.length (x * 2 ^ (b % 64))) hl
  rw [digitSum_inserted _ _ _ hx] at hsum
  simp only [LongReg.insert, hs, Bool.false_eq_true, if_false]
  split
  · exact ⟨rfl, rfl, fun h => by simp [LongReg.saturate] at h⟩
  · exact ⟨rfl, rfl, fun _ => hsum⟩

/-! ### Sweep -/

theorem limbsOf_length (n : Nat) (v : Int) : (limbsOf n v).length = n := by
  induction n generalizing v with
  | zero => rfl
  | succ n ih => simp [limbsOf, ih]

theorem limbsOf_getD (n : Nat) (v : Int) (i : Nat) (h : i < n) : (limbsOf n v).getD i 0 = v / 2 ^ (64 * i) % 2 ^ 64 := by
  induction n generalizing v i with
  | zero => omega
  | succ n ih =>
    cases i with
    | zero => simp [limbsOf]
    | succ i =>
      rw [limbsOf, List.getD_cons_succ, ih _ i (by omega), Int.ediv_ediv_of_nonneg (by positivity), ← pow_add]
      congr 3
      omega

theorem guardLast_cons (n : Nat) (g : Int) : guardLast (n + 2) g = 0 :: guardLast (n + 1) g := rfl

/-- The limbs of a value with what is left over as the guard give that value back. -/
theorem limbSum_limbsOf (n : Nat) (v : Int) :
    limbSum (limbsOf (n + 1) v) (guardLast (n + 1) (v / 2 ^ (64 * (n + 1)))) = v := by
  induction n generalizing v with
  | zero =>
    simp [limbsOf, guardLast, limbSum_cons, limbSum]
    omega
  | succ n ih =>
    have hdiv : v / 2 ^ (64 * (n + 1 + 1)) = v / 2 ^ 64 / 2 ^ (64 * (n + 1)) := by
      rw [Int.ediv_ediv_of_nonneg (by positivity), ← pow_add]
      congr 2
      omega
    rw [limbsOf, guardLast_cons, limbSum_cons, hdiv, ih]
    omega

theorem LongReg.sweep_ext {r : LongReg} (hl : 0 < r.digit.length) (hs : r.sat = false) : r.sweep.ext = r.ext := by
  obtain ⟨n, hn⟩ : ∃ n, r.digit.length = n + 1 := ⟨r.digit.length - 1, by omega⟩
  simp only [LongReg.sweep, hn, hs, Bool.false_eq_true, if_false]
  exact limbSum_limbsOf n r.ext

/-! ### The commands -/

theorem CoreX.reg_setReg_same (x : CoreX) (b : Fin 2) (pos : Nat) (r : LongReg) : (x.setReg b pos r).reg b pos = r := by
  simp [CoreX.reg, CoreX.setReg]

theorem CoreX.chainReg_setChainReg_same (x : CoreX) (pos : Nat) (r : LongReg) :
    (x.setChainReg pos r).chainReg pos = r := by
  simp [CoreX.chainReg, CoreX.setChainReg]

/-- The register that a term names: a chained one, or one of its bank. -/
def CoreX.termReg (x : CoreX) (e : Term) : LongReg := if e.chain then x.chainReg e.pos else x.reg e.bank e.pos

/-- The core with a value in the register that a term names. -/
def CoreX.setTermReg (x : CoreX) (e : Term) (r : LongReg) : CoreX :=
  if e.chain then x.setChainReg e.pos r else x.setReg e.bank e.pos r

theorem CoreX.termReg_setTermReg (x : CoreX) (e : Term) (r : LongReg) : (x.setTermReg e r).termReg e = r := by
  unfold CoreX.termReg CoreX.setTermReg
  split
  · exact chainReg_setChainReg_same x e.pos r
  · exact reg_setReg_same x e.bank e.pos r

theorem CoreX.setTermReg_pipe (x : CoreX) (e : Term) (r : LongReg) : (x.setTermReg e r).pipe = x.pipe := by
  unfold CoreX.setTermReg
  split <;> rfl

/-- INSERTION, but for what it reports: the term has left the pipeline and landed in its register. -/
theorem exec_insertion {s : State} {c : Core} {e : Term} {rest : List Term} (hp : (s.core c).pipe = e :: rest)
    (hd : ((s.core c).termReg e).sweepDue = false) :
    ∃ t, exec (.insertion c) s = .next t ∧ Reports [.updStatusStatus, .coreSeqStatusState]
      (s.setCore c (({ s.core c with pipe := rest } : CoreX).setTermReg e (((s.core c).termReg e).land e.what).1)) t := by
  have hexec : exec (.insertion c) s = .next (settle ((((s.core c).termReg e).land e.what).2.foldl
      (fun t b => setStatus t (partOfCore s c) b)
      (s.setCore c (({ s.core c with pipe := rest } : CoreX).setTermReg e (((s.core c).termReg e).land e.what).1))) c) := by
    show execInsertion c s = _
    unfold CoreX.termReg at hd
    simp only [execInsertion, hp, hd, Bool.false_eq_true, if_false]
    rfl
  refine ⟨_, hexec, Reports.trans (.foldl (fun _ b => ?_) _ _) (reports_settle c (by decide))⟩
  exact reports_setStatus _ b (by decide)

theorem insertionAddsExactly : Claims.InsertionAddsExactly := by
  intro s c e rest hp r hd
  obtain ⟨t, hexec, hrep⟩ := exec_insertion hp hd
  have hcore := hrep.core c
  rw [State.core_setCore_same] at hcore
  refine ⟨t, hexec, ?_, ?_, hrep.mem, hrep.regs, ?_⟩
  · rw [hcore, CoreX.setTermReg_pipe]
  · exact fun d hne => (hrep.core d).trans (State.core_setCore_other s _ hne)
  · intro x b hadd y
    have hy : y = r.insert x b := by
      show (t.core c).termReg e = _
      rw [hcore, CoreX.termReg_setTermReg, hadd]
      rfl
    refine ⟨fun hsat => hy.trans (LongReg.insert_of_sat hsat x b), fun hsat hl hx => ?_⟩
    obtain ⟨hcount, hres, hext⟩ := LongReg.insert_adds x b hsat hl hx
    rw [hy]
    exact ⟨hcount, by rw [hres, resAfter_mod], hext⟩

/-- SWEEP sweeps a bank or a chain once a register of it is due. -/
theorem exec_sweep {s : State} {c : Core} {bank : Fin 2}
    (hdue : (if (s.core c).isChain bank then (s.core c).chain.any (fun e => e.2.sweepDue)
      else (s.core c).crib.any fun e => e.1 % 2 == bank.val && e.2.sweepDue) = true) :
    exec (.sweep c bank) s = .next (s.setCore c ((s.core c).sweepBank bank ((s.core c).isChain bank))) := by
  show execSweep c bank s = _
  simp only [execSweep, hdue, if_true]

theorem sweepKeepsValue : Claims.SweepKeepsValue :=
  ⟨fun s c _ hdue => ⟨_, exec_sweep hdue, State.core_setCore_same s c _, fun _ hd => State.core_setCore_other s _ hd,
      ⟨rfl, rfl⟩, rfl⟩,
    fun _ hl hs => ⟨LongReg.sweep_ext hl hs, rfl, rfl, limbsOf_length _ _, fun i hi => limbsOf_getD _ _ i hi⟩⟩

/-- Settles O16: an insertion adds the value of its digits with their carries counted, and a sweep writes the limbs of the same
value. -/
theorem accumulatorKeepsValue : Obligations.AccumulatorKeepsValue := ⟨insertionAddsExactly, sweepKeepsValue⟩

end Sys2Proof.Machine
end

section
/-! O17: reading a bank out. What the epilogue reads and sends leaves alone, the take of a bank, and the rows of a tile (04 R88 to
R98; 06 R146; 10 R240, R241). -/

namespace Sys2Proof.Machine

variable {but : List Field} {s t u : State} {c : Core} {r : Readout} {rest : List Readout}

/-! ### What the epilogue reads -/

theorem reads_biasAt (s : State) (c : Core) (bias : Option (Nat × Nat)) (x : Nat) :
    Reads accessFields s (biasAt s c bias x).1 := by
  unfold biasAt
  split
  · exact .refl s
  · dsimp only
    split
    · exact .refl s
    · split
      · exact reads_memRead _ _ _ _ _
      · split
        · exact (reads_memRead _ _ _ _ _).trans (reads_memRead _ _ _ _ _)
        · split <;> exact reads_memRead _ _ _ _ _

theorem reads_rowValues (s : State) (c : Core) (x : Taken) (i : Nat) : Reads accessFields s (rowValues s c x i).1 := by
  refine (reads_sramRead c _).trans (Reads.foldl_fst (fun _ _ => ?_) _ (sramRead s c (rowScales x.req i), []))
  exact reads_biasAt _ _ _ _

theorem reads_convertRow (s : State) (c : Core) (r : Readout) (x : RunX) (vs : List CVal) :
    Reads accessFields s (convertRow s c r x vs).1 := by
  unfold convertRow
  dsimp only
  split
  · exact .refl s
  · exact .refl s
  · refine Reads.foldl_fst (fun _ _ => ?_) _ (s, _)
    exact reads_memRead _ _ _ _ _
  · exact .refl s

theorem reads_drainRun (c : Core) (rows : List (List CVal)) (x : State × Taken × List (Nat × Bytes)) (v : RunX) :
    Reads accessFields x.1 (drainRun c rows x v).1 :=
  (reads_convertRow _ _ _ _ _).trans (reports_setFlags _ _ (by decide)).reads

theorem reads_drainRow (s : State) (c : Core) (x : Taken) : Reads accessFields s (drainRow s c x).1 :=
  ((reads_rowValues s c x x.row).trans (reports_valueFlags _ _ (by decide)).reads).trans
    (Reads.foldl_fst (reads_drainRun c _) _ (_, _))

theorem takenKey_drainRun (c : Core) (rows : List (List CVal)) (x : State × Taken × List (Nat × Bytes)) (v : RunX) :
    Claims.takenKey (drainRun c rows x v).2.1 = Claims.takenKey x.2.1 := rfl

/-- A row of a drain moves its tile on by one row, and keeps its readout and its registers. -/
theorem takenKey_drainRow (s : State) (c : Core) (x : Taken) :
    Claims.takenKey (drainRow s c x).2.1 = (x.req, x.row + 1, x.regs) :=
  foldl_keeps (R := fun a b : State × Taken × List (Nat × Bytes) => Claims.takenKey b.2.1 = Claims.takenKey a.2.1)
    (fun _ => rfl) (fun h h' => h'.trans h) (takenKey_drainRun c _) (x.req.runs x.row) (_, _, [])

theorem drainRow_writes_nil {x : Taken} (h : x.req.runs x.row = []) : (drainRow s c x).2.2 = [] := by
  simp [drainRow, h]

theorem reads_narrowValue (s : State) (c : Core) (r : Readout) (i j : Nat) :
    Reads accessFields s (narrowValue s c r i j).1 := by
  unfold narrowValue
  dsimp only
  split
  · exact (reads_memRead _ _ _ _ _).trans (reads_memRead _ _ _ _ _)
  · exact reads_memRead _ _ _ _ _

theorem reads_shadowPairs (s : State) (c : Core) (x : Taken) : Reads accessFields s (shadowPairs s c x).1 := by
  refine Reads.foldl_fst (fun a k => ?_) _ (s, [])
  refine ((reads_rowValues a.1 c x k).trans (reports_valueFlags _ _ (by decide)).reads).trans
    (Reads.foldl_fst (fun _ _ => ?_) _ (_, a.2))
  exact reads_narrowValue _ _ _ _ _

/-! ### Records at a pointer -/

theorem length_leBytes (n v : Nat) : (leBytes n v).length = n := by
  induction n generalizing v with
  | zero => rfl
  | succ n ih => simp [leBytes, ih]

/-- But for a report, a record at a pointer moves the pointer on by its length. -/
theorem reports_pointerRecord (s : State) (c : Core) (row : Nat) (f : Field) (b : Bytes) :
    Reports [.errLostDropped] (fset s f c.val (fget s f c.val + b.length)) (pointerRecord s c row f b).1 := by
  unfold pointerRecord
  dsimp only
  split
  · split
    · exact .refl _
    · exact reports_record _ _ _ _ _ _ _ (by decide)
  · exact reports_record _ _ _ _ _ _ _ (by decide)

theorem pointerRecord_pointer (s : State) (c : Core) (row : Nat) {f : Field} (b : Bytes) (hf : f ≠ .errLostDropped) :
    fget (pointerRecord s c row f b).1 f c.val = (fget s f c.val + b.length) % 2 ^ f.spec.width := by
  rw [(reports_pointerRecord s c row f b).regs f _ (by simpa using hf), fget_fset_same]

theorem pointerRecord_kept (s : State) (c : Core) (row : Nat) {f : Field} (b : Bytes) (hf : f ≠ .updStatusStatus) :
    Reports [f, .errLostDropped] s (pointerRecord s c row f b).1 :=
  (reports_fset f _ _ (by simp) hf).trans ((reports_pointerRecord s c row f b).mono (by simp))

/-- A record whose place the partition reaches is to be written there. -/
theorem pointerRecord_granted {p : Part} (row : Nat) (b : Bytes) (hp : partOfCore s c = some p)
    (hg : grantedRun s p (fget s .coreEpiShadowPtrAddr c.val) b.length = true) :
    (pointerRecord s c row .coreEpiShadowPtrAddr b).2 = [(fget s .coreEpiShadowPtrAddr c.val, b)] := by
  have hset : Reports [.coreEpiShadowPtrAddr] s
      (fset s .coreEpiShadowPtrAddr c.val (fget s .coreEpiShadowPtrAddr c.val + b.length)) :=
    reports_fset _ _ _ (by decide) (by decide)
  have hg' := (hset.toKept.grantedRun (by decide) (by decide) (by decide) p _ b.length).trans hg
  simp only [pointerRecord, hp, hg', if_true]

theorem reports_mseRecord (s : State) (c : Core) (x : Taken) :
    Reports [.coreEpiMsePtrAddr, .errLostDropped] s (mseRecord s c x).1 := by
  unfold mseRecord
  split
  · exact pointerRecord_kept _ _ _ _ (by decide)
  · exact .refl s

/-- The pointer of the MSE records moves on by 16 for a word with MSE (04 R94). -/
theorem mseRecord_pointer (s : State) (c : Core) (x : Taken) :
    fget (mseRecord s c x).1 .coreEpiMsePtrAddr c.val = if bit x.req.word 75 then
      (fget s .coreEpiMsePtrAddr c.val + 16) % 2 ^ Field.coreEpiMsePtrAddr.spec.width
      else fget s .coreEpiMsePtrAddr c.val := by
  unfold mseRecord
  split
  · rw [pointerRecord_pointer _ _ _ _ (by decide)]
    simp [length_leBytes]
  · rfl

/-! ### The comparison of a recomputed tile (10 R240, R241) -/

/-- How many elements of tile `x` exceed. -/
def shadowCount (s : State) (c : Core) (x : Taken) : Nat :=
  Claims.exceedings (x.req.desc.shtol % 256) (shadowPairs s c x).2

theorem shadowCompare_few {x : Taken} (h : shadowCount s c x ≤ x.req.desc.shtol / 256) :
    shadowCompare s c x = ((shadowPairs s c x).1, []) := by
  unfold shadowCount Claims.exceedings at h
  simp only [shadowCompare, Nat.not_lt.mpr h, if_false]

/-- The state in which a tile of which too many elements exceed has set SHADOW. -/
def shadowMarked (s : State) (c : Core) (x : Taken) : State := setStatus (shadowPairs s c x).1 (partOfCore s c) .shadow

/-- Some element of the tile is not finite: the largest difference of its report is open. -/
def shadowOpen (s : State) (c : Core) (x : Taken) : Bool := (shadowPairs s c x).2.any fun e => !(e.1.isFin && e.2.isFin)

/-- The state in which the report is made: an open difference has been drawn. -/
def shadowDrawn (s : State) (c : Core) (x : Taken) : State :=
  if shadowOpen s c x then (draw (shadowMarked s c x)).1 else shadowMarked s c x

/-- The largest difference that the report gives. -/
def shadowWorst (s : State) (c : Core) (x : Taken) : Nat :=
  if shadowOpen s c x then (draw (shadowMarked s c x)).2 % 2 ^ 64
  else (f64.encode (largest ((shadowPairs s c x).2.map gap))).1

/-- The step that a report of a partition, or of none, gives. -/
def reportedStep (s : State) (p : Option Part) : Nat :=
  match p with
  | some p => fget s .updStepStep p.val
  | none => 0

/-- What a report of the tile says. -/
def shadowReport (s : State) (c : Core) (x : Taken) : Bytes :=
  leBytes 8 (reportedStep (shadowDrawn s c x) (partOfCore s c)) ++ leBytes 4 x.req.tile ++
    leBytes 2 (bits x.req.pval 10 16) ++ leBytes 1 c.val ++ [0] ++ leBytes 4 (shadowCount s c x) ++
    leBytes 4 (shadowPairs s c x).2.length ++ leBytes 8 (shadowWorst s c x)

theorem length_shadowReport (s : State) (c : Core) (x : Taken) : (shadowReport s c x).length = 32 := by
  simp [shadowReport, length_leBytes]

theorem shadowWorst_of_finite {x : Taken} (h : ∀ e ∈ (shadowPairs s c x).2, e.1.isFin = true ∧ e.2.isFin = true) :
    shadowWorst s c x = (f64.encode (largest ((shadowPairs s c x).2.map gap))).1 := by
  rw [shadowWorst, if_neg]
  simpa [shadowOpen] using h

/-- Where too many elements exceed, a report goes where the pointer points. -/
theorem shadowCompare_many {x : Taken} (h : x.req.desc.shtol / 256 < shadowCount s c x) :
    shadowCompare s c x =
      pointerRecord (shadowDrawn s c x) c x.req.row .coreEpiShadowPtrAddr (shadowReport s c x) := by
  have h' := h
  unfold shadowCount Claims.exceedings at h'
  simp only [shadowCompare, h', if_true]
  rfl

theorem reports_shadowDrawn (s : State) (c : Core) (x : Taken) :
    Reports accessFields (shadowMarked s c x) (shadowDrawn s c x) :=
  .ite (.of_eq rfl rfl rfl rfl rfl)

theorem reads_shadowDrawn (s : State) (c : Core) (x : Taken) : Reads accessFields s (shadowDrawn s c x) :=
  ((reads_shadowPairs s c x).trans (reports_setStatus _ _ (by decide)).reads).trans (reports_shadowDrawn s c x).reads

/-- SHADOW stands in the step status of the core's partition. -/
theorem shadowDrawn_status {p : Part} (hp : partOfCore s c = some p) (x : Taken) :
    (fget (shadowDrawn s c x) .updStatusStatus p.val).testBit 9 = true := by
  refine (reports_shadowDrawn s c x).status _ _ (by decide) ?_
  rw [shadowMarked, hp]
  exact setStatus_bit _ p .shadow

theorem reads_shadowCompare (s : State) (c : Core) (x : Taken) :
    Reads (.coreEpiShadowPtrAddr :: accessFields) s (shadowCompare s c x).1 := by
  rcases Nat.lt_or_ge (x.req.desc.shtol / 256) (shadowCount s c x) with h | h
  · rw [shadowCompare_many h]
    exact ((reads_shadowDrawn s c x).mono (List.subset_cons_self _ _)).trans
      ((pointerRecord_kept _ _ _ _ (by decide)).mono (by decide)).reads
  · rw [shadowCompare_few h]
    exact (reads_shadowPairs s c x).mono (List.subset_cons_self _ _)

/-- The comparison does what 10 R240 and R241 ask of it. -/
theorem compared_shadowCompare (s : State) (c : Core) (x : Taken) :
    Claims.compared s c x.req x (shadowCompare s c x) := by
  have hread := reads_shadowDrawn s c x
  have hptr : fget (shadowDrawn s c x) .coreEpiShadowPtrAddr c.val = fget s .coreEpiShadowPtrAddr c.val :=
    hread.regs _ _ (by decide)
  refine ⟨fun h => ?_, fun h => ?_⟩
  · rw [shadowCompare_few h]
    exact ⟨rfl, (reads_shadowPairs s c x).regs _ _ (by decide)⟩
  · rw [shadowCompare_many h]
    refine ⟨?_, fun p hp => ⟨?_, fun hg => ⟨shadowWorst s c x, ?_, shadowWorst_of_finite⟩⟩⟩
    · rw [pointerRecord_pointer _ _ _ _ (by decide), hptr, length_shadowReport]
    · exact (pointerRecord_kept _ _ _ _ (by decide)).status _ _ (by decide) (shadowDrawn_status hp x)
    · have hstep : reportedStep (shadowDrawn s c x) (partOfCore s c) = fget s .updStepStep p.val := by
        rw [hp]
        exact hread.regs _ _ (by decide)
      rw [pointerRecord_granted (p := p), hptr, shadowReport, hstep]
      · rfl
      · rw [hread.partOfCore (by decide) (by decide), hp]
      · rw [hread.grantedRun (by decide) (by decide) (by decide), hptr, length_shadowReport]
        exact hg

/-! ### The drain queue -/

theorem map_mapFirst {α β : Type} (p : α → Bool) (f : α → α) (g : α → β) (h : ∀ a, g (f a) = g a) (l : List α) :
    (mapFirst p f l).map g = l.map g := by
  induction l with
  | nil => rfl
  | cons a l ih =>
    unfold mapFirst
    split
    · simp [h]
    · simp [ih]

/-- A change to the writes of a tile is a change of the drain queue alone. -/
theorem drains_onTaken (s : State) (c : Core) (op : Nat) (f : Taken → Taken)
    (hf : ∀ x, Claims.takenKey (f x) = Claims.takenKey x) : Drains c but s (s.setCore c ((s.core c).onTaken op f)) where
  toKept := .of_eq rfl rfl
  others _ hd := State.core_setCore_other s _ hd
  own := by rw [State.core_setCore_same]; rfl
  keys := by rw [State.core_setCore_same]; exact map_mapFirst _ _ _ hf _

theorem drains_sendDrains (c : Core) (n : Nat) (s : State) : Drains c accessFields s (sendDrains c n s) := by
  induction n generalizing s with
  | zero => exact .refl c s
  | succ n ih =>
    unfold sendDrains
    dsimp only
    split
    · split
      · exact .refl c s
      · split
        · exact .refl c s
        · refine (((writes_askWrites _ _ _ _ _).drains c).trans (drains_onTaken _ c _ _ fun _ => ?_)).trans (ih _)
          rfl
    · exact .refl c s

/-- The registers that a core may change as it sends what is to be written. -/
def sendFields : List Field := .coreSeqStatusState :: accessFields

theorem drains_drainsOn (s : State) (c : Core) : Drains c sendFields s (drainsOn s c) :=
  ((drains_sendDrains c _ s).mono (List.subset_cons_self _ _)).trans ((reports_settle c (by decide)).writes.drains c)

/-- A finished tile waits for its acknowledgements; a core that was waiting for it alone comes to rest. -/
theorem reports_finishTile (s : State) (c : Core) (x : Taken) : Reports [.coreSeqStatusState]
    (s.setCore c ({ s.core c with finished := (s.core c).finished ++ [x] } : CoreX).prune) (finishTile s c x) :=
  reports_settle c (by decide)

theorem drains_finishTile (s : State) (c : Core) (x : Taken) : Drains c sendFields s (finishTile s c x) := by
  refine Drains.trans ?_ (((reports_finishTile s c x).mono (by decide)).writes.drains c)
  exact {
    toKept := .of_eq rfl rfl
    others := fun _ hd => State.core_setCore_other s _ hd
    own := by rw [State.core_setCore_same]; rfl
    keys := by rw [State.core_setCore_same]; rfl }

/-! ### The take of a bank -/

/-- From the take of a bank to the end of its readout: of the core only its tiles and its tally change, of other cores only
their tallies, and no bit of the step status falls. -/
structure Finishes (c : Core) (s t : State) : Prop where
  status : statusRises s t
  others : Claims.coresButTally s t c
  own : t.core c = { s.core c with
    taken := (t.core c).taken, finished := (t.core c).finished, errTally := (t.core c).errTally }

theorem Finishes.trans (h : Finishes c s t) (h' : Finishes c t u) : Finishes c s u where
  status p k hk hs := h'.status p k hk (h.status p k hk hs)
  others d hd := by rw [h'.others d hd, h.others d hd]
  own := by rw [h'.own, h.own]

theorem Reads.finishes (h : Reads but s t) (c : Core) : Finishes c s t where
  status := h.status
  others d _ := h.cores d
  own := by rw [h.cores c]

theorem Drains.finishes (h : Drains c but s t) : Finishes c s t where
  status := h.status
  others d hd := by rw [h.others d hd]
  own := by rw [h.own]

theorem CoreX.setBankRegs_eq (x : CoreX) (b : Fin 2) (chain : Bool) (rs : List (Nat × LongReg)) :
    x.setBankRegs b chain rs =
      { x with crib := (x.setBankRegs b chain rs).crib, chain := (x.setBankRegs b chain rs).chain } := by
  refine foldl_keeps (R := fun x y : CoreX => y = { x with crib := y.crib, chain := y.chain }) (fun _ => rfl)
    (fun h h' => by rw [h', h]) (fun x e => ?_) rs x
  split <;> rfl

theorem reports_residueCheck (c : Core) (r : Readout) (rs : List (Nat × LongReg)) :
    Reports reportFields s (residueCheck s c r rs) := by
  refine Reports.foldl (fun t e => ?_) rs s
  split
  · exact .refl t
  · exact (reports_record _ _ _ _ _ _ _ (by decide)).trans (reports_setStatus _ _ (by decide))

/-- A register whose residue does not agree sets CHECKSUM (03 R71, R72). -/
theorem residueCheck_checksum {p : Part} {e : Nat × LongReg} {rs : List (Nat × LongReg)} (hp : partOfCore s c = some p)
    (he : e ∈ rs) (hbad : e.2.resOk = false) :
    (fget (residueCheck s c r rs) .updStatusStatus p.val).testBit 8 = true := by
  refine foldl_brings (P := fun t => (fget t .updStatusStatus p.val).testBit 8 = true) (fun t e' ht => ?_) he (fun t => ?_) s
  · split
    · exact ht
    · refine Kept.status (Reports.toKept (but := reportFields) ?_) _ _ (by decide) ht
      exact (reports_record _ _ _ _ _ _ _ (by decide)).trans (reports_setStatus _ _ (by decide))
  · simp only [hbad, Bool.false_eq_true, if_false, hp]
    exact setStatus_bit _ p .checksum

/-- What a take sets in the step status: CHECKSUM for a residue that does not agree, and by a drain or a lift SAT for a value
that left the image. -/
def takeReported (s t : State) (c : Core) (r : Readout) : Prop :=
  ∀ p, partOfCore s c = some p → ∀ e ∈ (s.core c).bankRegs r.bank r.chain,
    (e.2.sweep.resOk = false → (fget t .updStatusStatus p.val).testBit 8 = true) ∧
    (r.kind ≠ .spill → e.2.sweep.afterReadout.2 = true → (fget t .updStatusStatus p.val).testBit 2 = true)

theorem takeReported.rises (h : takeReported s t c r) (ht : statusRises t u) : takeReported s u c r :=
  fun p hp e he => ⟨fun hr => ht _ _ (by decide) ((h p hp e he).1 hr),
    fun hk hs => ht _ _ (by decide) ((h p hp e he).2 hk hs)⟩

/-- The registers of a bank, swept (03 R56). -/
def sweptRegs (s : State) (c : Core) (r : Readout) : List (Nat × LongReg) :=
  ((s.core c).bankRegs r.bank r.chain).map fun e => (e.1, e.2.sweep)

/-- The state in which a take has reported what its registers show. -/
def takeReports (s : State) (c : Core) (r : Readout) : State :=
  setStatusIf (residueCheck s c r (sweptRegs s c r)) (partOfCore s c) .sat
    (decide (r.kind ≠ .spill) && ((s.core c).bankRegs r.bank r.chain).any fun e => e.2.sweep.afterReadout.2)

theorem reports_takeReports (s : State) (c : Core) (r : Readout) : Reports reportFields s (takeReports s c r) :=
  (reports_residueCheck c r _).trans (reports_setStatusIf _ _ _ (by decide))

theorem takeReported_takeReports (s : State) (c : Core) (r : Readout) : takeReported s (takeReports s c r) c r := by
  refine fun p hp e he => ⟨fun hres => ?_, fun hk hsat => ?_⟩
  · exact (reports_setStatusIf (but := reportFields) _ _ _ (by decide)).status _ _ (by decide)
      (residueCheck_checksum hp (List.mem_map_of_mem he) hres)
  · rw [takeReports, hp, setStatusIf, if_pos]
    · exact setStatus_bit _ p .sat
    · simp only [hk, decide_not, decide_false, Bool.not_false, Bool.true_and, List.any_eq_true]
      exact ⟨e, he, hsat⟩

/-- The state after a take: it has reported what its registers show, has stored them as they were taken, and the other readouts
wait. -/
def takenState (s : State) (c : Core) (r : Readout) (rest : List Readout) : State :=
  (takeReports s c r).setCore c
    { (s.core c).setBankRegs r.bank r.chain (Claims.takenRegs s c r) with readouts := rest }

theorem takeBank_eq (s : State) (c : Core) (r : Readout) (rest : List Readout) :
    takeBank s c r rest = (takenState s c r rest, Claims.takenTile s c r) := by
  have hpart : partOfCore (residueCheck s c r (sweptRegs s c r)) c = partOfCore s c :=
    (reports_residueCheck c r _).partOfCore (by decide) (by decide) c
  have hnone : (((s.core c).bankRegs r.bank r.chain).any fun _ => false) = false := List.any_eq_false.mpr (by simp)
  unfold sweptRegs at hpart
  by_cases hk : r.kind = .spill <;> by_cases ht : ((s.core c).bank r.bank).kind = .t2 <;>
    simp [takeBank, takenState, takeReports, sweptRegs, Claims.takenTile, Claims.takenRegs, hk, ht, hpart, hnone,
      Function.comp_def]

theorem takenState_core (s : State) (c : Core) (r : Readout) (rest : List Readout) :
    (takenState s c r rest).core c =
      { (s.core c).setBankRegs r.bank r.chain (Claims.takenRegs s c r) with readouts := rest } :=
  State.core_setCore_same _ c _

theorem takenState_others (s : State) (c : Core) (r : Readout) (rest : List Readout) :
    Claims.coresKept s (takenState s c r rest) c := fun d hd =>
  (State.core_setCore_other _ _ hd).trans ((reports_takeReports s c r).core d)

theorem takenState_taken (s : State) (c : Core) (r : Readout) (rest : List Readout) :
    ((takenState s c r rest).core c).taken = (s.core c).taken := by
  rw [takenState_core, CoreX.setBankRegs_eq]

theorem takenState_reported (s : State) (c : Core) (r : Readout) (rest : List Readout) :
    takeReported s (takenState s c r rest) c r := takeReported_takeReports s c r

theorem takenState_kept (s : State) (c : Core) (r : Readout) (rest : List Readout) :
    Kept reportFields s (takenState s c r rest) :=
  (reports_takeReports s c r).toKept.trans (.of_eq rfl rfl)

theorem takenState_mem (s : State) (c : Core) (r : Readout) (rest : List Readout) :
    Claims.memSame s (takenState s c r rest) := (reports_takeReports s c r).mem

end Sys2Proof.Machine
end

section
/-! O17: the readout at the front takes its bank, and the oldest tile that was taken leaves row by row. -/

namespace Sys2Proof.Machine

section Readouts

variable {s t : State} {c : Core} {r : Readout} {rest : List Readout}

/-! ### READOUT -/

/-- The readout at the front may take its bank. -/
structure MayTake (s : State) (c : Core) (r : Readout) (rest : List Readout) : Prop where
  front : (s.core c).readouts = r :: rest
  rests : bankInPipe (s.core c) r.bank r.chain = false
  few : (s.core c).taken.length < 2
  room : drainFull (s.core c) = false
  xce : r.kind = .lift → liftFull s c r = false
  staged : stageHost s (partOfCore s c) .event r.needs = none

theorem MayTake.not_idle (h : MayTake s c r rest) :
    (bankInPipe (s.core c) r.bank r.chain || decide (2 ≤ (s.core c).taken.length) || drainFull (s.core c) ||
      (r.kind == .lift && liftFull s c r)) = false := by
  have hxce : (r.kind == .lift && liftFull s c r) = false := by
    by_cases hk : r.kind = .lift
    · simp [h.xce hk]
    · simp [hk]
  simp only [h.rests, h.room, hxce, Bool.or_false, Bool.false_or, decide_eq_false_iff_not]
  exact Nat.not_le.mpr h.few

/-- What the end of any readout leaves of its take. -/
theorem Finishes.after_take (h : Finishes c (takenState s c r rest) t) :
    (t.core c).readouts = rest ∧ Claims.coresButTally s t c ∧ takeReported s t c r ∧
      (t.core c).crib = ((s.core c).setBankRegs r.bank r.chain (Claims.takenRegs s c r)).crib ∧
      (t.core c).chain = ((s.core c).setBankRegs r.bank r.chain (Claims.takenRegs s c r)).chain := by
  have hown := h.own
  rw [takenState_core] at hown
  refine ⟨by rw [hown], fun d hd => ?_, (takenState_reported s c r rest).rises h.status, by rw [hown], by rw [hown]⟩
  rw [h.others d hd, takenState_others s c r rest d hd]

/-- A lifted tile joins the queue of the die's XCE (09 R199). -/
def liftJoins (s : State) (c : Core) (r : Readout) (u : State) : State :=
  { u with lifts := tset (fun _ => []) u.lifts (dieOf c).val (tget (fun _ => []) s.lifts (dieOf c).val ++
    [{ core := c, xtag := bits r.word 176 16, cdesc := BitVec.ofNat 512 r.cdesc, ext := r.ext, tile := r.tile
       regs := Claims.takenRegs s c r }]) }

theorem fget_liftJoins (s u : State) (c : Core) (r : Readout) (f : Field) (i : Nat) :
    fget (liftJoins s c r u) f i = fget u f i := rfl

theorem memSame_setCore (s : State) (c : Core) (x : CoreX) : Claims.memSame s (s.setCore c x) := ⟨rfl, rfl⟩

theorem liftJoins_core (s u : State) (c d : Core) (r : Readout) : (liftJoins s c r u).core d = u.core d := rfl

theorem memSame_liftJoins (s u : State) (c : Core) (r : Readout) : Claims.memSame u (liftJoins s c r u) := ⟨rfl, rfl⟩

theorem finishes_liftJoins (s u : State) (c : Core) (r : Readout) : Finishes c u (liftJoins s c r u) :=
  ⟨fun _ _ _ h => h, fun _ _ => rfl, rfl⟩

/-! A tile joins those whose rows go through the epilogue. -/

theorem joinTaken_taken (s : State) (c : Core) (x : Taken) :
    ((joinTaken s c x).core c).taken = (s.core c).taken ++ [x] := by
  rw [joinTaken, State.core_setCore_same]

theorem kept_joinTaken {but : List Field} (s : State) (c : Core) (x : Taken) : Kept but s (joinTaken s c x) :=
  .of_eq rfl rfl

theorem memSame_joinTaken (s : State) (c : Core) (x : Taken) : Claims.memSame s (joinTaken s c x) := ⟨rfl, rfl⟩

theorem finishes_joinTaken (s : State) (c : Core) (x : Taken) : Finishes c s (joinTaken s c x) where
  status := (kept_joinTaken (but := []) s c x).status
  others d hd := by rw [joinTaken, State.core_setCore_other _ _ hd]
  own := by rw [joinTaken, State.core_setCore_same]

theorem exec_readout_lift (h : MayTake s c r rest) (hk : r.kind = .lift) : exec (.readout c) s =
    .next (finishTile (liftJoins s c r (takenState s c r rest)) c (Claims.takenTile s c r)) := by
  show execReadout c s = _
  simp only [execReadout, h.front, h.not_idle, h.staged, takeBank_eq, Bool.false_eq_true, if_false]
  simp only [hk]
  rfl

theorem exec_readout_joins (h : MayTake s c r rest) (hk : r.kind = .spill ∨ (r.kind = .drain ∧ bit r.word 74 = false)) :
    exec (.readout c) s = .next (joinTaken (takenState s c r rest) c (Claims.takenTile s c r)) := by
  show execReadout c s = _
  simp only [execReadout, h.front, h.not_idle, h.staged, takeBank_eq, Bool.false_eq_true, if_false]
  rcases hk with hk | ⟨hk, hw⟩
  · simp only [hk]
  · simp only [hk, hw, Bool.false_eq_true, if_false]

/-- The comparison that a recomputed tile meets at once. -/
def shadowTaken (s : State) (c : Core) (r : Readout) (rest : List Readout) : State × List (Nat × Bytes) :=
  shadowCompare (takenState s c r rest) c (Claims.takenTile s c r)

theorem compared_shadowTaken (s : State) (c : Core) (r : Readout) (rest : List Readout) :
    Claims.compared (takenState s c r rest) c r (Claims.takenTile s c r) (shadowTaken s c r rest) :=
  compared_shadowCompare (takenState s c r rest) c (Claims.takenTile s c r)

/-- The end of the readout of a recomputed tile: its report, if any, is to be written. -/
def shadowDone (s : State) (c : Core) (r : Readout) (rest : List Readout) : State :=
  drainsOn (finishTile (unstage (shadowTaken s c r rest).1 r.needs) c
    ((Claims.takenTile s c r).ask (shadowTaken s c r rest).2)) c

theorem exec_readout_shadow (h : MayTake s c r rest) (hk : r.kind = .drain) (hw : bit r.word 74 = true) :
    exec (.readout c) s = .next (shadowDone s c r rest) := by
  show execReadout c s = _
  simp only [execReadout, h.front, h.not_idle, h.staged, takeBank_eq, Bool.false_eq_true, if_false]
  simp only [hk, hw, if_true]
  rfl

theorem takes_lift (h : MayTake s c r rest) (hk : r.kind = .lift) :
    ∃ t, exec (.readout c) s = .next t ∧ Finishes c (takenState s c r rest) t ∧
      (t.core c).taken = (s.core c).taken ∧ Claims.memSame s t ∧
      Claims.regsKept s t [.updStatusStatus, .errLostDropped, .coreSeqStatusState] ∧
      t.lifts = (liftJoins s c r s).lifts := by
  have hkept := takenState_kept s c r rest
  have hmem := takenState_mem s c r rest
  have hfin := reports_finishTile (liftJoins s c r (takenState s c r rest)) c (Claims.takenTile s c r)
  refine ⟨_, exec_readout_lift h hk, (finishes_liftJoins s _ c r).trans (drains_finishTile _ c _).finishes, ?_, ?_, ?_, ?_⟩
  · rw [hfin.core c, State.core_setCore_same, CoreX.prune, liftJoins_core, takenState_taken]
  · exact Claims.memSame_trans (Claims.memSame_trans hmem (memSame_liftJoins s _ c r))
      (Claims.memSame_trans (memSame_setCore _ c _) hfin.mem)
  · refine Claims.regsKept_trans (t := takenState s c r rest) (Claims.regsKept_mono (by decide) hkept.regs) ?_
    refine Claims.regsKept_mono (but := [.coreSeqStatusState]) (by decide) fun f i hf => ?_
    rw [hfin.regs f i hf, fget_setCore, fget_liftJoins]
  · rw [hfin.lifts, State.setCore_lifts, liftJoins, liftJoins, hkept.lifts]

theorem takes_joins (h : MayTake s c r rest) (hk : r.kind = .spill ∨ (r.kind = .drain ∧ bit r.word 74 = false)) :
    ∃ t, exec (.readout c) s = .next t ∧ Finishes c (takenState s c r rest) t ∧
      (t.core c).taken = (s.core c).taken ++ [Claims.takenTile s c r] ∧ Claims.memSame s t ∧ t.lifts = s.lifts ∧
      Claims.regsKept s t [.updStatusStatus, .errLostDropped] := by
  have hkept := (takenState_kept s c r rest).trans (kept_joinTaken _ c (Claims.takenTile s c r))
  refine ⟨_, exec_readout_joins h hk, finishes_joinTaken _ c _, ?_, ?_, hkept.lifts, hkept.regs⟩
  · rw [joinTaken_taken, takenState_taken]
  · exact Claims.memSame_trans (takenState_mem s c r rest) (memSame_joinTaken _ c _)

/-- What follows the comparison of a recomputed tile leaves what the comparison found. -/
theorem drains_shadowDone (s : State) (c : Core) (r : Readout) (rest : List Readout) :
    Drains c sendFields (shadowTaken s c r rest).1 (shadowDone s c r rest) :=
  (((reports_unstage _ _).writes.drains c).trans (drains_finishTile _ c _)).trans (drains_drainsOn _ c)

theorem takes_shadow (h : MayTake s c r rest) (hk : r.kind = .drain) (hw : bit r.word 74 = true) :
    exec (.readout c) s = .next (shadowDone s c r rest) ∧
      Finishes c (takenState s c r rest) (shadowDone s c r rest) ∧
      ((shadowDone s c r rest).core c).taken.map Claims.takenKey = (s.core c).taken.map Claims.takenKey ∧
      (shadowDone s c r rest).lifts = s.lifts := by
  have hread : Reads (.coreEpiShadowPtrAddr :: accessFields) (takenState s c r rest) (shadowTaken s c r rest).1 :=
    reads_shadowCompare _ c _
  have hdrain := drains_shadowDone s c r rest
  refine ⟨exec_readout_shadow h hk hw, (hread.finishes c).trans hdrain.finishes, ?_, ?_⟩
  · rw [hdrain.keys, hread.cores c, takenState_taken]
  · rw [hdrain.lifts, hread.lifts, (takenState_kept s c r rest).lifts]

theorem readoutTakes : Claims.ReadoutTakes := by
  intro s c r rest hfront hrests hfew hroom hxce hstaged
  have h : MayTake s c r rest := ⟨hfront, hrests, hfew, hroom, hxce, hstaged⟩
  by_cases hl : r.kind = .lift
  · obtain ⟨t, hexec, hfin, hlift⟩ := takes_lift h hl
    obtain ⟨hrest, hcores, hrep, hcrib, hchain⟩ := hfin.after_take
    exact ⟨t, hexec, hrest, hcores, hrep, hcrib, hchain, fun _ => hlift, fun hk => by simp [hl] at hk,
      fun hk => by simp [hl] at hk⟩
  by_cases hj : r.kind = .spill ∨ (r.kind = .drain ∧ bit r.word 74 = false)
  · obtain ⟨t, hexec, hfin, htaken⟩ := takes_joins h hj
    obtain ⟨hrest, hcores, hrep, hcrib, hchain⟩ := hfin.after_take
    exact ⟨t, hexec, hrest, hcores, hrep, hcrib, hchain, fun hk => absurd hk hl, fun _ => htaken,
      fun hk hw => by simp [hk, hw] at hj⟩
  · have hk : r.kind = .drain := by
      cases hkind : r.kind with
      | drain => rfl
      | lift => exact absurd hkind hl
      | spill => exact absurd (.inl hkind) hj
    have hw : bit r.word 74 = true := by simpa [hk] using hj
    obtain ⟨hexec, hfin, hkeys, hlifts⟩ := takes_shadow h hk hw
    obtain ⟨hrest, hcores, hrep, hcrib, hchain⟩ := hfin.after_take
    have hdrain := drains_shadowDone s c r rest
    refine ⟨_, hexec, hrest, hcores, hrep, hcrib, hchain, fun hk' => absurd hk' hl, fun hk' => absurd hk' hj,
      fun _ _ => ⟨hkeys, hlifts, ?_⟩⟩
    rw [takeBank_eq]
    exact ⟨rfl, takenState_mem s c r rest, (takenState_kept s c r rest).regs, compared_shadowTaken s c r rest, rfl,
      hdrain.regs _ _ (by decide), fun p => hdrain.status _ _ (by decide)⟩

/-! ### DRAIN_ROW_WRITE -/

theorem unstage_nil (s : State) : unstage s [] = s := by simp [unstage]

theorem exec_drainRowWrite {x : Taken} {l : List Taken} (hx : (s.core c).taken = x :: l)
    (hroom : drainFull (s.core c) = false) (hstaged : stageHost s (partOfCore s c) .event x.needs = none) :
    exec (.drainRowWrite c) s = .next (writeRow s c x) := by
  show execDrainRowWrite c s = _
  simp [execDrainRowWrite, hx, hroom, hstaged]

/-- A row of a spill is its records, in order (06 R146). -/
theorem writeRow_spill {x : Taken} {l : List Taken} (hx : (s.core c).taken = x :: l) (hleft : x.rowsLeft ≠ 0)
    (hk : x.req.kind = .spill) : writeRow s c x = drainsOn (s.setCore c { s.core c with
      taken := ({ x with row := x.row + 1 } : Taken).ask (spillRow x) :: l }) c := by
  have hneeds : x.needs = [] := by simp [Taken.needs, hk]
  simp only [writeRow, hleft, if_false, hk, hneeds, unstage_nil, hx, List.tail_cons]

/-- A row of a drain is what its conversion gives (04 R88 to R92). -/
theorem writeRow_drain {x : Taken} {l : List Taken} (hx : (s.core c).taken = x :: l) (hleft : x.rowsLeft ≠ 0)
    (hk : x.req.kind ≠ .spill) : writeRow s c x = drainsOn ((unstage (drainRow s c x).1 x.needs).setCore c
      { (unstage (drainRow s c x).1 x.needs).core c with
        taken := (drainRow s c x).2.1.ask (drainRow s c x).2.2 :: l }) c := by
  have hread := ((reads_drainRow s c x).trans (reports_unstage _ x.needs).reads).cores c
  have htail : ((unstage (drainRow s c x).1 x.needs).core c).taken.tail = l := by rw [hread, hx]; rfl
  cases hkind : x.req.kind with
  | spill => exact absurd hkind hk
  | drain => simp only [writeRow, hleft, if_false, hkind, htail]
  | lift => simp only [writeRow, hleft, if_false, hkind, htail]

/-- After the last row the MSE record leaves, and the tile is over (04 R94). -/
theorem writeRow_over {x : Taken} {l : List Taken} (hx : (s.core c).taken = x :: l) (hleft : x.rowsLeft = 0) :
    writeRow s c x = drainsOn (finishTile ((mseRecord s c x).1.setCore c
      { (mseRecord s c x).1.core c with taken := l }) c (x.ask (mseRecord s c x).2)) c := by
  have htail : ((mseRecord s c x).1.core c).taken.tail = l := by rw [(reports_mseRecord s c x).core c, hx]; rfl
  simp only [writeRow, hleft, if_true, htail]

/-- The tiles of a core, replaced, as its drain queue goes on. -/
theorem drainsOn_setTaken (s : State) (c : Core) (l : List Taken) :
    ((drainsOn (s.setCore c { s.core c with taken := l }) c).core c).taken.map Claims.takenKey = l.map Claims.takenKey ∧
      Claims.coresKept s (drainsOn (s.setCore c { s.core c with taken := l }) c) c := by
  have h := drains_drainsOn (s.setCore c { s.core c with taken := l }) c
  refine ⟨by rw [h.keys, State.core_setCore_same], fun d hd => ?_⟩
  rw [h.others d hd, State.core_setCore_other _ _ hd]

theorem tileLeaves : Claims.TileLeaves := by
  intro s c x l hx hroom hstaged
  refine ⟨writeRow s c x, exec_drainRowWrite hx hroom hstaged, fun hleft hk => ?_, fun hleft hk => ?_, fun hleft => ?_⟩
  · rw [writeRow_spill hx hleft hk]
    exact ⟨rfl, drainsOn_setTaken s c _⟩
  · have hread := (reads_drainRow s c x).trans (reports_unstage _ x.needs).reads
    obtain ⟨hkeys, hothers⟩ := drainsOn_setTaken (unstage (drainRow s c x).1 x.needs) c
      ((drainRow s c x).2.1.ask (drainRow s c x).2.2 :: l)
    rw [writeRow_drain hx hleft hk]
    refine ⟨rfl, hkeys.trans ?_, drainRow_writes_nil, fun d hd => ?_⟩
    · exact congrArg (· :: l.map Claims.takenKey) (takenKey_drainRow s c x)
    · rw [hothers d hd]
      exact hread.cores d
  · have hmse := reports_mseRecord s c x
    have hdrain := (drains_finishTile ((mseRecord s c x).1.setCore c { (mseRecord s c x).1.core c with taken := l }) c
      (x.ask (mseRecord s c x).2)).trans (drains_drainsOn _ c)
    rw [writeRow_over hx hleft]
    refine ⟨rfl, ?_, fun d hd => ?_, ?_⟩
    · rw [hdrain.keys, State.core_setCore_same]
    · rw [hdrain.others d hd, State.core_setCore_other _ _ hd, hmse.core d]
    · rw [hdrain.regs _ _ (by decide), fget_setCore, mseRecord_pointer]

end Readouts

/-- Settles O17: a take stores and reports what it has swept, and the rest of a readout and the rows of a tile change of the core
only its tiles and its tally. -/
theorem readoutTakesBank : Obligations.ReadoutTakesBank := ⟨readoutTakes, tileLeaves⟩

end Sys2Proof.Machine
end

section
/-! O15: the parts of a matrix word, what each gives its core, and what it leaves alone (03 R451; 04 R77, R95; 05 R104; 06 R146;
09 R199). -/

namespace Sys2Proof.Machine

section Matrix

variable {s t u : State} {c : Core} {w : WordX}

/-! ### What a part of a word keeps -/

/-- What making a part of a word on core `c` keeps: every other core, and the registers but those that issuing may change. -/
structure PartKeeps (c : Core) (s t : State) : Prop extends Kept Claims.issueFields s t where
  others : Claims.coresKept s t c

theorem PartKeeps.trans (h : PartKeeps c s t) (h' : PartKeeps c t u) : PartKeeps c s u where
  toKept := h.toKept.trans h'.toKept
  others d hd := (h'.others d hd).trans (h.others d hd)

theorem Issues.part (h : Issues c s t) : PartKeeps c s t where
  toKept := h.toKept
  others := h.others

theorem Writes.part (h : Writes Claims.issueFields s t) : PartKeeps c s t where
  toKept := h.toKept
  others d _ := h.core d

theorem partKeeps_setCore (s : State) (c : Core) (x : CoreX) : PartKeeps c s (s.setCore c x) where
  toKept := .of_eq rfl rfl
  others _ hd := State.core_setCore_other s x hd

/-- A part of a word that changes memory nowhere keeps what the obligations ask of it. -/
theorem PartKeeps.frame (h : PartKeeps c s t) (hm : Claims.memSame s t) :
    Claims.coresKept s t c ∧ Claims.memSame s t ∧ Claims.regsKept s t Claims.issueFields := ⟨h.others, hm, h.regs⟩

theorem Issues.pipe (h : Issues c s t) : (t.core c).pipe = (s.core c).pipe := by rw [h.own]

/-- A change of one core, noted as a part of its word. -/
theorem Issues.frame_of_setCore {x : CoreX} (h : Issues c (s.setCore c x) t) :
    Claims.coresKept s t c ∧ Claims.memSame s t ∧ Claims.regsKept s t Claims.issueFields :=
  ((partKeeps_setCore s c x).trans h.part).frame (Claims.memSame_trans (memSame_setCore s c x) h.mem)

/-- A part that has been noted is among the parts made. -/
theorem markDone_noted (s : State) (c : Core) {f : WordDone → WordDone} {part : WordDone → Bool}
    (h : ∀ d, part (f d) = true) : part ((markDone s c .m f).core c).sm.done = true := by
  obtain ⟨d, hd⟩ := markDone_done s c .m f
  exact (congrArg part hd).trans (h d)

/-! ### MMA (03 R58 to R64, R451; 04 R77) -/

theorem CoreX.setBank_pipe (x : CoreX) (b : Fin 2) (v : BankX) : (x.setBank b v).pipe = x.pipe := by
  unfold CoreX.setBank; split <;> rfl

/-- The feed changes the places of its ring alone. -/
theorem advanceFeed_core (x : CoreX) (y : SlotX) (k : Nat) (drn : Bool) :
    (advanceFeed x y k drn).1 = { x with rings := (advanceFeed x y k drn).1.rings } := by
  unfold advanceFeed
  split <;> rfl

theorem reports_multiplierCheck (s : State) (c : Core) (w : WordX) (l : List MulFault) :
    Reports Claims.issueFields s (multiplierCheck s c w l) :=
  .foldl (fun _ _ => (reports_record _ _ _ _ _ _ _ (by decide)).trans (reports_setStatus _ _ (by decide))) _ _

/-- A product that the mod-3 check finds wrong sets CHECKSUM (04 R77). -/
theorem multiplierCheck_checksum {p : Part} {m : MulFault} {l : List MulFault} (hp : partOfCore s c = some p) (hm : m ∈ l)
    (hoff : m.off % 3 ≠ 0) : (fget (multiplierCheck s c w l) .updStatusStatus p.val).testBit 8 = true := by
  have hfound : m ∈ l.filter fun m => m.off % 3 != 0 := List.mem_filter.mpr ⟨hm, by simpa using hoff⟩
  unfold multiplierCheck
  rw [hp]
  refine foldl_brings (P := fun t => (fget t .updStatusStatus p.val).testBit 8 = true) (fun t m' ht => ?_) hfound
    (fun t => ?_) s
  · refine Kept.status (Reports.toKept (but := reportFields) ?_) _ _ (by decide) ht
    exact (reports_record _ _ _ _ _ _ _ (by decide)).trans (reports_setStatus _ _ (by decide))
  · exact setStatus_bit _ p .checksum

/-- The feed of the MMA word `w` from the rings `ha` and `hb`, at the cursors of its bank. -/
def wordFeed (s : State) (c : Core) (w : WordX) (ha hb : Nat) (faults : List MulFault) : Feed :=
  feedOf s c w (feedSlot s c ha ((s.core c).bank w.bank).curA) (feedSlot s c hb ((s.core c).bank w.bank).curB) faults

/-- A core with a bank as an MMA word leaves it; an F64 word makes bank 1 half of a chain. -/
def CoreX.fedBank (x : CoreX) (w : WordX) (k : BankX) : CoreX :=
  if w.isF64 then (x.setBank w.bank k).setBank 1 { (x.setBank w.bank k).bank 1 with kind := .chain } else x.setBank w.bank k

theorem CoreX.fedBank_pipe (x : CoreX) (w : WordX) (k : BankX) : (x.fedBank w k).pipe = x.pipe := by
  unfold CoreX.fedBank
  split <;> simp only [CoreX.setBank_pipe]

theorem CoreX.fedBank_crib (x : CoreX) (w : WordX) (k : BankX) : (x.fedBank w k).crib = x.crib := by
  unfold CoreX.fedBank
  split <;> simp only [CoreX.setBank_crib]

theorem CoreX.fedBank_chain (x : CoreX) (w : WordX) (k : BankX) : (x.fedBank w k).chain = x.chain := by
  unfold CoreX.fedBank
  split <;> simp only [CoreX.setBank_chain]

theorem CoreX.fedBank_kind (x : CoreX) {w : WordX} {k : BankX} (hk : k.kind = kindOfWord w) :
    ((x.fedBank w k).bank w.bank).kind = kindOfWord w := by
  unfold CoreX.fedBank
  split
  · next h64 =>
    have hchain : kindOfWord w = .chain := by simp [kindOfWord, h64]
    by_cases hb : w.bank = 1
    · rw [hb, CoreX.bank_setBank_same, hchain]
    · rw [CoreX.bank_setBank_other _ _ hb, CoreX.bank_setBank_same, hk]
  · rw [CoreX.bank_setBank_same, hk]

/-- What an MMA word gives its core: the terms of its feed in the pipeline, and the kind of its bank; its registers stay. -/
structure Feeds (s : State) (c : Core) (w : WordX) (f : Feed) (x : CoreX) : Prop where
  pipe : x.pipe = (s.core c).pipe ++
    (mmaTerms f ((s.core c).bank w.bank).windows ((s.core c).bank w.bank).blockPos).2.2
  kind : (x.bank w.bank).kind = kindOfWord w
  crib : x.crib = (s.core c).crib
  chain : x.chain = (s.core c).chain

theorem feeds_fedBank {f : Feed} {y : CoreX} {k : BankX} (hy : y = { s.core c with rings := y.rings })
    (hk : k.kind = kindOfWord w) : Feeds s c w f { y.fedBank w k with pipe := (y.fedBank w k).pipe ++
      (mmaTerms f ((s.core c).bank w.bank).windows ((s.core c).bank w.bank).blockPos).2.2 } where
  pipe := by rw [CoreX.fedBank_pipe, hy]
  kind := CoreX.fedBank_kind y hk
  crib := by rw [CoreX.fedBank_crib, hy]
  chain := by rw [CoreX.fedBank_chain, hy]

/-- An MMA word feeds its core, and reports what its feed meets. -/
theorem mmaEffect_feeds (s : State) (c : Core) (w : WordX) (ha hb : Nat) (faults : List MulFault) :
    ∃ x runs, mmaEffect s c w ha hb faults =
        multiplierCheck (sramRead (s.setCore c x) c runs) c w (wordFeed s c w ha hb faults).faulty ∧
      Feeds s c w (wordFeed s c w ha hb faults) x := by
  refine ⟨_, _, rfl, feeds_fedBank ?_ rfl⟩
  rw [advanceFeed_core, advanceFeed_core]

/-- An MMA word reports CHECKSUM of a product that the mod-3 check finds wrong, and else changes its core alone. -/
theorem issues_mmaEffect (s : State) (c : Core) (w : WordX) (ha hb : Nat) (faults : List MulFault) :
    ∃ x, Issues c (s.setCore c x) (mmaEffect s c w ha hb faults) ∧ Feeds s c w (wordFeed s c w ha hb faults) x ∧
      ∀ p m, partOfCore s c = some p → m ∈ (wordFeed s c w ha hb faults).faulty → m.off % 3 ≠ 0 →
        (fget (mmaEffect s c w ha hb faults) .updStatusStatus p.val).testBit 8 = true := by
  obtain ⟨x, runs, heq, hfeeds⟩ := mmaEffect_feeds s c w ha hb faults
  have hread : Issues c (s.setCore c x) (sramRead (s.setCore c x) c runs) := issues_sramRead runs
  rw [heq]
  refine ⟨x, hread.trans ((reports_multiplierCheck _ c w _).issues c), hfeeds, fun p m hp hm hoff => ?_⟩
  exact multiplierCheck_checksum ((hread.toKept.partOfCore (by decide) (by decide) c).trans hp) hm hoff

/-- A part that needs its bank not to be held, but not at rest, is made. -/
theorem bankPart_fed {ready : WordX → WordDone → Bool} {both : WordX → Bool} {effect : WordX → State}
    (hw : atWord s c .m true = .word w) (hr : ready w (s.core c).sm.done = true)
    (hheld : bankHeld (s.core c) w.bank (both w) = false) : bankPart s c false ready both effect = .next (effect w) := by
  unfold bankPart
  refine (atPart_made hw ?_).trans ?_
  · simp [CoreX.stream, hr]
  · simp only [hheld, Bool.false_eq_true, if_false]

theorem clear_made {d : WordDone} (h : w.clr = true → d.clr = true) : (!w.clr || d.clr) = true := by
  cases hc : w.clr
  · rfl
  · exact h hc

theorem exec_mma {ha hb : Nat} {faults : List MulFault} (h : Claims.atMatrix s c 1 w) (hha : w.hA (w.p s c) = some ha)
    (hhb : w.hB (w.p s c) = some hb) (hheld : bankHeld (s.core c) w.bank (takesBoth (s.core c) w) = false) :
    exec (.mma ⟨c, faults⟩) s =
      .next (markDone (mmaEffect s c w ha hb faults) c .m fun d => { d with mxu := true }) := by
  obtain ⟨hw, hop, hi, hmxu, hclr⟩ := h
  show execMma ⟨c, faults⟩ s = _
  unfold execMma
  refine (bankPart_fed hw ?_ hheld).trans ?_
  · simp [hop, hi, hmxu, hha, hhb, clear_made hclr]
  · simp only [hha, hhb, Option.getD_some]

/-! ### The readouts that a word asks for (04 R95; 06 R146; 09 R199) -/

/-- A readout that is asked for stands behind the others of its core. -/
theorem asksReadout_askReadout (s : State) (c : Core) (w : WordX) (k : ReadKind) :
    Claims.asksReadout s (askReadout s c w k) c w k :=
  ⟨_, by rw [askReadout, State.core_setCore_same], rfl, rfl, rfl, rfl, rfl, rfl, rfl, rfl, fun hk => if_pos hk⟩

theorem Issues.asksReadout {k : ReadKind} (h : Issues c t u) (ha : Claims.asksReadout s t c w k) :
    Claims.asksReadout s u c w k := by
  obtain ⟨r, hr, hkept⟩ := ha
  exact ⟨r, by rw [h.own]; exact hr, hkept⟩

/-- A word that asks for a readout, noted as a part made. -/
theorem asked_markDone (s : State) (c : Core) (w : WordX) (k : ReadKind) (f : WordDone → WordDone) :
    let t := markDone (askReadout s c w k) c .m f
    Claims.asksReadout s t c w k ∧ Claims.coresKept s t c ∧ Claims.memSame s t ∧
      Claims.regsKept s t Claims.issueFields := by
  have h : Issues c (askReadout s c w k) (markDone (askReadout s c w k) c .m f) := issues_markDone .m f
  exact ⟨h.asksReadout (asksReadout_askReadout s c w k), h.frame_of_setCore⟩

/-- What a word takes at issue depends on its core's streams alone, of all that its core holds. -/
theorem taken_setCore {x : CoreX} (hx : ∀ st, x.stream st = (s.core c).stream st) :
    w.p (s.setCore c x) c = w.p s c ∧ w.cTaken (s.setCore c x) c = w.cTaken s c ∧
      w.biasTaken (s.setCore c x) c = w.biasTaken s c := by
  have hdone : w.done (s.setCore c x) c = w.done s c := by rw [WordX.done, State.core_setCore_same, hx]; rfl
  have hp : w.p (s.setCore c x) c = w.p s c := by unfold WordX.p; rw [hdone]; rfl
  refine ⟨hp, ?_, ?_⟩
  · unfold WordX.cTaken
    rw [hdone, hp]
    rfl
  · unfold WordX.biasTaken
    rw [hdone, hp]
    rfl

/-- A core that has released slots, with a bank and its pipeline changed. -/
theorem CoreX.closed_core {x y : CoreX} (hy : y = { x with rings := y.rings }) (b : Fin 2) (v : BankX) (l : List Term) :
    ({ y.setBank b v with pipe := l } : CoreX) = { x with
      rings := (y.setBank b v).rings, bank0 := (y.setBank b v).bank0, bank1 := (y.setBank b v).bank1, pipe := l } := by
  rw [hy]
  unfold CoreX.setBank
  split <;> rfl

theorem CoreX.isChain_setBank (x : CoreX) (b : Fin 2) (v : BankX) (l : List Term) :
    ({ x.setBank b v with pipe := l } : CoreX).isChain b = (v.kind == .chain) := by
  show (((x.setBank b v).bank b).kind == .chain) = _
  rw [CoreX.bank_setBank_same]

/-- A feed that has begun a slot releases it; the others keep their places. -/
theorem releaseBegun_core (x : CoreX) (cur h : Nat) (d : Desc) : (if cur = 0 then x else x.releaseSlot h d) =
    { x with rings := (if cur = 0 then x else x.releaseSlot h d).rings } := by
  split <;> rfl

/-- Closing the open block of a bank changes of its core the rings, the banks and the pipeline, and keeps the kind of the bank
(05 R105). -/
theorem closeForDrain_closes (s : State) (c : Core) (w : WordX) : ∃ x, closeForDrain s c w = s.setCore c x ∧
    x = { s.core c with rings := x.rings, bank0 := x.bank0, bank1 := x.bank1, pipe := x.pipe } ∧
    x.isChain w.bank = (s.core c).isChain w.bank := by
  refine ⟨_, rfl, ?_, ?_⟩
  · refine CoreX.closed_core ?_ _ _ _
    rw [releaseBegun_core, releaseBegun_core]
  · exact CoreX.isChain_setBank _ w.bank _ _

/-- A drain without an MMA of its own asks for the readout that it would ask for before its block is closed. -/
theorem asksReadout_closeForDrain (s : State) (c : Core) (w : WordX) (k : ReadKind)
    (h : Claims.asksReadout (closeForDrain s c w) t c w k) : Claims.asksReadout s t c w k := by
  obtain ⟨x, hclose, hx, hchain⟩ := closeForDrain_closes s c w
  obtain ⟨hp, hc, hbias⟩ := taken_setCore (s := s) (w := w) (x := x) fun st => by rw [hx]; cases st <;> rfl
  rw [hclose] at h
  obtain ⟨r, hr, hkind, hbank, hword, hrow, hid, hrchain, hpval, hcd, hb⟩ := h
  rw [State.core_setCore_same] at hr hid hrchain
  refine ⟨r, ?_, hkind, hbank, hword, hrow, ?_, hrchain.trans hchain, hpval.trans hp, hcd.trans hc,
    fun hk => (hb hk).trans hbias⟩
  · rw [hr, hx]
  · rw [hid, hx]

/-- The state in which a DRN asks for its readout: a block that no MMA of its own word closes has been closed (05 R105). -/
def drainFrom (s : State) (c : Core) (w : WordX) : State := if w.mop == 0 then closeForDrain s c w else s

theorem drainFrom_frame (s : State) (c : Core) (w : WordX) :
    PartKeeps c s (drainFrom s c w) ∧ Claims.memSame s (drainFrom s c w) := by
  unfold drainFrom
  split
  · exact ⟨partKeeps_setCore s c _, memSame_setCore s c _⟩
  · exact ⟨(Issues.refl s).part, (Issues.refl (c := c) s).mem⟩

theorem asksReadout_drainFrom {k : ReadKind} (h : Claims.asksReadout (drainFrom s c w) t c w k) :
    Claims.asksReadout s t c w k := by
  unfold drainFrom at h
  split at h
  · exact asksReadout_closeForDrain s c w k h
  · exact h

theorem exec_drn (hw : atWord s c .m true = .word w) (hdrn : w.drn = true) (hi : issued w (s.core c).sm.done = true)
    (hd : (s.core c).sm.done.drn = false) (hclr : w.clr = true → (s.core c).sm.done.clr = true)
    (hm : w.mop = 0 ∨ (s.core c).sm.done.mxu = true) : exec (.drn c) s =
      .next (markDone (askReadout (drainFrom s c w) c w .drain) c .m fun d => { d with drn := true }) := by
  show execDrn c s = _
  unfold execDrn
  refine atPart_made hw ?_
  simp [CoreX.stream, hdrn, hi, hd, clear_made hclr, hm]

theorem exec_lift (h : Claims.atMatrix s c 2 w) (hlate : liftEarly s w = false) : exec (.lift c) s =
    .next (markDone (askReadout s c w .lift) c .m fun d => { d with mxu := true }) := by
  obtain ⟨hw, hop, hi, hmxu, -⟩ := h
  show execLift c s = _
  simp [execLift, hw, hop, hi, hmxu, hlate]

theorem exec_spill (h : Claims.atMatrix s c 3 w) : exec (.spill c) s =
    .next (markDone (askReadout s c w .spill) c .m fun d => { d with mxu := true }) := by
  obtain ⟨hw, hop, hi, hmxu, -⟩ := h
  show execSpill c s = _
  unfold execSpill
  refine atPart_made hw ?_
  simp [CoreX.stream, hop, hi, hmxu]

/-! ### RESTORE (03 R451; 06 R146) -/

/-- RESTORE reads its slot and changes its core. -/
theorem restoreEffect_setCore (s : State) (c : Core) (w : WordX) (h : Nat) :
    ∃ runs x, restoreEffect s c w h = (sramRead s c runs).setCore c x := by
  unfold restoreEffect
  dsimp only
  split
  · exact ⟨_, _, rfl⟩
  · exact ⟨_, _, rfl⟩

theorem restoreEffect_kind (s : State) (c : Core) (w : WordX) (h : Nat) :
    (((restoreEffect s c w h).core c).bank w.bank).kind = (if (Desc.of (descOf s c h)).fmtCode = 5 then .chain
      else if (restored (restoreRecords s c h)).any (fun r => r.2.t2) then .t2 else .ordinary) := by
  unfold restoreEffect
  dsimp only
  split
  · rw [State.core_setCore_same]
    by_cases hb : w.bank = 1
    · rw [hb, CoreX.bank_setBank_same]
    · rw [CoreX.bank_setBank_other _ _ hb, show w.bank = 0 by omega, CoreX.bank_setBank_same]
  · rw [State.core_setCore_same, CoreX.bank_setBank_same]

theorem restoreEffect_frame (s : State) (c : Core) (w : WordX) (h : Nat) :
    PartKeeps c s (restoreEffect s c w h) ∧ Claims.memSame s (restoreEffect s c w h) := by
  obtain ⟨runs, x, heq⟩ := restoreEffect_setCore s c w h
  have hread : Issues c s (sramRead s c runs) := issues_sramRead runs
  rw [heq]
  exact ⟨hread.part.trans (partKeeps_setCore _ c x), Claims.memSame_trans hread.mem (memSame_setCore _ c x)⟩

/-- The banks that a RESTORE from ring `h` takes: both, for records of a chain or a bank that is half of one. -/
def restoresBoth (s : State) (c : Core) (w : WordX) (h : Nat) : Bool :=
  (Desc.of (descOf s c h)).fmtCode == 5 || (s.core c).isChain w.bank

theorem exec_restore {h : Nat} (hat : Claims.atMatrix s c 4 w) (hh : w.hA (w.p s c) = some h)
    (hheld : bankHeld (s.core c) w.bank (restoresBoth s c w h) = false)
    (hpipe : bankInPipe (s.core c) w.bank (restoresBoth s c w h) = false) : exec (.restore c) s =
      .next (markDone (restoreEffect s c w h) c .m fun d => { d with mxu := true }) := by
  obtain ⟨hw, hop, hi, hmxu, hclr⟩ := hat
  unfold restoresBoth at hheld hpipe
  show execRestore c s = _
  unfold execRestore
  refine (bankPart_made hw ?_ ?_ ?_).trans ?_
  · simp [hop, hi, hmxu, hh, clear_made hclr]
  · simpa only [hh, Option.getD_some] using hheld
  · simpa only [hh, Option.getD_some] using hpipe
  · simp only [hh, Option.getD_some]

end Matrix

/-- Settles O15: each matrix part changes its core as the word asks and is then noted, which issues the word; a drain first
closes the block that its bank has left open. -/
theorem matrixWords : Obligations.MatrixWords := by
  intro s c w
  refine ⟨fun ha hb faults hat hha hhb hheld => ?_, fun hw hdrn hi hd hclr hm => ?_, fun hat hlate => ?_, fun hat => ?_,
    fun h hat hh hheld hpipe => ?_⟩
  · obtain ⟨x, hfeed, hx, hwrong⟩ := issues_mmaEffect s c w ha hb faults
    have hnote : Issues c (mmaEffect s c w ha hb faults) _ := issues_markDone .m fun d => { d with mxu := true }
    have hall := hfeed.trans hnote
    have hbank := hall.bank w.bank
    have hpipe := hall.pipe
    have hcrib := hall.crib
    have hchain := hall.chain
    rw [State.core_setCore_same] at hbank hpipe hcrib hchain
    refine ⟨_, exec_mma hat hha hhb hheld, markDone_noted (part := WordDone.mxu) _ c fun _ => rfl, ?_, ⟨?_, ?_⟩, ?_, ?_,
      hall.frame_of_setCore⟩
    · rw [hbank, hx.kind]
    · exact hpipe.trans hx.pipe
    · exact fun p m hp hm hoff => hnote.status _ _ (by decide) (hwrong p m hp hm hoff)
    · exact hcrib.trans hx.crib
    · exact hchain.trans hx.chain
  · obtain ⟨hkeeps, hmem⟩ := drainFrom_frame s c w
    obtain ⟨hasks, hcores, hmem', hregs⟩ := asked_markDone (drainFrom s c w) c w .drain fun d => { d with drn := true }
    exact ⟨_, exec_drn hw hdrn hi hd hclr hm, markDone_noted (part := WordDone.drn) _ c fun _ => rfl,
      asksReadout_drainFrom hasks, fun e he => (hcores e he).trans (hkeeps.others e he), Claims.memSame_trans hmem hmem',
      Claims.regsKept_trans hkeeps.regs hregs⟩
  · exact ⟨_, exec_lift hat hlate, markDone_noted (part := WordDone.mxu) _ c fun _ => rfl, asked_markDone s c w .lift _⟩
  · exact ⟨_, exec_spill hat, markDone_noted (part := WordDone.mxu) _ c fun _ => rfl, asked_markDone s c w .spill _⟩
  · have hnote : Issues c (restoreEffect s c w h) _ := issues_markDone .m fun d => { d with mxu := true }
    obtain ⟨hkeeps, hmem⟩ := restoreEffect_frame s c w h
    exact ⟨_, exec_restore hat hh hheld hpipe, markDone_noted (part := WordDone.mxu) _ c fun _ => rfl, hnote.crib,
      hnote.chain,
      (congrArg BankX.kind (hnote.bank w.bank)).trans (restoreEffect_kind s c w h),
      (hkeeps.trans hnote.part).frame (Claims.memSame_trans hmem hnote.mem)⟩

end Sys2Proof.Machine
end

section
/-! O18: the operations of the vector unit, the lanes and the bytes that each writes, and what it leaves alone (04 R81 to R87,
R450; 05 R107). -/

namespace Sys2Proof.Machine

section Vector

variable {s t u : State} {c : Core} {w : WordX}

/-! ### What a part of a word does not touch -/

theorem Claims.outsideKept_refl (s : State) : Claims.outsideKept s s := ⟨rfl, rfl, rfl, rfl, rfl, rfl, rfl, rfl⟩

theorem Claims.outsideKept_trans (h : Claims.outsideKept s t) (h' : Claims.outsideKept t u) : Claims.outsideKept s u := by
  obtain ⟨hfuses, hflash, hrot, hpwr, hports, hfns, hhub, hnet⟩ := h
  obtain ⟨hfuses', hflash', hrot', hpwr', hports', hfns', hhub', hnet'⟩ := h'
  exact ⟨hfuses'.trans hfuses, hflash'.trans hflash, hrot'.trans hrot, hpwr'.trans hpwr, hports'.trans hports,
    hfns'.trans hfns, hhub'.trans hhub, hnet'.trans hnet⟩

theorem outsideKept_setCore (s : State) (c : Core) (x : CoreX) : Claims.outsideKept s (s.setCore c x) :=
  ⟨rfl, rfl, rfl, rfl, rfl, rfl, rfl, rfl⟩

theorem outsideKept_fset (s : State) (f : Field) (i v : Nat) : Claims.outsideKept s (fset s f i v) :=
  ⟨rfl, rfl, rfl, rfl, rfl, rfl, rfl, rfl⟩

theorem outsideKept_setStatus (s : State) (p : Option Part) (b : StepBit) : Claims.outsideKept s (setStatus s p b) := by
  cases p with
  | none => exact Claims.outsideKept_refl s
  | some p => exact outsideKept_fset s _ _ _

theorem outsideKept_setStatusIf (s : State) (p : Option Part) (b : StepBit) (on : Bool) :
    Claims.outsideKept s (setStatusIf s p b on) := by
  cases on with
  | false => exact Claims.outsideKept_refl s
  | true => exact outsideKept_setStatus s p b

theorem outsideKept_record (s : State) (cls : Cls) (sev : Sev) (p : Option Part) (x : UnitRef) (op : OpRef) (code : Nat)
    (synd : Synd) : Claims.outsideKept s (record s cls sev p x op code synd) := by
  rcases record_cases s cls sev p x op code synd with ⟨-, r, h⟩ | ⟨-, h⟩ <;> rw [h]
  · exact ⟨rfl, rfl, rfl, rfl, rfl, rfl, rfl, rfl⟩
  · exact outsideKept_fset s _ _ _

theorem outsideKept_sramRead (s : State) (c : Core) (runs : List (Nat × Nat)) :
    Claims.outsideKept s (sramRead s c runs) := by
  have faults := fun (l : List (Nat × Nat)) (t : State) => foldl_keeps (R := Claims.outsideKept)
    (f := fun t e => memFault t (4 * e.1) (.core c) (partOfCore t c) (.core c) [])
    Claims.outsideKept_refl Claims.outsideKept_trans (fun t _ =>
      Claims.outsideKept_trans (outsideKept_record t _ _ _ _ _ _ _) (outsideKept_setStatus _ _ _)) l t
  refine Claims.outsideKept_trans ?_ (faults _ _)
  split
  · exact Claims.outsideKept_refl s
  · exact outsideKept_setCore s c _

theorem outsideKept_setFlags (s : State) (p : Option Part) (f : Flags) : Claims.outsideKept s (setFlags s p f) :=
  Claims.outsideKept_trans (Claims.outsideKept_trans (Claims.outsideKept_trans (outsideKept_setStatusIf _ _ _ _)
    (outsideKept_setStatusIf _ _ _ _)) (outsideKept_setStatusIf _ _ _ _)) (outsideKept_setStatusIf _ _ _ _)

theorem outsideKept_markReady (s : State) (c : Core) (st : Stream) (f : WordDone → WordDone) :
    Claims.outsideKept s (markReady s c st f) := outsideKept_setCore s c _

theorem outsideKept_signalFlag (s : State) (c : Core) (id : Nat) : Claims.outsideKept s (signalFlag s c id) := by
  unfold signalFlag
  split
  · unfold flagAdd
    dsimp only
    split
    · exact outsideKept_record _ _ _ _ _ _ _ _
    · exact outsideKept_setCore _ _ _
  · exact ⟨rfl, rfl, rfl, rfl, rfl, rfl, rfl, rfl⟩
  · exact Claims.outsideKept_refl s

theorem outsideKept_issueMarks (s : State) (c : Core) (w : WordX) : Claims.outsideKept s (issueMarks s c w) := by
  have hv : Claims.outsideKept s (setStatusIf s (partOfCore s c) .vary w.vary) := outsideKept_setStatusIf _ _ _ _
  unfold issueMarks
  dsimp only
  split
  · exact hv
  · refine Claims.outsideKept_trans hv ?_
    split
    · exact outsideKept_setCore _ _ _
    · exact Claims.outsideKept_trans (outsideKept_setCore _ _ _) (outsideKept_fset _ _ _ _)

theorem outsideKept_issueWord (s : State) (c : Core) (w : WordX) : Claims.outsideKept s (issueWord s c w) := by
  have h := fun runs f => Claims.outsideKept_trans (Claims.outsideKept_trans (outsideKept_issueMarks s c w)
    (outsideKept_sramRead _ c runs)) (outsideKept_markReady _ c w.st f)
  unfold issueWord
  split
  · exact Claims.outsideKept_refl s
  · dsimp only
    split
    · exact Claims.outsideKept_trans (h _ _) (outsideKept_signalFlag _ _ _)
    · exact h _ _

theorem outsideKept_markDone (s : State) (c : Core) (st : Stream) (f : WordDone → WordDone) :
    Claims.outsideKept s (markDone s c st f) := by
  unfold markDone
  split
  · exact Claims.outsideKept_trans (outsideKept_issueWord s c _) (outsideKept_markReady _ c st f)
  · exact outsideKept_markReady s c st _

/-! ### A vector part of a word -/

/-- A vector part that is next is made and noted, which issues the word. -/
theorem vecPart_made {code : Nat} (h : Claims.atVector s c code w) (effect : WordX → State → State) :
    vecPart c code effect s = .next (markDone (effect w s) c .m fun d => { d with vec := true }) := by
  obtain ⟨hw, hop, hi, hvec⟩ := h
  refine atPart_made hw ?_
  simp [CoreX.stream, hop, hi, hvec]

theorem Issues.vregs (h : Issues c s t) : (t.core c).vregs = (s.core c).vregs := by rw [h.own]

theorem Issues.lane (h : Issues c s t) (v l : Nat) : (t.core c).lane v l = (s.core c).lane v l := by
  rw [CoreX.lane, h.vregs]; rfl

/-! ### Lanes -/

theorem span_eq_range' (a n : Nat) : span a n = List.range' a n := by
  induction n generalizing a with
  | zero => rfl
  | succ n ih => rw [span, ih, List.range'_succ]

theorem nodup_span (a n : Nat) : (span a n).Nodup := by rw [span_eq_range']; exact List.nodup_range'

theorem getElem_laneRange {l : Nat} (h : l < laneRange.length) : laneRange[l] = l := by
  simp [laneRange, span_eq_range']

/-- The keys of values stored side by side. -/
theorem map_fst_zip_span {α : Type} {a n : Nat} {ls : List α} (hn : ls.length = n) :
    (List.zip (span a n) ls).map (·.1) = span a n := List.map_fst_zip (by rw [length_span, hn])

/-- A value stored side by side with others stands at its place. -/
theorem mem_zip_span {α : Type} (a : Nat) {i n : Nat} {ls : List α} (hn : ls.length = n) (h : i < ls.length) :
    (a + i, ls[i]) ∈ List.zip (span a n) ls := by
  refine List.mem_iff_getElem.mpr ⟨i, by simpa [hn] using hn ▸ h, ?_⟩
  simp [span_eq_range']

/-- A key outside a run is none of those of values stored there. -/
theorem zip_span_ne {α : Type} {a n j : Nat} {ls : List α} (h : j < a ∨ a + n ≤ j) :
    ∀ e ∈ List.zip (span a n) ls, e.1 ≠ j := by
  rintro ⟨k, v⟩ he rfl
  have hk := mem_span.mp (List.of_mem_zip he).1
  omega

/-- A lane that a vector register has been given reads back, cut to 64 bits. -/
theorem CoreX.lane_setVreg_same (x : CoreX) (v : Nat) {ls : List Nat} {l : Nat} (h : l < ls.length) :
    (x.setVreg v ls).lane v l = ls[l] % 2 ^ 64 := by
  have hlen : (ls.map (· % 2 ^ 64)).length = ls.length := List.length_map _
  refine tget_tsetAll_mem _ _ ?_ ?_
  · rw [map_fst_zip_span hlen]
    exact nodup_span _ _
  · have hmem := mem_zip_span (v * 256) hlen (hlen ▸ h)
    rwa [List.getElem_map] at hmem

/-- The lanes of the other registers stay. -/
theorem CoreX.lane_setVreg_other (x : CoreX) {v v' l : Nat} {ls : List Nat} (hls : ls.length ≤ 256) (hv : v' ≠ v)
    (hl : l < 256) : (x.setVreg v ls).lane v' l = x.lane v' l :=
  tget_tsetAll_other _ _ (zip_span_ne (by omega))

/-! ### Arithmetic (04 R85 to R87) -/

/-- An arithmetic operation sets the lanes of Vd, and flags of the step status. -/
theorem vecArith_eq (l : FloatFmt) (n : Nat) (f : List XVal → XVal) (s : State) (c : Core) (w : WordX) :
    ∃ ls fl, vecArith l n f c w s = setFlags (s.setCore c ((s.core c).setVreg w.vd ls)) (partOfCore s c) fl ∧
      ls = laneRange.map fun i => (l.encode (f (([w.va, w.vb, w.vc].take n).map fun v =>
        l.decode ((s.core c).lane v i % (2 * l.signBit))))).1 :=
  ⟨_, _, rfl, List.map_map⟩

theorem exec_vectorTable {e : Instr × Nat × FloatFmt × Nat × (List XVal → XVal)} (he : e ∈ Claims.vectorTable c) :
    exec e.1 s = vecPart c e.2.1 (vecArith e.2.2.1 e.2.2.2.1 e.2.2.2.2 c) s := by
  simp only [Claims.vectorTable, List.mem_cons, List.not_mem_nil, or_false] at he
  rcases he with rfl | rfl | rfl | rfl | rfl | rfl | rfl | rfl | rfl | rfl | rfl <;> rfl

theorem vectorArithmetic : Claims.VectorArithmetic := by
  intro s c w e he hat
  obtain ⟨ls, fl, heq, hls⟩ := vecArith_eq e.2.2.1 e.2.2.2.1 e.2.2.2.2 s c w
  have hlen : ls.length = 256 := by rw [hls, List.length_map]; exact length_span 0 256
  have hflags : Reports Claims.issueFields _ (vecArith e.2.2.1 e.2.2.2.1 e.2.2.2.2 c w s) :=
    heq ▸ reports_setFlags (partOfCore s c) fl (by decide)
  have hnote : Issues c (s.setCore c ((s.core c).setVreg w.vd ls)) _ :=
    (hflags.issues c).trans (issues_markDone .m fun d => { d with vec := true })
  have hlane := hnote.lane
  rw [State.core_setCore_same] at hlane
  obtain ⟨hcores, hmem, hregs⟩ := hnote.frame_of_setCore
  refine ⟨_, (exec_vectorTable he).trans (vecPart_made hat _), markDone_noted (part := WordDone.vec) _ c fun _ => rfl,
    fun l hl => ?_, fun v l hv hl => ?_, hregs, hmem, hcores, ?_⟩
  · rw [hlane, CoreX.lane_setVreg_same _ _ (hlen ▸ hl)]
    subst hls
    rw [List.getElem_map, getElem_laneRange]
  · rw [hlane, CoreX.lane_setVreg_other _ hlen.le hv hl]
  · refine Claims.outsideKept_trans ?_ (outsideKept_markDone _ c .m _)
    rw [heq]
    exact Claims.outsideKept_trans (outsideKept_setCore s c _) (outsideKept_setFlags _ _ _)

/-! ### The bytes of a core's own stores (05 R99) -/

theorem mbytes_of_mem (h : Claims.memSame s t) (a n : Nat) : mbytes t a n = mbytes s a n :=
  List.map_congr_left fun i _ => mget_of_mem h.1 h.2 i

theorem winAddr_add (c : Core) (off i : Nat) : winAddr c (off + i) = winAddr c off + i := (Nat.add_assoc _ off i).symm

theorem writes_localPut {but : List Field} (s : State) (c : Core) (off : Nat) (b : Bytes) :
    Writes but s (localPut s c off b) := ⟨.of_eq rfl rfl, rfl⟩

/-- Bytes that have been put read back, run by run. -/
theorem mbytes_localPut (s : State) (c : Core) {off i n : Nat} {b : Bytes} (h : i + n ≤ b.length) :
    mbytes (localPut s c off b) (winAddr c (off + i)) n = (b.drop i).take n := by
  refine List.ext_getElem ?_ fun j hj hj' => ?_
  · simp only [mbytes, List.length_map, length_span, List.length_take, List.length_drop]
    omega
  · have hjn : j < n := by simpa [mbytes] using hj
    have hcell := mem_zip_span (winAddr c off) (rfl : b.length = b.length) (show i + j < b.length by omega)
    have hdistinct : ((cellsAt (winAddr c off) b).map (·.1)).Nodup := by
      rw [cellsAt, map_fst_zip_span rfl]
      exact nodup_span _ _
    simp only [mbytes, List.getElem_map, span_eq_range', List.getElem_range', List.getElem_take, List.getElem_drop,
      one_mul]
    rw [winAddr_add, Nat.add_assoc]
    exact mget_mput_mem s hdistinct hcell

theorem mget_localPut_other (s : State) (c : Core) {off a : Nat} {b : Bytes}
    (h : a < winAddr c off ∨ winAddr c off + b.length ≤ a) : mget (localPut s c off b) a = mget s a :=
  mget_mput_other s (zip_span_ne h)

/-- Of equal pieces laid end to end each lies at its place. -/
theorem drop_take_flatMap {α β : Type} {f : α → List β} {k : Nat} (hf : ∀ a, (f a).length = k) {ls : List α} {i : Nat}
    (h : i < ls.length) : ((ls.flatMap f).drop (k * i)).take k = f ls[i] := by
  induction ls generalizing i with
  | nil => simp at h
  | cons a ls ih =>
    cases i with
    | zero => simp [List.flatMap_cons, hf]
    | succ i =>
      have hpast : (f a).length ≤ k * (i + 1) := by rw [hf, Nat.mul_succ]; omega
      rw [List.flatMap_cons, List.drop_append, hf, List.drop_eq_nil_of_le hpast, List.nil_append, Nat.mul_succ,
        Nat.add_sub_cancel, ih (Nat.lt_of_succ_lt_succ h)]
      rfl

/-! ### VNOP, VLD and VST (05 R107) -/

theorem moves_vnop (h : Claims.atVector s c 0x00 w) : ∃ t, exec (.vnop c) s = .next t ∧ (t.core c).sm.done.vec = true ∧
    (t.core c).vregs = (s.core c).vregs ∧ Claims.regsKept s t Claims.issueFields ∧ Claims.memSame s t ∧
    Claims.coresKept s t c := by
  have hexec : exec (.vnop c) s = vecPart c 0x00 (fun _ s => s) s := rfl
  have hnote : Issues c s _ := issues_markDone .m fun d => { d with vec := true }
  exact ⟨_, hexec.trans (vecPart_made h _), markDone_noted (part := WordDone.vec) _ c fun _ => rfl, hnote.vregs, hnote.regs,
    hnote.mem, hnote.others⟩

/-- Where the block of a VLD or a VST begins in the larder (05 R107). -/
def vectorBlock (w : WordX) : Nat := larderOff + bits w.raw 96 10 * 2048

/-- The elements that a VLD reads. -/
def vldElements (s : State) (c : Core) (w : WordX) : List Nat :=
  laneRange.map fun l => leNat (localBytes s c (vectorBlock w + 8 * l) 8)

/-- A VLD reads its block, and sets the lanes of Vd. -/
def vldEffect (c : Core) (w : WordX) (s : State) : State :=
  let u := sramRead s c [(vectorBlock w, 2048)]
  u.setCore c ((u.core c).setVreg w.vd (vldElements u c w))

theorem exec_vld (c : Core) (s : State) : exec (.vld c) s = vecPart c 0x0F (vldEffect c) s := rfl

theorem moves_vld (h : Claims.atVector s c 0x0F w) : ∃ t, exec (.vld c) s = .next t ∧ (t.core c).sm.done.vec = true ∧
    (∀ l, l < 256 → (t.core c).lane w.vd l = leNat (mbytes s (winAddr c (vectorBlock w + 8 * l)) 8) % 2 ^ 64) ∧
    (∀ v l, v ≠ w.vd → l < 256 → (t.core c).lane v l = (s.core c).lane v l) ∧
    Claims.regsKept s t Claims.issueFields ∧ Claims.memSame s t ∧ Claims.coresKept s t c := by
  refine ⟨_, (exec_vld c s).trans (vecPart_made h _), markDone_noted (part := WordDone.vec) _ c fun _ => rfl, ?_⟩
  unfold vldEffect
  generalize hu : sramRead s c [(vectorBlock w, 2048)] = u
  have hread : Issues c s u := hu ▸ issues_sramRead _
  have hlen : (vldElements u c w).length = 256 := (List.length_map _).trans (length_span 0 256)
  have hnote : Issues c (u.setCore c ((u.core c).setVreg w.vd (vldElements u c w))) _ :=
    issues_markDone .m fun d => { d with vec := true }
  have hlane := hnote.lane
  rw [State.core_setCore_same] at hlane
  obtain ⟨hcores, hmem, hregs⟩ := hnote.frame_of_setCore
  refine ⟨fun l hl => ?_, fun v l hv hl => ?_, Claims.regsKept_trans hread.regs hregs, Claims.memSame_trans hread.mem hmem,
    fun d hd => (hcores d hd).trans (hread.others d hd)⟩
  · rw [hlane, CoreX.lane_setVreg_same _ _ (hlen ▸ hl)]
    simp only [vldElements, List.getElem_map, getElem_laneRange, localBytes, mbytes_of_mem hread.mem]
  · rw [hlane, CoreX.lane_setVreg_other _ hlen.le hv hl, hread.lane]

/-- The bytes that a VST puts. -/
def vstBytes (s : State) (c : Core) (w : WordX) : Bytes := ((s.core c).vreg w.va).flatMap (leBytes 8)

theorem length_vreg (x : CoreX) (v : Nat) : (x.vreg v).length = 256 := (List.length_map _).trans (length_span 0 256)

theorem getElem_vreg (x : CoreX) (v : Nat) {l : Nat} (h : l < (x.vreg v).length) : (x.vreg v)[l] = x.lane v l := by
  simp only [CoreX.vreg, List.getElem_map, getElem_laneRange]

theorem length_vstBytes (s : State) (c : Core) (w : WordX) : (vstBytes s c w).length = 2048 := by
  rw [vstBytes, List.length_flatMap, funext (length_leBytes 8), List.map_const', List.sum_replicate, length_vreg]
  rfl

theorem vstBytes_element (s : State) (c : Core) (w : WordX) {l : Nat} (hl : l < 256) :
    ((vstBytes s c w).drop (8 * l)).take 8 = leBytes 8 ((s.core c).lane w.va l) := by
  have hlen : l < ((s.core c).vreg w.va).length := (length_vreg _ _).symm ▸ hl
  rw [vstBytes, drop_take_flatMap (length_leBytes 8) hlen, getElem_vreg]

/-- A VST puts the lanes of Va at its block. -/
def vstEffect (c : Core) (w : WordX) (s : State) : State := localPut s c (vectorBlock w) (vstBytes s c w)

theorem exec_vst (c : Core) (s : State) : exec (.vst c) s = vecPart c 0x10 (vstEffect c) s := rfl

theorem mbytes_vstEffect (s : State) (c : Core) (w : WordX) {l : Nat} (hl : l < 256) :
    mbytes (vstEffect c w s) (winAddr c (vectorBlock w + 8 * l)) 8 = leBytes 8 ((s.core c).lane w.va l) := by
  rw [← vstBytes_element s c w hl]
  exact mbytes_localPut s c (by rw [length_vstBytes]; omega)

theorem moves_vst (h : Claims.atVector s c 0x10 w) : ∃ t, exec (.vst c) s = .next t ∧ (t.core c).sm.done.vec = true ∧
    (∀ l, l < 256 → mbytes t (winAddr c (vectorBlock w + 8 * l)) 8 = leBytes 8 ((s.core c).lane w.va l)) ∧
    (∀ a, (a < winAddr c (vectorBlock w) ∨ winAddr c (vectorBlock w) + 2048 ≤ a) → mget t a = mget s a) ∧
    Claims.regsKept s t Claims.issueFields ∧ (t.core c).vregs = (s.core c).vregs ∧ Claims.coresKept s t c := by
  have hput : Writes Claims.issueFields s (vstEffect c w s) := writes_localPut s c _ _
  have hnote : Issues c (vstEffect c w s) _ := issues_markDone .m fun d => { d with vec := true }
  have hall := hput.part.trans hnote.part
  refine ⟨_, (exec_vst c s).trans (vecPart_made h _), markDone_noted (part := WordDone.vec) _ c fun _ => rfl,
    fun l hl => ?_, fun a ha => ?_, hall.regs, hnote.vregs.trans (congrArg CoreX.vregs (hput.core c)), hall.others⟩
  · exact (mbytes_of_mem hnote.mem _ _).trans (mbytes_vstEffect s c w hl)
  · refine (mget_of_mem hnote.mem.1 hnote.mem.2 a).trans (mget_localPut_other s c ?_)
    rwa [length_vstBytes]

/-! ### VAMAX and VSCALE (04 R81 to R84) -/

theorem Claims.memSame_symm (h : Claims.memSame s t) : Claims.memSame t s := ⟨h.1.symm, h.2.symm⟩

theorem memSame_localPut (h : Claims.memSame s t) (c : Core) (off : Nat) (b : Bytes) :
    Claims.memSame (localPut s c off b) (localPut t c off b) := by
  refine ⟨?_, h.2⟩
  show tsetAll (memBase t.scrambled) t.mem _ = tsetAll (memBase s.scrambled) s.mem _
  rw [h.1, h.2]

theorem memSame_setStatusIf (h : Claims.memSame s t) (p p' : Option Part) (b b' : StepBit) (on on' : Bool) :
    Claims.memSame (setStatusIf s p b on) (setStatusIf t p' b' on') := by
  have hs := (reports_setStatusIf (s := s) (but := reportFields) p b on (by decide)).mem
  have ht := (reports_setStatusIf (s := t) (but := reportFields) p' b' on' (by decide)).mem
  exact Claims.memSame_trans (Claims.memSame_trans (Claims.memSame_symm hs) h) ht

theorem scaleReg_of_mem (h : Claims.memSame s t) (c : Core) (n : Nat) : scaleReg t c n = scaleReg s c n :=
  congrArg leNat (mbytes_of_mem h _ _)

/-- One scale register's turn writes memory, of which it makes what memory and the core's vector registers say, and may set a
bit of the step status. -/
structure ScaleTurn (c : Core) (f : State → Nat → State) : Prop where
  writes : ∀ s i, Writes Claims.issueFields s (f s i)
  mem : ∀ {s t} i, Claims.memSame s t → (t.core c).vregs = (s.core c).vregs → Claims.memSame (f s i) (f t i)

theorem scaleTurn_amaxLane (c : Core) (w : WordX) (base : Nat) : ScaleTurn c (amaxLane c w base) where
  writes s l := ((writes_localPut s c _ _).trans (writes_localPut _ c _ _)).trans
    (reports_setStatusIf _ _ _ (by decide)).writes
  mem {s t} l h hv := by
    have hlane : (t.core c).lane w.va l = (s.core c).lane w.va l := by rw [CoreX.lane, hv]; rfl
    unfold amaxLane
    rw [scaleReg_of_mem h, hlane]
    exact memSame_setStatusIf (memSame_localPut (memSame_localPut h c _ _) c _ _) _ _ _ _ _ _

theorem scaleTurn_scaleOne (c : Core) (w : WordX) (base : Nat) : ScaleTurn c (scaleOne c w base) where
  writes s i := ((writes_localPut s c _ _).trans (writes_localPut _ c _ _)).trans
    (reports_setStatusIf _ _ _ (by decide)).writes
  mem {s t} i h _ := by
    unfold scaleOne
    rw [scaleReg_of_mem h]
    exact memSame_setStatusIf (memSame_localPut (memSame_localPut h c _ _) c _ _) _ _ _ _ _ _

/-- The turns of a range of scale registers. -/
theorem ScaleTurn.range {f : State → Nat → State} (hf : ScaleTurn c f) (l : List Nat) (s : State) :
    Writes Claims.issueFields s (l.foldl f s) :=
  foldl_keeps Writes.refl Writes.trans hf.writes l s

/-- From states that agree in memory and in the core's vector registers the turns of a range leave the same memory. -/
theorem ScaleTurn.range_mem {f : State → Nat → State} (hf : ScaleTurn c f) (l : List Nat) (h : Claims.memSame s t)
    (hv : (t.core c).vregs = (s.core c).vregs) : Claims.memSame (l.foldl f s) (l.foldl f t) := by
  induction l generalizing s t with
  | nil => exact h
  | cons i l ih =>
    refine ih (hf.mem i h hv) ?_
    rw [(hf.writes s i).core c, (hf.writes t i).core c, hv]

/-- VAMAX and VSCALE read their range of scale registers, and then give each its turn. -/
def rangeEffect (f : WordX → Nat → State → Nat → State) (c : Core) (w : WordX) (s : State) : State :=
  let base := bits (w.p s c) 0 13
  (span 0 w.vcount).foldl (f w base) (sramRead s c [(scaleOff + 16 * base, 16 * w.vcount)])

theorem exec_vamax (c : Core) (s : State) : exec (.vamax c) s = vecPart c 0x0D (rangeEffect (amaxLane c) c) s := rfl

theorem exec_vscale (c : Core) (s : State) : exec (.vscale c) s = vecPart c 0x0E (rangeEffect (scaleOne c) c) s := rfl

theorem rangeEffect_eq (f : WordX → Nat → State → Nat → State) (c : Core) (w : WordX) (s : State) :
    ∃ u, Issues c s u ∧ rangeEffect f c w s = (span 0 w.vcount).foldl (f w (w.p s c % 2 ^ 13)) u := by
  have hbase : bits (w.p s c) 0 13 = w.p s c % 2 ^ 13 := by simp [bits]
  exact ⟨_, issues_sramRead _, by rw [rangeEffect, hbase]⟩

theorem moves_range {code : Nat} {f : WordX → Nat → State → Nat → State} (h : Claims.atVector s c code w)
    (hf : ∀ base, ScaleTurn c (f w base)) :
    ∃ t, vecPart c code (rangeEffect f c) s = .next t ∧ (t.core c).sm.done.vec = true ∧
      Claims.memSame ((span 0 w.vcount).foldl (f w (w.p s c % 2 ^ 13)) s) t ∧
      (t.core c).vregs = (s.core c).vregs ∧ Claims.regsKept s t Claims.issueFields ∧ Claims.coresKept s t c := by
  refine ⟨_, vecPart_made h _, markDone_noted (part := WordDone.vec) _ c fun _ => rfl, ?_⟩
  obtain ⟨u, hread, heq⟩ := rangeEffect_eq f c w s
  have hturns := (hf (w.p s c % 2 ^ 13)).range (span 0 w.vcount) u
  have hnote : Issues c (rangeEffect f c w s) _ := issues_markDone .m fun d => { d with vec := true }
  have hall := (hread.part.trans (heq ▸ hturns).part).trans hnote.part
  refine ⟨Claims.memSame_trans (heq ▸ (hf _).range_mem _ hread.mem hread.vregs) hnote.mem, ?_, hall.regs, hall.others⟩
  rw [hnote.vregs, heq, hturns.core c, hread.vregs]

/-! ### VCVT (04 R450) -/

theorem reads_agentWrite (s : State) (ag : MemAgent) (p : Option Part) (a : Nat) (b : Bytes) :
    Reads accessFields s (agentWrite s ag p a b) := by
  refine foldl_keeps (R := Reads accessFields) Reads.refl Reads.trans (fun s u => ?_) (cutRun b.length a b.length) s
  dsimp only
  split
  · exact (reports_dmaWrite _ _ _ _).reads
  · exact (reads_arrive _ _ _).trans (writes_unitWrite _ _ _).reads

theorem reads_cvtSource (s : State) (c : Core) (w : WordX) (e0 l : Nat) :
    Reads accessFields s (cvtSource s c w e0 l).1 := by
  unfold cvtSource
  dsimp only
  split
  · exact .refl s
  · split
    · exact .refl s
    · split
      · exact reads_memRead _ _ _ _ _
      · exact .refl s

theorem reads_cvtBlock (s : State) (c : Core) (f : Fmt) (src : ScaleSrc) (at' : Nat) (vs : List CVal) :
    Reads accessFields s (cvtBlock s c f src at' vs).1 := by
  unfold cvtBlock
  dsimp only
  split
  · exact reads_agentWrite _ _ _ _ _
  · dsimp only
    split
    · exact (reads_memRead _ _ _ _ _).trans (reads_agentWrite _ _ _ _ _)
    · exact reads_memRead _ _ _ _ _

/-- A conversion reads and writes memory, and then sets the lanes of Vd and flags of the step status. -/
def converts (s : State) (c : Core) (v : State) : Prop :=
  ∃ u x fl, v = setFlags (u.setCore c x) (partOfCore s c) fl ∧ Reads accessFields s u

theorem converts_cvtCopy (s : State) (c : Core) (w : WordX) (f : Fmt) : converts s c (cvtCopy c w f s) :=
  ⟨s, _, _, rfl, .refl s⟩

/-- The sources of a conversion, with the state that reading them leaves. -/
def cvtSources (s : State) (c : Core) (w : WordX) : State × List XVal :=
  laneRange.foldl (fun (a : State × List XVal) l =>
    let v := cvtSource a.1 c w (bits (w.p s c) 32 32) l
    (v.1, a.2 ++ [v.2])) (sramRead s c (cvtScales s c w), [])

theorem reads_cvtSources (s : State) (c : Core) (w : WordX) : Reads accessFields s (cvtSources s c w).1 := by
  refine (reads_sramRead c _).trans (Reads.foldl_fst (β := List XVal) (fun _ _ => ?_) laneRange (_, []))
  exact reads_cvtSource _ _ _ _ _

theorem converts_cvtOther (s : State) (c : Core) (w : WordX) : converts s c (cvtOther c w s) := by
  refine ⟨_, _, _, rfl, ?_⟩
  split
  · exact reads_cvtSources s c w
  · exact reads_cvtSources s c w
  · refine Reads.trans ?_ (Reads.foldl_fst (β := List Nat × Flags) (fun _ _ => ?_) _ _)
    · exact reads_cvtSources s c w
    · exact reads_cvtBlock _ _ _ _ _ _

theorem converts_cvtEffect (s : State) (c : Core) (w : WordX) : converts s c (cvtEffect c w s) := by
  unfold cvtEffect
  split
  · split
    · exact converts_cvtCopy s c w _
    · exact converts_cvtOther s c w
  · exact converts_cvtOther s c w

/-- A conversion changes of the other cores their tallies alone, which a read through their windows may raise. -/
theorem converts.others {v : State} (h : converts s c v) : Claims.coresButTally s v c := by
  obtain ⟨u, x, fl, rfl, hread⟩ := h
  intro d hd
  have hflags : Reports reportFields (u.setCore c x) (setFlags (u.setCore c x) (partOfCore s c) fl) :=
    reports_setFlags _ _ (by decide)
  rw [hflags.core d, State.core_setCore_other u x hd]
  exact hread.cores d

theorem exec_vcvt (h : Claims.atVector s c 0x0C w)
    (hstaged : stageHost (issueWord s c w) (partOfCore s c) .event (cvtNeeds s c w) = none) : exec (.vcvt c) s =
      .next (markDone (unstage (cvtEffect c w s) (cvtNeeds s c w)) c .m fun d => { d with vec := true }) := by
  obtain ⟨hw, hop, hi, hvec⟩ := h
  show execVcvt c s = _
  unfold execVcvt
  refine (atPart_made hw ?_).trans ?_
  · simp [CoreX.stream, hop, hi, hvec]
  · rw [hstaged]

theorem moves_vcvt (h : Claims.atVector s c 0x0C w)
    (hstaged : stageHost (issueWord s c w) (partOfCore s c) .event (cvtNeeds s c w) = none) :
    ∃ t, exec (.vcvt c) s = .next t ∧ (t.core c).sm.done.vec = true ∧
      (t.core c).vregs = ((cvtEffect c w s).core c).vregs ∧ Claims.memSame (cvtEffect c w s) t ∧
      Claims.regsKept (cvtEffect c w s) t Claims.issueFields ∧ Claims.coresButTally s t c := by
  have hnote : Issues c (cvtEffect c w s) _ := ((reports_unstage _ (cvtNeeds s c w)).issues c).trans
    (issues_markDone .m fun d => { d with vec := true })
  refine ⟨_, exec_vcvt h hstaged, markDone_noted (part := WordDone.vec) _ c fun _ => rfl, hnote.vregs, hnote.mem,
    hnote.regs, fun d hd => ?_⟩
  rw [hnote.others d hd]
  exact (converts_cvtEffect s c w).others d hd

theorem vectorMoves : Claims.VectorMoves := by
  intro s c w
  refine ⟨moves_vnop, moves_vld, moves_vst, moves_vcvt, fun h => ?_, fun h => ?_⟩
  · rw [exec_vamax]
    exact moves_range h (scaleTurn_amaxLane c w)
  · rw [exec_vscale]
    exact moves_range h (scaleTurn_scaleOne c w)

end Vector

/-- Settles O18: a vector part makes its effect, and noting it changes neither lanes nor bytes. -/
theorem vectorOperations : Obligations.VectorOperations := ⟨vectorArithmetic, vectorMoves⟩

end Sys2Proof.Machine
end

section
/-! What closing a word leaves alone, and where the stream goes on (05 R102, R110, R113). -/

namespace Sys2Proof.Machine

section Closing

variable {but but' : List Field} {s t u : State} {c : Core} {st : Stream} {w : WordX}

/-! ### What the close of a word keeps -/

/-- What the parts of a word's close on core `c` keep: registers but some, memory, every other core, the units outside. -/
structure Closes (c : Core) (but : List Field) (s t : State) : Prop where
  regs : Claims.regsKept s t but
  mem : Claims.memSame s t
  others : Claims.coresKept s t c
  outside : Claims.outsideKept s t

theorem Closes.trans (h : Closes c but s t) (h' : Closes c but t u) : Closes c but s u where
  regs := Claims.regsKept_trans h.regs h'.regs
  mem := Claims.memSame_trans h.mem h'.mem
  others d hd := (h'.others d hd).trans (h.others d hd)
  outside := Claims.outsideKept_trans h.outside h'.outside

theorem Closes.mono (hb : but ⊆ but') (h : Closes c but s t) : Closes c but' s t := { h with
  regs := Claims.regsKept_mono hb h.regs }

theorem Closes.refl (s : State) : Closes c but s s where
  regs _ _ _ := rfl
  mem := ⟨rfl, rfl⟩
  others _ _ := rfl
  outside := Claims.outsideKept_refl s

theorem Closes.ite {P : Prop} [Decidable P] (h : Closes c but s t) : Closes c but s (if P then t else s) := by
  split
  · exact h
  · exact .refl s

theorem Closes.memKept (h : Closes c but s t) : Claims.memKept s t := fun a => mget_of_mem h.mem.1 h.mem.2 a

theorem Reports.closes (h : Reports but s t) (ho : Claims.outsideKept s t) : Closes c but s t where
  regs := h.regs
  mem := h.mem
  others d _ := h.core d
  outside := ho

theorem Issues.closes (h : Issues c s t) (ho : Claims.outsideKept s t) : Closes c Claims.issueFields s t where
  regs := h.regs
  mem := h.mem
  others := h.others
  outside := ho

theorem closes_setCore (s : State) (c : Core) (x : CoreX) : Closes c but s (s.setCore c x) where
  regs _ _ _ := rfl
  mem := ⟨rfl, rfl⟩
  others _ hd := State.core_setCore_other s x hd
  outside := outsideKept_setCore s c x

theorem closes_fset (f : Field) (i v : Nat) (hf : f ∈ but) : Closes c but s (fset s f i v) where
  regs _ _ hg := fget_fset_other s v fun h => hg (h.1 ▸ hf)
  mem := ⟨rfl, rfl⟩
  others _ _ := rfl
  outside := outsideKept_fset s f i v

theorem closes_issueWord (s : State) (c : Core) (w : WordX) : Closes c Claims.issueFields s (issueWord s c w) :=
  (issues_issueWord w).closes (outsideKept_issueWord s c w)

theorem closes_signalFlag (s : State) (c : Core) (id : Nat) : Closes c [.errLostDropped] s (signalFlag s c id) := by
  unfold signalFlag
  split
  · next h =>
    obtain rfl := flagRef_loc h
    unfold flagAdd
    dsimp only
    split
    · exact (reports_record _ _ _ _ _ _ _ (by decide)).closes (outsideKept_record _ _ _ _ _ _ _ _)
    · exact closes_setCore _ _ _
  · exact Reports.closes (.of_eq rfl rfl rfl rfl rfl) ⟨rfl, rfl, rfl, rfl, rfl, rfl, rfl, rfl⟩
  · exact .refl s

theorem closes_countStopped (s : State) (c : Core) : Closes c but s (countStopped s c) := by
  refine (reports_countStopped c).closes ?_
  unfold countStopped
  split
  · exact Claims.outsideKept_refl s
  · split
    · exact Claims.outsideKept_refl s
    · exact ⟨rfl, rfl, rfl, rfl, rfl, rfl, rfl, rfl⟩

theorem closes_settle (s : State) (c : Core) : Closes c [.coreSeqStatusState] s (settle s c) := by
  have h : Closes c [.coreSeqStatusState] s (fset s .coreSeqStatusState c.val 2) := closes_fset _ _ _ (by decide)
  exact .ite (h.trans (.ite (closes_countStopped _ c)))

/-- On reaching a word a stream may begin to wait at a flag's unit; it notes the flag's value. -/
theorem reach_cases (s : State) (c : Core) (st : Stream) : reach s c st = s ∨
    ∃ l v, reach s c st = ({ s with waiters := l } : State).setCore c
      ((s.core c).setStream st { (s.core c).stream st with lastAnswer := v }) := by
  unfold reach
  dsimp only
  split
  · exact .inl rfl
  · split
    · exact .inl rfl
    · split
      · exact .inl rfl
      · split
        · exact .inl rfl
        · exact .inr ⟨_, _, rfl⟩
        · exact .inl rfl

theorem closes_reach (s : State) (c : Core) (st : Stream) : Closes c but s (reach s c st) := by
  rcases reach_cases s c st with h | ⟨l, v, h⟩ <;> rw [h]
  · exact .refl s
  · exact Closes.trans (t := { s with waiters := l })
      (Reports.closes (.of_eq rfl rfl rfl rfl rfl) ⟨rfl, rfl, rfl, rfl, rfl, rfl, rfl, rfl⟩) (closes_setCore _ _ _)

/-- Reaching a word changes of its stream the noted flag value alone. -/
theorem reach_stream (s : State) (c : Core) (st : Stream) : ∃ v,
    (reach s c st).core c = (s.core c).setStream st { (s.core c).stream st with lastAnswer := v } := by
  rcases reach_cases s c st with h | ⟨l, v, h⟩ <;> rw [h]
  · exact ⟨((s.core c).stream st).lastAnswer, by cases st <;> rfl⟩
  · exact ⟨v, State.core_setCore_same _ _ _⟩

theorem closes_advance (s : State) (c : Core) (st : Stream) (pc : Nat) (loops : List LoopX) :
    Closes c but s (advance s c st pc loops false) :=
  (closes_setCore s c _).trans (closes_reach _ c st)

theorem closes_halt (s : State) (c : Core) (st : Stream) (pc : Nat) (loops : List LoopX) :
    Closes c [.coreSeqStatusState] s (advance s c st pc loops true) :=
  (closes_setCore s c _).trans (closes_settle _ c)

/-! ### Where the stream goes on -/

/-- A stream that goes on reaches the word at its new place. -/
theorem advance_reaches (s : State) (c : Core) (st : Stream) (pc : Nat) (loops : List LoopX) :
    ∃ v : StreamX, v.pc = pc ∧ v.loops = loops ∧ v.done = {} ∧
      advance s c st pc loops false = reach (s.setCore c ((s.core c).setStream st v)) c st :=
  ⟨_, rfl, rfl, rfl, rfl⟩

theorem goesTo_advance (s : State) (c : Core) (st : Stream) (pc : Nat) (loops : List LoopX) :
    Claims.goesTo (advance s c st pc loops false) c st pc loops := by
  obtain ⟨x, hpc, hloops, hdone, hx⟩ := advance_reaches s c st pc loops
  obtain ⟨v, h⟩ := reach_stream (s.setCore c ((s.core c).setStream st x)) c st
  refine ⟨?_, ?_, ?_⟩ <;> rw [hx, h] <;> simp [hpc, hloops, hdone]

/-- A stream that halts stands at its word. -/
theorem advance_halts (s : State) (c : Core) (st : Stream) (pc : Nat) (loops : List LoopX) :
    (((advance s c st pc loops true).core c).stream st).run = .halted ∧
      (((advance s c st pc loops true).core c).stream st).pc = ((s.core c).stream st).pc := by
  unfold advance
  dsimp only
  simp only [if_true]
  rw [(reports_settle (but := [.coreSeqStatusState]) c (by decide)).core, State.core_setCore_same,
    CoreX.stream_setStream_same]
  exact ⟨rfl, rfl⟩

/-! ### The stream of a word that issues -/

/-- Of every stream of core `c` only the notes of its word change, and the half cycles of its hold. -/
def streamsStay (c : Core) (s t : State) : Prop :=
  ∀ st, ∃ d n, (t.core c).stream st = { (s.core c).stream st with done := d, halfCycles := n }

theorem streamsStay_of_core (h : ∀ st, (t.core c).stream st = (s.core c).stream st) : streamsStay c s t :=
  fun st => ⟨_, _, h st⟩

theorem streamsStay_trans (h : streamsStay c s t) (h' : streamsStay c t u) : streamsStay c s u := by
  intro st
  obtain ⟨d, n, hst⟩ := h st
  obtain ⟨d', n', hst'⟩ := h' st
  exact ⟨d', n', by rw [hst', hst]⟩

theorem Reads.streamsStay (h : Reads but s t) (c : Core) : streamsStay c s t :=
  streamsStay_of_core fun st => by rw [h.cores c]; cases st <;> rfl

theorem streamsStay_setCore {x : CoreX} (h : ∀ st, x.stream st = (s.core c).stream st) :
    streamsStay c s (s.setCore c x) := streamsStay_of_core fun st => by rw [State.core_setCore_same, h]

theorem streamsStay_markReady (s : State) (c : Core) (st : Stream) (f : WordDone → WordDone) :
    streamsStay c s (markReady s c st f) := by
  intro st'
  by_cases h : st' = st
  · subst h
    exact ⟨f ((s.core c).stream st').done, 0, by simp only [markReady, State.core_setCore_same, CoreX.stream_setStream_same]⟩
  · exact ⟨_, _, by simp only [markReady, State.core_setCore_same]; exact CoreX.stream_setStream_other _ _ h⟩

/-- A SIGNAL changes of its core the local flags alone. -/
theorem signalFlag_core (s : State) (c : Core) (id : Nat) :
    (signalFlag s c id).core c = { s.core c with flags := ((signalFlag s c id).core c).flags } := by
  unfold signalFlag
  split
  · next h =>
    obtain rfl := flagRef_loc h
    unfold flagAdd
    dsimp only
    split
    · rw [(reports_record (but := [.errLostDropped]) _ _ _ _ _ _ _ (by decide)).core]
    · simp only [flagPut, State.core_setCore_same, CoreX.setFlag]
  · rfl
  · rfl

theorem signalFlag_stream (s : State) (c : Core) (id : Nat) (st : Stream) :
    ((signalFlag s c id).core c).stream st = (s.core c).stream st := by
  rw [signalFlag_core]
  cases st <;> rfl

theorem streamsStay_signalFlag (s : State) (c : Core) (id : Nat) : streamsStay c s (signalFlag s c id) :=
  streamsStay_of_core (signalFlag_stream s c id)

theorem streamsStay_issueMarks (s : State) (c : Core) (w : WordX) : streamsStay c s (issueMarks s c w) := by
  have hv : streamsStay c s (setStatusIf s (partOfCore s c) .vary w.vary) :=
    (reports_setStatusIf (but := [.updStatusStatus]) _ _ _ (by decide)).reads.streamsStay c
  unfold issueMarks
  dsimp only
  split
  · exact hv
  · refine streamsStay_trans hv ?_
    split
    · exact streamsStay_setCore fun st => by cases st <;> rfl
    · exact streamsStay_setCore fun st => by cases st <;> rfl

theorem streamsStay_issueWord (s : State) (c : Core) (w : WordX) : streamsStay c s (issueWord s c w) := by
  have h := fun runs f => streamsStay_trans (streamsStay_trans (streamsStay_issueMarks s c w)
    ((reads_sramRead c runs).streamsStay c)) (streamsStay_markReady _ c w.st f)
  unfold issueWord
  split
  · exact streamsStay_of_core fun _ => rfl
  · dsimp only
    split
    · exact streamsStay_trans (h _ _) (streamsStay_signalFlag _ _ _)
    · exact h _ _

theorem streamsStay_pc (h : streamsStay c s t) (st : Stream) : ((t.core c).stream st).pc = ((s.core c).stream st).pc := by
  obtain ⟨d, n, hst⟩ := h st
  rw [hst]

/-- A word that issues has begun. -/
theorem issueWord_begun (s : State) (c : Core) (w : WordX) :
    (((issueWord s c w).core c).stream w.st).done.begun = true := by
  unfold issueWord
  split
  · next h => exact h
  · dsimp only
    split
    · rw [signalFlag_stream, markReady, State.core_setCore_same, CoreX.stream_setStream_same]
      rfl
    · rw [markReady, State.core_setCore_same, CoreX.stream_setStream_same]
      rfl

/-! ### The SIGNAL of a word (05 R120, R121) -/

/-- From `s` to `t` a word of core `c` has made its SIGNAL to the flag `id`, if it is one with SIGNAL: 1 more in a local flag
that is not full, and for another flag a signal on its way. -/
def Signals (c : Core) (on : Bool) (id : Nat) (s t : State) : Prop :=
  (on = false → t.signals = s.signals ∧ (t.core c).flags = (s.core c).flags) ∧
    (∀ i, on = true → flagRef c id = some (.loc c i) →
      t.signals = s.signals ∧ (t.core c).flag i = if (s.core c).flag i = 0xFFFF then 0xFFFF else (s.core c).flag i + 1) ∧
    (∀ f, on = true → flagRef c id = some f → (∀ d i, f ≠ .loc d i) → t.signals = s.signals ++ [f])

theorem CoreX.flag_setFlag_same (x : CoreX) (i v : Nat) : (x.setFlag i v).flag i = v := tget_tset_same _ _ _ _

theorem signalFlag_local {id i : Nat} (h : flagRef c id = some (.loc c i)) : (signalFlag s c id).signals = s.signals ∧
    ((signalFlag s c id).core c).flag i = if (s.core c).flag i = 0xFFFF then 0xFFFF else (s.core c).flag i + 1 := by
  unfold signalFlag
  rw [h]
  show (flagAdd s (.loc c i)).signals = _ ∧ ((flagAdd s (.loc c i)).core c).flag i = _
  unfold flagAdd
  dsimp only [flagGet]
  split
  · next hfull =>
    rw [(reports_record (but := [.errLostDropped]) _ _ _ _ _ _ _ (by decide)).core]
    rcases record_cases s .core .info (flagUnit s (.loc c i)).1 (flagUnit s (.loc c i)).2 .none 0
      (.names 120 (flagName (.loc c i))) with ⟨-, r, hr⟩ | ⟨-, hr⟩ <;> rw [hr] <;> exact ⟨rfl, hfull⟩
  · exact ⟨rfl, by rw [flagPut, State.core_setCore_same, CoreX.flag_setFlag_same]⟩

theorem signals_signalFlag (s : State) (c : Core) (on : Bool) (id : Nat) :
    Signals c on id s (if on then signalFlag s c id else s) := by
  refine ⟨fun h => by rw [h]; exact ⟨rfl, rfl⟩, fun i h hf => by rw [if_pos h]; exact signalFlag_local hf, ?_⟩
  intro f h hf hloc
  rw [if_pos h]
  unfold signalFlag
  rw [hf]
  cases f with
  | loc d i => exact absurd rfl (hloc d i)
  | die _ _ => rfl
  | dev _ => rfl

/-- What happens before and after a SIGNAL, in no flag of the core and no signal on its way. -/
theorem Signals.congr {s' t' : State} {on : Bool} {id : Nat} (h : Signals c on id s t) (hs : s.signals = s'.signals)
    (hsf : (s.core c).flags = (s'.core c).flags) (ht : t'.signals = t.signals) (htf : (t'.core c).flags = (t.core c).flags) :
    Signals c on id s' t' := by
  have hflag (i : Nat) : (s.core c).flag i = (s'.core c).flag i := by unfold CoreX.flag; rw [hsf]
  have hflag' (i : Nat) : (t'.core c).flag i = (t.core c).flag i := by unfold CoreX.flag; rw [htf]
  unfold Signals at h ⊢
  simpa only [ht, htf, hflag', ← hs, ← hsf, ← hflag] using h

theorem CoreX.setStream_setStream (x : CoreX) (st : Stream) (v v' : StreamX) :
    (x.setStream st v).setStream st v' = x.setStream st v' := by cases st <;> rfl

theorem advance_core (s : State) (c : Core) (st : Stream) (pc : Nat) (loops : List LoopX) :
    ∃ v, (advance s c st pc loops false).core c = (s.core c).setStream st v := by
  obtain ⟨x, -, -, -, hx⟩ := advance_reaches s c st pc loops
  obtain ⟨v, h⟩ := reach_stream (s.setCore c ((s.core c).setStream st x)) c st
  exact ⟨_, by rw [hx, h, State.core_setCore_same, CoreX.setStream_setStream]⟩

theorem advance_signals (s : State) (c : Core) (st : Stream) (pc : Nat) (loops : List LoopX) :
    (advance s c st pc loops false).signals = s.signals := by
  obtain ⟨x, -, -, -, hx⟩ := advance_reaches s c st pc loops
  rw [hx]
  rcases reach_cases (s.setCore c ((s.core c).setStream st x)) c st with h | ⟨l, v, h⟩ <;> rw [h] <;> rfl

/-! ### The close of a word -/

/-- Closing a word is moving its stream on from a state that differs, from that after the word's own writes, in a flag, a signal
and the seal alone. -/
theorem closeWord_advances (s : State) (c : Core) (w : WordX) (now : Bool) (own : State → State) (pc : Nat)
    (loops : List LoopX) (halt : Bool) : ∃ u, closeWord s c w now own pc loops halt = advance u c w.st pc loops halt ∧
      Closes c [.errLostDropped] (own (issueWord s c w)) u ∧ streamsStay c (own (issueWord s c w)) u := by
  have hsignal (s' : State) : Closes c [.errLostDropped] s' (if w.signal && now && w.op != 7 then signalFlag s' c w.sflag else s') ∧
      streamsStay c s' (if w.signal && now && w.op != 7 then signalFlag s' c w.sflag else s') := by
    split
    · exact ⟨closes_signalFlag s' c _, streamsStay_signalFlag s' c _⟩
    · exact ⟨.refl s', streamsStay_of_core fun _ => rfl⟩
  have hseal (s' : State) : Closes c [.errLostDropped] s' (if w.seal then s'.setCore c { s'.core c with sealPhase := .due } else s') ∧
      streamsStay c s' (if w.seal then s'.setCore c { s'.core c with sealPhase := .due } else s') := by
    split
    · exact ⟨closes_setCore s' c _, streamsStay_setCore fun st => by cases st <;> rfl⟩
    · exact ⟨.refl s', streamsStay_of_core fun _ => rfl⟩
  exact ⟨_, rfl, (hsignal _).1.trans (hseal _).1, streamsStay_trans (hsignal _).2 (hseal _).2⟩

/-- After a word's own writes its close changes no register but the tally of dropped records. -/
theorem closes_after_own (s : State) (c : Core) (w : WordX) (now : Bool) (own : State → State) (pc : Nat)
    (loops : List LoopX) : Closes c [.errLostDropped] (own (issueWord s c w)) (closeWord s c w now own pc loops false) := by
  obtain ⟨u, h, hu, -⟩ := closeWord_advances s c w now own pc loops false
  exact h ▸ hu.trans (closes_advance u c w.st pc loops)

theorem goesTo_closeWord (s : State) (c : Core) (w : WordX) (now : Bool) (own : State → State) (pc : Nat)
    (loops : List LoopX) : Claims.goesTo (closeWord s c w now own pc loops false) c w.st pc loops :=
  goesTo_advance _ c w.st pc loops

theorem closes_closeWord (s : State) (c : Core) (w : WordX) (now : Bool) {f : State → State} (pc : Nat)
    (loops : List LoopX) (hf : ∀ u, Closes c but u (f u)) :
    Closes c (Claims.wordFields but) s (closeWord s c w now f pc loops false) := by
  refine (((closes_issueWord s c w).mono ?_).trans ((hf _).mono ?_)).trans ((closes_after_own s c w now f pc loops).mono ?_)
  · exact List.subset_append_left _ _
  · exact List.subset_append_right _ _
  · simp [Claims.wordFields, Claims.issueFields]

/-- HALT closes its word and leaves its stream halted there. -/
theorem closeWord_halts (s : State) (c : Core) (w : WordX) (now : Bool) (pc : Nat) (loops : List LoopX) :
    let t := closeWord s c w now id pc loops true
    ((t.core c).stream w.st).run = .halted ∧ ((t.core c).stream w.st).pc = ((s.core c).stream w.st).pc ∧
      Closes c (Claims.wordFields [.coreSeqStatusState]) s t := by
  obtain ⟨u, h, hu, hstay⟩ := closeWord_advances s c w now id pc loops true
  obtain ⟨hrun, hpc⟩ := advance_halts u c w.st pc loops
  dsimp only
  rw [h]
  refine ⟨hrun, hpc.trans (streamsStay_pc (streamsStay_trans (streamsStay_issueWord s c w) hstay) w.st), ?_⟩
  exact (((closes_issueWord s c w).mono (by decide)).trans (hu.mono (by decide))).trans
    ((closes_halt u c w.st pc loops).mono (by decide))

theorem Closes.wordFrame {own : List Field} (h : Closes c (Claims.wordFields own) s t) : Claims.wordFrame s t c own :=
  ⟨h.regs, h.memKept, h.others, h.outside⟩

/-! ### Being at a word -/

/-- The word at hand is the one fetched at the stream's place. -/
theorem atWord_fetch {slots : Bool} (h : atWord s c st slots = .word w) :
    fetchWord s c st ((s.core c).stream st).pc = some w := by
  unfold atWord at h
  grind

theorem fetchWord_st {pc : Nat} (h : fetchWord s c st pc = some w) : w.st = st := by
  unfold fetchWord at h
  dsimp only at h
  split at h
  · cases h
  · split at h <;> cases h <;> rfl

theorem atWord_st {slots : Bool} (h : atWord s c st slots = .word w) : w.st = st := fetchWord_st (atWord_fetch h)

/-- A sequencer operation whose word stands ready is made. -/
theorem seqOp_made {op : Nat} {effect : WordX → StreamX → State} (h : Claims.atOp s c st op w) :
    seqOp s c st op effect = .next (effect w ((s.core c).stream st)) := by
  obtain ⟨hw, hop, hparts, hclaimed, hbounds⟩ := h
  exact atPart_made hw (by simp [hop, hparts, hclaimed, hbounds])

theorem Claims.atOp_st {op : Nat} (h : Claims.atOp s c st op w) : w.st = st := atWord_st h.1

end Closing
end Sys2Proof.Machine
end

section
/-! What neither the issue of a word nor an access to memory touches: the queues of the work counters, the partitions, the calls. -/

namespace Sys2Proof.Machine

variable {s t u : State} {c : Core}

structure Aside (s t : State) : Prop where
  ctrs : t.ctrQueue = s.ctrQueue
  parts : t.parts = s.parts
  calls : t.hub.calls = s.hub.calls

theorem Aside.refl (s : State) : Aside s s := ⟨rfl, rfl, rfl⟩

theorem Aside.trans (h : Aside s t) (h' : Aside t u) : Aside s u :=
  ⟨h'.ctrs.trans h.ctrs, h'.parts.trans h.parts, h'.calls.trans h.calls⟩

theorem Aside.ite {P : Prop} [Decidable P] (h : Aside s t) : Aside s (if P then t else s) := by
  split
  · exact h
  · exact .refl s

theorem aside_fset (s : State) (f : Field) (i v : Nat) : Aside s (fset s f i v) := ⟨rfl, rfl, rfl⟩

theorem aside_setCore (s : State) (c : Core) (x : CoreX) : Aside s (s.setCore c x) := ⟨rfl, rfl, rfl⟩

theorem aside_record (s : State) (cls : Cls) (sev : Sev) (p : Option Part) (x : UnitRef) (op : OpRef) (code : Nat)
    (synd : Synd) : Aside s (record s cls sev p x op code synd) := by
  rcases record_cases s cls sev p x op code synd with ⟨-, r, h⟩ | ⟨-, h⟩ <;> rw [h]
  · exact ⟨rfl, rfl, rfl⟩
  · exact aside_fset s _ _ _

theorem aside_setStatus (s : State) (p : Option Part) (b : StepBit) : Aside s (setStatus s p b) := by
  cases p with
  | none => exact .refl s
  | some p => exact aside_fset s _ _ _

theorem aside_memFault (s : State) (a : Nat) (ag : MemAgent) (p : Option Part) (x : UnitRef) (l : List Nat) :
    Aside s (memFault s a ag p x l) := (aside_record s _ _ _ _ _ _ _).trans (aside_setStatus _ _ _)

theorem aside_sramRead (s : State) (c : Core) (runs : List (Nat × Nat)) : Aside s (sramRead s c runs) := by
  have faults := fun (l : List (Nat × Nat)) (t : State) => foldl_keeps (R := Aside)
    (f := fun t e => memFault t (4 * e.1) (.core c) (partOfCore t c) (.core c) []) .refl .trans
    (fun t _ => aside_memFault t _ _ _ _ _) l t
  refine Aside.trans ?_ (faults _ _)
  split
  · exact .refl s
  · exact aside_setCore s c _

/-! ### The issue of a word -/

theorem aside_signalFlag (s : State) (c : Core) (id : Nat) : Aside s (signalFlag s c id) := by
  unfold signalFlag
  split
  · unfold flagAdd
    dsimp only
    split
    · exact aside_record s _ _ _ _ _ _ _
    · exact aside_setCore s _ _
  · exact ⟨rfl, rfl, rfl⟩
  · exact .refl s

theorem aside_issueMarks (s : State) (c : Core) (w : WordX) : Aside s (issueMarks s c w) := by
  have hv : Aside s (setStatusIf s (partOfCore s c) .vary w.vary) := .ite (aside_setStatus s _ _)
  unfold issueMarks
  dsimp only
  split
  · exact hv
  · refine hv.trans ?_
    split
    · exact aside_setCore _ _ _
    · exact (aside_setCore _ _ _).trans (aside_fset _ _ _ _)

theorem aside_issueWord (s : State) (c : Core) (w : WordX) : Aside s (issueWord s c w) := by
  have h := fun runs f => ((aside_issueMarks s c w).trans (aside_sramRead _ c runs)).trans
    (aside_setCore _ c (((sramRead (issueMarks s c w) c runs).core c).setStream w.st f))
  unfold issueWord
  split
  · exact .refl s
  · dsimp only
    split
    · exact (h _ _).trans (aside_signalFlag _ _ _)
    · exact h _ _

end Sys2Proof.Machine
end

section
/-! O8: the operations of the sequencer, where each leads and what it writes (05 R102, R103, R113, R115). -/

namespace Sys2Proof.Machine

section Sequencer

variable {s : State} {c : Core} {st : Stream} {w : WordX}

/-! ### The fields of a word -/

theorem bits_lt (v lo n : Nat) : bits v lo n < 2 ^ n := Nat.mod_lt _ (Nat.two_pow_pos n)

theorem WordX.imm_lt (w : WordX) : w.imm < 2 ^ 16 := bits_lt _ _ _

theorem WordX.psel_lt (w : WordX) : w.psel < 256 := bits_lt _ _ 8

/-! ### Numbers (05 R102, R103) -/

/-- A number and the two's complement of 16 bits, modulo 2^64. -/
theorem wrap_add_sext (p : Nat) {imm : Nat} (h : imm < 2 ^ 16) :
    wrap 64 ((p : Int) + sext 16 imm) = (p + Claims.imm64 imm) % 2 ^ 64 := by
  simp only [wrap, sext, bit, bits, Claims.imm64, Nat.shiftRight_eq_div_pow, beq_iff_eq]
  split <;> split <;> omega

theorem imm64_lt {imm : Nat} (h : imm < 2 ^ 16) : Claims.imm64 imm < 2 ^ 64 := by
  unfold Claims.imm64
  split <;> omega

theorem setpValue_zero (imm old : Nat) (h : imm < 2 ^ 16) : setpValue 0 imm old = Claims.imm64 imm := by
  have hsum := wrap_add_sext 0 h
  rw [Nat.zero_add, Nat.mod_eq_of_lt (imm64_lt h)] at hsum
  simpa [setpValue] using hsum

theorem setpValue_pos {cond : Nat} (h : cond ≠ 0) (imm old : Nat) :
    setpValue cond imm old = putBits old (16 * cond) 16 imm := by
  unfold setpValue
  split
  · exact absurd rfl h
  · rfl

theorem branchTaken_iff (cond p : Nat) : branchTaken cond p = true ↔ Claims.branches cond p := by
  unfold branchTaken Claims.branches
  split
  · simp
  · simp
  · simp
  · simp
  · next h0 h1 h2 h3 =>
    have hcond : 4 ≤ cond := by
      rcases cond with _ | _ | _ | _ | n <;> simp_all
    have h0 : cond ≠ 0 := by omega
    have h1 : cond ≠ 1 := by omega
    have h2 : cond ≠ 2 := by omega
    have h3 : cond ≠ 3 := by omega
    simp [bits, hcond, h0, h1, h2, h3]

theorem loopCount_eq (s : State) (c : Core) (w : WordX) (loops : List LoopX) :
    loopCount s c w loops = Claims.loopIterations s c w := by
  unfold loopCount Claims.loopIterations
  split
  · next h => rw [if_pos h]
  · next h => rw [h]; rfl
  · next h0 h1 => rw [if_neg h0, if_neg h1]

/-! ### Continuing -/

/-- A word that closes without writes of its own leaves what closing leaves, and its stream goes on at `pc`. -/
theorem closeWord_continues (s : State) (c : Core) (h : w.st = st) (pc : Nat) (loops : List LoopX) :
    let t := closeWord s c w (signalsNow w) id pc loops false
    Claims.goesTo t c st pc loops ∧ Claims.wordFrame s t c [] :=
  ⟨h ▸ goesTo_closeWord s c w _ id pc loops, (closes_closeWord s c w _ pc loops fun u => .refl u).wordFrame⟩

theorem exec_next (h : Claims.atOp s c .m 0 w) : ∃ t, exec (.next c) s = .next t ∧
    Claims.goesTo t c .m ((s.core c).sm.pc + 1) (s.core c).sm.loops ∧ Claims.wordFrame s t c [] :=
  ⟨_, show doNext s c .m = _ from seqOp_made h, closeWord_continues s c (Claims.atOp_st h) _ _⟩

theorem exec_snop (hm : st ≠ .m) (h : Claims.atOp s c st 0 w) : ∃ t, exec (.snop c st) s = .next t ∧
    Claims.goesTo t c st (((s.core c).stream st).pc + 1) ((s.core c).stream st).loops ∧ Claims.wordFrame s t c [] :=
  ⟨_, show execSnop c st s = _ from (if_neg hm).trans (seqOp_made h), closeWord_continues s c (Claims.atOp_st h) _ _⟩

theorem exec_loop (h : Claims.atOp s c st 1 w) : ∃ t, exec (.loop c st) s = .next t ∧ Claims.wordFrame s t c [] ∧
    let x := (s.core c).stream st
    let n := Claims.loopIterations s c w
    if n = 0 then Claims.goesTo t c st (w.imm + 1) x.loops
    else Claims.goesTo t c st (x.pc + 1) (⟨x.pc + 1, w.imm, n⟩ :: x.loops) := by
  obtain ⟨hgoes, hframe⟩ := closeWord_continues s c (Claims.atOp_st h)
    (openLoop ((s.core c).stream st) w.imm (Claims.loopIterations s c w)).1
    (openLoop ((s.core c).stream st) w.imm (Claims.loopIterations s c w)).2
  refine ⟨_, ?_, hframe, ?_⟩
  · show execLoop c st s = _
    exact (seqOp_made h).trans (by rw [loopCount_eq])
  · unfold openLoop at hgoes ⊢
    dsimp only
    split
    · next hn => simpa only [if_pos hn] using hgoes
    · next hn => simpa only [if_neg hn] using hgoes

theorem exec_endl {l : LoopX} {r : List LoopX} (hl : ((s.core c).stream st).loops = l :: r)
    (h : Claims.atOp s c st 2 w) : ∃ t, exec (.endl c st) s = .next t ∧ Claims.wordFrame s t c [] ∧
      if 1 < l.remain then Claims.goesTo t c st l.first (⟨l.first, l.last, l.remain - 1⟩ :: r)
      else Claims.goesTo t c st (((s.core c).stream st).pc + 1) r := by
  obtain ⟨hgoes, hframe⟩ := closeWord_continues s c (Claims.atOp_st h)
    (endLoop ((s.core c).stream st)).1 (endLoop ((s.core c).stream st)).2
  refine ⟨_, show execEndl c st s = _ from seqOp_made h, hframe, ?_⟩
  unfold endLoop at hgoes ⊢
  rw [hl] at hgoes ⊢
  split
  · next hn => simpa only [if_pos hn] using hgoes
  · next hn => simpa only [if_neg hn] using hgoes

theorem exec_br_taken (hb : Claims.branches w.cond (w.p s c)) (h : Claims.atOp s c st 3 w) :
    ∃ t, exec (.br c st) s = .next t ∧ Claims.goesTo t c st w.imm
      (((s.core c).stream st).loops.filter fun l => decide (l.first ≤ w.imm) && decide (w.imm ≤ l.last)) ∧
      Claims.wordFrame s t c [] := by
  obtain ⟨hgoes, hframe⟩ := closeWord_continues s c (Claims.atOp_st h) w.imm (loopsAfterBranch ((s.core c).stream st).loops w.imm)
  refine ⟨_, ?_, ?_, hframe⟩
  · show execBr c st s = _
    exact (seqOp_made h).trans (by rw [if_pos ((branchTaken_iff _ _).mpr hb)])
  · simpa only [loopsAfterBranch, Bool.decide_and] using hgoes

theorem exec_br_untaken (hb : ¬Claims.branches w.cond (w.p s c)) (h : Claims.atOp s c st 3 w) :
    ∃ t, exec (.br c st) s = .next t ∧
      Claims.goesTo t c st (((s.core c).stream st).pc + 1) ((s.core c).stream st).loops ∧ Claims.wordFrame s t c [] := by
  refine ⟨_, ?_, closeWord_continues s c (Claims.atOp_st h) _ _⟩
  show execBr c st s = _
  exact (seqOp_made h).trans (by rw [if_neg fun ht => hb ((branchTaken_iff _ _).mp ht)])

theorem sequencerContinues : Claims.SequencerContinues := fun _ _ _ _ =>
  ⟨exec_next, exec_snop, exec_loop, fun _ _ => exec_endl, exec_br_taken, exec_br_untaken⟩

/-! ### Writing -/

/-- A word that closes with the write of one register: the register holds what was written, and no other index of its field
changes. -/
theorem closeWord_writes (s : State) (c : Core) (w : WordX) (now : Bool) {f : Field} (hf : f ∉ Claims.issueFields)
    (i v pc : Nat) (loops : List LoopX) :
    let t := closeWord s c w now (fun t => fset t f i v) pc loops false
    fget t f i = v % 2 ^ f.spec.width ∧ (∀ j, j ≠ i → fget t f j = fget s f j) ∧ Claims.wordFrame s t c [f] := by
  have hclose := closes_after_own s c w now (fun t => fset t f i v) pc loops
  have hdropped : f ∉ [Field.errLostDropped] := fun hm => hf (by simp_all [Claims.issueFields])
  refine ⟨?_, fun j hj => ?_, ?_⟩
  · rw [hclose.regs f i hdropped, fget_fset_same]
  · rw [hclose.regs f j hdropped, fget_fset_other _ _ fun e => hj e.2, (closes_issueWord s c w).regs f j hf]
  · exact (closes_closeWord s c w now pc loops fun u => closes_fset f i v (List.mem_singleton_self f)).wordFrame

/-- Parameters of other cores and other numbers stand at other places. -/
theorem paramIndex_ne {d : Core} {n m : Nat} (hn : n < 256) (hm : m < 256) (h : (d, n) ≠ (c, m)) :
    d.val * 256 + n ≠ c.val * 256 + m := by
  intro he
  exact h (Prod.ext (Fin.ext (by dsimp only; omega)) (by dsimp only; omega))

/-- A word that closes with a write of P[PSEL] and goes on at the next word. -/
theorem closeWord_writesParam (s : State) (c : Core) (w : WordX) (v : Nat) (h : w.st = st) :
    let x := (s.core c).stream st
    let t := closeWord s c w (signalsNow w) (fun t => pset t c w.psel v) (x.pc + 1) x.loops false
    pget t c w.psel = v % 2 ^ 64 ∧ (∀ d n, n < 256 → (d, n) ≠ (c, w.psel) → pget t d n = pget s d n) ∧
      Claims.goesTo t c st (x.pc + 1) x.loops ∧ Claims.wordFrame s t c [.coreParamValue] := by
  subst h
  obtain ⟨hv, hkept, hframe⟩ := closeWord_writes s c w (signalsNow w) (f := .coreParamValue) (by decide)
    (c.val * 256 + w.psel) v (((s.core c).stream w.st).pc + 1) ((s.core c).stream w.st).loops
  exact ⟨hv, fun d n hn hne => hkept _ (paramIndex_ne hn w.psel_lt hne), goesTo_closeWord s c w _ _ _ _, hframe⟩

theorem exec_setp (h : Claims.atOp s c st 4 w) : ∃ t, exec (.setp c st) s = .next t ∧
    pget t c w.psel = (if w.cond = 0 then Claims.imm64 w.imm else putBits (w.p s c) (16 * w.cond) 16 w.imm % 2 ^ 64) ∧
    (∀ d n, n < 256 → (d, n) ≠ (c, w.psel) → pget t d n = pget s d n) ∧
    Claims.goesTo t c st (((s.core c).stream st).pc + 1) ((s.core c).stream st).loops ∧
    Claims.wordFrame s t c [.coreParamValue] := by
  obtain ⟨hv, hrest⟩ := closeWord_writesParam s c w (setpValue w.cond w.imm (w.p s c)) (Claims.atOp_st h)
  refine ⟨_, show execSetp c st s = _ from seqOp_made h, hv.trans ?_, hrest⟩
  split
  · next h0 => rw [h0, setpValue_zero _ _ w.imm_lt, Nat.mod_eq_of_lt (imm64_lt w.imm_lt)]
  · next h0 => rw [setpValue_pos h0]

theorem exec_addp (h : Claims.atOp s c st 5 w) : ∃ t, exec (.addp c st) s = .next t ∧
    pget t c w.psel = (w.p s c + Claims.imm64 w.imm) % 2 ^ 64 ∧
    (∀ d n, n < 256 → (d, n) ≠ (c, w.psel) → pget t d n = pget s d n) ∧
    Claims.goesTo t c st (((s.core c).stream st).pc + 1) ((s.core c).stream st).loops ∧
    Claims.wordFrame s t c [.coreParamValue] := by
  obtain ⟨hv, hrest⟩ := closeWord_writesParam s c w (wrap 64 ((w.p s c : Int) + sext 16 w.imm)) (Claims.atOp_st h)
  refine ⟨_, show execAddp c st s = _ from seqOp_made h, hv.trans ?_, hrest⟩
  rw [wrap_add_sext _ w.imm_lt, Nat.mod_mod]

theorem exec_setlc (h : Claims.atOp s c .m 8 w) : ∃ t, exec (.setlc c) s = .next t ∧
    fget t .coreLcCount (c.val * 8 + w.cond) = w.imm ∧
    (∀ i, i ≠ c.val * 8 + w.cond → fget t .coreLcCount i = fget s .coreLcCount i) ∧
    Claims.goesTo t c .m ((s.core c).sm.pc + 1) (s.core c).sm.loops ∧ Claims.wordFrame s t c [.coreLcCount] := by
  obtain ⟨hv, hkept, hframe⟩ := closeWord_writes s c w (signalsNow w) (f := .coreLcCount) (by decide)
    (c.val * 8 + w.cond) w.imm ((s.core c).sm.pc + 1) (s.core c).sm.loops
  have hlt : w.imm < 2 ^ Field.coreLcCount.spec.width := w.imm_lt.trans (by decide)
  have hgoes := goesTo_closeWord s c w (signalsNow w) (fun t => fset t .coreLcCount (c.val * 8 + w.cond) w.imm)
    ((s.core c).sm.pc + 1) (s.core c).sm.loops
  rw [Claims.atOp_st h] at hgoes
  exact ⟨_, show execSetlc c s = _ from seqOp_made h, hv.trans (Nat.mod_eq_of_lt hlt), hkept, hgoes, hframe⟩

theorem exec_halt (h : Claims.atOp s c st 7 w) : ∃ t, exec (.halt c st) s = .next t ∧
    ((t.core c).stream st).run = .halted ∧ ((t.core c).stream st).pc = ((s.core c).stream st).pc ∧
    Claims.wordFrame s t c [.coreSeqStatusState] := by
  obtain rfl := Claims.atOp_st h
  obtain ⟨hrun, hpc, hclose⟩ := closeWord_halts s c w true ((s.core c).stream w.st).pc ((s.core c).stream w.st).loops
  exact ⟨_, show execHalt c w.st s = _ from seqOp_made h, hrun, hpc, hclose.wordFrame⟩

theorem sequencerWrites : Claims.SequencerWrites := fun _ _ _ _ => ⟨exec_setp, exec_addp, exec_setlc, exec_halt⟩

end Sequencer

/-- Settles O8: every operation of the sequencer closes its word, and closing a word moves its stream on and touches nothing that
the operation does not name. -/
theorem sequencerWords : Obligations.SequencerWords := ⟨sequencerContinues, sequencerWrites⟩

end Sys2Proof.Machine
end

section
/-! O9: the claims of a work counter, served one at a time in order of arrival, and their answers (05 R102, R117; 06 R149 to
R151). -/

namespace Sys2Proof.Machine

section Counters

variable {s t u : State} {c : Core} {st : Stream} {w : WordX} {k : Ctr}

/-! ### Sending a claim -/

theorem markDone_of_fetch (h : fetchWord s c st ((s.core c).stream st).pc = some w) (f : WordDone → WordDone) :
    markDone s c st f = markReady (issueWord s c w) c st f := by
  unfold markDone
  rw [h]

/-- The notes of a word that has issued, with what a part of it adds. -/
theorem markReady_done (s : State) (c : Core) (st : Stream) (f : WordDone → WordDone) :
    (((markReady s c st f).core c).stream st).done = f ((s.core c).stream st).done := by
  rw [markReady, State.core_setCore_same, CoreX.stream_setStream_same]

theorem exec_work (h : Claims.atOp s c st 6 w) : ∃ t, exec (.work c st) s = .next t ∧
    t.ctrQueue = s.ctrQueue ++ [(w.wcid, .claim c st w.imm)] ∧ ((t.core c).stream st).done.claimed = true ∧
    ((t.core c).stream st).done.begun = true ∧ ((t.core c).stream st).pc = ((s.core c).stream st).pc ∧
    Claims.wordFrame s t c [] := by
  obtain rfl := Claims.atOp_st h
  have hmark := markDone_of_fetch (atWord_fetch h.1) fun d => { d with claimed := true }
  have hdone := markReady_done (issueWord s c w) c w.st fun d => { d with claimed := true }
  rw [← hmark] at hdone
  have hclose : Closes c Claims.issueFields s (markDone s c w.st fun d => { d with claimed := true }) :=
    (issues_markDone _ _).closes (outsideKept_markDone _ _ _ _)
  have hqueue : (markDone s c w.st fun d => { d with claimed := true }).ctrQueue = s.ctrQueue := by
    rw [hmark]
    exact (aside_issueWord s c w).ctrs
  have hpc : streamsStay c s (markDone s c w.st fun d => { d with claimed := true }) :=
    hmark ▸ streamsStay_trans (streamsStay_issueWord s c w) (streamsStay_markReady _ _ _ _)
  refine ⟨_, show execWork c w.st s = _ from seqOp_made h, congrArg (· ++ _) hqueue, ?_, ?_, streamsStay_pc hpc w.st, ?_⟩
  · exact congrArg WordDone.claimed hdone
  · exact (congrArg WordDone.begun hdone).trans (issueWord_begun s c w)
  · exact ⟨hclose.regs, hclose.memKept, hclose.others, hclose.outside⟩

/-! ### The queue of a counter -/

/-- What waits at counter `k` in a queue, and what waits at the other counters. -/
def asksIn (k : Ctr) (q : List (Nat × CtrAsk)) : List CtrAsk := (q.filter fun e => e.1 == k.val).map (·.2)
def othersIn (k : Ctr) (q : List (Nat × CtrAsk)) : List (Nat × CtrAsk) := q.filter fun e => e.1 != k.val

theorem length_asksIn (k : Ctr) (q : List (Nat × CtrAsk)) : (asksIn k q).length ≤ q.length := by
  rw [asksIn, List.length_map]
  exact List.length_filter_le _ _

/-- The first that waits at a counter is taken from its queue, and no other. -/
theorem popCtr_of_asks {q : List (Nat × CtrAsk)} {a : CtrAsk} {rest : List CtrAsk} (h : asksIn k q = a :: rest) :
    ∃ q', popCtr k q = some (a, q') ∧ asksIn k q' = rest ∧ othersIn k q' = othersIn k q := by
  suffices hq : q.find? (fun e => e.1 == k.val) = some (k.val, a) ∧
      asksIn k (dropFirst (fun e => e.1 == k.val) q) = rest ∧
      othersIn k (dropFirst (fun e => e.1 == k.val) q) = othersIn k q by
    exact ⟨_, by rw [popCtr, hq.1], hq.2⟩
  induction q with
  | nil => cases h
  | cons e q ih =>
    obtain ⟨j, b⟩ := e
    by_cases hj : j = k.val
    · subst hj
      simp only [asksIn, beq_self_eq_true, List.filter_cons_of_pos, List.map_cons, List.cons.injEq] at h
      simp [dropFirst, asksIn, othersIn, h.1, h.2]
    · have hrest : asksIn k q = a :: rest := by simpa [asksIn, hj] using h
      obtain ⟨hfind, hasks, hothers⟩ := ih hrest
      simp only [asksIn, othersIn] at hasks hothers
      simp [dropFirst, asksIn, othersIn, hj, hfind, hasks, hothers]

theorem popCtr_of_none {q : List (Nat × CtrAsk)} (h : asksIn k q = []) : popCtr k q = none := by
  have hfind : q.find? (fun e => e.1 == k.val) = none := by
    simpa [asksIn, List.filter_eq_nil_iff] using h
  rw [popCtr, hfind]

/-! ### Serving -/

/-- What serving counter `k` keeps: all but the queue, NEXT of the counter, and the core that is answered. -/
structure Serves (k : Ctr) (s t : State) : Prop where
  rest : t = { s with ctrQueue := t.ctrQueue, regs := t.regs, cores := t.cores }
  regs : ∀ f i, (f, i) ≠ (.hstWorkNext, k.val) → fget t f i = fget s f i

theorem Serves.refl (k : Ctr) (s : State) : Serves k s s := ⟨rfl, fun _ _ _ => rfl⟩

theorem Serves.trans (h : Serves k s t) (h' : Serves k t u) : Serves k s u where
  rest := by rw [h'.rest, h.rest]
  regs f i hf := (h'.regs f i hf).trans (h.regs f i hf)

theorem Serves.memSame (h : Serves k s t) : Claims.memSame s t := by
  rw [h.rest]
  exact ⟨rfl, rfl⟩

theorem Serves.outsideKept (h : Serves k s t) : Claims.outsideKept s t := by
  rw [h.rest]
  exact ⟨rfl, rfl, rfl, rfl, rfl, rfl, rfl, rfl⟩

theorem serves_queue (k : Ctr) (s : State) (q : List (Nat × CtrAsk)) : Serves k s { s with ctrQueue := q } :=
  ⟨rfl, fun _ _ _ => rfl⟩

theorem serves_next (k : Ctr) (s : State) (v : Nat) : Serves k s (fset s .hstWorkNext k.val v) :=
  ⟨rfl, fun _ _ h => fget_fset_other s v fun e => h (Prod.ext e.1 e.2)⟩

theorem serves_setCore (k : Ctr) (s : State) (c : Core) (x : CoreX) : Serves k s (s.setCore c x) := ⟨rfl, fun _ _ _ => rfl⟩

/-- The arms at the front of a counter's queue are taken from it, and NEXT is BASE when there was one (06 R151). -/
structure ArmsTaken (k : Ctr) (s t : State) : Prop extends Serves k s t where
  asks : asksIn k t.ctrQueue = Claims.behindArms (asksIn k s.ctrQueue)
  others : othersIn k t.ctrQueue = othersIn k s.ctrQueue
  next : fget t .hstWorkNext k.val = Claims.nextArmed s k (asksIn k s.ctrQueue) (fget s .hstWorkNext k.val)
  cores : t.cores = s.cores

theorem armsTaken_of_none (h : (asksIn k s.ctrQueue).head? ≠ some .arm) : ArmsTaken k s s where
  toServes := .refl k s
  asks := by
    unfold Claims.behindArms
    cases hq : asksIn k s.ctrQueue with
    | nil => rfl
    | cons a l =>
      have ha : a ≠ .arm := fun e => h (by rw [hq, e]; rfl)
      simp [Claims.isArm, ha]
  others := rfl
  next := by rw [Claims.nextArmed, if_neg h]
  cores := rfl

theorem drainArms_of_not_arm {n : Nat} (h : (asksIn k s.ctrQueue).head? ≠ some .arm) : drainArms k n s = s := by
  cases n with
  | zero => rfl
  | succ n =>
    unfold drainArms
    split
    · next q hpop =>
      cases hq : asksIn k s.ctrQueue with
      | nil => rw [popCtr_of_none hq] at hpop; cases hpop
      | cons a l =>
        obtain ⟨q', hpop', -⟩ := popCtr_of_asks hq
        rw [hpop'] at hpop
        cases hpop
        exact absurd (by rw [hq]; rfl) h
    · rfl

/-- With as many rounds as entries wait at the counter, all the arms at the front are taken. -/
theorem armsTaken_drainArms (k : Ctr) (n : Nat) : ∀ (s : State), fget s .hstWorkBase k.val < 2 ^ 32 →
    (asksIn k s.ctrQueue).length ≤ n → ArmsTaken k s (drainArms k n s) := by
  induction n with
  | zero =>
    intro s _ hn
    exact armsTaken_of_none (by rw [List.eq_nil_of_length_eq_zero (Nat.le_zero.mp hn)]; simp)
  | succ n ih =>
    intro s hbase hn
    by_cases harm : (asksIn k s.ctrQueue).head? = some .arm
    · obtain ⟨l, hl⟩ : ∃ l, asksIn k s.ctrQueue = .arm :: l := List.head?_eq_some_iff.mp harm
      obtain ⟨q, hpop, hasks, hothers⟩ := popCtr_of_asks hl
      have hstep : drainArms k (n + 1) s = drainArms k n (armCounter { s with ctrQueue := q } k.val) := by
        rw [drainArms, hpop]
      obtain ⟨hserves, hasks', hothers', hnext, hcores⟩ := ih (armCounter { s with ctrQueue := q } k.val)
        (by rw [armCounter, fget_fset_other _ _ (by simp)]; exact hbase)
        (by rw [hl, List.length_cons] at hn; show (asksIn k q).length ≤ n; rw [hasks]; omega)
      have harmed : fget (armCounter { s with ctrQueue := q } k.val) .hstWorkNext k.val = fget s .hstWorkBase k.val := by
        rw [armCounter, fget_fset_same]
        exact Nat.mod_eq_of_lt hbase
      have hkeep : fget (armCounter { s with ctrQueue := q } k.val) .hstWorkBase k.val = fget s .hstWorkBase k.val := by
        rw [armCounter, fget_fset_other _ _ (by simp)]
        rfl
      rw [hstep]
      refine ⟨((serves_queue k s q).trans (serves_next k _ _)).trans hserves, ?_, hothers'.trans hothers, ?_, hcores⟩
      · rw [hasks', hl]
        show Claims.behindArms (asksIn k q) = _
        rw [hasks]
        rfl
      · rw [hnext, Claims.nextArmed, Claims.nextArmed, harmed, hkeep, if_pos harm, ite_self]
    · rw [drainArms_of_not_arm harm]
      exact armsTaken_of_none harm

/-! ### One claim -/

/-- Who waits for the answer of an entry that is a claim of `n`. -/
def claimOf (n : Nat) : Option (Core × Stream) → CtrAsk
  | some (c, st) => .claim c st n
  | none => .orphan n

/-- The claim at the front, behind the arms, is served, and the arms behind it are taken. -/
theorem exec_workFetchadd {n : Nat} {who : Option (Core × Stream)} {q : List (Nat × CtrAsk)}
    (hpop : popCtr k (drainArms k s.ctrQueue.length s).ctrQueue = some (claimOf n who, q)) :
    exec (.workFetchadd k) s = .next (drainArms k q.length
      (serveClaim { drainArms k s.ctrQueue.length s with ctrQueue := q } k n who)) := by
  show execWorkFetchadd k s = _
  unfold execWorkFetchadd
  dsimp only
  rw [hpop]
  rcases who with _ | ⟨c, st⟩ <;> rfl

theorem serves_serveClaim (s : State) (k : Ctr) (n : Nat) (who : Option (Core × Stream)) :
    Serves k s (serveClaim s k n who) := by
  unfold serveClaim
  rcases who with _ | ⟨c, st⟩
  · exact serves_next k s _
  · exact (serves_next k s _).trans (serves_setCore k _ c _)

theorem serveClaim_queue (s : State) (k : Ctr) (n : Nat) (who : Option (Core × Stream)) :
    (serveClaim s k n who).ctrQueue = s.ctrQueue := by
  rcases who with _ | ⟨c, st⟩ <;> rfl

/-- NEXT after a claim of `n` (06 R150). -/
theorem serveClaim_next (s : State) (k : Ctr) (n : Nat) (who : Option (Core × Stream))
    (hnext : fget s .hstWorkNext k.val < 2 ^ 32) (hlimit : fget s .hstWorkLimit k.val < 2 ^ 32) :
    fget (serveClaim s k n who) .hstWorkNext k.val =
      if fget s .hstWorkNext k.val < fget s .hstWorkLimit k.val
      then min (fget s .hstWorkNext k.val + n) (fget s .hstWorkLimit k.val) else fget s .hstWorkNext k.val := by
  have hset : fget (serveClaim s k n who) .hstWorkNext k.val =
      (fetchAdd (fget s .hstWorkNext k.val) (fget s .hstWorkLimit k.val) n).2 % 2 ^ 32 := by
    rcases who with _ | ⟨c, st⟩ <;> exact fget_fset_same s _ _ _
  rw [hset]
  unfold fetchAdd
  split <;> exact Nat.mod_eq_of_lt (by omega)

/-- The answer stands behind the others of the core that asked. -/
theorem serveClaim_core (s : State) (k : Ctr) (n : Nat) (c : Core) (st : Stream) :
    (serveClaim s k n (some (c, st))).core c = { s.core c with answers := (s.core c).answers ++
      [(st, if fget s .hstWorkNext k.val < fget s .hstWorkLimit k.val then fget s .hstWorkNext k.val else 0xFFFF_FFFF)] } := by
  unfold serveClaim fetchAdd
  dsimp only
  rw [State.core_setCore_same]
  split <;> rfl

theorem serveClaim_core_other (s : State) (k : Ctr) (n : Nat) {who : Option (Core × Stream)} {d : Core}
    (h : ∀ st, who ≠ some (d, st)) : (serveClaim s k n who).core d = s.core d := by
  rcases who with _ | ⟨c, st⟩
  · rfl
  · exact State.core_setCore_other _ _ fun e => h st (by rw [e])

theorem nextArmed_lt {l : List CtrAsk} {next : Nat} (hbase : fget s .hstWorkBase k.val < 2 ^ 32) (hnext : next < 2 ^ 32) :
    Claims.nextArmed s k l next < 2 ^ 32 := by
  unfold Claims.nextArmed
  split <;> assumption

theorem workFetchadd_serves {ask : CtrAsk} {rest : List CtrAsk} {n : Nat} {who : Option (Core × Stream)}
    (hasks : Claims.behindArms (Claims.asksOf s k) = ask :: rest) (hwho : ask = claimOf n who)
    (hnext : fget s .hstWorkNext k.val < 2 ^ 32) (hlimit : fget s .hstWorkLimit k.val < 2 ^ 32)
    (hbase : fget s .hstWorkBase k.val < 2 ^ 32) :
    ∃ t, exec (.workFetchadd k) s = .next t ∧ Claims.asksOf t k = Claims.behindArms rest ∧
      othersIn k t.ctrQueue = othersIn k s.ctrQueue ∧
      (let next := Claims.nextArmed s k (Claims.asksOf s k) (fget s .hstWorkNext k.val)
       let limit := fget s .hstWorkLimit k.val
       fget t .hstWorkNext k.val = Claims.nextArmed s k rest (if next < limit then min (next + n) limit else next) ∧
         (∀ c st, who = some (c, st) → t.core c = { s.core c with
           answers := (s.core c).answers ++ [(st, if next < limit then next else 0xFFFF_FFFF)] })) ∧
      (∀ d : Core, (∀ st, who ≠ some (d, st)) → t.core d = s.core d) ∧ Serves k s t := by
  have hfront := armsTaken_drainArms k s.ctrQueue.length s hbase (length_asksIn k _)
  generalize hu : drainArms k s.ctrQueue.length s = u at hfront
  obtain ⟨q, hpop, hrest, hothers⟩ := popCtr_of_asks (hfront.asks.trans (hasks.trans (by rw [hwho])))
  have hserve := serves_serveClaim { u with ctrQueue := q } k n who
  generalize hv : serveClaim { u with ctrQueue := q } k n who = v at hserve
  have hvqueue : v.ctrQueue = q := hv ▸ serveClaim_queue _ k n who
  have huBase : fget u .hstWorkBase k.val = fget s .hstWorkBase k.val := hfront.regs _ _ (by simp)
  have huLimit : fget { u with ctrQueue := q } .hstWorkLimit k.val = fget s .hstWorkLimit k.val := hfront.regs _ _ (by simp)
  have huNext : fget { u with ctrQueue := q } .hstWorkNext k.val =
    Claims.nextArmed s k (Claims.asksOf s k) (fget s .hstWorkNext k.val) := hfront.next
  have hvNext := serveClaim_next { u with ctrQueue := q } k n who (huNext ▸ nextArmed_lt hbase hnext) (huLimit ▸ hlimit)
  rw [huNext, huLimit, hv] at hvNext
  have hvBase : fget v .hstWorkBase k.val = fget s .hstWorkBase k.val := (hserve.regs _ _ (by simp)).trans huBase
  have hback := armsTaken_drainArms k q.length v (hvBase ▸ hbase) (hvqueue ▸ length_asksIn k q)
  have hcore (d : Core) : (drainArms k q.length v).core d = v.core d := core_of_cores hback.cores d
  have hucore (d : Core) : u.core d = s.core d := core_of_cores hfront.cores d
  refine ⟨drainArms k q.length v, ?_, ?_, ?_, ⟨?_, fun c st hc => ?_⟩, fun d hd => ?_, ?_⟩
  · rw [exec_workFetchadd (hu ▸ hpop), hu, hv]
  · exact hback.asks.trans (by rw [hvqueue, hrest])
  · rw [hback.others, hvqueue, hothers, hfront.others]
  · rw [hback.next, hvqueue, hrest, hvNext, Claims.nextArmed, Claims.nextArmed, hvBase]
    rfl
  · have hanswer := serveClaim_core { u with ctrQueue := q } k n c st
    rw [huNext, huLimit, show ({ u with ctrQueue := q } : State).core c = s.core c from hucore c] at hanswer
    rw [hcore, ← hv, hc, hanswer]
  · rw [hcore, ← hv, serveClaim_core_other _ k n hd]
    exact hucore d
  · exact ((hfront.toServes.trans (serves_queue k u q)).trans hserve).trans hback.toServes

theorem workClaimsServed : Claims.WorkClaimsServed := by
  refine fun s => ⟨fun c st w => exec_work, ?_⟩
  intro k ask rest n who hasks hwho hnext hlimit hbase
  have hask : ask = claimOf n who := by rcases who with _ | ⟨c, st⟩ <;> exact hwho
  obtain ⟨t, hexec, hback, hothers, hanswer, hcores, hserves⟩ := workFetchadd_serves hasks hask hnext hlimit hbase
  exact ⟨t, hexec, hback, hothers, hanswer, hcores, hserves.regs, hserves.memSame, hserves.outsideKept⟩

/-! ### The answer closes the word -/

/-- A core whose word carries SEAL is to hold (05 R127). -/
theorem sealDue_core (s : State) (c : Core) (on : Bool) :
    (if on then s.setCore c { s.core c with sealPhase := .due } else s).core c =
      { s.core c with sealPhase := if on then .due else (s.core c).sealPhase } := by
  cases on with
  | false => rfl
  | true => exact State.core_setCore_same _ _ _

theorem sealDue_signals (s : State) (c : Core) (on : Bool) :
    (if on then s.setCore c { s.core c with sealPhase := .due } else s).signals = s.signals := by
  cases on <;> rfl

/-- A word makes its SIGNAL, its SEAL is due, and its stream goes on: the registers but a tally, memory, the other cores and the units
outside are kept, and of its core all but a stream, the flags and the seal. -/
theorem signalSealAdvance (r : State) (c : Core) (w : WordX) (pc : Nat) (loops : List LoopX) :
    let u := if w.signal then signalFlag r c w.sflag else r
    let t := advance (if w.seal then u.setCore c { u.core c with sealPhase := .due } else u) c w.st pc loops false
    Closes c [.errLostDropped] r t ∧ Signals c w.signal w.sflag r t ∧ (t.core c).answers = (r.core c).answers ∧
      (t.core c).sealPhase = (if w.seal then .due else (r.core c).sealPhase) ∧ Claims.goesTo t c w.st pc loops := by
  intro u t
  have hu : u.core c = { r.core c with flags := (u.core c).flags } := by
    unfold u
    split
    · exact signalFlag_core r c w.sflag
    · rfl
  obtain ⟨v, hv⟩ := advance_core (if w.seal then u.setCore c { u.core c with sealPhase := .due } else u) c w.st pc loops
  rw [sealDue_core] at hv
  refine ⟨?_, ?_, ?_, ?_, goesTo_advance _ c w.st pc loops⟩
  · exact ((closes_signalFlag r c _).ite.trans (closes_setCore u c _).ite).trans (closes_advance _ c w.st pc loops)
  · refine (signals_signalFlag r c w.signal w.sflag).congr rfl rfl ?_ ?_
    · rw [advance_signals, sealDue_signals]
    · rw [hv, CoreX.setStream_flags]
  · rw [hv, CoreX.setStream_answers, hu]
  · rw [hv, CoreX.setStream_sealPhase, hu]

theorem workAnswerClosesWord : Claims.WorkAnswerClosesWord := by
  intro s c st w a hfind hfetch hclaimed ha
  obtain rfl := fetchWord_st hfetch
  obtain ⟨r, hr⟩ : ∃ r, r = pset (s.setCore c { s.core c with
    answers := dropFirst (fun e => e.1 == w.st) (s.core c).answers }) c w.psel a := ⟨_, rfl⟩
  have hrcore : r.core c = { s.core c with answers := dropFirst (fun e => e.1 == w.st) (s.core c).answers } :=
    hr ▸ State.core_setCore_same s c _
  have hrclose : Closes c [.coreParamValue, .errLostDropped] s r := hr ▸
    (closes_setCore s c _).trans (closes_fset _ _ _ (by decide))
  have hrparam (d : Core) (n : Nat) (hn : n < 256) (h : (d, n) ≠ (c, w.psel)) : pget r d n = pget s d n :=
    hr ▸ fget_fset_other _ _ fun e => paramIndex_ne hn w.psel_lt h e.2
  obtain ⟨hclose, hsignals, hanswers, hseal, hgoes⟩ := signalSealAdvance r c w
    (((s.core c).stream w.st).pc + 1) ((s.core c).stream w.st).loops
  have hparam (d : Core) (n : Nat) := hclose.regs .coreParamValue (d.val * 256 + n) (by decide)
  have hall := hrclose.trans (hclose.mono (by decide))
  rw [hrcore] at hanswers hseal
  refine ⟨_, ?_, ?_, fun d n hn h => (hparam d n).trans (hrparam d n hn h), hanswers, ?_⟩
  · show execWorkAnswer c w.st s = _
    unfold execWorkAnswer
    dsimp only
    rw [hfind, hfetch, hr]
    exact if_pos hclaimed
  · rw [pget, hparam, hr, pset, fget_fset_same]
    exact Nat.mod_eq_of_lt ha
  · obtain ⟨hquiet, hlocal, hsent⟩ := hsignals.congr (s' := s) (by rw [hr]; rfl) (by rw [hrcore]) rfl rfl
    exact ⟨hquiet, hlocal, hsent, hseal, hgoes, hall.regs, hall.mem, hall.others, hall.outside⟩

end Counters

/-- Settles O9: the queue of a counter is served from its front, and the answer closes the word that claimed. -/
theorem workCounterClaims : Obligations.WorkCounterClaims := ⟨workClaimsServed, workAnswerClosesWord⟩
end Sys2Proof.Machine
end

section
/-! O11: the completion of a load, a store, a transfer and a tile (05 R121, R128; 06 R141, R147). -/

namespace Sys2Proof.Machine

section Completion

variable {s t u : State} {c : Core}

/-! ### A signal, and a core that comes to rest -/

theorem signalFlag_rest (s : State) (c : Core) (id : Nat) : signalFlag s c id = { s with
    regs := (signalFlag s c id).regs, cores := (signalFlag s c id).cores, signals := (signalFlag s c id).signals
    errQueue := (signalFlag s c id).errQueue } := by
  unfold signalFlag
  split
  · next d i _ =>
    unfold flagAdd
    dsimp only
    split
    · rcases record_cases s .core .info (flagUnit s (.loc d i)).1 (flagUnit s (.loc d i)).2 .none 0
        (.names 120 (flagName (.loc d i))) with ⟨-, r, h⟩ | ⟨-, h⟩
      · rw [h]
      · rw [h]
        rfl
    · rfl
  · rfl
  · rfl

theorem settle_rest (s : State) (c : Core) :
    settle s c = { s with regs := (settle s c).regs, parts := (settle s c).parts } := by
  unfold settle countStopped
  dsimp only
  repeat' split
  all_goals rfl

/-- An operation of core `c` has come to its end: its core is `x`, the word of the operation has made its SIGNAL if `on`, and the
core has come to rest if it waited for nothing else. -/
theorem signal_settle {x : CoreX} (on : Bool) (id : Nat) (hx : x.flags = (s.core c).flags) :
    let r := s.setCore c x
    let t := settle (if on then signalFlag r c id else r) c
    t.core c = { x with flags := (t.core c).flags } ∧ Signals c on id s t ∧ Claims.coresKept s t c ∧
      Claims.memSame s t ∧ Claims.regsKept s t Claims.doneFields ∧ t.posts = s.posts := by
  intro r t
  have hsignal : Closes c [.errLostDropped] r (if on then signalFlag r c id else r) := (closes_signalFlag r c id).ite
  have hclose : Closes c Claims.doneFields s t :=
    ((closes_setCore s c x).trans (hsignal.mono (by decide))).trans ((closes_settle _ c).mono (by decide))
  have hcore : t.core c = (if on then signalFlag r c id else r).core c :=
    (reports_settle (but := [.coreSeqStatusState]) c (by decide)).core c
  refine ⟨?_, ?_, hclose.others, hclose.mem, hclose.regs, ?_⟩
  · rw [hcore]
    split
    · rw [signalFlag_core, State.core_setCore_same]
    · rw [State.core_setCore_same]
  · refine (signals_signalFlag r c on id).congr rfl ?_ ?_ (congrArg CoreX.flags hcore)
    · rw [State.core_setCore_same, hx]
    · unfold t
      rw [settle_rest]
  · unfold t
    rw [settle_rest]
    show (if on then signalFlag r c id else r).posts = _
    split
    · rw [signalFlag_rest]; rfl
    · rfl

/-! ### Loads, stores and transfers -/

theorem exec_storeAck {op : Nat} {m : MoveOp} (hm : (s.core c).stores.find? (fun m => m.id == op) = some m)
    (hleft : m.left = 0) (htodo : m.todo = []) : ∃ t, exec (.storeAck c op) s = .next t ∧
      (t.core c).stores = dropFirst (fun m => m.id == op) (s.core c).stores ∧
      Claims.signalled s t c .s m.word ∧ Claims.coresKept s t c ∧ Claims.memSame s t ∧
      Claims.regsKept s t Claims.doneFields := by
  obtain ⟨hcore, hsignals, hothers, hmem, hregs, -⟩ := signal_settle (s := s) (c := c)
    (x := { s.core c with stores := dropFirst (fun m => m.id == op) (s.core c).stores })
    (WordX.mk .s 0 m.word).signal (WordX.mk .s 0 m.word).sflag rfl
  refine ⟨_, ?_, congrArg CoreX.stores hcore, hsignals, hothers, hmem, hregs⟩
  show execStoreAck c op s = _
  unfold execStoreAck
  simp only [hm, hleft, htodo, ne_eq, not_true, or_self, if_false]
  rfl

theorem exec_copyComplete {op : Nat} {m : MoveOp} (hm : (s.core c).copies.find? (fun m => m.id == op) = some m)
    (hleft : m.left = 0) (hread : m.reading = false) : ∃ t, exec (.copyComplete c op) s = .next t ∧
      (t.core c).copies = dropFirst (fun m => m.id == op) (s.core c).copies ∧
      Claims.signalled s t c .c m.word ∧ Claims.coresKept s t c ∧ Claims.memSame s t ∧
      Claims.regsKept s t Claims.doneFields := by
  obtain ⟨hcore, hsignals, hothers, hmem, hregs, -⟩ := signal_settle (s := s) (c := c)
    (x := { s.core c with copies := dropFirst (fun m => m.id == op) (s.core c).copies })
    (WordX.mk .c 0 m.word).signal (WordX.mk .c 0 m.word).sflag rfl
  refine ⟨_, ?_, congrArg CoreX.copies hcore, hsignals, hothers, hmem, hregs⟩
  show execCopyComplete c op s = _
  unfold execCopyComplete
  simp only [hm, hleft, hread, ne_eq, not_true]
  rfl

/-- The core once a load has landed: the load is gone, and the mark of its ring's slot is set (06 R147). -/
def CoreX.landed (x : CoreX) (op : Nat) (ring : Option (Nat × Nat)) : CoreX :=
  let x := { x with loads := dropFirst (fun m => m.id == op) x.loads }
  match ring with
  | some (h, i) => x.setRing h { x.ring h with claimed := dropFirst (· == i) (x.ring h).claimed, full := (x.ring h).full ++ [i] }
  | none => x

theorem CoreX.landed_keeps (x : CoreX) (op : Nat) (ring : Option (Nat × Nat)) :
    x.landed op ring = { x with
      loads := dropFirst (fun m => m.id == op) x.loads, rings := (x.landed op ring).rings } := by
  rcases ring with _ | ⟨h, i⟩ <;> rfl

theorem CoreX.ring_setRing_same (x : CoreX) (h : Nat) (r : RingX) : (x.setRing h r).ring h = r := tget_tset_same _ _ _ _

theorem CoreX.landed_ring (x : CoreX) (op h i : Nat) : (x.landed op (some (h, i))).ring h =
    { x.ring h with claimed := dropFirst (· == i) (x.ring h).claimed, full := (x.ring h).full ++ [i] } :=
  CoreX.ring_setRing_same _ _ _

/-- The larder once a load has landed: its data run by run, then its header. -/
def landedMem (s : State) (c : Core) (m : LoadOp) : State :=
  localPut { m.plan.foldl (placeRun c m.got) s with
    sramErr := landErr c m.plan (m.plan.foldl (placeRun c m.got) s).sramErr } c (larderOff + m.headerAt) m.header

theorem writes_landedMem (s : State) (c : Core) (m : LoadOp) : Writes [] s (landedMem s c m) := by
  have hruns : Writes [] s (m.plan.foldl (placeRun c m.got) s) :=
    foldl_keeps Writes.refl Writes.trans (fun _ _ => writes_mput _ _) _ _
  refine (hruns.trans (u := { m.plan.foldl (placeRun c m.got) s with
    sramErr := landErr c m.plan (m.plan.foldl (placeRun c m.got) s).sramErr }) ⟨.of_eq rfl rfl, rfl⟩).trans ?_
  exact writes_localPut _ _ _ _

theorem landedMem_signals (s : State) (c : Core) (m : LoadOp) : (landedMem s c m).signals = s.signals :=
  foldl_keeps (R := fun s t : State => t.signals = s.signals) (f := placeRun c m.got) (fun _ => rfl) (fun h h' => h'.trans h)
    (fun _ _ => rfl) m.plan s

theorem exec_loadLand {op : Nat} {m : LoadOp} (hm : (s.core c).loads.find? (fun m => m.id == op) = some m)
    (hleft : m.left = 0) (htodo : m.todo = []) : exec (.loadLand c op) s =
      .next (settle (signalOf ((landedMem s c m).setCore c (((landedMem s c m).core c).landed op m.ring)) c .l m.word) c) := by
  show execLoadLand c op s = _
  unfold execLoadLand
  simp only [hm, hleft, htodo, ne_eq, not_true, or_self, if_false]
  rfl

theorem movesLand : Claims.MovesLand := by
  refine fun s c op => ⟨fun m hm hleft htodo => ?_, fun m => exec_storeAck, fun m => exec_copyComplete⟩
  have hwrites := writes_landedMem s c m
  have hsame := hwrites.core c
  obtain ⟨hcore, hsignals, hothers, hmem, hregs, -⟩ := signal_settle (s := landedMem s c m) (c := c)
    (x := ((landedMem s c m).core c).landed op m.ring) (WordX.mk .l 0 m.word).signal (WordX.mk .l 0 m.word).sflag
    (by rw [CoreX.landed_keeps])
  rw [hsame] at hcore hothers hmem hregs hsignals
  refine ⟨_, exec_loadLand hm hleft htodo, ?_, ?_, ?_, fun h k hring => ?_, fun hring => ?_, ?_, ?_, ?_⟩
  all_goals rw [hsame]
  · exact (congrArg CoreX.loads hcore).trans (by rw [CoreX.landed_keeps])
  · exact hmem
  · refine (mbytes_of_mem hmem _ _).trans ?_
    exact (mbytes_localPut _ c (off := larderOff + m.headerAt) (i := 0) (by omega)).trans (by simp)
  · have hslot := congrArg (fun x => x.ring h) hcore
    rw [hring] at hslot ⊢
    have hslot' := hslot.trans (CoreX.landed_ring (s.core c) op h k)
    exact ⟨congrArg RingX.full hslot', congrArg RingX.claimed hslot'⟩
  · refine (congrArg CoreX.rings hcore).trans ?_
    rw [hring]
    rfl
  · exact hsignals.congr (landedMem_signals s c m) (congrArg CoreX.flags hsame) rfl rfl
  · exact fun d hd => (hothers d hd).trans (hwrites.core d)
  · exact Claims.regsKept_trans (Claims.regsKept_mono (by simp) hwrites.regs) hregs

/-! ### Tiles -/

theorem Signals.of_eq {on on' : Bool} {id : Nat} (h : Signals c on id s t) (ho : on = on') : Signals c on' id s t := ho ▸ h

/-- The tile posted to the XCE of its core's die, if its word has TILE_DONE. -/
def postsWith (s : State) (c : Core) (x : Taken) : List (Nat × List TilePost) :=
  if x.req.wordX.tileDone then
    tset (fun _ => []) s.posts (dieOf c).val
      (tget (fun _ => []) s.posts (dieOf c).val ++ [{ core := c, handle := x.req.handle, tile := x.req.tile }])
  else s.posts

theorem exec_tileDone {x : Taken} (hx : (s.core c).finished.find? (·.acked) = some x) :
    let r := ({ s with posts := postsWith s c x } : State).setCore c
      { s.core c with finished := dropFirst (·.acked) (s.core c).finished }
    exec (.tileDone c) s = .next (settle (if x.req.wordX.tileDone && x.req.wordX.signal && x.req.wordX.op != 6 &&
      x.req.wordX.op != 7 then signalFlag r c x.req.wordX.sflag else r) c) := by
  show execTileDone c s = _
  unfold execTileDone postsWith
  simp only [hx]
  cases x.req.wordX.tileDone <;> rfl

theorem tilesComplete : Claims.TilesComplete := by
  intro s c x hx
  obtain ⟨hcore, hsignals, hothers, hmem, hregs, hposts⟩ := signal_settle (s := { s with posts := postsWith s c x }) (c := c)
    (x := { s.core c with finished := dropFirst (·.acked) (s.core c).finished })
    (x.req.wordX.tileDone && x.req.wordX.signal && x.req.wordX.op != 6 && x.req.wordX.op != 7) x.req.wordX.sflag rfl
  refine ⟨_, exec_tileDone hx, congrArg CoreX.finished hcore, fun h => hposts.trans (if_pos h), fun h => hposts.trans ?_,
    ⟨fun h h6 h7 => ?_, fun h => hsignals.1 ?_⟩, hothers, hmem, hregs⟩
  · exact if_neg (by simp [h])
  · have hon : (x.req.wordX.tileDone && x.req.wordX.signal && x.req.wordX.op != 6 && x.req.wordX.op != 7) =
        x.req.wordX.signal := by
      rw [h, bne_iff_ne.2 h6, bne_iff_ne.2 h7, Bool.true_and, Bool.and_true, Bool.and_true]
    exact hsignals.of_eq hon
  · rcases h with h | h | h <;> simp [h]

/-- Settles O11: each completion is a removal from the operation's list, a SIGNAL and the core's coming to rest. -/
theorem movesComplete : Obligations.MovesComplete := ⟨movesLand, tilesComplete⟩

end Completion
end Sys2Proof.Machine
end

section
/-! O13: MARK records, seals and signals (05 R120, R121, R126, R127; 14 R348). -/

namespace Sys2Proof.Machine

section Passing

variable {s t u : State} {c : Core}

/-! ### What an access to memory leaves aside -/

theorem aside_fbump (s : State) (f : Field) (i n : Nat) : Aside s (fbump s f i n) := aside_fset s f i _

theorem aside_grnFault (s : State) (q : MemDie) (a : Nat) (ag : MemAgent) (p : Option Part) : Aside s (grnFault s q a ag p) :=
  (aside_fbump s _ _ _).trans (aside_memFault _ _ _ _ _ _)

theorem aside_hbmFault (s : State) (k : Stack) (a : Nat) (ag : MemAgent) (p : Option Part) : Aside s (hbmFault s k a ag p) :=
  (aside_fbump s _ _ _).trans (aside_memFault _ _ _ _ _ _)

theorem aside_grnWrite (s : State) (q : MemDie) (ag : MemAgent) (p : Option Part) (cells : List Host.Cell) :
    Aside s (grnWrite s q ag p cells) := by
  unfold grnWrite
  split
  · exact .refl s
  · split
    · exact aside_grnFault _ _ _ _ _
    · dsimp only
      split <;> exact ⟨rfl, rfl, rfl⟩

theorem aside_mput (s : State) (l : List Host.Cell) : Aside s (mput s l) := ⟨rfl, rfl, rfl⟩

theorem aside_setDev (s : State) (g d : Nat) : Aside s (setDev s g d) := ⟨rfl, rfl, rfl⟩

theorem aside_hbmWrite (s : State) (k : Stack) (ag : MemAgent) (p : Option Part) (cells : List Host.Cell) :
    Aside s (hbmWrite s k ag p cells) := by
  unfold hbmWrite
  split
  · exact .refl s
  · split
    · exact .refl s
    · dsimp only
      split
      · split
        · exact ((aside_mput _ _).trans (aside_setDev _ _ _)).trans (aside_fset _ _ _ _)
        · exact (aside_mput _ _).trans (aside_setDev _ _ _)
      · refine Aside.trans ?_ (((aside_mput _ _).trans (aside_mput _ _)).trans (aside_setDev _ _ _))
        exact (Aside.ite (aside_fbump s _ _ _)).trans (.ite (aside_hbmFault _ _ _ _ _))

theorem aside_windowPut (s : State) (c : Core) (off : Nat) (b : Bytes) : Aside s (windowPut s c off b) := by
  unfold windowPut
  exact ⟨rfl, rfl, rfl⟩

theorem aside_unitWrite (s : State) (ag : MemAgent) (p : Option Part) (cells : List Host.Cell) :
    Aside s (unitWrite s ag p cells) := by
  unfold unitWrite
  split
  · exact .refl s
  · split
    · exact aside_grnWrite _ _ _ _ _
    · exact aside_hbmWrite _ _ _ _ _
    · unfold windowWrite
      split
      · exact aside_record _ _ _ _ _ _ _ _
      · exact aside_windowPut _ _ _ _
    · exact .refl s
    · exact .refl s

theorem aside_unitRead (s : State) (ag : MemAgent) (p : Option Part) (a n : Nat) : Aside s (unitRead s ag p a n).1 := by
  unfold unitRead
  split
  · unfold grnRead
    split
    · exact aside_grnFault _ _ _ _ _
    · split
      · exact .refl s
      · exact (aside_fbump s _ _ _).trans (.ite (aside_grnFault _ _ _ _ _))
      · exact aside_grnFault _ _ _ _ _
  · unfold hbmRead
    split
    · exact .refl s
    · exact (Aside.ite (aside_fbump s _ _ _)).trans (.ite (aside_hbmFault _ _ _ _ _))
  · unfold windowRead
    split
    · exact aside_record _ _ _ _ _ _ _ _
    · exact aside_sramRead _ _ _
  · exact .refl s
  · exact .refl s

theorem aside_dmaWrite (s : State) (f : Fn) (p : Option Part) (off : Nat) (b : Bytes) : Aside s (dmaWrite s f p off b) := by
  unfold dmaWrite
  split
  · exact ⟨rfl, rfl, rfl⟩
  · refine Aside.trans ?_ (aside_setStatus _ _ _)
    unfold violation
    dsimp only
    split
    · exact aside_fbump s _ _ _
    · refine Aside.trans ?_ (aside_record _ _ _ _ _ _ _ _)
      exact ⟨rfl, rfl, rfl⟩

/-! ### Writes that bring queued requests to their effect -/

/-- What a write of memory keeps: the cores, and what lies aside. -/
structure Stores (s t : State) : Prop extends Aside s t where
  cores : t.cores = s.cores

theorem Stores.refl (s : State) : Stores s s := ⟨.refl s, rfl⟩

theorem Stores.trans (h : Stores s t) (h' : Stores t u) : Stores s u := ⟨h.toAside.trans h'.toAside, h'.cores.trans h.cores⟩

theorem Aside.stores (h : Aside s t) (hw : Writes accessFields s t) : Stores s t := ⟨h, hw.cores⟩

/-- The place of a queued request that another access lets take effect: the Granary or the HBM. -/
def Place.stacked : Place → Bool
  | .granary _ | .hbm _ => true
  | _ => false

/-- A read of the Granary or the HBM changes no core. -/
theorem stores_unitRead {ag : MemAgent} {p : Option Part} {a n : Nat} (h : (placeOf a).stacked = true) :
    Stores s (unitRead s ag p a n).1 := by
  refine ⟨aside_unitRead s ag p a n, ?_⟩
  unfold unitRead
  split
  · unfold grnRead
    split
    · exact (reports_grnFault _ _ _ _).cores
    · split
      · rfl
      · exact (Reports.trans (reports_fbump _ _ _ (by decide) (by decide)) (.ite (reports_grnFault _ _ _ _))).cores
      · exact (reports_grnFault _ _ _ _).cores
  · unfold hbmRead
    split
    · rfl
    · exact (Reports.trans (.ite (reports_fbump _ _ _ (by decide) (by decide))) (.ite (reports_hbmFault _ _ _ _))).cores
  · next hp => rw [hp] at h; cases h
  · rfl
  · rfl

theorem stores_takeEffect {r : MemReq} (h : (placeOf r.addr).stacked = true) : Stores s (takeEffect s r).1 := by
  unfold takeEffect
  dsimp only
  split
  · exact stores_unitRead h
  · exact (aside_unitWrite _ _ _ _).stores (writes_unitWrite _ _ _)
  · exact .refl s

theorem stores_takeEffects {pick seen : MemReq → Bool} (h : ∀ r, pick r = true → (placeOf r.addr).stacked = true)
    (l : List MemReq) : ∀ (n : Nat) (s : State), Stores s (takeEffects pick seen n l s).1 := by
  induction l with
  | nil => intro n s; exact .refl s
  | cons r l ih =>
    intro n s
    simp only [takeEffects]
    split
    · exact .refl s
    · refine Stores.trans ?_ (ih _ _)
      split
      · next hr => exact stores_takeEffect (h r hr)
      · exact .refl s

/-- The addresses of a granule of the HBM lie in the HBM. -/
theorem stacked_of_granule {a b : Nat} {k : Stack} (ha : placeOf a = .hbm k) (h : granuleOf b = granuleOf a) :
    (placeOf b).stacked = true := by
  have hbounds : hbmBase ≤ a ∧ a < windowBase := by
    unfold placeOf at ha
    grind
  unfold granuleOf at h
  unfold hbmBase windowBase at hbounds
  have hb : placeOf b = .hbm ⟨(b - hbmBase) / 2 ^ 36 % 8, Nat.mod_lt _ (by decide)⟩ := by
    unfold placeOf hbmBase windowBase
    rw [if_neg (by omega), if_neg (by omega), if_pos (by omega)]
  rw [hb]
  rfl

theorem stores_arrive (s : State) (ag : MemAgent) (a : Nat) : Stores s (arrive s ag a) := by
  unfold arrive
  split
  · next k hk =>
    split
    · exact .refl s
    · exact (stores_takeEffects (fun r hr => stacked_of_granule hk (by simpa using hr)) _ _ _).trans ⟨⟨rfl, rfl, rfl⟩, rfl⟩
  · split
    · exact .refl s
    · refine (stores_takeEffects (fun r hr => ?_) _ _ _).trans ⟨⟨rfl, rfl, rfl⟩, rfl⟩
      simp only [Bool.and_eq_true, beq_iff_eq] at hr
      rw [hr.1.1]
      rfl
  · exact .refl s

theorem stores_agentWrite (s : State) (ag : MemAgent) (p : Option Part) (a : Nat) (b : Bytes) :
    Stores s (agentWrite s ag p a b) := by
  refine foldl_keeps Stores.refl Stores.trans (fun s u => ?_) _ s
  dsimp only
  split
  · exact (aside_dmaWrite _ _ _ _ _).stores (reports_dmaWrite _ _ _ _).writes
  · exact (stores_arrive _ _ _).trans ((aside_unitWrite _ _ _ _).stores (writes_unitWrite _ _ _))

/-! ### The end of a loop -/

theorem find?_mapFirst {α : Type} {p : α → Bool} {g : α → α} (h : ∀ a, p a = true → p (g a) = true) (l : List α) :
    (mapFirst p g l).find? p = (l.find? p).map g := by
  induction l with
  | nil => rfl
  | cons a l ih =>
    by_cases ha : p a = true
    · simp [mapFirst, ha, h a ha]
    · simp [mapFirst, ha, ih]

theorem callOf_finishCall {f : Fn} {k : SlotNo} {y : CallX} (h : callOf s f k = some y) (hy : y.finished = none)
    (code detail : Nat) (out : Bytes) :
    callOf (finishCall s f k code detail out) f k = some { y with finished := some (code, detail, out) } := by
  refine (find?_mapFirst (fun a ha => ?_) s.hub.calls).trans ?_
  · split <;> exact ha
  · rw [show s.hub.calls.find? _ = some y from h]
    simp [hy]

/-- A loop that fails is over, and its call ends with the error. -/
theorem failLoop_ends {p : Part} {l : LoopSvc} (h : (s.part p).loop = some l) (code detail : Nat) :
    ((failLoop s p code detail).part p).loop = none ∧ fget (failLoop s p code detail) .svcLoopLoop p.val = 0 ∧
      (∀ y, callOf s l.fn l.slot = some y → y.finished = none →
        callOf (failLoop s p code detail) l.fn l.slot = some { y with finished := some (code, detail, []) }) := by
  unfold failLoop
  rw [h]
  refine ⟨?_, ?_, fun y hy hf => ?_⟩
  · show (((s.setPart p _).part p)).loop = none
    rw [State.part_setPart_same]
  · exact fget_fset_same (s.setPart p { s.part p with loop := none }) .svcLoopLoop p.val 0
  · exact callOf_finishCall (s := fset (s.setPart p { s.part p with loop := none }) .svcLoopLoop p.val 0) hy hf _ _ _

theorem failLoop_keeps (s : State) (p : Part) (code detail : Nat) :
    (failLoop s p code detail).cores = s.cores ∧ Claims.memSame s (failLoop s p code detail) ∧
      fget (failLoop s p code detail) .svcLoopPlogcnt p.val = fget s .svcLoopPlogcnt p.val := by
  unfold failLoop
  split
  · exact ⟨rfl, ⟨rfl, rfl⟩, rfl⟩
  · exact ⟨rfl, ⟨rfl, rfl⟩,
      fget_fset_other (s.setPart p { s.part p with loop := none }) (f := .svcLoopLoop) (i := p.val) 0 (by simp)⟩

/-! ### MARK records -/

/-- The state once the oldest MARK record of core `c` has left it. -/
def markPassed (s : State) (c : Core) (rest : List MarkRec) : State := s.setCore c { s.core c with marks := rest }

/-- Where the next record of a loop's phase log goes. -/
def markPlace (s : State) (p : Part) (l : LoopSvc) : Nat := l.plog + 16 * (fget s .svcLoopPlogcnt p.val % l.plogn)

/-- The state once the oldest MARK record has been written to the phase log. -/
def markLogged (s : State) (c : Core) (r : MarkRec) (rest : List MarkRec) (p : Part) (l : LoopSvc) : State :=
  fset (agentWrite (markPassed s c rest) (.sc (scOf s p)) (some p) (markPlace s p l) (r.bytes c)) .svcLoopPlogcnt p.val
    (fget s .svcLoopPlogcnt p.val + 1)

theorem exec_markDiscard {r : MarkRec} {rest : List MarkRec} (hr : (s.core c).marks = r :: rest)
    (h : ∀ p l, partOfCore s c = some p → (s.part p).loop = some l → l.plogn = 0) :
    exec (.markRecordPass c) s = .next (markPassed s c rest) := by
  show execMarkRecordPass c s = _
  unfold execMarkRecordPass
  rw [hr]
  dsimp only
  split
  · rfl
  · next p hp =>
    split
    · rfl
    · next l hl =>
      rw [if_pos (h p l hp hl)]
      rfl

theorem exec_markLog {r : MarkRec} {rest : List MarkRec} {p : Part} {l : LoopSvc} (hr : (s.core c).marks = r :: rest)
    (hp : partOfCore s c = some p) (hl : (s.part p).loop = some l) (hn : l.plogn ≠ 0) :
    exec (.markRecordPass c) s = .next (if hostTakes s (markPlace s p l) 16 then markLogged s c r rest p l
      else failLoop (markLogged s c r rest p l) p sDMAERR (lastSeq (markLogged s c r rest p l))) := by
  show execMarkRecordPass c s = _
  unfold execMarkRecordPass
  have hp' : partOfCore (s.setCore c { s.core c with marks := rest }) c = some p := hp
  have hl' : ((s.setCore c { s.core c with marks := rest }).part p).loop = some l := hl
  simp only [hr, hp', hl', if_neg hn]
  rfl

theorem stores_markLogged (s : State) (r : MarkRec) (rest : List MarkRec) (p : Part) (l : LoopSvc) :
    Stores (markPassed s c rest) (markLogged s c r rest p l) :=
  (stores_agentWrite _ _ _ _ _).trans ⟨aside_fset _ _ _ _, rfl⟩

theorem markRecordPasses {r : MarkRec} {rest : List MarkRec} (hr : (s.core c).marks = r :: rest) :
    ∃ t, exec (.markRecordPass c) s = .next t ∧ (t.core c).marks = rest ∧ Claims.coresKept s t c ∧
      ((∀ p l, partOfCore s c = some p → (s.part p).loop = some l → l.plogn = 0) →
        Claims.memSame s t ∧ Claims.regsKept s t []) ∧
      (∀ p l, partOfCore s c = some p → (s.part p).loop = some l → l.plogn ≠ 0 →
        fget t .svcLoopPlogcnt p.val = (fget s .svcLoopPlogcnt p.val + 1) % 2 ^ Field.svcLoopPlogcnt.spec.width ∧
        Claims.memSame (agentWrite (s.setCore c { s.core c with marks := rest }) (.sc (scOf s p)) (some p)
          (l.plog + 16 * (fget s .svcLoopPlogcnt p.val % l.plogn)) (r.bytes c)) t ∧
        (let took := hostTakes s (l.plog + 16 * (fget s .svcLoopPlogcnt p.val % l.plogn)) 16
         (took = true → (t.part p).loop = some l) ∧
         (took = false → (t.part p).loop = none ∧ fget t .svcLoopLoop p.val = 0 ∧
           ∀ y, callOf s l.fn l.slot = some y → y.finished = none →
             ∃ d, callOf t l.fn l.slot = some { y with finished := some (sDMAERR, d, []) }))) := by
  have hpassed : ((markPassed s c rest).core c).marks = rest := by rw [markPassed, State.core_setCore_same]
  have hothers : Claims.coresKept s (markPassed s c rest) c := fun d hd => State.core_setCore_other s _ hd
  by_cases hlog : ∀ p l, partOfCore s c = some p → (s.part p).loop = some l → l.plogn = 0
  · refine ⟨_, exec_markDiscard hr hlog, hpassed, hothers, fun _ => ⟨⟨rfl, rfl⟩, fun _ _ _ => rfl⟩, fun p l hp hl hn => ?_⟩
    exact absurd (hlog p l hp hl) hn
  push Not at hlog
  obtain ⟨p, l, hp, hl, hn⟩ := hlog
  have hstores := stores_markLogged (c := c) s r rest p l
  have hloop : ((markLogged s c r rest p l).part p).loop = some l := by
    rw [State.part, hstores.parts]
    exact hl
  have hcount : fget (markLogged s c r rest p l) .svcLoopPlogcnt p.val =
      (fget s .svcLoopPlogcnt p.val + 1) % 2 ^ Field.svcLoopPlogcnt.spec.width := fget_fset_same _ _ _ _
  obtain ⟨hcores, hmem, hkept⟩ := failLoop_keeps (markLogged s c r rest p l) p sDMAERR (lastSeq (markLogged s c r rest p l))
  obtain ⟨hover, hreg, hcall⟩ := failLoop_ends hloop sDMAERR (lastSeq (markLogged s c r rest p l))
  have hcore (d : Core) := core_of_cores hstores.cores d
  have hexec := exec_markLog hr hp hl hn
  have hsame (p' : Part) (l' : LoopSvc) (hp' : partOfCore s c = some p') (hl' : (s.part p').loop = some l') :
      p' = p ∧ l' = l := by
    obtain rfl := Option.some.inj (hp.symm.trans hp')
    exact ⟨rfl, Option.some.inj (hl'.symm.trans hl)⟩
  cases htook : hostTakes s (markPlace s p l) 16 with
  | true =>
    rw [htook, if_pos rfl] at hexec
    refine ⟨_, hexec, by rw [hcore, hpassed], fun d hd => by rw [hcore, hothers d hd], fun h => absurd (h p l hp hl) hn,
      fun p' l' hp' hl' _ => ?_⟩
    obtain ⟨rfl, rfl⟩ := hsame p' l' hp' hl'
    exact ⟨hcount, ⟨rfl, rfl⟩, fun _ => hloop, fun h => absurd (htook.symm.trans h) (by decide)⟩
  | false =>
    rw [htook, if_neg (by decide)] at hexec
    obtain ⟨hcores, hmem, hkept⟩ := failLoop_keeps (markLogged s c r rest p l) p sDMAERR (lastSeq (markLogged s c r rest p l))
    obtain ⟨hover, hreg, hcall⟩ := failLoop_ends hloop sDMAERR (lastSeq (markLogged s c r rest p l))
    refine ⟨_, hexec, by rw [core_of_cores hcores, hcore, hpassed],
      fun d hd => by rw [core_of_cores hcores, hcore, hothers d hd], fun h => absurd (h p l hp hl) hn,
      fun p' l' hp' hl' _ => ?_⟩
    obtain ⟨rfl, rfl⟩ := hsame p' l' hp' hl'
    refine ⟨hkept.trans hcount, hmem, fun h => absurd (htook.symm.trans h) (by decide),
      fun _ => ⟨hover, hreg, fun y hy hf => ⟨_, hcall y ?_ hf⟩⟩⟩
    rw [callOf, hstores.calls]
    exact hy

/-! ### Seals -/

/-- A core that holds at its word with SEAL, waiting for the operations it had issued. -/
def sealHeld (s : State) (c : Core) : State :=
  s.setCore c { s.core c with sealPhase := .held, sealWait := opsOut (s.core c) }

theorem exec_sealWord (hdue : (s.core c).sealPhase = .due) : exec (.sealWord c) s = .next (match partOfCore s c with
    | none => sealHeld s c
    | some p => if fget s .updSealState p.val = 0 then fset (sealHeld s c) .updSealState p.val 1 else sealHeld s c) := by
  show execSealWord c s = _
  unfold execSealWord
  dsimp only
  rw [if_neg (not_not.2 hdue)]
  have hpart : partOfCore (s.setCore c { s.core c with sealPhase := .held, sealWait := opsOut (s.core c) }) c =
    partOfCore s c := rfl
  rw [hpart]
  cases partOfCore s c <;> rfl

theorem sealWord_holds (hdue : (s.core c).sealPhase = .due) : ∃ t, exec (.sealWord c) s = .next t ∧
    (t.core c).sealPhase = .held ∧ (t.core c).sealWait = opsOut (s.core c) ∧
    (∀ p, partOfCore s c = some p → fget s .updSealState p.val = 0 → fget t .updSealState p.val = 1) ∧
    Claims.regsKept s t [.updSealState] ∧ Claims.memSame s t ∧ Claims.coresKept s t c := by
  have hcore : (sealHeld s c).core c = { s.core c with sealPhase := .held, sealWait := opsOut (s.core c) } :=
    State.core_setCore_same _ _ _
  have hothers : Claims.coresKept s (sealHeld s c) c := fun d hd => State.core_setCore_other s _ hd
  refine ⟨_, exec_sealWord hdue, ?_⟩
  cases partOfCore s c with
  | none => exact ⟨congrArg CoreX.sealPhase hcore, congrArg CoreX.sealWait hcore, fun p h => by simp at h,
      fun _ _ _ => rfl, ⟨rfl, rfl⟩, hothers⟩
  | some p =>
    dsimp only
    split
    · refine ⟨congrArg CoreX.sealPhase hcore, congrArg CoreX.sealWait hcore, fun q h _ => ?_, fun f i hf => ?_,
        ⟨rfl, rfl⟩, hothers⟩
      · obtain rfl := Option.some.inj h
        exact fget_fset_same (sealHeld s c) .updSealState p.val 1
      · exact fget_fset_other (sealHeld s c) 1 fun h => hf (by simp [h.1])
    · next hopen =>
      refine ⟨congrArg CoreX.sealPhase hcore, congrArg CoreX.sealWait hcore, fun q h h0 => ?_, fun _ _ _ => rfl,
        ⟨rfl, rfl⟩, hothers⟩
      obtain rfl := Option.some.inj h
      exact absurd h0 hopen

/-- A core that has reported after its word with SEAL. -/
def sealReported (s : State) (c : Core) : State := s.setCore c { s.core c with sealPhase := .reported, sealWait := [] }

/-- The cores of a partition that have reported, with core `c`. -/
def PartX.reports (y : PartX) (c : Core) : PartX :=
  { y with reported := if y.reported.contains c then y.reported else y.reported ++ [c] }

theorem PartX.mem_reports (y : PartX) (c : Core) : c ∈ (y.reports c).reported := by
  unfold PartX.reports
  dsimp only
  split
  · next h => simpa using h
  · simp

theorem exec_sealReport (hheld : (s.core c).sealPhase = .held) (hwait : ∀ i ∈ (s.core c).sealWait, i ∉ opsOut (s.core c))
    (hpipe : (s.core c).pipe = []) : exec (.sealReport c) s = .next (match partOfCore s c with
      | none => sealReported s c
      | some p => (sealReported s c).setPart p ((s.part p).reports c)) := by
  have hdone : ((s.core c).sealWait.any fun i => (opsOut (s.core c)).contains i) = false := by simpa using hwait
  show execSealReport c s = _
  unfold execSealReport
  dsimp only
  rw [if_pos ⟨hheld, hdone, hpipe⟩]
  have hpart : partOfCore (s.setCore c { s.core c with sealPhase := .reported, sealWait := [] }) c = partOfCore s c := rfl
  rw [hpart]
  cases partOfCore s c <;> rfl

theorem sealReport_reports (hheld : (s.core c).sealPhase = .held) (hwait : ∀ i ∈ (s.core c).sealWait, i ∉ opsOut (s.core c))
    (hpipe : (s.core c).pipe = []) : ∃ t, exec (.sealReport c) s = .next t ∧ (t.core c).sealPhase = .reported ∧
      (∀ p, partOfCore s c = some p → c ∈ (t.part p).reported) ∧
      Claims.regsKept s t [] ∧ Claims.memSame s t ∧ Claims.coresKept s t c := by
  have hcore : (sealReported s c).core c = { s.core c with sealPhase := .reported, sealWait := [] } :=
    State.core_setCore_same _ _ _
  have hothers : Claims.coresKept s (sealReported s c) c := fun d hd => State.core_setCore_other s _ hd
  refine ⟨_, exec_sealReport hheld hwait hpipe, ?_⟩
  cases partOfCore s c with
  | none => exact ⟨congrArg CoreX.sealPhase hcore, fun p h => by simp at h, fun _ _ _ => rfl, ⟨rfl, rfl⟩, hothers⟩
  | some p =>
    refine ⟨congrArg CoreX.sealPhase hcore, fun q h => ?_, fun _ _ _ => rfl, ⟨rfl, rfl⟩, hothers⟩
    obtain rfl := Option.some.inj h
    rw [State.part_setPart_same]
    exact PartX.mem_reports _ _

/-! ### Signals -/

theorem flagGet_flagPut_same (s : State) (f : FlagRef) (v : Nat) : flagGet (flagPut s f v) f = v := by
  cases f with
  | loc d i => simp [flagPut, flagGet, CoreX.flag_setFlag_same]
  | die d i => exact tget_tset_same _ _ _ _
  | dev i => exact tget_tset_same _ _ _ _

theorem flagPut_keeps (s : State) (f : FlagRef) (v : Nat) : (flagPut s f v).regs = s.regs ∧
    (flagPut s f v).mem = s.mem ∧ (flagPut s f v).scrambled = s.scrambled ∧ (flagPut s f v).signals = s.signals := by
  cases f <;> exact ⟨rfl, rfl, rfl, rfl⟩

theorem flagGet_congr (hc : t.cores = s.cores) (hd : t.dieFlags = s.dieFlags) (hv : t.devFlags = s.devFlags) (f : FlagRef) :
    flagGet t f = flagGet s f := by
  cases f with
  | loc d i => exact congrArg (·.flag i) (core_of_cores hc d)
  | die d i => simp only [flagGet, hd]
  | dev i => simp only [flagGet, hv]

/-- What the arrival of a signal at flag `f` does. -/
structure Arrives (f : FlagRef) (s t : State) : Prop where
  adds : flagGet s f < 0xFFFF → flagGet t f = flagGet s f + 1
  stays : flagGet s f = 0xFFFF → flagGet t f = flagGet s f
  mem : Claims.memSame s t
  regs : Claims.regsKept s t [.errLostDropped]
  signals : t.signals = s.signals

theorem arrives_flagAdd (s : State) (f : FlagRef) : Arrives f s (flagAdd s f) := by
  unfold flagAdd
  dsimp only
  split
  · next hfull =>
    have hreports : Reports [.errLostDropped] s (record s .core .info (flagUnit s f).1 (flagUnit s f).2 .none 0
      (.names 120 (flagName f))) := reports_record _ _ _ _ _ _ _ (by decide)
    have hkept : ∀ t, t = record s .core .info (flagUnit s f).1 (flagUnit s f).2 .none 0 (.names 120 (flagName f)) →
        t.dieFlags = s.dieFlags ∧ t.devFlags = s.devFlags ∧ t.signals = s.signals := by
      rintro _ rfl
      rcases record_cases s .core .info (flagUnit s f).1 (flagUnit s f).2 .none 0 (.names 120 (flagName f)) with
        ⟨-, r, h⟩ | ⟨-, h⟩ <;> rw [h] <;> exact ⟨rfl, rfl, rfl⟩
    obtain ⟨hdie, hdev, hsignals⟩ := hkept _ rfl
    exact ⟨fun h => absurd hfull (by omega), fun _ => flagGet_congr hreports.cores hdie hdev f, hreports.mem, hreports.regs,
      hsignals⟩
  · next hfull =>
    obtain ⟨hregs, hmem, hscrambled, hsignals⟩ := flagPut_keeps s f (flagGet s f + 1)
    exact ⟨fun _ => flagGet_flagPut_same _ _ _, fun h => absurd h hfull, ⟨hmem, hscrambled⟩,
      fun g i _ => fget_of_regs hregs g i, hsignals⟩

/-- An interrupt changes the messages sent and the vectors that wait, no more. -/
theorem raise_rest (s : State) (src : IrqSource) :
    raise s src = { s with sent := (raise s src).sent, fns := (raise s src).fns } := by
  refine foldl_keeps (R := fun s t : State => t = { s with sent := t.sent, fns := t.fns }) (fun _ => rfl)
    (fun h h' => by rw [h', h]) (fun t h => ?_) _ s
  unfold msix
  dsimp only
  repeat' split
  all_goals rfl

theorem arrives_raise {f : FlagRef} (h : Arrives f s t) (src : IrqSource) : Arrives f s (raise t src) := by
  rw [raise_rest]
  exact ⟨h.adds, h.stays, h.mem, h.regs, h.signals⟩

/-- The state once a signal has reached its flag's unit: a device flag fires the interrupts routed to it. -/
def signalArrived (s : State) : FlagRef → State
  | .dev i => raise (flagAdd s (.dev i)) (.flag i)
  | f => flagAdd s f

theorem arrives_signalArrived (s : State) (f : FlagRef) : Arrives f s (signalArrived s f) := by
  cases f with
  | loc d i => exact arrives_flagAdd s _
  | die d i => exact arrives_flagAdd s _
  | dev i => exact arrives_raise (arrives_flagAdd s _) _

theorem exec_flagSignal {f : FlagRef} {rest : List FlagRef} (hf : s.signals = f :: rest) :
    exec .dieOrDeviceFlagSignal s = .next (signalArrived { s with signals := rest } f) := by
  show execDieOrDeviceFlagSignal s = _
  unfold execDieOrDeviceFlagSignal
  rw [hf]
  cases f <;> rfl

/-- Settles O13: each record, seal and signal leaves its core's or the signals' list with the effect it has. -/
theorem marksSealsSignals : Obligations.MarksSealsSignals := by
  refine fun s c => ⟨fun r rest => markRecordPasses, sealWord_holds, sealReport_reports, fun f rest hf => ?_⟩
  have h := arrives_signalArrived { s with signals := rest } f
  exact ⟨_, exec_flagSignal hf, h.signals, h.adds, h.stays, h.mem, h.regs⟩

end Passing
end Sys2Proof.Machine
end

section
/-! O25: a core's RUN written through the register map (05 R100, R134; 13 R328, R332; 18 R426). -/

namespace Sys2Proof.Machine

section Running

variable {but but' : List Field} {s t u : State} {c : Core}

/-! ### Register writes of every master -/

/-- An answer to a master changes the traffic of the fabric and what has been sent, no more. -/
theorem reports_mgmtAnswer (s : State) (w : Who) (data : Bytes) : Reports [] s (mgmtAnswer s w kSUCCESS data) := by
  unfold mgmtAnswer
  split
  · dsimp only
    rw [if_pos (Or.inl rfl)]
    unfold answer
    dsimp only
    split <;> exact .of_eq rfl rfl rfl rfl rfl
  · exact .of_eq rfl rfl rfl rfl rfl
  · exact .of_eq rfl rfl rfl rfl rfl

theorem gatedWrite_of_pass {w : Who} {off n data : Nat} (h : gateOf s w off n (some data) = .pass) :
    ∃ who, gatedWrite s w off n data = (writeBus s w (viewOf w) who off n data, .pass) := by
  unfold gatedWrite
  rw [h]
  exact ⟨_, rfl⟩

/-- A write of the owner that the gate lets pass reaches the register map, and succeeds. -/
theorem masterWrite_of_pass {w : Who} {off n size data : Nat} (hsize : sizeOf' size = some n) (hn : n ≠ 16) (hoff : off % n = 0)
    (hown : isOwnCtrl off = false) (howner : isOwner s w = true)
    (hgate : gateOf s w off n (some (bits data 0 (8 * n))) = .pass) :
    ∃ v who, masterWrite s w off size data = (writeBus s w v who off n (bits data 0 (8 * n)), kSUCCESS) := by
  obtain ⟨who, h⟩ := gatedWrite_of_pass hgate
  exact ⟨viewOf w, who, by simp [masterWrite, hsize, hoff, piecesOf, hn, hown, howner, h]⟩

/-- Only the owner's writes pass the gate, but for those of HST_OWN_CTRL. -/
theorem isOwner_of_pass {w : Who} {off n data : Nat} (hview : viewOf w = 0) (hown : isOwnCtrl off = false)
    (h : gateOf s w off n (some data) = .pass) : isOwner s w = true := by
  unfold gateOf at h
  grind

/-- The owner's messages are heard and refused by none. -/
theorem mgmtOp_of_owner {w : Who} {act : State → State × Nat × Bytes} (hview : ∀ f ide tlp, w ≠ .host f ide tlp)
    (hreach : Claims.reaches s w = true) (howner : isOwner s w = true) :
    mgmtOp s w true act = .next (mgmtAnswer (act s).1 w (act s).2.1 (act s).2.2) := by
  cases w with
  | host f ide tlp => exact absurd rfl (hview f ide tlp)
  | baseboard secured head =>
    have hon : masterOn s (.baseboard secured head) = true := by
      simpa [Claims.reaches, fmRefused] using hreach
    simp [mgmtOp, hon]
  | fm src =>
    simp only [Claims.reaches, Bool.and_eq_true, Option.isNone_iff_eq_none] at hreach
    obtain ⟨hon, hheard⟩ := hreach
    have hfm : isFm s src.dev.toNat src.ep.toNat = true := (Bool.and_eq_true_iff.1 howner).1
    have hregistered : fmRefused s (.fm src) true = none := by
      simpa [fmRefused, hfm] using hheard
    simp [mgmtOp, hon, hregistered]

theorem registerRow_of_owner {w : Who} {off n data : Nat} (hview : ∀ f ide tlp, w ≠ .host f ide tlp)
    (h : Claims.admits s w off n data) (hn : n = 4 ∨ n = 8) (hoff : off % n = 0) (hown : isOwnCtrl off = false) :
    ∃ v who t, registerRow s w off n data = .next t ∧ Reports [] (writeBus s w v who off n (bits data 0 (8 * n))) t := by
  obtain ⟨hgate, hreach⟩ := h
  have hview' : viewOf w = 0 := by
    cases w with
    | host f ide tlp => exact absurd rfl (hview f ide tlp)
    | baseboard _ _ => rfl
    | fm _ => rfl
  have howner := isOwner_of_pass hview' hown hgate
  obtain ⟨v, who, hwrite⟩ := masterWrite_of_pass (size := if n = 4 then 0 else if n = 8 then 1 else 2)
    (by rcases hn with rfl | rfl <;> rfl) (by omega) hoff hown howner hgate
  refine ⟨v, who, _, ?_, reports_mgmtAnswer _ w []⟩
  have hrow : registerRow s w off n data = mgmtOp s w true fun s =>
      let r := masterWrite s w off (if n = 4 then 0 else if n = 8 then 1 else 2) data
      (r.1, r.2, []) := by
    cases w with
    | host f ide tlp => exact absurd rfl (hview f ide tlp)
    | baseboard _ _ => rfl
    | fm _ => rfl
  rw [hrow, mgmtOp_of_owner hview hreach howner]
  dsimp only
  rw [hwrite]

/-- An admitted, fitting write of a register by a command of its own reaches the register map, and is answered. -/
theorem registerRow_answered {w : Who} {off n data : Nat} (h : Claims.admits s w off n data) (hn : n = 4 ∨ n = 8)
    (hoff : off % n = 0) (hown : isOwnCtrl off = false) : ∃ v who t, registerRow s w off n data = .next t ∧
      Reports [] (writeBus s w v who off n (bits data 0 (8 * n))) t := by
  cases w with
  | host f ide tlp =>
    have hfits : bar0Fits off n = true := by
      rcases hn with rfl | rfl <;> simp [bar0Fits, hoff]
    exact ⟨_, _, _, registerRow_of_admits h hfits, .refl _⟩
  | baseboard secured head => exact registerRow_of_owner (fun _ _ _ => by simp) h hn hoff hown
  | fm src => exact registerRow_of_owner (fun _ _ _ => by simp) h hn hoff hown

/-! ### CORE_SEQ_CTRL -/

theorem coreReg_eq (c : Core) : coreReg c 0 = regAt .coreSeqCtrlRun [c.val] + 0 := by
  simp [coreReg, regAt, dimsAt, Field.spec]

theorem reached_seqCtrl (c : Core) : reached (coreReg c 0) 4 =
    [⟨.coreSeqCtrlRun, c.val, coreReg c 0⟩, ⟨.coreSeqCtrlStart, c.val, coreReg c 0⟩] := by
  have hfields : Field.all.filter (sameReg .coreSeqCtrlRun) = [.coreSeqCtrlRun, .coreSeqCtrlStart] := by decide +kernel
  have hindex : regIndex .coreSeqCtrlRun [c.val] = c.val := by simp [regIndex, dimsIndex, Field.spec]
  rw [coreReg_eq, reached_reg (by decide +kernel) (by simp [dimsIn, Field.spec]) (by decide) (by decide),
    regFields, hfields]
  simp only [hindex, List.map_cons, List.map_nil, Nat.add_zero]

/-- A field that lies wholly in a write from its register's first byte on takes its bits of the data. -/
theorem carry_whole {f : Field} {off n : Nat} (i data : Nat) (hacc : f.spec.access = .rw) (hw : 0 < f.spec.width)
    (hn : f.spec.lo + f.spec.width ≤ 8 * n) : carry s off n data ⟨f, i, off⟩ =
      { f := f, i := i, val := putBits (fget s f i) 0 f.spec.width (bits data f.spec.lo f.spec.width)
        here := true, top := true } := by
  have hlo : max (8 * off + f.spec.lo) (8 * off) = 8 * off + f.spec.lo := by omega
  have hhi : min (8 * off + f.spec.lo + f.spec.width) (8 * off + 8 * n) = 8 * off + f.spec.lo + f.spec.width := by omega
  have hold : ¬(f.spec.access = .wo ∨ f.spec.access = .rwp) := by simp [hacc]
  unfold carry
  simp only [hlo, hhi, hold, if_false, show 8 * off + f.spec.lo < 8 * off + f.spec.lo + f.spec.width by omega, if_true,
    Nat.sub_self, Nat.add_sub_cancel_left, decide_true]

/-- What a write of CORE_SEQ_CTRL makes of RUN and of START. -/
def runWritten (s : State) (c : Core) (data : Nat) : Nat := putBits (fget s .coreSeqCtrlRun c.val) 0 1 (bits data 0 1)

def startWritten (s : State) (c : Core) (data : Nat) : Nat := putBits (fget s .coreSeqCtrlStart c.val) 0 16 (bits data 16 16)

theorem writeReg_seqCtrl (w : Who) (who off n data : Nat) (s : State) (c : Core) :
    writeReg w who off n s [⟨.coreSeqCtrlRun, c.val, runWritten s c data, true, true⟩,
      ⟨.coreSeqCtrlStart, c.val, startWritten s c data, true, true⟩] =
      writeSeqCtrl (if runWritten s c data == 1 then wake s else s) c (runWritten s c data == 1) (startWritten s c data) := by
  have hcore : (⟨c.val / Field.inner .coreSeqCtrlRun % 256, Nat.mod_lt _ (by decide)⟩ : Core) = c := by
    apply Fin.ext
    simp [Field.inner, Field.spec]
  have hstart : valueIn [⟨.coreSeqCtrlRun, c.val, runWritten s c data, true, true⟩,
      ⟨.coreSeqCtrlStart, c.val, startWritten s c data, true, true⟩] .coreSeqCtrlStart = startWritten s c data := rfl
  show writeSeqCtrl _ _ _ _ = _
  rw [hcore, hstart]
  rfl

theorem seqCtrl_place (c : Core) : blockOf (coreReg c 0) = some .core ∧ blkctlAt .core (coreReg c 0) = none ∧
    inMsix (coreReg c 0) = false := by
  refine ⟨?_, ?_, ?_⟩
  · unfold blockOf coreReg
    grind
  · unfold blkctlAt coreReg blockBase
    simp
  · unfold inMsix coreReg
    simp
    omega

/-- What a write of CORE_SEQ_CTRL carries. -/
theorem carried_seqCtrl (s : State) (c : Core) (off data : Nat) :
    ([⟨.coreSeqCtrlRun, c.val, off⟩, ⟨.coreSeqCtrlStart, c.val, off⟩] : List Reached).map
      (fun r => (r.start, carry s off 4 data r)) =
    [(off, ⟨.coreSeqCtrlRun, c.val, runWritten s c data, true, true⟩),
      (off, ⟨.coreSeqCtrlStart, c.val, startWritten s c data, true, true⟩)] := by
  have hrun : carry s off 4 data ⟨.coreSeqCtrlRun, c.val, off⟩ =
    ⟨.coreSeqCtrlRun, c.val, runWritten s c data, true, true⟩ := carry_whole c.val data rfl (by decide) (by decide)
  have hstart : carry s off 4 data ⟨.coreSeqCtrlStart, c.val, off⟩ =
    ⟨.coreSeqCtrlStart, c.val, startWritten s c data, true, true⟩ := carry_whole c.val data rfl (by decide) (by decide)
  rw [List.map_cons, List.map_cons, List.map_nil, hrun, hstart]

theorem writeBus_seqCtrl_at {w : Who} {v who off data : Nat} (hblock : blockOf off = some .core)
    (hctl : blkctlAt .core off = none) (hmsix : inMsix off = false)
    (hreached : reached off 4 = [⟨.coreSeqCtrlRun, c.val, off⟩, ⟨.coreSeqCtrlStart, c.val, off⟩]) :
    writeBus s w v who off 4 data =
      writeSeqCtrl (if runWritten s c data == 1 then wake s else s) c (runWritten s c data == 1) (startWritten s c data) := by
  have hroute : Field.coreSeqCtrlRun ≠ .sklRouteOut := by decide
  unfold writeBus
  split
  · next h => simp [hblock] at h
  next b hb =>
  obtain rfl : Block.core = b := Option.some.inj (hblock.symm.trans hb)
  split
  · next h => simp [hctl] at h
  split
  · next h => simp [busyUnit] at h
  rw [hmsix, hreached, carried_seqCtrl, if_neg (by decide)]
  refine (if_neg hroute).trans ?_
  simp only [groupCarried, if_true, List.foldl_cons, List.foldl_nil]
  exact writeReg_seqCtrl w who off 4 data s c

theorem writeBus_seqCtrl (s : State) (w : Who) (v who : Nat) (c : Core) (data : Nat) :
    writeBus s w v who (coreReg c 0) 4 data =
      writeSeqCtrl (if runWritten s c data == 1 then wake s else s) c (runWritten s c data == 1) (startWritten s c data) := by
  obtain ⟨hblock, hctl, hmsix⟩ := seqCtrl_place c
  exact writeBus_seqCtrl_at hblock hctl hmsix (reached_seqCtrl c)

/-- A write of CORE_SEQ_CTRL by an admitted master is made, and answered. -/
theorem seqCtrl_written {w : Who} {data : Nat} (h : Claims.admits s w (coreReg c 0) 4 data) (hdata : data < 2 ^ 32) :
    ∃ t, registerRow s w (coreReg c 0) 4 data = .next t ∧ Reports [] (writeSeqCtrl
      (if runWritten s c data == 1 then wake s else s) c (runWritten s c data == 1) (startWritten s c data)) t := by
  have hoff : coreReg c 0 % 4 = 0 := by
    unfold coreReg
    omega
  have hown : isOwnCtrl (coreReg c 0) = false := by
    unfold isOwnCtrl coreReg
    simp
    omega
  obtain ⟨v, who, t, hrow, ht⟩ := registerRow_answered h (Or.inl rfl) hoff hown
  have hbits : bits data 0 (8 * 4) = data := Nat.mod_eq_of_lt hdata
  rw [hbits, writeBus_seqCtrl] at ht
  exact ⟨t, hrow, ht⟩

theorem startWritten_mod (s : State) (c : Core) (run : Nat) (start : Half) (hrun : run < 2) :
    startWritten s c (run + start.toNat * 2 ^ 16) % 2 ^ 16 = start.toNat := by
  have hlt := start.isLt
  have hbits : bits (run + start.toNat * 2 ^ 16) 16 16 = start.toNat := by
    unfold bits
    rw [Nat.shiftRight_eq_div_pow]
    omega
  unfold startWritten putBits
  rw [hbits]
  unfold bits
  simp only [Nat.shiftRight_zero]
  omega

theorem runWritten_eq (s : State) (c : Core) (run : Nat) (start : Half) (hrun : run < 2) :
    runWritten s c (run + start.toNat * 2 ^ 16) = fget s .coreSeqCtrlRun c.val / 2 * 2 + run := by
  unfold runWritten putBits bits
  simp only [Nat.shiftRight_zero]
  omega

/-! ### The start of a core -/

theorem reports_wake (s : State) : Reports [.pwrStatusPstate, .pwrStateCtrlTarget] s (wake s) := by
  unfold wake
  exact .ite ((reports_fset _ _ _ (by decide) (by decide)).trans (reports_fset _ _ _ (by decide) (by decide)))

theorem wake_parts (s : State) : (wake s).parts = s.parts := by
  unfold wake
  split <;> rfl

theorem inCoreGroup_congr (hp : partOfCore t c = partOfCore s c) (hparts : t.parts = s.parts) :
    inCoreGroup t c = inCoreGroup s c := by
  simp only [inCoreGroup, hp, State.part, hparts]

/-- What reaching words changes: the flag values that the streams of core `c` have noted. -/
structure Reaches (c : Core) (s t : State) : Prop where
  closes : Closes c [] s t
  streams : ∀ st, ∃ v, (t.core c).stream st = { (s.core c).stream st with lastAnswer := v }
  flags : (t.core c).flags = (s.core c).flags

theorem Reaches.refl (s : State) : Reaches c s s := ⟨.refl s, fun _ => ⟨_, rfl⟩, rfl⟩

theorem Reaches.trans (h : Reaches c s t) (h' : Reaches c t u) : Reaches c s u where
  closes := h.closes.trans h'.closes
  streams st := by
    obtain ⟨v, hv⟩ := h.streams st
    obtain ⟨v', hv'⟩ := h'.streams st
    exact ⟨v', by rw [hv', hv]⟩
  flags := h'.flags.trans h.flags

theorem reaches_reach (s : State) (c : Core) (st : Stream) : Reaches c s (reach s c st) := by
  obtain ⟨v, h⟩ := reach_stream s c st
  refine ⟨closes_reach s c st, fun st' => ?_, by rw [h]; cases st <;> rfl⟩
  by_cases hst : st' = st
  · subst hst
    exact ⟨v, by rw [h, CoreX.stream_setStream_same]⟩
  · exact ⟨_, by rw [h]; exact CoreX.stream_setStream_other _ _ hst⟩

/-- The state of a core that starts, before its streams reach their first words. -/
def started (s : State) (c : Core) : State :=
  let r := { s.setCore c { s.core c with
    sm := .startAt (fget s .coreSeqCtrlStart c.val), sl := .startAt 0, ss := .startAt 0, sc := .startAt 0
    flags := [], answers := [], sealPhase := .none, sealWait := [], markLost := false } with
    ctrQueue := orphanClaims c s.ctrQueue }
  fset (fclear (fclear (fclear (fclear (fclear r .coreIssueErrCode c.val) .coreIssueErrStream c.val) .coreIssueErrAddr c.val)
    .coreIssueErrField c.val) .coreMarkLostLost c.val) .coreSeqStatusState c.val 1

theorem reports_joinStep (s : State) (c : Core) : Reports [] s (joinStep s c) := by
  unfold joinStep
  split
  · exact .refl s
  · exact .of_eq rfl rfl rfl rfl rfl

theorem reaches_startCore (s : State) (c : Core) : Reaches c (joinStep (started s c) c) (startCore s c) :=
  foldl_keeps Reaches.refl Reaches.trans (fun s st => reaches_reach s c st) _ _

/-- The registers that the start of a core sets. -/
def startFields : List Field :=
  [.coreIssueErrCode, .coreIssueErrStream, .coreIssueErrAddr, .coreIssueErrField, .coreMarkLostLost, .coreSeqStatusState]

theorem closes_started (s : State) (c : Core) : Closes c startFields s (started s c) := by
  have hclear (u : State) (f : Field) (hf : f ∈ startFields) : Closes c startFields u (fclear u f c.val) :=
    closes_fset f _ _ hf
  have hclaims (u : State) : Closes c startFields u { u with ctrQueue := orphanClaims c s.ctrQueue } :=
    Reports.closes (.of_eq rfl rfl rfl rfl rfl) ⟨rfl, rfl, rfl, rfl, rfl, rfl, rfl, rfl⟩
  exact ((((((((closes_setCore s c _).trans (hclaims _)).trans (hclear _ .coreIssueErrCode (by decide))).trans
    (hclear _ .coreIssueErrStream (by decide))).trans (hclear _ .coreIssueErrAddr (by decide))).trans
    (hclear _ .coreIssueErrField (by decide))).trans (hclear _ .coreMarkLostLost (by decide))).trans
    (closes_fset .coreSeqStatusState _ _ (by decide)))

theorem started_core (s : State) (c : Core) : (started s c).core c = { s.core c with
    sm := .startAt (fget s .coreSeqCtrlStart c.val), sl := .startAt 0, ss := .startAt 0, sc := .startAt 0
    flags := [], answers := [], sealPhase := .none, sealWait := [], markLost := false } := State.core_setCore_same s c _

theorem started_fault (s : State) (c : Core) : coreState (started s c) c = 1 ∧
    fget (started s c) .coreIssueErrCode c.val = 0 ∧ fget (started s c) .coreIssueErrAddr c.val = 0 := by
  refine ⟨fget_fset_same _ _ _ _, ?_, ?_⟩
  · simp [started, fclear, fget_fset_other, Field.resetAt, Field.spec]
  · simp [started, fclear, fget_fset_other, Field.resetAt, Field.spec]

theorem closes_joinStep (s : State) (c : Core) : Closes c [] s (joinStep s c) := by
  refine (reports_joinStep s c).closes ?_
  unfold joinStep
  split
  · exact Claims.outsideKept_refl s
  · exact ⟨rfl, rfl, rfl, rfl, rfl, rfl, rfl, rfl⟩

/-- Core `c` runs from `start`, its side streams from 0, with its flags and its fault registers cleared. -/
structure Starts (c : Core) (start : Nat) (but : List Field) (s t : State) : Prop where
  regs : Claims.regsKept s t but
  mem : Claims.memSame s t
  others : Claims.coresKept s t c
  state : coreState t c = 1
  pc : ∀ st, ((t.core c).stream st).pc = if st = .m then start else 0
  runs : ∀ st, ((t.core c).stream st).run = .running ∧ ((t.core c).stream st).loops = [] ∧ ((t.core c).stream st).done = {}
  flags : (t.core c).flags = []
  code : fget t .coreIssueErrCode c.val = 0
  addr : fget t .coreIssueErrAddr c.val = 0

theorem starts_of_reaches (h : Reaches c (joinStep (started s c) c) t) : Starts c (fget s .coreSeqCtrlStart c.val) startFields s t := by
  have hjoin := reports_joinStep (started s c) c
  have hregs (f : Field) (i : Nat) : fget t f i = fget (started s c) f i :=
    (h.closes.regs f i (by simp)).trans (hjoin.regs f i (by simp))
  have hcore := (hjoin.core c).trans (started_core s c)
  obtain ⟨hstate, hcode, haddr⟩ := started_fault s c
  have hstream (st : Stream) : ∃ v, (t.core c).stream st =
      { StreamX.startAt (if st = .m then fget s .coreSeqCtrlStart c.val else 0) with lastAnswer := v } := by
    obtain ⟨v, hv⟩ := h.streams st
    rw [hcore] at hv
    exact ⟨v, hv.trans (by cases st <;> rfl)⟩
  have hclose := ((closes_started s c).trans ((closes_joinStep _ c).mono (List.nil_subset _))).trans
    (h.closes.mono (List.nil_subset _))
  refine ⟨hclose.regs, hclose.mem, hclose.others, (hregs _ _).trans hstate, fun st => ?_, fun st => ?_,
    by rw [h.flags, hcore], (hregs _ _).trans hcode, (hregs _ _).trans haddr⟩
  · obtain ⟨v, hv⟩ := hstream st
    rw [hv]
    rfl
  · obtain ⟨v, hv⟩ := hstream st
    rw [hv]
    exact ⟨rfl, rfl, rfl⟩

/-- Of what happens before a start, and of what after it, no core and no register of the start takes notice. -/
theorem Starts.between {start : Nat} {s' t' : State} (h : Starts c start but s t) (hs : Reports but' s' s)
    (ht : Reports [] t t') : Starts c start (but' ++ but) s' t' := by
  have hregs (f : Field) (i : Nat) : fget t' f i = fget t f i := ht.regs f i (by simp)
  refine ⟨fun f i hf => ?_, Claims.memSame_trans hs.mem (Claims.memSame_trans h.mem ht.mem), fun d hd => ?_,
    (hregs _ _).trans h.state, fun st => ?_, fun st => ?_, ?_, (hregs _ _).trans h.code, (hregs _ _).trans h.addr⟩
  · rw [List.mem_append, not_or] at hf
    exact (hregs f i).trans ((h.regs f i hf.2).trans (hs.regs f i hf.1))
  · exact (ht.core d).trans ((h.others d hd).trans (hs.core d))
  · rw [ht.core, h.pc]
  · rw [ht.core]
    exact h.runs st
  · rw [ht.core, h.flags]

theorem startCore_starts (s : State) (c : Core) : Starts c (fget s .coreSeqCtrlStart c.val) startFields s (startCore s c) :=
  starts_of_reaches (reaches_startCore s c)

/-! ### The stop of a core -/

/-- What the stop of core `c` does before its streams stop and after: no register, no byte and no stream changes. -/
structure Stays (c : Core) (s t : State) : Prop where
  regs : t.regs = s.regs
  mem : Claims.memSame s t
  others : Claims.coresKept s t c
  streams : ∀ st, (t.core c).stream st = (s.core c).stream st

theorem Stays.refl (s : State) : Stays c s s := ⟨rfl, ⟨rfl, rfl⟩, fun _ _ => rfl, fun _ => rfl⟩

theorem Stays.trans (h : Stays c s t) (h' : Stays c t u) : Stays c s u where
  regs := h'.regs.trans h.regs
  mem := Claims.memSame_trans h.mem h'.mem
  others d hd := (h'.others d hd).trans (h.others d hd)
  streams st := (h'.streams st).trans (h.streams st)

theorem stays_flagPut {f : FlagRef} (hf : ∀ d i, f = .loc d i → d = c) (v : Nat) : Stays c s (flagPut s f v) := by
  cases f with
  | loc d i =>
    obtain rfl := hf d i rfl
    refine ⟨rfl, ⟨rfl, rfl⟩, fun e he => State.core_setCore_other s _ he, fun st => ?_⟩
    rw [flagPut, State.core_setCore_same]
    cases st <;> rfl
  | die d i => exact ⟨rfl, ⟨rfl, rfl⟩, fun _ _ => rfl, fun _ => rfl⟩
  | dev i => exact ⟨rfl, ⟨rfl, rfl⟩, fun _ _ => rfl, fun _ => rfl⟩

theorem stays_giveBack (s : State) (c : Core) (st : Stream) : Stays c s (giveBack s c st) := by
  unfold giveBack
  dsimp only
  split
  · split
    · split
      · next h => exact stays_flagPut (fun d i hf => flagRef_loc (hf ▸ h)) _
      · exact .refl s
    · exact .refl s
  · exact .refl s

theorem stays_dropWaiter (s : State) (c : Core) (st : Stream) : Stays c s (dropWaiter s c st) :=
  ⟨rfl, ⟨rfl, rfl⟩, fun _ _ => rfl, fun _ => rfl⟩

/-- Core `c` once each of its streams stops at its next word. -/
def streamsStopped (s : State) (c : Core) : State :=
  s.setCore c { s.core c with
    sm := (s.core c).sm.stopNext, sl := (s.core c).sl.stopNext, ss := (s.core c).ss.stopNext, sc := (s.core c).sc.stopNext }

theorem streamsStopped_stream (s : State) (c : Core) (st : Stream) :
    ((streamsStopped s c).core c).stream st = ((s.core c).stream st).stopNext := by
  rw [streamsStopped, State.core_setCore_same]
  cases st <;> rfl

/-- What the words of core `c` that do not issue took from their flags goes back. -/
def givenBack (s : State) (c : Core) : State := allStreams.foldl (fun s st => giveBack s c st) s

/-- The waits of the streams that have stopped end. -/
def waitersDropped (s : State) (c : Core) : State :=
  allStreams.foldl (fun s st => if ((s.core c).stream st).run = .stopped then dropWaiter s c st else s) s

theorem stays_givenBack (s : State) (c : Core) : Stays c s (givenBack s c) :=
  foldl_keeps Stays.refl Stays.trans (fun s st => stays_giveBack s c st) allStreams s

theorem stays_waitersDropped (s : State) (c : Core) : Stays c s (waitersDropped s c) := by
  refine foldl_keeps Stays.refl Stays.trans (fun s st => ?_) allStreams s
  split
  · exact stays_dropWaiter s c st
  · exact .refl s

theorem stopCore_eq (s : State) (c : Core) : stopCore s c = countStopped
    (fset (waitersDropped (streamsStopped (givenBack s c) c) c) .coreSeqStatusState c.val 3) c := rfl

/-- What the stop of core `c` does. -/
theorem stopCore_stops (s : State) (c : Core) :
    (∀ st, ((stopCore s c).core c).stream st = ((s.core c).stream st).stopNext) ∧ coreState (stopCore s c) c = 3 ∧
      Claims.regsKept s (stopCore s c) [.coreSeqStatusState] ∧ Claims.coresKept s (stopCore s c) c ∧
      Claims.memSame s (stopCore s c) := by
  have ha := stays_givenBack s c
  have hb := stays_waitersDropped (streamsStopped (givenBack s c) c) c
  have hstop := stopCore_eq s c
  generalize waitersDropped (streamsStopped (givenBack s c) c) c = b at *
  generalize givenBack s c = a at *
  have hcount := reports_countStopped (s := fset b .coreSeqStatusState c.val 3) (but := []) c
  rw [hstop]
  refine ⟨fun st => ?_, ?_, fun f i hf => ?_, fun d hd => ?_, ?_⟩
  · rw [hcount.core]
    exact (hb.streams st).trans ((streamsStopped_stream a c st).trans (by rw [ha.streams]))
  · exact (hcount.regs _ _ (by simp)).trans (fget_fset_same _ _ _ _)
  · rw [hcount.regs f i (by simp), fget_fset_other _ _ (fun h => hf (by simp [h.1])), fget_of_regs hb.regs]
    exact fget_of_regs ha.regs f i
  · rw [hcount.core]
    exact (hb.others d hd).trans ((State.core_setCore_other a _ hd).trans (ha.others d hd))
  · exact Claims.memSame_trans ha.mem (Claims.memSame_trans hb.mem hcount.mem)

/-! ### The commands -/

/-- CORE_SEQ_CTRL with RUN and START written. -/
def seqCtrlSet (s : State) (c : Core) (run : Bool) (start : Nat) : State :=
  fset (fset s .coreSeqCtrlStart c.val start) .coreSeqCtrlRun c.val (ofBool run)

/-- The registers that a write of CORE_SEQ_CTRL may set, apart from those of the start and the stop of a core. -/
def seqCtrlFields : List Field := [.pwrStatusPstate, .pwrStateCtrlTarget, .coreSeqCtrlStart, .coreSeqCtrlRun]

theorem reports_seqCtrlSet (s : State) (c : Core) (run : Bool) (start : Nat) :
    Reports seqCtrlFields s (seqCtrlSet s c run start) :=
  (reports_fset _ _ _ (by decide) (by decide)).trans (reports_fset _ _ _ (by decide) (by decide))

theorem seqCtrlSet_run (s : State) (c : Core) (run : Bool) (start : Nat) :
    fget (seqCtrlSet s c run start) .coreSeqCtrlRun c.val = ofBool run := by
  rw [seqCtrlSet, fget_fset_same]
  cases run <;> rfl

theorem seqCtrlSet_start (s : State) (c : Core) (run : Bool) (start : Nat) :
    fget (seqCtrlSet s c run start) .coreSeqCtrlStart c.val = start % 2 ^ 16 := by
  rw [seqCtrlSet, fget_fset_other _ _ (by simp), fget_fset_same]
  rfl

theorem writeSeqCtrl_eq (s : State) (c : Core) (run : Bool) (start : Nat) : writeSeqCtrl s c run start =
    if run && !fbit s .coreSeqCtrlRun c.val && inCoreGroup (seqCtrlSet s c run start) c &&
        !onRetired (seqCtrlSet s c run start) c then startCore (seqCtrlSet s c run start) c
    else if !run && running s c then stopCore (seqCtrlSet s c run start) c
    else seqCtrlSet s c run start := by
  have hrun : fbit (fset s .coreSeqCtrlStart c.val start) .coreSeqCtrlRun c.val = fbit s .coreSeqCtrlRun c.val := by
    rw [fbit, fget_fset_other _ _ (by simp)]
    rfl
  have hstate : running (seqCtrlSet s c run start) c = running s c := by
    rw [running, coreState, (reports_seqCtrlSet s c run start).regs _ _ (by decide)]
    rfl
  rw [← hrun, ← hstate]
  rfl

theorem writeSeqCtrl_starts {start : Nat} (hwas : fget s .coreSeqCtrlRun c.val = 0) (hgroup : inCoreGroup s c = true)
    (hretired : onRetired s c = false) :
    writeSeqCtrl s c true start = startCore (seqCtrlSet s c true start) c := by
  have hset := reports_seqCtrlSet s c true start
  have hgroup' : inCoreGroup (seqCtrlSet s c true start) c = true :=
    (inCoreGroup_congr (hset.partOfCore (by decide) (by decide) c) rfl).trans hgroup
  have hretired' : onRetired (seqCtrlSet s c true start) c = false := by
    refine Eq.trans ?_ hretired
    rw [onRetired, onRetired, fbit, fbit, hset.regs .rotCoreMapSlot _ (by decide), hset.regs .pwrSlotRetired _ (by decide)]
  rw [writeSeqCtrl_eq, fbit, hwas, hgroup', hretired']
  rfl

theorem runStart_starts {w : Who} {start : Half} (h : Claims.admits s w (coreReg c 0) 4 (1 + start.toNat * 2 ^ 16))
    (hrun : fget s .coreSeqCtrlRun c.val = 0) (hgroup : inCoreGroup s c = true) (hretired : onRetired s c = false) :
    ∃ t, exec (.runStart w c start) s = .next t ∧ fget t .coreSeqCtrlRun c.val = 1 ∧
      fget t .coreSeqCtrlStart c.val = start.toNat ∧ Starts c start.toNat (seqCtrlFields ++ startFields) s t := by
  have hlt := start.isLt
  obtain ⟨t, hexec, ht⟩ := seqCtrl_written h (by omega)
  have hone : runWritten s c (1 + start.toNat * 2 ^ 16) = 1 := by
    rw [runWritten_eq _ _ _ _ (by decide), hrun]
  have hwake := reports_wake s
  have hretired' : onRetired (wake s) c = false := by
    refine Eq.trans ?_ hretired
    rw [onRetired, onRetired, fbit, fbit, hwake.regs .rotCoreMapSlot _ (by decide), hwake.regs .pwrSlotRetired _ (by decide)]
  rw [hone, beq_self_eq_true, if_pos rfl, writeSeqCtrl_starts ((hwake.regs _ _ (by decide)).trans hrun)
    ((inCoreGroup_congr (hwake.partOfCore (by decide) (by decide) c) (wake_parts s)).trans hgroup) hretired'] at ht
  have hset := (hwake.mono (but' := seqCtrlFields) (by decide)).trans
    (reports_seqCtrlSet (wake s) c true (startWritten s c (1 + start.toNat * 2 ^ 16)))
  have hrunSet := seqCtrlSet_run (wake s) c true (startWritten s c (1 + start.toNat * 2 ^ 16))
  have hstartSet := seqCtrlSet_start (wake s) c true (startWritten s c (1 + start.toNat * 2 ^ 16))
  rw [startWritten_mod _ _ _ _ (by decide)] at hstartSet
  generalize seqCtrlSet (wake s) c true (startWritten s c (1 + start.toNat * 2 ^ 16)) = r at *
  have hstarts := startCore_starts r c
  rw [hstartSet] at hstarts
  exact ⟨t, hexec, (ht.regs _ _ (by simp)).trans ((hstarts.regs _ _ (by decide)).trans hrunSet),
    (ht.regs _ _ (by simp)).trans ((hstarts.regs _ _ (by decide)).trans hstartSet), hstarts.between hset ht⟩

theorem runStart_again {w : Who} {start : Half} (h : Claims.admits s w (coreReg c 0) 4 (1 + start.toNat * 2 ^ 16))
    (hrun : fget s .coreSeqCtrlRun c.val = 1) : ∃ t, exec (.runStart w c start) s = .next t ∧ coreState t c = coreState s c ∧
      t.core c = s.core c ∧ fget t .coreSeqCtrlStart c.val = start.toNat := by
  have hlt := start.isLt
  obtain ⟨t, hexec, ht⟩ := seqCtrl_written h (by omega)
  have hone : runWritten s c (1 + start.toNat * 2 ^ 16) = 1 := by
    rw [runWritten_eq _ _ _ _ (by decide), hrun]
  have hwake := reports_wake s
  have hwas : fbit (wake s) .coreSeqCtrlRun c.val = true := by
    rw [fbit, hwake.regs _ _ (by decide), hrun]
    rfl
  rw [hone, beq_self_eq_true, if_pos rfl, writeSeqCtrl_eq, if_neg (by simp [hwas]), if_neg (by simp)] at ht
  have hset := reports_seqCtrlSet (wake s) c true (startWritten s c (1 + start.toNat * 2 ^ 16))
  refine ⟨t, hexec, ?_, ?_, ?_⟩
  · rw [coreState, ht.regs _ _ (by simp), hset.regs _ _ (by decide), hwake.regs _ _ (by decide)]
    rfl
  · rw [ht.core, hset.core, hwake.core]
  · rw [ht.regs _ _ (by simp), seqCtrlSet_start, startWritten_mod _ _ _ _ (by decide)]

theorem runStop_stops {w : Who} {start : Half} (h : Claims.admits s w (coreReg c 0) 4 (start.toNat * 2 ^ 16))
    (hstate : coreState s c = 1) : ∃ t, exec (.runStop w c start) s = .next t ∧ coreState t c = 3 ∧
      fget t .coreSeqCtrlRun c.val = 0 ∧
      (∀ st, ((s.core c).stream st).run = .running → ((s.core c).stream st).done.begun = false →
        ((t.core c).stream st).run = .stopped ∧ ((t.core c).stream st).pc = ((s.core c).stream st).pc) ∧
      (∀ n, pget t c n = pget s c n) ∧ Claims.coresKept s t c ∧ Claims.memSame s t := by
  have hlt := start.isLt
  obtain ⟨t, hexec, ht⟩ := seqCtrl_written h (by omega)
  have hzero : (runWritten s c (start.toNat * 2 ^ 16) == 1) = false := by
    have heven := runWritten_eq s c 0 start (by decide)
    rw [Nat.zero_add] at heven
    rw [heven, beq_eq_false_iff_ne]
    omega
  have hrunning : running s c = true := by rw [running, hstate]; rfl
  rw [hzero, if_neg (by decide), writeSeqCtrl_eq, if_neg (by simp), if_pos (by simp [hrunning])] at ht
  have hset := reports_seqCtrlSet s c false (startWritten s c (start.toNat * 2 ^ 16))
  have hrun := seqCtrlSet_run s c false (startWritten s c (start.toNat * 2 ^ 16))
  generalize seqCtrlSet s c false (startWritten s c (start.toNat * 2 ^ 16)) = r at *
  obtain ⟨hstreams, hstopped, hregs, hothers, hmem⟩ := stopCore_stops r c
  refine ⟨t, hexec, ?_, ?_, fun st hst hbegun => ?_, fun n => ?_, fun d hd => ?_, ?_⟩
  · exact (ht.regs _ _ (by simp)).trans hstopped
  · exact (ht.regs _ _ (by simp)).trans ((hregs _ _ (by decide)).trans hrun)
  · rw [ht.core, hstreams, hset.core, StreamX.stopNext, if_pos (by simp [hst, hbegun])]
    exact ⟨rfl, rfl⟩
  · exact (ht.regs _ _ (by simp)).trans ((hregs _ _ (by decide)).trans (hset.regs _ _ (by decide)))
  · exact (ht.core d).trans ((hothers d hd).trans (hset.core d))
  · exact Claims.memSame_trans hset.mem (Claims.memSame_trans hmem ht.mem)

/-- Settles O25: a write of CORE_SEQ_CTRL that is admitted reaches the register map, where RUN starts or stops the core. -/
theorem runStartsAndStopsCore : Obligations.RunStartsAndStopsCore := by
  refine fun s w c start => ⟨fun h => ⟨fun hrun hgroup hretired => ?_, runStart_again h⟩, runStop_stops⟩
  obtain ⟨t, hexec, hset, hstart, hstarts⟩ := runStart_starts h hrun hgroup hretired
  exact ⟨t, hexec, hstarts.state, hset, hstart, hstarts.pc .m, hstarts.pc .l, hstarts.pc .s, hstarts.pc .c, hstarts.runs,
    hstarts.flags, hstarts.code, hstarts.addr, fun n => hstarts.regs _ _ (by decide), hstarts.others, hstarts.mem⟩

end Running
end Sys2Proof.Machine
end

section
/-! What the engines of a core do while their requests go out (06 R141 to R145, R153, R453). -/

namespace Sys2Proof.Machine

section Moving

variable {s t u : State} {c : Core}

/-! ### Reads on their way -/

/-- What asking for reads keeps: the cores but for their tallies, and memory. -/
structure Asks (s t : State) : Prop extends Reads accessFields s t where
  mem : Claims.memSame s t

theorem Asks.refl (s : State) : Asks s s := ⟨.refl s, ⟨rfl, rfl⟩⟩

theorem Asks.trans (h : Asks s t) (h' : Asks t u) : Asks s u :=
  ⟨h.toReads.trans h'.toReads, Claims.memSame_trans h.mem h'.mem⟩

theorem Reports.asks (h : Reports accessFields s t) : Asks s t := ⟨h.reads, h.mem⟩

theorem reports_dmaGo (n : Nat) : ∀ s : State, Reports accessFields s (dmaGo n s) := by
  induction n with
  | zero => exact .refl
  | succ n ih =>
    intro s
    unfold dmaGo
    split
    · exact .refl s
    · dsimp only
      split
      · exact .refl s
      · refine Reports.trans ?_ (ih _)
        exact .of_eq rfl rfl rfl rfl rfl

theorem reports_dmaFailed (s : State) (why : ReqFor) (f : Fn) (p : Option Part) (a : Nat) :
    Reports accessFields s (dmaFailed s why f p a) := by
  have herror : Reports accessFields s (dmaError s f p a) := (reports_violation _ _ _).trans (reports_setStatus _ _ (by decide))
  unfold dmaFailed
  dsimp only
  split
  · exact herror.trans (.of_eq rfl rfl rfl rfl rfl)
  · exact herror.trans (.of_eq rfl rfl rfl rfl rfl)
  · exact herror

theorem reports_dmaRead (s : State) (f : Fn) (p : Option Part) (off n : Nat) (why : ReqFor) :
    Reports accessFields s (dmaRead s f p off n why).1 := by
  unfold dmaRead
  dsimp only
  split
  · refine Reports.trans ?_ (reports_dmaGo _ _)
    exact .of_eq rfl rfl rfl rfl rfl
  · exact reports_dmaFailed _ _ _ _ _

theorem asks_askRead (c : Core) (e : Engine) (op : Nat) (p : Option Part) (r : Asked) (u : Nat × Nat) :
    Asks r.s (askRead c e op p r u).s := by
  unfold askRead
  dsimp only
  split
  · exact Reports.asks (.of_eq rfl rfl rfl rfl rfl)
  · exact Reports.asks (.of_eq rfl rfl rfl rfl rfl)
  · split <;> exact (reports_dmaRead _ _ _ _ _ _).asks
  · exact ⟨reads_unitRead _ _ _ _ _, unitRead_mem _ _ _ _ _⟩

theorem asks_askReads (s : State) (c : Core) (e : Engine) (op : Nat) (runs : List (Nat × Nat)) :
    Asks s (askReads s c e op runs).s := by
  have hfold {α : Type} {f : Asked → α → Asked} (hf : ∀ r a, Asks r.s (f r a).s) (l : List α) (r : Asked) :
      Asks r.s (l.foldl f r).s :=
    foldl_keeps (R := fun r r' : Asked => Asks r.s r'.s) (fun _ => .refl _) (fun h h' => h.trans h') hf l r
  exact hfold (fun r u => hfold (fun r v => asks_askRead c e op _ r v) _ r) runs ⟨s, 0, []⟩

/-! ### The operations under way -/

/-- What the engines of core `c` keep while they send: every other core but for its tally, and of `c` all but the requests of its
loads, stores and transfers. -/
structure Moves (c : Core) (s t : State) : Prop extends Kept accessFields s t where
  others : Claims.coresButTally s t c
  own : t.core c = { s.core c with
    loads := (t.core c).loads, stores := (t.core c).stores, copies := (t.core c).copies, errTally := (t.core c).errTally }
  loads : (t.core c).loads.map Claims.loadKey = (s.core c).loads.map Claims.loadKey
  stores : (t.core c).stores.map Claims.moveKey = (s.core c).stores.map Claims.moveKey
  copies : (t.core c).copies.map Claims.moveKey = (s.core c).copies.map Claims.moveKey
  plans : (t.core c).copies.map (·.plan) = (s.core c).copies.map (·.plan)

theorem Claims.coresButTally_trans (h : Claims.coresButTally s t c) (h' : Claims.coresButTally t u c) :
    Claims.coresButTally s u c := fun d hd => by rw [h' d hd, h d hd]

theorem Reads.moves (h : Reads accessFields s t) (c : Core) : Moves c s t where
  toKept := h.toKept
  others d _ := h.cores d
  own := by rw [h.cores c]
  loads := by rw [h.cores c]
  stores := by rw [h.cores c]
  copies := by rw [h.cores c]
  plans := by rw [h.cores c]

theorem Moves.refl (s : State) : Moves c s s := (Reads.refl s).moves c

theorem Moves.trans (h : Moves c s t) (h' : Moves c t u) : Moves c s u where
  toKept := h.toKept.trans h'.toKept
  others := Claims.coresButTally_trans h.others h'.others
  own := by rw [h'.own, h.own]
  loads := h'.loads.trans h.loads
  stores := h'.stores.trans h.stores
  copies := h'.copies.trans h.copies
  plans := h'.plans.trans h.plans

theorem Claims.coresButTally_setCore (s : State) (c : Core) (x : CoreX) : Claims.coresButTally s (s.setCore c x) c :=
  fun d hd => by rw [State.core_setCore_other s x hd]

theorem moves_onLoad (s : State) (c : Core) (op : Nat) {f : LoadOp → LoadOp} (hf : ∀ m, Claims.loadKey (f m) = Claims.loadKey m) :
    Moves c s (s.setCore c ((s.core c).onLoad op f)) where
  toKept := .of_eq rfl rfl
  others := Claims.coresButTally_setCore _ _ _
  own := by rw [State.core_setCore_same]; rfl
  loads := by rw [State.core_setCore_same]; exact map_mapFirst _ _ _ hf _
  stores := by rw [State.core_setCore_same]; rfl
  copies := by rw [State.core_setCore_same]; rfl
  plans := by rw [State.core_setCore_same]; rfl

theorem moves_onStore (s : State) (c : Core) (op : Nat) {f : MoveOp → MoveOp} (hf : ∀ m, Claims.moveKey (f m) = Claims.moveKey m) :
    Moves c s (s.setCore c ((s.core c).onStore op f)) where
  toKept := .of_eq rfl rfl
  others := Claims.coresButTally_setCore _ _ _
  own := by rw [State.core_setCore_same]; rfl
  loads := by rw [State.core_setCore_same]; rfl
  stores := by rw [State.core_setCore_same]; exact map_mapFirst _ _ _ hf _
  copies := by rw [State.core_setCore_same]; rfl
  plans := by rw [State.core_setCore_same]; rfl

theorem moves_onCopy (s : State) (c : Core) (op : Nat) {f : MoveOp → MoveOp} (hf : ∀ m, Claims.moveKey (f m) = Claims.moveKey m)
    (hplan : ∀ m, (f m).plan = m.plan) : Moves c s (s.setCore c ((s.core c).onCopy op f)) where
  toKept := .of_eq rfl rfl
  others := Claims.coresButTally_setCore _ _ _
  own := by rw [State.core_setCore_same]; rfl
  loads := by rw [State.core_setCore_same]; rfl
  stores := by rw [State.core_setCore_same]; rfl
  copies := by rw [State.core_setCore_same]; exact map_mapFirst _ _ _ hf _
  plans := by rw [State.core_setCore_same]; exact map_mapFirst _ _ _ hplan _

/-- Loads that send read, so memory stays as it is. -/
theorem moves_sendLoads (c : Core) (n : Nat) : ∀ s : State, Moves c s (sendLoads c n s) ∧ Claims.memSame s (sendLoads c n s) := by
  induction n with
  | zero => exact fun s => ⟨.refl s, ⟨rfl, rfl⟩⟩
  | succ n ih =>
    intro s
    unfold sendLoads
    dsimp only
    split
    · next m _ =>
      split
      · exact ⟨.refl s, ⟨rfl, rfl⟩⟩
      · split
        · exact ⟨.refl s, ⟨rfl, rfl⟩⟩
        · have hask := asks_askReads s c .load m.id
          refine ⟨Moves.trans ?_ (ih _).1, Claims.memSame_trans ?_ (ih _).2⟩
          · exact ((hask _).toReads.moves c).trans (moves_onLoad _ c _ fun _ => rfl)
          · exact Claims.memSame_trans (hask _).mem ⟨rfl, rfl⟩
    · exact ⟨.refl s, ⟨rfl, rfl⟩⟩

theorem moves_sendStores (c : Core) (n : Nat) : ∀ s : State, Moves c s (sendStores c n s) := by
  induction n with
  | zero => exact .refl
  | succ n ih =>
    intro s
    unfold sendStores
    dsimp only
    split
    · split
      · exact .refl s
      · split
        · exact .refl s
        · refine Moves.trans ?_ (ih _)
          exact (((writes_askWrites s c .store _ _).reads).moves c).trans (moves_onStore _ c _ fun _ => rfl)
    · exact .refl s

theorem moves_sendMore (s : State) (c : Core) : Moves c s (sendMore s c) :=
  (moves_sendLoads c _ s).1.trans (moves_sendStores c _ _)

/-- Where no store waits to send, only reads go out. -/
theorem memSame_sendMore (h : ∀ m ∈ (s.core c).stores, m.todo = []) : Claims.memSame s (sendMore s c) := by
  have hnone : ((s.core c).stores.map (·.todo.length)).sum = 0 := by
    rw [List.sum_eq_zero]
    intro n hn
    obtain ⟨m, hm, rfl⟩ := List.mem_map.1 hn
    rw [h m hm]
    rfl
  unfold sendMore
  dsimp only
  rw [hnone]
  exact (moves_sendLoads c _ s).2

theorem moves_copyTurn (s : State) (c : Core) (op : Nat) : Moves c s (copyTurn s c op) := by
  unfold copyTurn
  split
  · dsimp only
    split
    · exact (((writes_askWrites s c .copy _ _).reads).moves c).trans (moves_onCopy _ c _ (fun _ => rfl) fun _ => rfl)
    · exact .refl s
  · exact .refl s

end Moving
end Sys2Proof.Machine
end

section
/-! O10: a word of L, S or C starts its operation (05 R110, R112; 06 R139, R141 to R145, R154, R453). -/

namespace Sys2Proof.Machine

section Beginning

variable {s t u : State} {c : Core} {st : Stream} {w : WordX} {b : BoundX}

/-! ### An operation that begins -/

/-- From `s` to `t` core `c` has begun an operation: the next has the next number, and no other core but for its tally and no
register but those of an access have changed. -/
structure Begins (c : Core) (s t : State) : Prop extends Kept accessFields s t where
  others : Claims.coresButTally s t c
  nextOp : (t.core c).nextOp = (s.core c).nextOp + 1

/-- A load has begun on `handle`, with the key `key`; but for it memory is that of `m`. -/
structure LoadBegun (c : Core) (handle : Nat) (d : Desc) (key : Nat × Nat × List (Nat × Nat × Nat) × Bytes × Nat × Option (Nat × Nat))
    (s m t : State) : Prop extends Begins c s t where
  loads : (t.core c).loads.map Claims.loadKey = (s.core c).loads.map Claims.loadKey ++ [key]
  mem : (∀ m ∈ (s.core c).stores, m.todo = []) → Claims.memSame m t
  ring : d.rtrack = true → ((t.core c).ring handle).fill = (((s.core c).ring handle).fill + 1) % d.rslots ∧
    ((t.core c).ring handle).claimed = ((s.core c).ring handle).claimed ++ [((s.core c).ring handle).fill]

/-- A store has begun, with the key `key`. -/
structure StoreBegun (c : Core) (key : Nat × Nat) (s t : State) : Prop extends Begins c s t where
  stores : (t.core c).stores.map Claims.moveKey = (s.core c).stores.map Claims.moveKey ++ [key]

/-- A transfer has begun, with the key `key` and the runs `plan`. -/
structure CopyBegun (c : Core) (key : Nat × Nat) (plan : List (Nat × Nat × Nat)) (s t : State) : Prop extends Begins c s t where
  copies : (t.core c).copies.map Claims.moveKey = (s.core c).copies.map Claims.moveKey ++ [key]
  plans : (t.core c).copies.map (·.plan) = (s.core c).copies.map (·.plan) ++ [plan]

theorem Begins.before (hr : Reads accessFields s u) (h : Begins c u t) : Begins c s t where
  toKept := hr.toKept.trans h.toKept
  others := Claims.coresButTally_trans (fun d _ => hr.cores d) h.others
  nextOp := by rw [h.nextOp, hr.cores c]

theorem Begins.sends (h : Begins c s t) (hm : Moves c t u) : Begins c s u where
  toKept := h.toKept.trans hm.toKept
  others := Claims.coresButTally_trans h.others hm.others
  nextOp := by rw [hm.own, h.nextOp]

/-- The engines send no tile of their own, and take no slot. -/
theorem Moves.ring (h : Moves c s t) (n : Nat) : (t.core c).ring n = (s.core c).ring n := by
  rw [h.own]
  rfl

theorem begins_setCore {x : CoreX} (h : x.nextOp = (s.core c).nextOp + 1) : Begins c s (s.setCore c x) where
  toKept := .of_eq rfl rfl
  others := Claims.coresButTally_setCore _ _ _
  nextOp := by rw [State.core_setCore_same, h]

/-! ### Loads -/

/-- The core once it has taken the slot that a load fills next. -/
def CoreX.slotTaken (x : CoreX) (h : Nat) (d : Desc) : CoreX :=
  if d.rtrack then
    x.setRing h { x.ring h with fill := ((x.ring h).fill + 1) % d.rslots, claimed := (x.ring h).claimed ++ [(x.ring h).fill] }
  else x

theorem CoreX.slotTaken_keeps (x : CoreX) (h : Nat) (d : Desc) :
    x.slotTaken h d = { x with rings := (x.slotTaken h d).rings } := by
  unfold CoreX.slotTaken
  split <;> rfl

theorem CoreX.slotTaken_ring {d : Desc} (hd : d.rtrack = true) (x : CoreX) (h : Nat) :
    ((x.slotTaken h d).ring h).fill = ((x.ring h).fill + 1) % d.rslots ∧
      ((x.slotTaken h d).ring h).claimed = (x.ring h).claimed ++ [(x.ring h).fill] := by
  rw [CoreX.slotTaken, if_pos hd, CoreX.ring_setRing_same]
  exact ⟨rfl, rfl⟩

theorem claimSlot_core (s : State) (c : Core) (h : Nat) (d : Desc) :
    (claimSlot s c h d).core c = (s.core c).slotTaken h d := by
  unfold claimSlot CoreX.slotTaken
  split
  · exact State.core_setCore_same _ _ _
  · rfl

/-- Taking a slot changes its core alone. -/
theorem claimSlot_keeps (s : State) (c : Core) (h : Nat) (d : Desc) : (claimSlot s c h d).regs = s.regs ∧
    (claimSlot s c h d).lifts = s.lifts ∧ Claims.memSame s (claimSlot s c h d) ∧ Claims.coresKept s (claimSlot s c h d) c := by
  unfold claimSlot
  split
  · exact ⟨rfl, rfl, ⟨rfl, rfl⟩, fun _ hd => State.core_setCore_other s _ hd⟩
  · exact ⟨rfl, rfl, ⟨rfl, rfl⟩, fun _ _ => rfl⟩

/-- The load that a word of core `c` begins. -/
def loadBegun (s : State) (c : Core) (w : WordX) (h : Nat) (d : Desc) (at' : Nat) (plan : List (Nat × Nat × Nat))
    (header : Bytes) : LoadOp :=
  { id := (s.core c).nextOp, word := w.raw, plan := plan, header := header, headerAt := at', ring := ringSlot s c h d, left := 0
    reqs := [], todo := requestsOf (srcBytes plan), got := [] }

/-- The state once a load stands in the list, its slot taken, before its requests go out. -/
def loadListed (s : State) (c : Core) (h : Nat) (d : Desc) (m : LoadOp) : State :=
  (claimSlot s c h d).setCore c { (claimSlot s c h d).core c with
    loads := ((claimSlot s c h d).core c).loads ++ [m], nextOp := (s.core c).nextOp + 1 }

theorem startLoad_eq (s : State) (c : Core) (w : WordX) (h : Nat) (d : Desc) (at' : Nat) (plan : List (Nat × Nat × Nat))
    (header : Bytes) : startLoad s c w h d at' plan header =
      sendMore (loadListed s c h d (loadBegun s c w h d at' plan header)) c := rfl

theorem loadListed_core (s : State) (c : Core) (h : Nat) (d : Desc) (m : LoadOp) : (loadListed s c h d m).core c =
    { s.core c with
      rings := ((s.core c).slotTaken h d).rings, loads := (s.core c).loads ++ [m], nextOp := (s.core c).nextOp + 1 } := by
  rw [loadListed, State.core_setCore_same, claimSlot_core, CoreX.slotTaken_keeps]

theorem startLoad_begins {h n : Nat} {d : Desc} {ring : Option (Nat × Nat)} (hn : (s.core c).nextOp = n)
    (hring : ringSlot s c h d = ring) (w : WordX) (at' : Nat) (plan : List (Nat × Nat × Nat)) (header : Bytes) :
    LoadBegun c h d (n, w.raw, plan, header, at', ring) s s (startLoad s c w h d at' plan header) := by
  subst hn hring
  obtain ⟨hregs, hlifts, hmem, hothers⟩ := claimSlot_keeps s c h d
  have hcore := loadListed_core s c h d (loadBegun s c w h d at' plan header)
  have hsends := moves_sendMore (loadListed s c h d (loadBegun s c w h d at' plan header)) c
  have hbegins : Begins c s (loadListed s c h d (loadBegun s c w h d at' plan header)) := {
    toKept := .of_eq hregs hlifts
    others := fun e he => by rw [loadListed, State.core_setCore_other _ _ he, hothers e he]
    nextOp := by rw [hcore] }
  rw [startLoad_eq]
  refine ⟨hbegins.sends hsends, ?_, fun hidle => ?_, fun hd => ?_⟩
  · rw [hsends.loads, hcore, List.map_append]
    rfl
  · exact Claims.memSame_trans hmem (memSame_sendMore (by rw [hcore]; exact hidle))
  · rw [hsends.ring, hcore]
    exact CoreX.slotTaken_ring hd (s.core c) h

/-- What a load's beginning keeps holds of what was read before it too. -/
theorem LoadBegun.before {handle : Nat} {d : Desc} {key : Nat × Nat × List (Nat × Nat × Nat) × Bytes × Nat × Option (Nat × Nat)}
    {m : State} (hr : Reads accessFields s u) (hm : Claims.memSame m u) (h : LoadBegun c handle d key u u t) :
    LoadBegun c handle d key s m t := by
  have hcore := hr.cores c
  refine ⟨h.toBegins.before hr, by rw [h.loads, hcore], fun hidle => ?_, fun hd => ?_⟩
  · exact Claims.memSame_trans hm (h.mem (by rw [hcore]; exact hidle))
  · have hring := h.ring hd
    rw [hcore] at hring
    exact hring

/-! ### Stores and transfers -/

/-- The state once a store stands in the list, before its writes go out. -/
def storeListed (s : State) (c : Core) (w : WordX) (ws : List (Nat × Bytes)) : State :=
  s.setCore c { s.core c with
    stores := (s.core c).stores ++ [{ id := (s.core c).nextOp, word := w.raw, left := 0, reqs := [], todo := writeRequests ws
                                      reading := false, plan := [], got := [] }]
    nextOp := (s.core c).nextOp + 1 }

theorem startStore_eq (s : State) (c : Core) (w : WordX) (ws : List (Nat × Bytes)) :
    startStore s c w ws = sendMore (storeListed s c w ws) c := rfl

theorem startStore_begins (s : State) (c : Core) (w : WordX) (ws : List (Nat × Bytes)) :
    StoreBegun c ((s.core c).nextOp, w.raw) s (startStore s c w ws) := by
  have hsends := moves_sendMore (storeListed s c w ws) c
  have hbegins : Begins c s (storeListed s c w ws) := begins_setCore rfl
  rw [startStore_eq]
  refine ⟨hbegins.sends hsends, ?_⟩
  rw [hsends.stores, storeListed, State.core_setCore_same, List.map_append]
  rfl

theorem StoreBegun.before {key : Nat × Nat} (hr : Reads accessFields s u) (h : StoreBegun c key u t) : StoreBegun c key s t :=
  ⟨h.toBegins.before hr, by rw [h.stores, hr.cores c]⟩

theorem startStore_reading {ws : List (Nat × Bytes)} (hr : Reads accessFields s u) :
    StoreBegun c ((s.core c).nextOp, w.raw) s (startStore u c w ws) := by
  have h := startStore_begins u c w ws
  rw [hr.cores c] at h
  exact h.before hr

/-- The state once a transfer stands in the list, its reads on their way. -/
def copyListed (s : State) (c : Core) (w : WordX) (plan : List (Nat × Nat × Nat)) : State :=
  let r := askReads s c .copy (s.core c).nextOp (srcBytes (plan.filter fun r => r.1 != zeroSrc))
  r.s.setCore c { r.s.core c with
    copies := (r.s.core c).copies ++ [{ id := (s.core c).nextOp, word := w.raw, left := r.left, reqs := [], todo := []
                                        reading := true, plan := plan, got := r.got }]
    nextOp := (s.core c).nextOp + 1 }

theorem doCopy_begins (s : State) (c : Core) (w : WordX) (b : BoundX) : CopyBegun c ((s.core c).nextOp, w.raw)
    (copyPlan (Desc.of (descOf s c w.handle)) (Desc.of (descOf s c w.xhandle)) b) s (doCopy s c w b) := by
  show CopyBegun c _ (copyPlan (Desc.of (descOf s c w.handle)) (Desc.of (descOf s c w.xhandle)) b) s
    (copyTurn (copyListed s c w (copyPlan (Desc.of (descOf s c w.handle)) (Desc.of (descOf s c w.xhandle)) b)) c
      (s.core c).nextOp)
  generalize copyPlan (Desc.of (descOf s c w.handle)) (Desc.of (descOf s c w.xhandle)) b = plan
  have hsends := moves_copyTurn (copyListed s c w plan) c (s.core c).nextOp
  have hasks := (asks_askReads s c .copy (s.core c).nextOp (srcBytes (plan.filter fun r => r.1 != zeroSrc))).toReads
  have hcore := hasks.cores c
  have hbegins : Begins c s (copyListed s c w plan) := (begins_setCore (by rw [hcore])).before hasks
  refine ⟨hbegins.sends hsends, ?_, ?_⟩
  · rw [hsends.copies, copyListed, State.core_setCore_same, hcore, List.map_append]
    rfl
  · rw [hsends.plans, copyListed, State.core_setCore_same, hcore, List.map_append]
    rfl

/-! ### The operations of L, S and C -/

/-- Reading index entries and noting the rows that fall out changes no core but its tally. -/
theorem reads_rowFates (s : State) (c : Core) (w : WordX) (d x : Desc) (b : BoundX) :
    Reads accessFields s (rowFates s c w d x b).1 := reads_memRead _ _ _ _ _

theorem reports_fateRecords (s : State) (c : Core) (w : WordX) (fs : List RowFate) :
    Reports accessFields s (fateRecords s c w fs) := by
  refine Reports.trans (.ite (reports_record _ _ _ _ _ _ _ (by decide))) (Reports.foldl (fun _ _ => ?_) _ _)
  exact .ite (reports_record _ _ _ _ _ _ _ (by decide))

theorem writes_markProt (s : State) (c : Core) (at' : Nat) (fs : List RowFate) :
    Writes accessFields s (markProt s c at' fs) := by
  unfold markProt
  split
  · exact writes_localPut _ _ _ _
  · exact .refl s

theorem doLoad_begins (s : State) (c : Core) (w : WordX) (b : BoundX) :
    let d := Desc.of (descOf s c w.handle)
    let tile := tileOf d b.ext b.tile
    LoadBegun c w.handle d ((s.core c).nextOp, w.raw, loadRuns d b.ext tile b.tile (loadAt s c w d),
      if d.kind = 2 then slotHeader 0 0 0 b.tile 0 else tile.header d b.ext b.tile, loadAt s c w d, ringSlot s c w.handle d)
      s s (doLoad s c w b) := startLoad_begins rfl rfl w _ _ _

theorem doGather_begins_masked (s : State) (c : Core) (w : WordX) (b : BoundX)
    (h : (indexGroup (Desc.of (descOf s c w.handle)) b).2.2 = true) :
    let d := Desc.of (descOf s c w.handle)
    LoadBegun c w.handle d ((s.core c).nextOp, w.raw, [], slotHeader 0 0 0 b.tile 0, loadAt s c w d, ringSlot s c w.handle d)
      s s (doGather s c w b) := by
  unfold doGather
  dsimp only
  rw [if_pos h]
  exact startLoad_begins rfl rfl w _ _ _

theorem doGather_begins (s : State) (c : Core) (w : WordX) (b : BoundX)
    (h : (indexGroup (Desc.of (descOf s c w.handle)) b).2.2 = false) :
    let d := Desc.of (descOf s c w.handle)
    let x := Desc.of (descOf s c w.xhandle)
    let g : Tile := ⟨(indexGroup d b).1, 0, 0, false⟩
    let f := rowFates s c w d x b
    LoadBegun c w.handle d ((s.core c).nextOp, w.raw, rowRuns d (loadAt s c w d) (g.x0 d) (g.n0 d b.ext) 0 (fateRows f.2),
        slotHeader ((fateRows f.2).map fun r => 2 ^ r.1).sum (g.n0 d b.ext) 0 b.tile
          (ofBool (f.2.contains .outOfRange) + 2 * ofBool (f.2.contains .forbidden)),
        loadAt s c w d, ringSlot s c w.handle d) s f.1 (doGather s c w b) := by
  intro d x g f
  have hreports := reports_fateRecords f.1 c w f.2
  have hreads : Reads accessFields s (fateRecords f.1 c w f.2) := (reads_rowFates s c w d x b).trans hreports.reads
  have hcore := hreads.cores c
  have hring : ringSlot (fateRecords f.1 c w f.2) c w.handle d = ringSlot s c w.handle d := by
    rw [ringSlot, hcore]
    rfl
  have hgather : doGather s c w b = startLoad (fateRecords f.1 c w f.2) c w w.handle d (loadAt s c w d) _ _ :=
    if_neg (by rw [h]; decide)
  rw [hgather]
  exact (startLoad_begins (by rw [hcore]) hring w _ _ _).before hreads hreports.mem

theorem doStore_begins (s : State) (c : Core) (w : WordX) (b : BoundX) :
    StoreBegun c ((s.core c).nextOp, w.raw) s (doStore s c w b) := by
  unfold doStore
  dsimp only
  split
  · exact startStore_reading (reads_sramRead _ _)
  · exact startStore_reading (reads_sramRead _ _)

theorem doScatter_begins (s : State) (c : Core) (w : WordX) (b : BoundX) :
    StoreBegun c ((s.core c).nextOp, w.raw) s (doScatter s c w b) := by
  unfold doScatter
  dsimp only
  split
  · exact startStore_begins s c w []
  · refine startStore_reading (Reads.trans ?_ (reads_sramRead _ _))
    exact ((reads_rowFates s c w _ _ b).trans (reports_fateRecords _ _ _ _).reads).trans (writes_markProt _ _ _ _).reads

/-! ### The tile of a word -/

/-- What `Claims.tileBegun` looks at in the state after: the operations of core `c`, its rings and memory. -/
structure Engines (c : Core) (t u : State) : Prop where
  nextOp : (u.core c).nextOp = (t.core c).nextOp
  loads : (u.core c).loads = (t.core c).loads
  stores : (u.core c).stores = (t.core c).stores
  copies : (u.core c).copies = (t.core c).copies
  rings : (u.core c).rings = (t.core c).rings
  mem : Claims.memSame t u

theorem Claims.tileBegun_congr (h : Claims.tileBegun s t c w b) (he : Engines c t u) : Claims.tileBegun s u c w b := by
  have hring (n : Nat) : (u.core c).ring n = (t.core c).ring n := by rw [CoreX.ring, he.rings]; rfl
  obtain ⟨hnext, hload, hmasked, hgather, hmem, hslot, hstore, hcopy⟩ := h
  unfold Claims.tileBegun
  dsimp only
  simp only [he.nextOp, he.loads, he.stores, he.copies, hring]
  exact ⟨hnext, hload, hmasked, hgather, fun hop hidle => Claims.memSame_trans (hmem hop hidle) he.mem, hslot, hstore, hcopy⟩

theorem tileBegun_doLoad (hop : w.op = 8) : Claims.tileBegun s (doLoad s c w b) c w b := by
  have h := doLoad_begins s c w b
  refine ⟨h.nextOp, fun _ => h.loads, by omega, by omega, fun _ hidle => ?_, fun _ => h.ring, by omega, by omega⟩
  rw [if_neg (by omega)]
  exact h.mem hidle

theorem tileBegun_doGather (hop : w.op = 9) : Claims.tileBegun s (doGather s c w b) c w b := by
  cases hmask : (indexGroup (Desc.of (descOf s c w.handle)) b).2.2 with
  | true =>
    have h := doGather_begins_masked s c w b hmask
    refine ⟨h.nextOp, by omega, fun _ _ => h.loads, fun _ hrows => ?_, fun _ hidle => ?_, fun _ => h.ring, by omega, by omega⟩
    · exact absurd (hmask.symm.trans hrows) (by decide)
    · rw [if_neg fun hrows => absurd (hmask.symm.trans hrows.2) (by decide)]
      exact h.mem hidle
  | false =>
    have h := doGather_begins s c w b hmask
    refine ⟨h.nextOp, by omega, fun _ hrows => ?_, fun _ _ => h.loads, fun _ hidle => ?_, fun _ => h.ring, by omega, by omega⟩
    · exact absurd (hmask.symm.trans hrows) (by decide)
    · rw [if_pos ⟨hop, hmask⟩]
      exact h.mem hidle

theorem tileBegun_of_store (hop : w.op = 10 ∨ w.op = 11) (h : StoreBegun c ((s.core c).nextOp, w.raw) s t) :
    Claims.tileBegun s t c w b :=
  ⟨h.nextOp, by omega, by omega, by omega, by omega, by omega, fun _ => h.stores, by omega⟩

theorem tileBegun_doCopy (hop : w.op = 12) : Claims.tileBegun s (doCopy s c w b) c w b := by
  have h := doCopy_begins s c w b
  exact ⟨h.nextOp, by omega, by omega, by omega, by omega, by omega, by omega, fun _ => ⟨h.copies, h.plans⟩⟩

theorem moveEffect_begins (s : State) (c : Core) (b : BoundX) (hlow : 8 ≤ w.op) (hhigh : w.op ≤ 12) :
    Begins c s (moveEffect s c w b) ∧ Claims.tileBegun s (moveEffect s c w b) c w b := by
  obtain hop | hop | hop | hop | hop : w.op = 8 ∨ w.op = 9 ∨ w.op = 10 ∨ w.op = 11 ∨ w.op = 12 := by omega
  all_goals
    unfold moveEffect
    rw [hop]
  · exact ⟨(doLoad_begins s c w b).toBegins, tileBegun_doLoad hop⟩
  · refine ⟨?_, tileBegun_doGather hop⟩
    cases hmask : (indexGroup (Desc.of (descOf s c w.handle)) b).2.2 with
    | true => exact (doGather_begins_masked s c w b hmask).toBegins
    | false => exact (doGather_begins s c w b hmask).toBegins
  · exact ⟨(doStore_begins s c w b).toBegins, tileBegun_of_store (.inl hop) (doStore_begins s c w b)⟩
  · exact ⟨(doScatter_begins s c w b).toBegins, tileBegun_of_store (.inr hop) (doScatter_begins s c w b)⟩
  · exact ⟨(doCopy_begins s c w b).toBegins, tileBegun_doCopy hop⟩

/-! ### The close of a moving word -/

theorem Engines.refl (s : State) : Engines c s s := ⟨rfl, rfl, rfl, rfl, rfl, ⟨rfl, rfl⟩⟩

theorem Engines.trans (h : Engines c s t) (h' : Engines c t u) : Engines c s u where
  nextOp := h'.nextOp.trans h.nextOp
  loads := h'.loads.trans h.loads
  stores := h'.stores.trans h.stores
  copies := h'.copies.trans h.copies
  rings := h'.rings.trans h.rings
  mem := Claims.memSame_trans h.mem h'.mem

theorem Issues.engines (h : Issues c s t) : Engines c s t := by
  refine ⟨?_, ?_, ?_, ?_, ?_, h.mem⟩ <;> rw [h.own]

theorem engines_sealDue (s : State) (c : Core) (on : Bool) :
    Engines c s (if on then s.setCore c { s.core c with sealPhase := .due } else s) := by
  split
  · refine ⟨?_, ?_, ?_, ?_, ?_, ⟨rfl, rfl⟩⟩ <;> rw [State.core_setCore_same]
  · exact .refl s

theorem engines_advance (s : State) (c : Core) (st : Stream) (pc : Nat) (loops : List LoopX) :
    Engines c s (advance s c st pc loops false) := by
  obtain ⟨v, hv⟩ := advance_core s c st pc loops
  have hmem : Claims.memSame s (advance s c st pc loops false) := (closes_advance (but := []) s c st pc loops).mem
  refine ⟨?_, ?_, ?_, ?_, ?_, hmem⟩ <;> rw [hv] <;> cases st <;> rfl

theorem engines_closeWord (s : State) (c : Core) (w : WordX) (pc : Nat) (loops : List LoopX) :
    Engines c s (closeWord s c w false id pc loops false) := by
  have hsignal : (w.signal && false && w.op != 7) = false := by simp
  unfold closeWord
  dsimp only
  simp only [hsignal, Bool.false_eq_true, if_false, id]
  exact ((issues_issueWord w).engines.trans (engines_sealDue _ c w.seal)).trans (engines_advance _ c w.st pc loops)

/-- A word whose tile is under way closes, and its stream goes on. -/
theorem moveTile_closes (s : State) (c : Core) (b : BoundX) (hlow : 8 ≤ w.op) (hhigh : w.op ≤ 12) (runs : List (Nat × Nat))
    (pc : Nat) (loops : List LoopX) :
    let t := closeWord (unstage (moveEffect s c w b) runs) c w false id pc loops false
    Claims.goesTo t c w.st pc loops ∧ Claims.tileBegun s t c w b ∧ Claims.coresButTally s t c ∧
      ∀ n, pget t c n = pget s c n := by
  obtain ⟨hbegins, htile⟩ := moveEffect_begins s c b hlow hhigh
  have hunstage : Engines c (moveEffect s c w b) (unstage (moveEffect s c w b) runs) := ⟨rfl, rfl, rfl, rfl, rfl, ⟨rfl, rfl⟩⟩
  have hcloses := closes_closeWord (but := []) (unstage (moveEffect s c w b) runs) c w false (f := id) pc loops .refl
  refine ⟨goesTo_closeWord _ c w false id pc loops,
    Claims.tileBegun_congr htile (hunstage.trans (engines_closeWord _ c w pc loops)), fun d hd => ?_, fun n => ?_⟩
  · rw [hcloses.others d hd]
    exact hbegins.others d hd
  · exact (hcloses.regs _ _ (by decide)).trans (hbegins.regs _ _ (by decide))

/-! ### The wait for the bound words -/

theorem streamsStay_markDone (s : State) (c : Core) (st : Stream) (f : WordDone → WordDone) :
    streamsStay c s (markDone s c st f) := by
  unfold markDone
  split
  · exact streamsStay_trans (streamsStay_issueWord _ _ _) (streamsStay_markReady _ _ _ _)
  · exact streamsStay_markReady _ _ _ _

/-- A word of L, S or C that has issued and keeps what it took. -/
theorem holdMove_stream (s : State) (c : Core) (w : WordX) (b : BoundX) :
    ((holdMove s c w b).core c).stream w.st = { ((issueWord s c w).core c).stream w.st with bound := some b } := by
  rw [holdMove]
  dsimp only
  rw [State.core_setCore_same, CoreX.stream_setStream_same]

theorem issues_holdMove (s : State) (c : Core) (w : WordX) (b : BoundX) : Issues c s (holdMove s c w b) :=
  (issues_issueWord w).trans (issues_setStream w.st _)

/-- A word that waits for its bound words has issued. -/
theorem markDone_bounds (s : State) (c : Core) (st : Stream) :
    let d := (((markDone s c st fun d => { d with bounds := true }).core c).stream st).done
    d.bounds = true ∧ d.begun = true := by
  unfold markDone
  split
  · next w hw =>
    obtain rfl := fetchWord_st hw
    rw [markReady_done]
    exact ⟨rfl, issueWord_begun s c w⟩
  · rw [markReady_done]
    exact ⟨rfl, rfl⟩

theorem asksBounds_holdMove (s : State) (c : Core) (w : WordX) (b : BoundX) :
    let t := markDone (holdMove s c w b) c w.st fun d => { d with bounds := true }
    Claims.asksBounds s t c w.st w b ∧ Claims.coresKept s t c ∧ Claims.outsideKept s t := by
  intro t
  have hissues : Issues c s t := (issues_holdMove s c w b).trans (issues_markDone w.st _)
  have houtside : Claims.outsideKept s t := Claims.outsideKept_trans
    (Claims.outsideKept_trans (outsideKept_issueWord s c w) (outsideKept_setCore _ c _)) (outsideKept_markDone _ c w.st _)
  obtain ⟨hbounds, hbegun⟩ := markDone_bounds (holdMove s c w b) c w.st
  obtain ⟨d, n, hstream⟩ := streamsStay_markDone (holdMove s c w b) c w.st (fun d => { d with bounds := true }) w.st
  rw [holdMove_stream] at hstream
  have hpc := streamsStay_pc (streamsStay_issueWord s c w) w.st
  refine ⟨⟨(congrArg StreamX.pc hstream).trans hpc, hbounds, hbegun, congrArg StreamX.bound hstream, ?_, ?_, ?_, hissues.mem,
    hissues.regs⟩, hissues.others, houtside⟩ <;> rw [hissues.own]

/-! ### The commands -/

theorem moveOp_asks {op : Nat} (h : Claims.atMove s c st op w) (hb : ((s.core c).stream st).bound = none)
    (hneeds : needsBounds s c w = true) : ∃ t, moveOp s c st op = .next t ∧
      Claims.asksBounds s t c st w (boundAtIssue s c w) ∧ Claims.coresKept s t c ∧ Claims.outsideKept s t := by
  obtain ⟨hw, hop, hissued, hbounds, hroom⟩ := h
  obtain rfl := atWord_st hw
  refine ⟨_, ?_, asksBounds_holdMove s c w (boundAtIssue s c w)⟩
  unfold moveOp
  rw [atPart_made hw (by simp [hop, hissued, hbounds, hroom])]
  simp only [hb, hneeds, if_true, Option.getD_none]

theorem moveTile_of_staged {held : State} {runs : List (Nat × Nat)} (hruns : indexNeeds s c w b = runs)
    (h : stageHost held (partOfCore s c) .event runs = none) : moveTile s held c w b =
      closeWord (unstage (moveEffect s c w b) runs) c w false id (((s.core c).stream w.st).pc + 1)
        ((s.core c).stream w.st).loops false := by
  subst hruns
  unfold moveTile
  dsimp only
  rw [h]

theorem moveOp_moves {op : Nat} (h : Claims.atMove s c st op w) (hb : ((s.core c).stream st).bound = none)
    (hneeds : needsBounds s c w = false) (hstaged : stageHost (holdMove s c w (boundAtIssue s c w)) (partOfCore s c) .event
      (indexNeeds s c w (boundAtIssue s c w)) = none) :
    moveOp s c st op = .next (closeWord (unstage (moveEffect s c w (boundAtIssue s c w)) (indexNeeds s c w (boundAtIssue s c w)))
      c w false id (((s.core c).stream st).pc + 1) ((s.core c).stream st).loops false) := by
  obtain ⟨hw, hop, hissued, hbounds, hroom⟩ := h
  obtain rfl := atWord_st hw
  unfold moveOp
  rw [atPart_made hw (by simp [hop, hissued, hbounds, hroom])]
  simp only [hb, hneeds, Bool.false_eq_true, if_false, Option.getD_none]
  rw [moveTile_of_staged rfl hstaged]

theorem movesIssue : Claims.MovesIssue := by
  intro s c w i st op hi h hb b
  obtain ⟨hexec, hlow, hhigh⟩ : exec i s = moveOp s c st op ∧ 8 ≤ op ∧ op ≤ 12 := by
    simp only [List.mem_cons, Prod.mk.injEq, List.not_mem_nil, or_false] at hi
    rcases hi with ⟨rfl, rfl, rfl⟩ | ⟨rfl, rfl, rfl⟩ | ⟨rfl, rfl, rfl⟩ | ⟨rfl, rfl, rfl⟩ | ⟨rfl, rfl, rfl⟩ <;>
      exact ⟨rfl, by decide, by decide⟩
  rw [hexec]
  refine ⟨moveOp_asks h hb, fun hneeds hstaged => ⟨_, moveOp_moves h hb hneeds hstaged, rfl, ?_⟩⟩
  obtain ⟨hw, hop, -⟩ := h
  obtain rfl := atWord_st hw
  exact moveTile_closes s c b (by omega) (by omega) _ _ _

theorem reads_readBounds (s : State) (c : Core) (d : Desc) (e : Ext) : Reads accessFields s (readBounds s c d e).1 := by
  unfold readBounds
  dsimp only
  split
  · exact .refl s
  · split
    · split
      · exact .refl s
      · exact reads_memRead _ _ _ _ _
    · exact .refl s

/-- The state once the bound words of a word have been read, with the second tensor's extents. -/
def bothBoundsRead (s : State) (c : Core) (w : WordX) (b : BoundX) : State × Option Ext :=
  let r := readBounds s c (Desc.of (descOf s c w.handle)) b.ext
  if w.usesX then readBounds r.1 c (Desc.of (descOf s c w.xhandle)) b.xext else (r.1, some b.xext)

theorem reads_bothBoundsRead (s : State) (c : Core) (w : WordX) (b : BoundX) : Reads accessFields s (bothBoundsRead s c w b).1 := by
  unfold bothBoundsRead
  dsimp only
  split
  · exact (reads_readBounds _ _ _ _).trans (reads_readBounds _ _ _ _)
  · exact reads_readBounds _ _ _ _

theorem boundsKnown_moves {held : State} {e f : Ext} (he : (readBounds s c (Desc.of (descOf s c w.handle)) b.ext).2 = some e)
    (hf : (bothBoundsRead s c w b).2 = some f)
    (hcharge : chooseCharge (rangeCharges (bothBoundsRead s c w b).1 c w (Desc.of (descOf s c w.handle))
      (Desc.of (descOf s c w.xhandle)) { b with ext := e, xext := f }) = none) :
    boundsKnown s held c w b =
      moveTile (unstage (bothBoundsRead s c w b).1 (boundNeeds s c w)) held c w { b with ext := e, xext := f } := by
  unfold bothBoundsRead at hf hcharge ⊢
  unfold boundsKnown
  dsimp only at hf hcharge ⊢
  simp only [he, hf, hcharge]

theorem boundWordsMoveTile : Claims.BoundWordsMoveTile := by
  intro s c st w b e f hb hw hbounds hlow hhigh hstaged d y r q b' u he hf hcharge hindex
  obtain rfl := fetchWord_st hw
  have hreads : Reads accessFields s u :=
    (reads_bothBoundsRead s c w b).trans (reports_unstage _ (boundNeeds s c w)).reads
  have hstream : (u.core c).stream w.st = (s.core c).stream w.st := by
    rw [hreads.cores c]
    cases w.st <;> rfl
  have hpart : partOfCore u c = partOfCore s c := hreads.partOfCore (by decide) (by decide) c
  have hmove := moveTile_of_staged (s := u) (held := s) (c := c) (w := w) (b := b') rfl (by rw [hpart]; exact hindex)
  rw [hstream] at hmove
  have hexec : exec (.boundWordsRead c w.st) s = .next (moveTile u s c w b') := by
    show execBoundWordsRead c w.st s = _
    unfold execBoundWordsRead
    simp only [hb, hw, hbounds, hstaged, Bool.not_true, Bool.false_eq_true, if_false]
    rw [boundsKnown_moves he hf hcharge]
    rfl
  obtain ⟨hgoes, htile, hcores, hparams⟩ := moveTile_closes u c b' hlow hhigh (indexNeeds u c w b')
    (((s.core c).stream w.st).pc + 1) ((s.core c).stream w.st).loops
  refine ⟨_, hexec, hmove, ?_⟩
  rw [hmove]
  exact ⟨hgoes, htile, Claims.coresButTally_trans (fun d _ => hreads.cores d) hcores,
    fun n => (hparams n).trans (hreads.regs _ _ (by decide))⟩

/-- Settles O10: a word of L, S or C issues and waits for its bound words, or begins its operation and closes. -/
theorem movesStart : Obligations.MovesStart := ⟨movesIssue, boundWordsMoveTile⟩

end Beginning
end Sys2Proof.Machine
end

section
/-! O12: a local flag that holds more than 16 bits. -/

namespace Sys2Proof.Machine

/-- HALT, which waits for local flag 3 without a slack and signals it (05 R101, R121). -/
def haltAndSignal : Nat := 7 * 2 ^ 251 + 2 ^ 229 + 2 ^ 228 + 3 * 2 ^ 36 + 3 * 2 ^ 24 + 255 * 2 ^ 2

/-- Core 0 runs, its M stream at row 0 with HALT, and its local flag 3 holds 70,000, above the 65,535 at which a SIGNAL saturates. -/
def wideFlagState : State :=
  fset (mput { cores := [(0, { sm := { run := .running }, flags := [(3, 70000)] })] }
    (cellsAt (winAddr 0 storeOff) (leBytes 32 haltAndSignal))) .coreSeqStatusState 0 1

/-- The WAIT of that word is satisfied, and nothing is charged to the word. -/
theorem wideFlagState_waits :
    let w : WordX := ⟨.m, 0, haltAndSignal⟩
    atWord wideFlagState 0 .m true = .word w ∧ flagRef 0 w.wflag = some (.loc 0 3) ∧
      waitReady wideFlagState 0 .m 0 w ((wideFlagState.core 0).stream .m).done = true ∧
      chooseCharge (allCharges wideFlagState 0 .m w (!(Stream.m == .m && feedDue wideFlagState 0 w))) = none := by
  decide +kernel

/-- The WAIT takes 1 and the SIGNAL gives 1 back, since the flag is not at 65,535. -/
theorem wideFlagState_after (t : State) (h : exec (.waitSatisfied 0 .m 0) wideFlagState = .next t) :
    flagGet t (.loc 0 3) = 70000 := by
  have hrun : (match exec (.waitSatisfied 0 .m 0) wideFlagState with
    | .next t => flagGet t (.loc 0 3) == 70000
    | _ => false) = true := by decide +kernel
  rw [h] at hrun
  exact beq_iff_eq.mp hrun

theorem wideFlagState_back : Claims.backAtIssue wideFlagState 0 .m ⟨.m, 0, haltAndSignal⟩ (.loc 0 3) = 0 := by
  unfold Claims.backAtIssue
  decide +kernel

theorem not_waitTakesFlag : ¬ Claims.WaitTakesFlag := by
  intro h
  obtain ⟨hword, hflag, hready, hcharge⟩ := wideFlagState_waits
  obtain ⟨t, hexec, -, hget, -⟩ := h wideFlagState 0 .m 0 ⟨.m, 0, haltAndSignal⟩ (.loc 0 3) hword hflag hready (.inr hcharge)
  rw [wideFlagState_after t hexec, wideFlagState_back] at hget
  revert hget
  decide +kernel

/-- Refutes O12: the statement takes a flag above 65,535 for one that saturates, and the SIGNAL that a HALT makes as it issues adds 1
to it all the same. No SIGNAL raises a flag so far; the statement speaks of every state. -/
theorem not_waitsFeedsAndRendezvous : ¬ Obligations.WaitsFeedsAndRendezvous := fun h => not_waitTakesFlag h.1

end Sys2Proof.Machine
end

section
/-! O26: a value of READY that is wider than its field. -/

namespace Sys2Proof.Machine

/-- A running device, its link up and owned by the host; the register file lists 2 for READY of core 0, a field of one bit. -/
def wideReadyState : State :=
  let s := fset (fset (fset (fset { fns := [(0, { memSpace := true })] } .rotBootStatusStage 0 2) .hstLinkStatusUp 0 1)
    .hstOwnStatusState 0 2) .hstOwnStatusOwner 0 1
  { s with regs := tput s.regs (Field.key .coreParamReadyReady 0) 2 }

/-- The host's write of 1 to READY of core 0 is admitted. -/
theorem admits_wideReadyState :
    Claims.admits wideReadyState (.host 0 false .sound) (coreReg 0 0x300) 4 (ofBool true) := by
  unfold Claims.admits
  decide +kernel

/-- The write changes bit 0 alone, and the 3 that it makes of the listed 2 is not the 1 that sets READY. -/
theorem wideReadyState_after (t : State)
    (h : exec (.paramReadyWrite (.host 0 false .sound) 0 true) wideReadyState = .next t) :
    fget t .coreParamReadyReady 0 = 0 := by
  have hrun : (match exec (.paramReadyWrite (.host 0 false .sound) 0 true) wideReadyState with
    | .next t => fget t .coreParamReadyReady 0 == 0
    | _ => false) = true := by decide +kernel
  rw [h] at hrun
  exact beq_iff_eq.mp hrun

/-- Refutes O26: READY is a field of one bit, and the statement speaks of every state, also of one whose register file lists a wider
value for it. There a write of 1 to READY leaves READY at 0. No write makes such a value. -/
theorem not_shadowsAndCoreReset : ¬ Obligations.ShadowsAndCoreReset := by
  intro h
  obtain ⟨-, hready, -⟩ := h wideReadyState (.host 0 false .sound) 0
  obtain ⟨t, hexec, hget, -⟩ := hready true admits_wideReadyState
  exact absurd ((wideReadyState_after t hexec).symm.trans hget) (by decide)

end Sys2Proof.Machine
end

section
/-! O27: the registers of the memory units and of a work counter, each written by a command of its own (06 R151; 07 R157, R160,
R167, R170; 08 R452; 18 R428). -/

namespace Sys2Proof.Machine

section Units

variable {s : State} {w : Who} {q : MemDie} {k : Stack}

/-! ### The answer to a register write -/

/-- A state with other traffic of the fabric, and with something else sent. -/
def withTraffic (s : State) (x : NetX × List Out) : State := { s with net := x.1, sent := x.2 }

theorem withTraffic_self (s : State) : withTraffic s (s.net, s.sent) = s := rfl

@[simp] theorem fget_withTraffic (s : State) (x : NetX × List Out) (f : Field) (i : Nat) :
    fget (withTraffic s x) f i = fget s f i := rfl

@[simp] theorem withTraffic_grnDie (s : State) (x : NetX × List Out) (q : MemDie) :
    (withTraffic s x).grnDie q = s.grnDie q := rfl

/-- An answer to a master leaves the whole state but for that traffic: also the counters' queues and the memory dies, of
which `Reports` does not speak. -/
theorem mgmtAnswer_success (s : State) (w : Who) (data : Bytes) :
    ∃ x, mgmtAnswer s w kSUCCESS data = withTraffic s x := by
  unfold mgmtAnswer
  split
  · dsimp only
    rw [if_pos (Or.inl rfl)]
    unfold answer
    dsimp only
    split <;> exact ⟨(_, _), rfl⟩
  · exact ⟨(_, _), rfl⟩
  · exact ⟨(_, _), rfl⟩

/-- An admitted, fitting write of the baseboard controller or the fabric manager is made in the register map, and answered. -/
theorem registerRow_of_master {off n data : Nat} (hview : ∀ f ide tlp, w ≠ .host f ide tlp) (h : Claims.admits s w off n data)
    (hn : n = 4 ∨ n = 8) (hoff : off % n = 0) (hown : isOwnCtrl off = false) : ∃ v who,
      registerRow s w off n data = .next (mgmtAnswer (writeBus s w v who off n (bits data 0 (8 * n))) w kSUCCESS []) := by
  obtain ⟨hgate, hreach⟩ := h
  have hview' : viewOf w = 0 := by
    cases w with
    | host f ide tlp => exact absurd rfl (hview f ide tlp)
    | baseboard _ _ => rfl
    | fm _ => rfl
  have howner := isOwner_of_pass hview' hown hgate
  obtain ⟨v, who, hwrite⟩ := masterWrite_of_pass (size := if n = 4 then 0 else if n = 8 then 1 else 2)
    (by rcases hn with rfl | rfl <;> rfl) (by omega) hoff hown howner hgate
  refine ⟨v, who, ?_⟩
  unfold registerRow
  split
  · next f ide tlp => exact absurd rfl (hview f ide tlp)
  · rw [mgmtOp_of_owner hview hreach howner]
    dsimp only
    rw [hwrite]

/-- So is one of any requester, whose answer changes traffic alone. -/
theorem registerRow_writes {off n data : Nat} (h : Claims.admits s w off n data) (hn : n = 4 ∨ n = 8) (hoff : off % n = 0)
    (hown : isOwnCtrl off = false) (hdata : data < 2 ^ (8 * n)) :
    ∃ v who x, registerRow s w off n data = .next (withTraffic (writeBus s w v who off n data) x) := by
  have hbits : bits data 0 (8 * n) = data := Nat.mod_eq_of_lt hdata
  have hmaster (hview : ∀ f ide tlp, w ≠ .host f ide tlp) :
      ∃ v who x, registerRow s w off n data = .next (withTraffic (writeBus s w v who off n data) x) := by
    obtain ⟨v, who, hrow⟩ := registerRow_of_master hview h hn hoff hown
    obtain ⟨x, hanswer⟩ := mgmtAnswer_success (writeBus s w v who off n data) w []
    exact ⟨v, who, x, by rw [hrow, hbits, hanswer]⟩
  cases w with
  | host f ide tlp =>
    have hfits : bar0Fits off n = true := by
      rcases hn with rfl | rfl <;> simp [bar0Fits, hoff]
    have hrow := registerRow_of_admits h hfits
    rw [hbits] at hrow
    exact ⟨_, _, _, hrow.trans (congrArg _ (withTraffic_self _).symm)⟩
  | baseboard secured head => exact hmaster fun _ _ _ => by simp
  | fm src => exact hmaster fun _ _ _ => by simp

/-! ### A write inside one register -/

theorem groupCarried_one (a : Nat) (h : Carried) (l : List Carried) :
    groupCarried ((h :: l).map fun x => (a, x)) = [h :: l] := by
  induction l generalizing h with
  | nil => rfl
  | cons x l ih =>
    have hrest := ih x
    simp only [List.map_cons] at hrest ⊢
    unfold groupCarried
    rw [hrest]
    simp

/-- What a write of `n` bytes at `off` carries of the fields `fs` of the register of `g` at the index `l`. -/
def carriedOf (s : State) (g : Field) (l : List Nat) (off n data : Nat) (fs : List Field) : List Carried :=
  fs.map fun f => carry s off n data ⟨f, regIndex g l, regAt g l⟩

/-- An offset of the registers of a block, at a unit that is not busy. -/
structure OpenAt (s : State) (b : Block) (off : Nat) : Prop where
  block : blockOf off = some b
  ctl : blkctlAt b off = none
  msix : inMsix off = false
  own : isOwnCtrl off = false
  busy : busyUnit s b off = none

/-- Outside the cores' block, beyond the MSI-X table, and not in BLKCTL, registers are open to writes while their unit is
not busy. -/
theorem openAt_of_place {b : Block} {off : Nat} (hblock : blockOf off = some b) (hcore : b ≠ .core) (hfar : 0x1_1000 ≤ off)
    (hctl : off - blockBase b < 0xF_FF00 ∨ 0xF_FF10 ≤ off - blockBase b) (hbusy : busyUnit s b off = none) :
    OpenAt s b off where
  block := hblock
  ctl := by
    unfold blkctlAt
    simp only [if_neg hcore]
    exact if_neg (by omega)
  msix := decide_eq_false (by omega)
  own := beq_false_of_ne (by omega)
  busy := hbusy

/-- A write inside one register whose unit is not busy writes that register alone. -/
theorem writeBus_reg {v who off n data j : Nat} {b : Block} {g f : Field} {l : List Nat} {fs : List Field}
    (ho : OpenAt s b off) (hat : off = regAt g l + j) (hg : regAlone g = true) (hl : dimsIn g.spec.dims l = true)
    (hn : 0 < n) (hj : j + n ≤ g.spec.bytes) (hfs : Field.all.filter (sameReg g) = f :: fs) (hroute : f ≠ .sklRouteOut) :
    writeBus s w v who off n data = writeReg w who off n s (carriedOf s g l off n data (f :: fs)) := by
  have hhead : (carry s off n data ⟨f, regIndex g l, regAt g l⟩).f = f := by
    unfold carry
    dsimp only
    split <;> rfl
  have hreached : (reached off n).map (fun r => (r.start, carry s off n data r)) =
      (carriedOf s g l off n data (f :: fs)).map fun x => (regAt g l, x) := by
    rw [hat, reached_reg hg hl hn hj, regFields, hfs, carriedOf, List.map_map, List.map_map]
    rfl
  unfold writeBus
  simp only [ho.block, ho.ctl, ho.busy, ho.msix, hreached, carriedOf, List.map_cons, hhead, hroute, if_false,
    Bool.false_eq_true]
  rw [← List.map_cons (f := fun x => (regAt g l, x)), groupCarried_one]
  rfl

/-- An admitted write inside one register, by a command of its own, writes that register alone. -/
theorem registerRow_reg {off n data j : Nat} {b : Block} {g f : Field} {l : List Nat} {fs : List Field}
    (h : Claims.admits s w off n data) (hn : n = 4 ∨ n = 8) (hoff : off % n = 0) (hdata : data < 2 ^ (8 * n))
    (ho : OpenAt s b off) (hat : off = regAt g l + j) (hg : regAlone g = true) (hl : dimsIn g.spec.dims l = true)
    (hj : j + n ≤ g.spec.bytes) (hfs : Field.all.filter (sameReg g) = f :: fs) (hroute : f ≠ .sklRouteOut) :
    ∃ who x, registerRow s w off n data =
      .next (withTraffic (writeReg w who off n s (carriedOf s g l off n data (f :: fs))) x) := by
  obtain ⟨v, who, x, hrow⟩ := registerRow_writes h hn hoff ho.own hdata
  rw [writeBus_reg ho hat hg hl (by omega) hj hfs hroute] at hrow
  exact ⟨who, x, hrow⟩

/-- What a field holds before a write brings its bits in: one that only writes show reads as 0. -/
def heldOf (s : State) (f : Field) (i : Nat) : Nat :=
  if f.spec.access = .wo ∨ f.spec.access = .rwp then 0 else fget s f i

/-- A field that lies wholly in a write takes its bits of the data. -/
theorem carry_covered {f : Field} {i start off n j : Nat} (data : Nat) (hoff : off = start + j) (hw : 0 < f.spec.width)
    (hlo : 8 * j ≤ f.spec.lo) (hhi : f.spec.lo + f.spec.width ≤ 8 * (j + n)) : carry s off n data ⟨f, i, start⟩ =
      ⟨f, i, putBits (heldOf s f i) 0 f.spec.width (bits data (f.spec.lo - 8 * j) f.spec.width), true, true⟩ := by
  have hmax : max (8 * start + f.spec.lo) (8 * off) = 8 * start + f.spec.lo := by omega
  have hmin : min (8 * start + f.spec.lo + f.spec.width) (8 * off + 8 * n) = 8 * start + f.spec.lo + f.spec.width := by omega
  have hin : 8 * start + f.spec.lo < 8 * start + f.spec.lo + f.spec.width := by omega
  have hplace : 8 * start + f.spec.lo - 8 * off = f.spec.lo - 8 * j := by omega
  unfold carry heldOf
  simp only [hmax, hmin, hin, hplace, if_true, Nat.sub_self, Nat.add_sub_cancel_left, decide_true]

/-- A field that lies wholly before a write is not in it. -/
theorem carry_before {f : Field} {i start off n j : Nat} (data : Nat) (hoff : off = start + j)
    (hhi : f.spec.lo + f.spec.width ≤ 8 * j) : carry s off n data ⟨f, i, start⟩ = ⟨f, i, heldOf s f i, false, false⟩ := by
  unfold carry heldOf
  dsimp only
  rw [if_neg (by omega)]

theorem putBits_mod (v w x : Nat) : putBits v 0 w x % 2 ^ w = x % 2 ^ w := by
  have hsub : v - v % 2 ^ w = 2 ^ w * (v / 2 ^ w) := by
    have := Nat.div_add_mod v (2 ^ w)
    omega
  simp [putBits, bits, hsub]

theorem bits_mod (v lo w : Nat) : bits v lo w % 2 ^ w = bits v lo w := Nat.mod_mod _ _

/-- A field that only writes show takes the bits of the data as they are. -/
theorem putBits_zero (data lo w : Nat) : putBits 0 0 w (bits data lo w) = bits data lo w := by
  simp [putBits, bits]

/-! ### The schedule of a memory die (07 R157, R160) -/

/-- While BUSY of a die is 0, its registers are open to writes (18 R428). -/
theorem openAt_grnReg {o : Nat} (ho : o < 0x1000) (hbusy : fget s .grnCtrlBusy q.val = 0) :
    OpenAt s .grn (grnReg q o) := by
  have hq := q.isLt
  have hrel : grnReg q o - blockBase .grn = q.val * 0x10_0000 + o := by
    unfold grnReg blockBase
    dsimp only
    omega
  have hdie : (grnReg q o - blockBase .grn) / 2 ^ 20 % 16 = q.val := by omega
  have hblock : blockOf (grnReg q o) = some .grn := by
    unfold blockOf grnReg
    grind
  refine openAt_of_place hblock (by decide) (by unfold grnReg; omega) (by omega) ?_
  unfold busyUnit
  simp only [hdie, fbit, hbusy]
  rfl

/-- A write of an entry of the schedule; `v` holds the code in its low bits. -/
theorem schedReg_written {i : Fin 64} {data : Nat} (h : Claims.admits s w (grnReg q (4 * i.val)) 4 data)
    (hbusy : fget s .grnCtrlBusy q.val = 0) (hdata : data < 2 ^ 32) : ∃ v x, v % 512 = data % 512 ∧
      registerRow s w (grnReg q (4 * i.val)) 4 data =
        .next (withTraffic (writeSched s q i.val v (grnReg q (4 * i.val))) x) := by
  have hi := i.isLt
  have hindex : regIndex .grnSchedOwner [q.val, i.val] = q.val * 64 + i.val := by simp [regIndex, dimsIndex, Field.spec]
  have hreg : grnReg q (4 * i.val) = regAt .grnSchedOwner [q.val, i.val] + 0 := by
    simp [grnReg, regAt, dimsAt, Field.spec]
    omega
  have hdie : (⟨(q.val * 64 + i.val) / Field.inner .grnSchedOwner % 16, Nat.mod_lt _ (by decide)⟩ : MemDie) = q := by
    apply Fin.ext
    simp [Field.inner, Field.spec]
    omega
  have hentry : (q.val * 64 + i.val) % 64 = i.val := by omega
  obtain ⟨who, x, hrow⟩ := registerRow_reg (f := .grnSchedOwner) (fs := []) h (.inl rfl) (by unfold grnReg; omega) hdata
    (openAt_grnReg (by omega) hbusy) hreg (by decide +kernel) (by simp [dimsIn, Field.spec]) (by decide) (by decide +kernel)
    (by decide)
  rw [carriedOf, List.map_cons, List.map_nil, carry_covered _ hreg (by decide) (by decide) (by decide)] at hrow
  refine ⟨putBits (heldOf s .grnSchedOwner (q.val * 64 + i.val)) 0 9 (bits data 0 9), x, ?_, hrow.trans ?_⟩
  · exact (putBits_mod _ 9 _).trans (bits_mod _ 0 9)
  · unfold writeReg
    simp only [hindex, hdie, hentry]
    rfl

theorem logRegister_grnDie (s : State) (p : Option Part) (x : UnitRef) (off : Nat) :
    (logRegister s p x off).grnDie q = s.grnDie q := by
  unfold logRegister
  rcases record_cases s .register .info p x .none 0 (.names 385 [off]) with ⟨-, r, h⟩ | ⟨-, h⟩ <;> rw [h] <;> rfl

/-- A write of the schedule leaves the entries in force as they are. -/
theorem writeSched_table (s : State) (q : MemDie) (i v off : Nat) :
    ((writeSched s q i v off).grnDie q).table = (s.grnDie q).table := by
  have hcoded : (if grnCodeOk (v % 512) then s else logRegister s none (.grn q) off).grnDie q = s.grnDie q := by
    split
    · rfl
    · exact logRegister_grnDie s _ _ _
  unfold writeSched
  split
  · rfl
  · dsimp only
    generalize (if grnCodeOk (v % 512) then s else logRegister s none (.grn q) off) = r at hcoded ⊢
    generalize (if grnCodeOk (v % 512) then v % 512 else 0x1FF) = code
    split
    · rw [State.grnDie_setGrnDie_same]
      exact congrArg (·.table) hcoded
    · exact congrArg GrnX.table ((logRegister_grnDie _ _ _ _).trans hcoded)

theorem writeSched_refresh (s : State) (q : MemDie) (v off : Nat) : writeSched s q 63 v off = s := rfl

/-- A code that is one, in a frame that keeps a SHARED or IDLE entry, is stored. -/
theorem writeSched_stores {i v : Nat} (off : Nat) (hi : i < 63) (hcode : v % 512 ≤ 0x102 ∨ v % 512 = 0x1FF)
    (hkeeps : schedKeepsShared s q i (v % 512) = true) : writeSched s q i v off =
      (fset s .grnSchedOwner (q.val * 64 + i) (v % 512)).setGrnDie q
        { s.grnDie q with written := tset (fun _ => 0x200) (s.grnDie q).written i (v % 512) } := by
  have hok : grnCodeOk (v % 512) = true := by simpa [grnCodeOk] using hcode
  unfold writeSched
  simp only [hok, hkeeps, if_true]
  rw [if_neg (by omega)]

theorem schedWrite_takes {i : Fin 64} {v : Word} (h : Claims.admits s w (grnReg q (4 * i.val)) 4 v.toNat)
    (hbusy : fget s .grnCtrlBusy q.val = 0) :
    ∃ t, exec (.grnSchedWrite w q i v) s = .next t ∧ (t.grnDie q).table = (s.grnDie q).table ∧
      (i.val = 63 → fget t .grnSchedOwner (q.val * 64 + i.val) = fget s .grnSchedOwner (q.val * 64 + i.val)) ∧
      (i.val < 63 → (v.toNat % 512 ≤ 0x102 ∨ v.toNat % 512 = 0x1FF) → schedKeepsShared s q i.val (v.toNat % 512) = true →
        fget t .grnSchedOwner (q.val * 64 + i.val) = v.toNat % 512 ∧
          tget (fun _ => 0x200) (t.grnDie q).written i.val = v.toNat % 512) := by
  obtain ⟨code, x, hcoded, hrow⟩ := schedReg_written h hbusy v.isLt
  refine ⟨_, hrow, writeSched_table s q i.val code _, fun hlast => ?_, fun hi hcode hkeeps => ?_⟩
  · rw [hlast, writeSched_refresh, fget_withTraffic]
  · rw [← hcoded] at hcode hkeeps ⊢
    rw [writeSched_stores _ hi hcode hkeeps, fget_withTraffic, withTraffic_grnDie, State.grnDie_setGrnDie_same,
      fget_setGrnDie, fget_fset_same]
    exact ⟨Nat.mod_mod _ _, tget_tset_same _ _ _ _⟩

/-! ### The clear and the self-test of a memory die (07 R167, R170) -/

/-- A write of GRN_CTRL starts what its data say. -/
theorem grnCtrl_written {data : Nat} (h : Claims.admits s w (grnReg q 0x400) 4 data) (hbusy : fget s .grnCtrlBusy q.val = 0)
    (hdata : data < 2 ^ 32) : ∃ x, registerRow s w (grnReg q 0x400) 4 data =
      .next (withTraffic (writeGrnCtrl s q (bits data 0 1 + 4 * bits data 2 1)) x) := by
  have hfields : Field.all.filter (sameReg .grnCtrlClear) = [.grnCtrlClear, .grnCtrlBusy, .grnCtrlSelftest] := by
    decide +kernel
  have hindex : regIndex .grnCtrlClear [q.val] = q.val := by simp [regIndex, dimsIndex, Field.spec]
  have hreg : grnReg q 0x400 = regAt .grnCtrlClear [q.val] + 0 := by
    simp [grnReg, regAt, dimsAt, Field.spec]
    omega
  have hdie : (⟨q.val / Field.inner .grnCtrlClear % 16, Nat.mod_lt _ (by decide)⟩ : MemDie) = q := by
    apply Fin.ext
    simp [Field.inner, Field.spec]
  have hclear : putBits (heldOf s .grnCtrlClear q.val) 0 1 (bits data 0 1) = bits data 0 1 := putBits_zero data 0 1
  have hselftest : putBits (heldOf s .grnCtrlSelftest q.val) 0 1 (bits data 2 1) = bits data 2 1 := putBits_zero data 2 1
  obtain ⟨who, x, hrow⟩ := registerRow_reg h (.inl rfl) (by unfold grnReg; omega) hdata (openAt_grnReg (by decide) hbusy) hreg
    (by decide +kernel) (by simp [dimsIn, Field.spec]) (by decide) hfields (by decide)
  simp only [carriedOf, List.map_cons, List.map_nil, hindex] at hrow
  rw [carry_covered _ hreg (by decide) (by decide) (by decide), carry_covered _ hreg (by decide) (by decide) (by decide),
    carry_covered _ hreg (by decide) (by decide) (by decide)] at hrow
  refine ⟨x, hrow.trans ?_⟩
  unfold writeReg
  simp only [hdie]
  rw [← hclear, ← hselftest]
  rfl

theorem flashClear_starts (h : Claims.admits s w (grnReg q 0x400) 4 1) (hbusy : fget s .grnCtrlBusy q.val = 0) :
    ∃ t, exec (.flashClear w q) s = .next t ∧ fget t .grnStatusState q.val = 1 ∧ fget t .grnCtrlBusy q.val = 1 ∧
      Claims.memSame s t ∧ t.grnValid = s.grnValid := by
  obtain ⟨x, hrow⟩ := grnCtrl_written h hbusy (by decide)
  have hwrite : writeGrnCtrl s q (bits 1 0 1 + 4 * bits 1 2 1) = fset (startClear s q) .grnCtrlClear q.val 1 := rfl
  rw [hwrite, startClear] at hrow
  refine ⟨_, hrow, ?_, ?_, ⟨rfl, rfl⟩, rfl⟩
  · rw [fget_withTraffic, fget_fset_other _ _ (by simp), fget_fset_other _ _ (by simp), fget_fset_same]
    rfl
  · rw [fget_withTraffic, fget_fset_other _ _ (by simp), fget_fset_same]
    rfl

theorem selftest_starts (h : Claims.admits s w (grnReg q 0x400) 4 4) (hbusy : fget s .grnCtrlBusy q.val = 0) :
    ∃ t, exec (.selftest w q) s = .next t ∧ fget t .grnStatusState q.val = 2 ∧ fget t .grnCtrlBusy q.val = 1 ∧
      Claims.memSame s t ∧ t.grnValid = s.grnValid := by
  obtain ⟨x, hrow⟩ := grnCtrl_written h hbusy (by decide)
  have hwrite : writeGrnCtrl s q (bits 4 0 1 + 4 * bits 4 2 1) = startSelftest s q := rfl
  rw [hwrite, startSelftest] at hrow
  refine ⟨_, hrow, ?_, ?_, ⟨rfl, rfl⟩, rfl⟩
  · rw [fget_withTraffic, fget_fset_other _ _ (by simp), fget_fset_other _ _ (by simp), fget_fset_same]
    rfl
  · rw [fget_withTraffic, fget_fset_other _ _ (by simp), fget_fset_same]
    rfl

/-! ### An injection (08 R452) -/

/-- OFFSET and NSYM of HBM_INJECT of a stack are stored. -/
def injectSet (s : State) (k : Stack) (offset nsym : Nat) : State :=
  fset (fset s .hbmInjectOffset k.val offset) .hbmInjectNsym k.val nsym

/-- ARM is written 1: a count of 0 takes an injection back, then ARM latches. -/
def injectArmed (s : State) (k : Stack) (off : Nat) : State :=
  armInject (if fget s .hbmInjectNsym k.val = 0 then fset s .hbmInjectArm k.val 0 else s) k off

/-- The BAR0 offset of HBM_INJECT of a stack. -/
def injectReg (k : Stack) : Nat := 0xC0_0030 + k.val * 0x2_0000

/-- While no arm of its injection is to be latched, a stack's registers are open to writes (18 R428). -/
theorem openAt_injectReg (hidle : (s.stack k).arming = false) : OpenAt s .hbm (injectReg k) := by
  have hk := k.isLt
  have hrel : injectReg k - blockBase .hbm = 0x30 + k.val * 0x2_0000 := by
    unfold injectReg blockBase
    dsimp only
    omega
  have hstack : (⟨(injectReg k - blockBase .hbm) / 2 ^ 17 % 8, Nat.mod_lt _ (by decide)⟩ : Stack) = k :=
    Fin.ext (show (injectReg k - blockBase .hbm) / 2 ^ 17 % 8 = k.val by omega)
  have hblock : blockOf (injectReg k) = some .hbm := by
    unfold blockOf injectReg
    grind
  refine openAt_of_place hblock (by decide) (by unfold injectReg; omega) (by omega) ?_
  unfold busyUnit
  simp only [hstack, hidle, Bool.and_false, Bool.false_eq_true, if_false]

/-- A write of HBM_INJECT with ARM 1; `offset` and `nsym` hold what it stores in their low bits. -/
theorem injectReg_written {data : Nat} (h : Claims.admits s w (injectReg k) 8 data) (hidle : (s.stack k).arming = false)
    (hdata : data < 2 ^ 64) (hbit : bits data 42 1 = 1) :
    ∃ offset nsym x, offset % 2 ^ 39 = bits data 0 39 ∧ nsym % 2 ^ 3 = bits data 39 3 ∧ registerRow s w (injectReg k) 8 data =
      .next (withTraffic (injectArmed (injectSet s k offset nsym) k (injectReg k)) x) := by
  have hk := k.isLt
  have hfields : Field.all.filter (sameReg .hbmInjectOffset) = [.hbmInjectOffset, .hbmInjectNsym, .hbmInjectArm] := by
    decide +kernel
  have hindex : regIndex .hbmInjectOffset [k.val] = k.val := by simp [regIndex, dimsIndex, Field.spec]
  have hreg : injectReg k = regAt .hbmInjectOffset [k.val] + 0 := by simp [injectReg, regAt, dimsAt, Field.spec]
  have hstack : (⟨k.val % 8, Nat.mod_lt _ (by decide)⟩ : Stack) = k := Fin.ext (Nat.mod_eq_of_lt hk)
  have harm : carry s (injectReg k) 8 data ⟨.hbmInjectArm, k.val, regAt .hbmInjectOffset [k.val]⟩ =
      ⟨.hbmInjectArm, k.val, 1, true, true⟩ := by
    rw [carry_covered _ hreg (by decide) (by decide) (by decide)]
    exact congrArg (Carried.mk _ _ · _ _) ((putBits_zero data 42 1).trans hbit)
  obtain ⟨who, x, hrow⟩ := registerRow_reg h (.inr rfl) (by unfold injectReg; omega) hdata (openAt_injectReg hidle) hreg
    (by decide +kernel) (by simp [dimsIn, Field.spec]) (by decide) hfields (by decide)
  simp only [carriedOf, List.map_cons, List.map_nil, hindex] at hrow
  rw [harm, carry_covered _ hreg (by decide) (by decide) (by decide),
    carry_covered _ hreg (by decide) (by decide) (by decide)] at hrow
  refine ⟨putBits (heldOf s .hbmInjectOffset k.val) 0 39 (bits data 0 39), putBits (heldOf s .hbmInjectNsym k.val) 0 3
    (bits data 39 3), x, ?_, ?_, hrow.trans ?_⟩
  · exact (putBits_mod _ 39 _).trans (bits_mod _ _ _)
  · exact (putBits_mod _ 3 _).trans (bits_mod _ _ _)
  · unfold writeReg
    simp only [hstack]
    rfl

theorem injectSet_offset (s : State) (k : Stack) (offset nsym : Nat) :
    fget (injectSet s k offset nsym) .hbmInjectOffset k.val = offset % 2 ^ 39 := by
  rw [injectSet, fget_fset_other _ _ (by simp), fget_fset_same]
  rfl

theorem injectSet_nsym (s : State) (k : Stack) (offset nsym : Nat) :
    fget (injectSet s k offset nsym) .hbmInjectNsym k.val = nsym % 2 ^ 3 := by
  rw [injectSet, fget_fset_same]
  rfl

/-- The arm of an injection changes ARM alone, and writes a record at most. -/
theorem reports_injectArmed (s : State) (k : Stack) (off : Nat) :
    Reports [.hbmInjectArm, .errLostDropped] s (injectArmed s k off) := by
  have harm (r : State) (v : Nat) : Reports [.hbmInjectArm, .errLostDropped] r (fset r .hbmInjectArm k.val v) :=
    reports_fset _ _ _ (by decide) (by decide)
  have hback : Reports [.hbmInjectArm, .errLostDropped] s
    (if fget s .hbmInjectNsym k.val = 0 then fset s .hbmInjectArm k.val 0 else s) := .ite (harm s 0)
  unfold injectArmed
  generalize (if fget s .hbmInjectNsym k.val = 0 then fset s .hbmInjectArm k.val 0 else s) = r at hback ⊢
  refine hback.trans ?_
  unfold armInject
  split
  · exact reports_record _ _ _ _ _ _ _ (by decide)
  · split
    · exact .refl _
    · exact (harm _ 1).trans (.of_eq rfl rfl rfl rfl rfl)

/-- An injection into the stack itself, of one symbol or more, is armed. -/
theorem injectArmed_latches {off : Nat} (hoff : fget s .hbmInjectOffset k.val / 2 ^ 36 = k.val)
    (hnsym : fget s .hbmInjectNsym k.val ≠ 0) : fget (injectArmed s k off) .hbmInjectArm k.val = 1 := by
  unfold injectArmed armInject
  rw [if_neg hnsym, if_neg (not_not.2 hoff), if_neg hnsym, fget_setStack, fget_fset_same]
  rfl

/-- The bits of the value that INJECT_ARM writes. -/
theorem injectValue_bits (v : Nat) : bits (v % 2 ^ 42 + 2 ^ 42) 0 39 = v % 2 ^ 39 ∧
    bits (v % 2 ^ 42 + 2 ^ 42) 39 3 = v / 2 ^ 39 % 8 ∧ bits (v % 2 ^ 42 + 2 ^ 42) 42 1 = 1 := by
  unfold bits
  simp only [Nat.shiftRight_eq_div_pow]
  omega

theorem injectArm_latches {v : Dword} (hidle : (s.stack k).arming = false)
    (h : Claims.admits s w (0xC0_0030 + k.val * 0x2_0000) 8 (v.toNat % 2 ^ 42 + 2 ^ 42)) :
    ∃ t, exec (.injectArm w k v) s = .next t ∧ fget t .hbmInjectOffset k.val = v.toNat % 2 ^ 39 ∧
      fget t .hbmInjectNsym k.val = v.toNat / 2 ^ 39 % 8 ∧
      (v.toNat % 2 ^ 39 / 2 ^ 36 = k.val → v.toNat / 2 ^ 39 % 8 ≠ 0 → fget t .hbmInjectArm k.val = 1) ∧
      Claims.memSame s t := by
  obtain ⟨hlow, hmid, hbit⟩ := injectValue_bits v.toNat
  obtain ⟨offset, nsym, x, hoff, hcount, hrow⟩ := injectReg_written h hidle (by omega) hbit
  have hoffset := (injectSet_offset s k offset nsym).trans (hoff.trans hlow)
  have hnsym := (injectSet_nsym s k offset nsym).trans (hcount.trans hmid)
  have harmed := reports_injectArmed (injectSet s k offset nsym) k (injectReg k)
  refine ⟨_, hrow, (harmed.regs _ _ (by decide)).trans hoffset, (harmed.regs _ _ (by decide)).trans hnsym,
    fun hstack hsome => ?_, harmed.mem⟩
  exact injectArmed_latches (by rw [hoffset, hstack]) (by rwa [hnsym])

/-! ### The arming of a work counter (06 R151) -/

theorem dropFirst_append_of_none {α : Type} {p : α → Bool} {l : List α} {a : α} (hl : ∀ e ∈ l, p e = false)
    (ha : p a = true) : dropFirst p (l ++ [a]) = l := by
  induction l with
  | nil => simp [dropFirst, ha]
  | cons e l ih =>
    obtain ⟨he, hl⟩ := List.forall_mem_cons.1 hl
    rw [List.cons_append, dropFirst, he, ih hl]
    rfl

/-- An arm that nothing stands before takes effect at once. -/
theorem queueArm_of_idle {c : Ctr} (hidle : ∀ e ∈ s.ctrQueue, e.1 ≠ c.val) : queueArm s c = armCounter s c.val := by
  have hother : ∀ e ∈ s.ctrQueue, (e.1 == c.val) = false := fun e he => beq_false_of_ne (hidle e he)
  have hnone : asksIn c s.ctrQueue = [] := by simpa [asksIn, List.filter_eq_nil_iff] using hidle
  have hpop : popCtr c (s.ctrQueue ++ [(c.val, .arm)]) = some (.arm, s.ctrQueue) := by
    have hfind : s.ctrQueue.find? (fun e => e.1 == c.val) = none := by simpa using hidle
    have hdrop := dropFirst_append_of_none (a := (c.val, CtrAsk.arm)) hother (beq_self_eq_true _)
    unfold popCtr
    rw [List.find?_append, hfind, hdrop]
    simp
  unfold queueArm
  dsimp only
  rw [List.length_append, List.length_singleton, drainArms, hpop]
  refine drainArms_of_not_arm (s := armCounter s c.val) ?_
  show (asksIn c s.ctrQueue).head? ≠ _
  rw [hnone]
  simp

/-- The BAR0 offset of AUTO and ARM of a work counter. -/
def armReg (c : Ctr) : Nat := 0x8_0000 + 16 * c.val + 12

theorem openAt_armReg (s : State) (c : Ctr) : OpenAt s .hst (armReg c) := by
  have hc := c.isLt
  have hrel : armReg c - blockBase .hst = armReg c := rfl
  have hblock : blockOf (armReg c) = some .hst := if_pos (by unfold armReg; omega)
  exact openAt_of_place hblock (by decide) (by unfold armReg; omega) (by rw [hrel]; unfold armReg; omega) rfl

/-- A write of AUTO with ARM 1 stores AUTO, and the arm joins the queue of its counter. -/
theorem armReg_written {c : Ctr} {data : Nat} (h : Claims.admits s w (armReg c) 4 data) (hdata : data < 2 ^ 32)
    (hbit : bits data 1 1 = 1) : ∃ auto x, registerRow s w (armReg c) 4 data =
      .next (withTraffic (queueArm (fset s .hstWorkAuto c.val auto) c) x) := by
  have hc := c.isLt
  have hfields : Field.all.filter (sameReg .hstWorkNext) = [.hstWorkNext, .hstWorkLimit, .hstWorkBase, .hstWorkAuto,
      .hstWorkArm] := by decide +kernel
  have hindex : regIndex .hstWorkNext [c.val] = c.val := by simp [regIndex, dimsIndex, Field.spec]
  have hreg : armReg c = regAt .hstWorkNext [c.val] + 12 := by
    simp [armReg, regAt, dimsAt, Field.spec]
    omega
  have hctr : (⟨c.val % 64, Nat.mod_lt _ (by decide)⟩ : Ctr) = c := Fin.ext (Nat.mod_eq_of_lt hc)
  have harm : carry s (armReg c) 4 data ⟨.hstWorkArm, c.val, regAt .hstWorkNext [c.val]⟩ =
      ⟨.hstWorkArm, c.val, 1, true, true⟩ := by
    rw [carry_covered _ hreg (by decide) (by decide) (by decide)]
    exact congrArg (Carried.mk _ _ · _ _) ((putBits_zero data 1 1).trans hbit)
  obtain ⟨who, x, hrow⟩ := registerRow_reg h (.inl rfl) (by unfold armReg; omega) hdata (openAt_armReg s c) hreg
    (by decide +kernel) (by simp [dimsIn, Field.spec]) (by decide) hfields (by decide)
  simp only [carriedOf, List.map_cons, List.map_nil, hindex] at hrow
  rw [harm, carry_before _ hreg (by decide), carry_before _ hreg (by decide), carry_before _ hreg (by decide),
    carry_covered _ hreg (by decide) (by decide) (by decide)] at hrow
  refine ⟨putBits (heldOf s .hstWorkAuto c.val) 0 1 (bits data 0 1), x, hrow.trans ?_⟩
  unfold writeReg
  simp only [hctr]
  rfl

theorem workArm_arms {c : Ctr} (h : Claims.admits s w (0x8_0000 + 16 * c.val + 12) 4 (fget s .hstWorkAuto c.val + 2))
    (hidle : ∀ e ∈ s.ctrQueue, e.1 ≠ c.val) (hbase : fget s .hstWorkBase c.val < 2 ^ 32)
    (hauto : fget s .hstWorkAuto c.val < 2) :
    ∃ t, exec (.workArm w c) s = .next t ∧ fget t .hstWorkNext c.val = fget s .hstWorkBase c.val ∧
      fget t .hstWorkLimit c.val = fget s .hstWorkLimit c.val ∧ t.ctrQueue = s.ctrQueue ∧ Claims.memSame s t := by
  have hbit : bits (fget s .hstWorkAuto c.val + 2) 1 1 = 1 := by
    unfold bits
    rw [Nat.shiftRight_eq_div_pow]
    omega
  obtain ⟨auto, x, hrow⟩ := armReg_written h (by omega) hbit
  rw [queueArm_of_idle (s := fset s .hstWorkAuto c.val auto) hidle, armCounter] at hrow
  refine ⟨_, hrow, ?_, ?_, rfl, rfl, rfl⟩
  · rw [fget_withTraffic, fget_fset_same, fget_fset_other _ _ (by simp)]
    exact Nat.mod_eq_of_lt hbase
  · rw [fget_withTraffic, fget_fset_other _ _ (by simp), fget_fset_other _ _ (by simp)]

end Units

/-- Settles O27: each command's write reaches its one register, and the register does what its rule says. -/
theorem unitRegisterRows : Obligations.UnitRegisterRows := fun _ _ =>
  ⟨fun _ _ _ => schedWrite_takes, fun _ => flashClear_starts, fun _ => selftest_starts, fun _ _ => injectArm_latches,
    fun _ => workArm_arms⟩

end Sys2Proof.Machine
end

section
/-! O19 and O21: what a read of one line of the Granary delivers and counts (07 R162, R164, R165). -/

namespace Sys2Proof.Machine

section Reading

variable {s : State} {q : MemDie} {ag : MemAgent} {p : Option Part} {a n : Nat}

/-! ### Tallies and faults -/

theorem fget_fbump_same (s : State) (f : Field) (i n : Nat) :
    fget (fbump s f i n) f i = min (fget s f i + n) (2 ^ f.spec.width - 1) := by
  have hpos := Nat.two_pow_pos f.spec.width
  rw [fbump, fget_fset_same, satAdd]
  exact Nat.mod_eq_of_lt (by omega)

/-- An uncorrectable read counts in UE. -/
theorem fget_grnFault_ue (s : State) (q : MemDie) (a : Nat) (ag : MemAgent) (p : Option Part) :
    fget (grnFault s q a ag p) .grnErrTallyUe q.val =
      min (fget s .grnErrTallyUe q.val + 1) (2 ^ Field.grnErrTallyUe.spec.width - 1) := by
  have hreport := reports_memFault (s := fbump s .grnErrTallyUe q.val 1) (but := reportFields) a ag p (.grn q) []
    (by decide) (by decide)
  exact (hreport.regs .grnErrTallyUe q.val (by decide)).trans (fget_fbump_same _ _ _ _)

/-- It sets CHECKSUM in the partition of its agent. -/
theorem grnFault_checksum (s : State) (q : MemDie) (a : Nat) (ag : MemAgent) (r : Part) :
    (fget (grnFault s q a ag (some r)) .updStatusStatus r.val).testBit 8 = true := setStatus_bit _ r .checksum

/-! ### Bytes as they are delivered (07 R162, R164) -/

@[simp] theorem hammingRead_zero (d : Byte) : hammingRead d 0 = (d, false, false) := rfl

theorem hammingRead_uncorrectable (d : Byte) {syn : Nat} (h : 13 ≤ syn) : hammingRead d syn = (d, false, true) := by
  rw [hammingRead, if_neg (by omega), if_pos h]

/-- A syndrome that names a check bit changes nothing. -/
theorem hammingRead_checkBit (d : Byte) {syn : Nat} (h : syn ∈ [1, 2, 4, 8]) : hammingRead d syn = (d, true, false) := by
  simp only [List.mem_cons, List.not_mem_nil, or_false] at h
  rcases h with rfl | rfl | rfl | rfl <;> rfl

/-- The position of a data bit names that bit. -/
theorem hammingBit_dataPositions : ∀ i < 8, hammingBit (Claims.dataPositions.getD i 0) = some i ∧
    Claims.dataPositions.getD i 0 ≠ 0 ∧ Claims.dataPositions.getD i 0 < 13 := by decide

/-- A flipped data bit is inverted back. -/
theorem hammingRead_dataBit (d : Byte) {i : Nat} (h : i < 8) :
    hammingRead (d ^^^ BitVec.ofNat 8 (2 ^ i)) (Claims.dataPositions.getD i 0) = (d, true, false) := by
  obtain ⟨hbit, hpos, hlt⟩ := hammingBit_dataPositions i h
  rw [hammingRead, if_neg hpos, if_neg (Nat.not_le.mpr hlt), hbit]
  simp

/-- The bytes of a run of a valid line as they are delivered, each with whether it was corrected and whether it is
uncorrectable. -/
def delivered (s : State) (a n : Nat) : List (Byte × Bool × Bool) :=
  (span a n).map fun i => hammingRead (mget s i) (synOf s i)

/-! ### Reads of one line (07 R164, R165) -/

theorem grnRead_notValid (hready : grnReady s q = true) (hvalid : validOf s (lineOf a) = 0) :
    grnRead s q ag p a n = (s, List.replicate n 0, false) := by simp [grnRead, hready, hvalid]

theorem grnRead_copiesDisagree (hready : grnReady s q = true) (h0 : validOf s (lineOf a) ≠ 0)
    (h3 : validOf s (lineOf a) ≠ 3) :
    grnRead s q ag p a n = (grnFault s q a ag p, mbytes s a n, true) := by
  unfold grnRead
  rw [hready]
  split
  · contradiction
  · split
    · contradiction
    · contradiction
    · rfl

theorem grnRead_valid (hready : grnReady s q = true) (hvalid : validOf s (lineOf a) = 3) :
    grnRead s q ag p a n =
      (if (delivered s a n).any (·.2.2) then
          grnFault (fbump s .grnErrTallyCe q.val ((delivered s a n).filter (·.2.1)).length) q a ag p
        else fbump s .grnErrTallyCe q.val ((delivered s a n).filter (·.2.1)).length,
       (delivered s a n).map (·.1), (delivered s a n).any (·.2.2)) := by
  simp [grnRead, delivered, hready, hvalid]

/-- A byte that is sound or can be corrected is delivered without an error; CE counts a corrected one. -/
theorem grnRead_byte_corrected {d : Byte} {corrected : Bool} (hready : grnReady s q = true) (hvalid : validOf s (lineOf a) = 3)
    (hbyte : hammingRead (mget s a) (synOf s a) = (d, corrected, false)) :
    grnRead s q ag p a 1 = (fbump s .grnErrTallyCe q.val (ofBool corrected), [d], false) := by
  rw [grnRead_valid hready hvalid]
  cases corrected <;> simp [delivered, span, hbyte, ofBool]

theorem grnRead_byte_uncorrectable {d : Byte} (hready : grnReady s q = true) (hvalid : validOf s (lineOf a) = 3)
    (hbyte : hammingRead (mget s a) (synOf s a) = (d, false, true)) :
    grnRead s q ag p a 1 = (grnFault (fbump s .grnErrTallyCe q.val 0) q a ag p, [d], true) := by
  rw [grnRead_valid hready hvalid]
  simp [delivered, span, hbyte]

end Reading

/-- Settles O19, by the two cases of a read whose line is not valid or whose copies disagree. -/
theorem granaryValidBits : Obligations.GranaryValidBits := by
  intro s q ag p a n hready
  refine ⟨grnRead_notValid hready, fun h0 h3 => ?_⟩
  rw [grnRead_copiesDisagree hready h0 h3]
  refine ⟨rfl, rfl, fget_grnFault_ue s q a ag p, ?_⟩
  rintro r rfl
  exact grnFault_checksum s q a ag r

/-- Settles O21: the code delivers a byte with one flipped bit as it was, and a read of one byte changes only the tallies unless
the byte is uncorrectable. -/
theorem granaryCorrectsSingleFlips : Obligations.GranaryCorrectsSingleFlips := by
  intro s q ag p a d hready hvalid
  refine ⟨fun i hi hmem hsyn => ?_, fun hmem hsyn => ?_, fun hmem hsyn => ?_, fun hmem hsyn => ?_⟩
  · rw [grnRead_byte_corrected hready hvalid (by rw [hmem, hsyn, hammingRead_dataBit d hi])]
    exact ⟨rfl, rfl, rfl, rfl, fget_fbump_same _ _ _ _⟩
  · rw [grnRead_byte_corrected hready hvalid (by rw [hmem, hammingRead_checkBit d hsyn])]
    exact ⟨rfl, rfl, rfl, rfl⟩
  · rw [grnRead_byte_corrected hready hvalid (by rw [hmem, hsyn, hammingRead_zero])]
    exact ⟨rfl, (reports_fbump _ _ _ (by decide) (by decide)).regs⟩
  · rw [grnRead_byte_uncorrectable hready hvalid (by rw [hmem, hammingRead_uncorrectable d hsyn])]
    refine ⟨rfl, grnFault_mem _ _ _ _ _, ?_⟩
    have hother : fget (fbump s .grnErrTallyCe q.val 0) .grnErrTallyUe q.val = fget s .grnErrTallyUe q.val :=
      fget_fset_other s _ fun h => absurd h.1 (by decide)
    rw [fget_grnFault_ue, hother]

end Sys2Proof.Machine
end

section
/-! O20: what a write of one line of the Granary stores, and what it leaves (07 R165, R166). -/

namespace Sys2Proof.Machine

section Writing

variable {s : State} {q : MemDie} {ag : MemAgent} {p : Option Part} {a line : Nat} {cells : List Host.Cell}

/-! ### Bytes as they are stored (07 R165, R166) -/

/-- A byte as it is stored, with its syndrome. -/
def stored (s : State) (a : Nat) : Byte × Nat := (mget s a, synOf s a)

/-- A line that is not valid takes zeros. -/
def lineFilled (s : State) (line : Nat) : State :=
  if validOf s line = 0 then
    { s with mem := tsetAll (memBase s.scrambled) s.mem ((span (line * 32) 32).map fun i => (i, (0 : Byte)))
             grnSyn := tsetAll (fun _ => 0) s.grnSyn ((span (line * 32) 32).map fun i => (i, 0)) }
  else s

theorem lineFilled_of_valid (h : validOf s line ≠ 0) : lineFilled s line = s := if_neg h

theorem lineFilled_kept (s : State) (line : Nat) : (lineFilled s line).regs = s.regs ∧
    (lineFilled s line).grnQueue = s.grnQueue ∧ (lineFilled s line).grnValid = s.grnValid := by
  unfold lineFilled
  split <;> exact ⟨rfl, rfl, rfl⟩

theorem mem_lineRun : a ∈ span (line * 32) 32 ↔ lineOf a = line := by
  rw [mem_span, lineOf]
  omega

/-- What many keys are given together each of them reads back, and no other. -/
theorem tget_tsetAll_const {α : Type} [DecidableEq α] (d : Nat → α) (l : List (Nat × α)) {ks : List Nat} (v : α)
    (hks : ks.Nodup) (k : Nat) : tget d (tsetAll d l (ks.map fun i => (i, v))) k = if k ∈ ks then v else tget d l k := by
  split
  · next hk =>
    refine tget_tsetAll_mem d _ ?_ (List.mem_map.mpr ⟨k, hk, rfl⟩)
    simpa [Function.comp_def] using hks
  · next hk =>
    refine tget_tsetAll_other d _ fun e he heq => hk ?_
    obtain ⟨i, hi, rfl⟩ := List.mem_map.mp he
    exact heq ▸ hi

theorem stored_lineFilled (s : State) (line a : Nat) :
    stored (lineFilled s line) a = if validOf s line = 0 ∧ lineOf a = line then (0, 0) else stored s a := by
  by_cases hvalid : validOf s line = 0
  · simp only [lineFilled, hvalid, true_and, if_true, stored, mget, synOf,
      tget_tsetAll_const _ _ _ (nodup_span _ _), mem_lineRun]
    split <;> rfl
  · rw [lineFilled_of_valid hvalid, if_neg fun h => hvalid h.1]

/-! ### A write of one line (07 R166) -/

/-- The bytes of a write stand in their line with their check bits, and the line is valid. -/
def lineWritten (s : State) (line : Nat) (cells : List Host.Cell) : State :=
  { s with mem := tsetAll (memBase s.scrambled) s.mem cells
           grnSyn := tsetAll (fun _ => 0) s.grnSyn (cells.map fun c => (c.1, 0))
           grnValid := tset (fun _ => 0) s.grnValid line 3 }

theorem stored_lineWritten_written (s : State) (line : Nat) (hnodup : (cells.map (·.1)).Nodup) {e : Host.Cell}
    (he : e ∈ cells) :
    stored (lineWritten s line cells) e.1 = (e.2, 0) := by
  refine Prod.ext (tget_tsetAll_mem _ _ hnodup he) (tget_tsetAll_mem _ _ ?_ (List.mem_map.mpr ⟨e, he, rfl⟩))
  simpa [Function.comp_def] using hnodup

theorem stored_lineWritten_other (s : State) (line : Nat) (ha : ∀ e ∈ cells, e.1 ≠ a) :
    stored (lineWritten s line cells) a = stored s a := by
  refine Prod.ext (tget_tsetAll_other _ _ ha) (tget_tsetAll_other _ _ fun e he => ?_)
  obtain ⟨c, hc, rfl⟩ := List.mem_map.mp he
  exact ha c hc

theorem validOf_lineWritten (s : State) (line : Nat) (cells : List Host.Cell) (l : Nat) :
    validOf (lineWritten s line cells) l = if l = line then 3 else validOf s l := by
  unfold lineWritten validOf
  split
  · next h => subst h; exact tget_tset_same (fun _ => 0) s.grnValid l 3
  · next h => exact tget_tset_other (fun _ => 0) s.grnValid 3 h

/-- A write of a READY die fills its line if that is not valid, and stores its bytes. -/
theorem grnWrite_eq (hready : grnReady s q = true) (hcells : cells ≠ []) (hline : ∀ e ∈ cells, lineOf e.1 = line) :
    grnWrite s q ag p cells = lineWritten (lineFilled s line) line cells := by
  obtain _ | ⟨⟨a, b⟩, cells⟩ := cells
  · contradiction
  · obtain rfl : lineOf a = line := hline (a, b) (List.mem_cons_self ..)
    unfold grnWrite
    rw [hready]
    rfl

variable (hready : grnReady s q = true) (hcells : cells ≠ []) (hline : ∀ e ∈ cells, lineOf e.1 = line)

include hready hcells hline

theorem grnWrite_regs : (grnWrite s q ag p cells).regs = s.regs := by
  rw [grnWrite_eq hready hcells hline]
  exact (lineFilled_kept s line).1

theorem grnWrite_grnQueue : (grnWrite s q ag p cells).grnQueue = s.grnQueue := by
  rw [grnWrite_eq hready hcells hline]
  exact (lineFilled_kept s line).2.1

theorem grnReady_grnWrite : grnReady (grnWrite s q ag p cells) q = true := by
  rwa [grnReady, fget_of_regs (grnWrite_regs hready hcells hline)]

theorem validOf_grnWrite (l : Nat) : validOf (grnWrite s q ag p cells) l = if l = line then 3 else validOf s l := by
  rw [grnWrite_eq hready hcells hline, validOf_lineWritten, validOf, (lineFilled_kept s line).2.2]
  rfl

/-- The bytes written are stored with sound check bits. -/
theorem stored_grnWrite_written (hnodup : (cells.map (·.1)).Nodup) {e : Host.Cell} (he : e ∈ cells) :
    stored (grnWrite s q ag p cells) e.1 = (e.2, 0) := by
  rw [grnWrite_eq hready hcells hline, stored_lineWritten_written _ _ hnodup he]

/-- Every other byte is as the filling of its line leaves it. -/
theorem stored_grnWrite_other (ha : ∀ e ∈ cells, e.1 ≠ a) :
    stored (grnWrite s q ag p cells) a = stored (lineFilled s line) a := by
  rw [grnWrite_eq hready hcells hline, stored_lineWritten_other _ _ ha]

/-- So in a line that was not valid it becomes zero. -/
theorem stored_grnWrite_zero (ha : ∀ e ∈ cells, e.1 ≠ a) (hl : lineOf a = line) (hvalid : validOf s line = 0) :
    stored (grnWrite s q ag p cells) a = (0, 0) := by
  rw [stored_grnWrite_other hready hcells hline ha, stored_lineFilled, if_pos ⟨hvalid, hl⟩]

/-- And in a valid line, and in another line, it stays. -/
theorem stored_grnWrite_kept (ha : ∀ e ∈ cells, e.1 ≠ a) (hkept : lineOf a ≠ line ∨ validOf s line ≠ 0) :
    stored (grnWrite s q ag p cells) a = stored s a := by
  rw [stored_grnWrite_other hready hcells hline ha, stored_lineFilled, if_neg]
  rintro ⟨hvalid, hl⟩
  exact hkept.elim (· hl) (· hvalid)

/-- A write leaves what another write of its line has stored beside it. -/
theorem stored_grnWrite_grnWrite {ag' : MemAgent} {p' : Option Part} {cells' : List Host.Cell} (hcells' : cells' ≠ [])
    (hline' : ∀ e ∈ cells', lineOf e.1 = line) (ha : ∀ e ∈ cells', e.1 ≠ a) :
    stored (grnWrite (grnWrite s q ag p cells) q ag' p' cells') a = stored (grnWrite s q ag p cells) a := by
  refine stored_grnWrite_kept (grnReady_grnWrite hready hcells hline) hcells' hline' ha (.inr ?_)
  rw [validOf_grnWrite hready hcells hline, if_pos rfl]
  decide

omit hready hcells hline

/-- What the first of two writes of one line stores stays beside what the second stores. -/
theorem stored_grnWrite_first (hready : grnReady s q = true) {w w' : List Host.Cell} (hw : w ≠ []) (hw' : w' ≠ [])
    (hline : ∀ e ∈ w, lineOf e.1 = line) (hline' : ∀ e ∈ w', lineOf e.1 = line) (hnodup : (w.map (·.1)).Nodup)
    {e : Host.Cell} (he : e ∈ w) (hapart : ∀ f ∈ w', f.1 ≠ e.1) (ag ag' : MemAgent) (p p' : Option Part) :
    stored (grnWrite (grnWrite s q ag p w) q ag' p' w') e.1 = (e.2, 0) := by
  rw [stored_grnWrite_grnWrite hready hw hline hw' hline' hapart, stored_grnWrite_written hready hw hline hnodup he]

/-- Two writes of different bytes of one line leave the same bytes in either order. -/
theorem stored_grnWrite_comm (hready : grnReady s q = true) {w w' : List Host.Cell} (hw : w ≠ []) (hw' : w' ≠ [])
    (hline : ∀ e ∈ w, lineOf e.1 = line) (hline' : ∀ e ∈ w', lineOf e.1 = line) (hnodup : (w.map (·.1)).Nodup)
    (hnodup' : (w'.map (·.1)).Nodup) (hapart : ∀ e ∈ w, ∀ f ∈ w', e.1 ≠ f.1) (ag ag' : MemAgent) (p p' : Option Part)
    (a : Nat) :
    stored (grnWrite (grnWrite s q ag p w) q ag' p' w') a = stored (grnWrite (grnWrite s q ag' p' w') q ag p w) a := by
  by_cases ha : ∃ e ∈ w, e.1 = a
  · obtain ⟨e, he, rfl⟩ := ha
    rw [stored_grnWrite_first hready hw hw' hline hline' hnodup he fun f hf => (hapart e he f hf).symm,
      stored_grnWrite_written (grnReady_grnWrite hready hw' hline') hw hline hnodup he]
  by_cases ha' : ∃ e ∈ w', e.1 = a
  · obtain ⟨e, he, rfl⟩ := ha'
    rw [stored_grnWrite_first hready hw' hw hline' hline hnodup' he fun f hf => hapart f hf e he,
      stored_grnWrite_written (grnReady_grnWrite hready hw hline) hw' hline' hnodup' he]
  · push Not at ha ha'
    rw [stored_grnWrite_grnWrite hready hw hline hw' hline' ha', stored_grnWrite_other hready hw hline ha,
      stored_grnWrite_grnWrite hready hw' hline' hw hline ha, stored_grnWrite_other hready hw' hline' ha']

end Writing

/-- Settles O20, by what one write stores and leaves, and what a second one leaves of it. -/
theorem granaryWritesNeverMerge : Obligations.GranaryWritesNeverMerge := by
  intro s q ag ag' p p' line w w' hready hw hw' hline hline' hnodup hnodup'
  have hvalid := validOf_grnWrite (ag := ag) (p := p) hready hw hline
  refine ⟨fun e he => Prod.mk.inj (stored_grnWrite_written hready hw hline hnodup he), fun h3 a _ ha => ?_,
    fun h0 a hl ha => ?_, by rw [hvalid, if_pos rfl], fun a hl => ?_, fun l hl => by rw [hvalid, if_neg hl],
    grnWrite_regs hready hw hline,
    fun hapart _ a => Prod.mk.inj (stored_grnWrite_comm hready hw hw' hline hline' hnodup hnodup' hapart ag ag' p p' a)⟩
  · exact Prod.mk.inj (stored_grnWrite_kept hready hw hline ha (.inr (by rw [h3]; decide)))
  · exact Prod.mk.inj (stored_grnWrite_zero hready hw hline ha hl h0)
  · have ha (e : Host.Cell) (he : e ∈ w) (h : e.1 = a) : False := hl (h ▸ hline e he)
    exact Prod.mk.inj (stored_grnWrite_kept hready hw hline ha (.inl hl))

end Sys2Proof.Machine
end

section
/-! O22: a run of bytes of a memory die, written and read in its pieces (07 R155, R158, R162, R165, R166). -/

namespace Sys2Proof.Machine

section Runs

variable {s t u : State} {q : MemDie} {ag : MemAgent} {p : Option Part} {a n : Nat} {b b₁ b₂ : Bytes}

/-! ### A run in its pieces -/

theorem unitLeft_pos (a : Nat) : 0 < unitLeft a := by
  unfold unitLeft
  split
  · omega
  · next c off h =>
    have hoff : off < 2 ^ 24 := by
      unfold placeOf at h
      grind
    omega
  · omega

theorem unitLeft_granary (h : placeOf a = .granary q) : unitLeft a = 32 - a % 32 := by
  rw [unitLeft, h]

theorem cutRun_succ (f : Nat) : ∀ {a n : Nat}, n ≤ f → cutRun (f + 1) a n = cutRun f a n := by
  induction f with
  | zero => intro a n h; simp [cutRun, Nat.le_zero.mp h]
  | succ f ih =>
    intro a n h
    have hpos := unitLeft_pos a
    rw [cutRun, cutRun]
    dsimp only
    split
    · rfl
    · rw [ih (by omega)]

/-- Fuel beyond the length of a run changes nothing. -/
theorem cutRun_fuel {f : Nat} (h : n ≤ f) : cutRun f a n = cutRun n a n := by
  induction f, h using Nat.le_induction with
  | base => rfl
  | succ f h ih => rw [cutRun_succ f h, ih]

/-- The first piece of a run, and the run of what is left. -/
theorem cutRun_append {k m : Nat} (hpos : 0 < k) (hk : k = min (k + m) (unitLeft a)) :
    cutRun (k + m) a (k + m) = (a, k) :: cutRun m (a + k) m := by
  obtain ⟨f, hf⟩ : ∃ f, k + m = f + 1 := ⟨k + m - 1, by omega⟩
  rw [hf, cutRun, if_neg f.succ_ne_zero, ← hf]
  dsimp only
  rw [← hk, Nat.add_sub_cancel_left, cutRun_fuel (by omega)]

/-- No piece of a run begins before it. -/
theorem le_of_mem_cutRun (f : Nat) : ∀ {a n : Nat} {v : Nat × Nat}, v ∈ cutRun f a n → a ≤ v.1 := by
  induction f with
  | zero => intro a n v h; simp [cutRun] at h
  | succ f ih =>
    intro a n v h
    rw [cutRun] at h
    split at h
    · simp at h
    · rcases List.mem_cons.mp h with rfl | h
      · exact le_rfl
      · exact (Nat.le_add_right _ _).trans (ih h)

/-- What holds of the empty run, and of a run whose first piece lies before one of which it holds, holds of every run. -/
theorem run_induction {P : Nat → Bytes → Prop} (nil : ∀ a, P a [])
    (append : ∀ a b₁ b₂, b₁ ≠ [] → b₁.length = min (b₁.length + b₂.length) (unitLeft a) → P (a + b₁.length) b₂ →
      P a (b₁ ++ b₂)) (a : Nat) (b : Bytes) : P a b := by
  induction hn : b.length using Nat.strong_induction_on generalizing a b with
  | _ n ih =>
    by_cases hb : b = []
    · exact hb ▸ nil a
    · have hpos := List.length_pos_iff.mpr hb
      have hleft := unitLeft_pos a
      rw [← List.take_append_drop (unitLeft a) b]
      refine append a _ _ ?_ ?_ (ih _ ?_ _ _ rfl)
      · exact List.length_pos_iff.mp (by rw [List.length_take]; omega)
      · rw [List.length_take, List.length_drop]; omega
      · rw [List.length_drop]; omega

theorem slice_append_left (b₁ b₂ : Bytes) : slice (b₁ ++ b₂) 0 b₁.length = b₁ := by
  simp [slice]

theorem slice_append_right (b₁ b₂ : Bytes) (o n : Nat) : slice (b₁ ++ b₂) (b₁.length + o) n = slice b₂ o n := by
  simp [slice, List.drop_append, List.drop_eq_nil_of_le]

/-- A write makes its first piece and goes on behind it. -/
theorem memWrite_append (hne : b₁ ≠ []) (hk : b₁.length = min (b₁.length + b₂.length) (unitLeft a)) :
    memWrite s ag p a (b₁ ++ b₂) =
      memWrite (unitWrite (arrive s ag a) ag p (cellsAt a b₁)) ag p (a + b₁.length) b₂ := by
  unfold memWrite
  rw [List.length_append, cutRun_append (List.length_pos_iff.mpr hne) hk, List.foldl_cons]
  dsimp only
  rw [Nat.sub_self, slice_append_left]
  refine List.foldl_ext _ _ _ fun t v hv => ?_
  have hle := le_of_mem_cutRun _ hv
  rw [show v.1 - a = b₁.length + (v.1 - (a + b₁.length)) by omega, slice_append_right]

/-- One piece of a read: the bytes it brings follow those before, and so do its errors. -/
def readPiece (ag : MemAgent) (p : Option Part) (r : State × Bytes × Bool) (v : Nat × Nat) : State × Bytes × Bool :=
  let x := unitRead (arrive r.1 ag v.1) ag p v.1 v.2
  (x.1, r.2.1 ++ x.2.1, r.2.2 || x.2.2)

theorem memRead_eq (s : State) (ag : MemAgent) (p : Option Part) (a n : Nat) :
    memRead s ag p a n = (cutRun n a n).foldl (readPiece ag p) (s, [], false) := rfl

theorem foldl_readPiece (l : List (Nat × Nat)) : ∀ (s : State) (b : Bytes) (bad : Bool),
    (l.foldl (readPiece ag p) (s, b, bad)).2 =
      (b ++ (l.foldl (readPiece ag p) (s, [], false)).2.1, bad || (l.foldl (readPiece ag p) (s, [], false)).2.2) := by
  induction l with
  | nil => intro s b bad; simp
  | cons v l ih =>
    intro s b bad
    simp only [List.foldl_cons, readPiece]
    rw [ih, ih _ ([] ++ _)]
    simp [Bool.or_assoc]

/-- A read takes its first piece and goes on behind it. -/
theorem memRead_append {k m : Nat} (hpos : 0 < k) (hk : k = min (k + m) (unitLeft a)) :
    (memRead s ag p a (k + m)).2 =
      ((unitRead (arrive s ag a) ag p a k).2.1 ++ (memRead (unitRead (arrive s ag a) ag p a k).1 ag p (a + k) m).2.1,
       (unitRead (arrive s ag a) ag p a k).2.2 || (memRead (unitRead (arrive s ag a) ag p a k).1 ag p (a + k) m).2.2) := by
  rw [memRead_eq, cutRun_append hpos hk, List.foldl_cons]
  exact foldl_readPiece _ _ _ _

/-! ### A die at which no request waits (07 R158) -/

theorem takeEffects_none {pick : MemReq → Bool} (l : List MemReq) (s : State) (h : ∀ r ∈ l, pick r = false) :
    takeEffects pick (fun _ => false) 1 l s = (s, l) := by
  induction l with
  | nil => rfl
  | cons r l ih =>
    have hr : pick r = false := h r (List.mem_cons_self ..)
    simp [takeEffects, hr, ih fun r hr => h r (List.mem_cons_of_mem _ hr)]

/-- No request of a core waits at the die. -/
def noneWaits (s : State) (q : MemDie) : Prop := ∀ r ∈ s.grnQueue, placeOf r.addr ≠ .granary q

theorem arrive_of_noneWaits (hnone : noneWaits s q) (ha : placeOf a = .granary q) : arrive s ag a = s := by
  unfold arrive
  rw [ha]
  dsimp only
  split
  · rfl
  · rw [takeEffects_none _ _ fun r hr => by simp [hnone r hr]]

/-! ### Runs that are stored whole -/

/-- A run lies in valid lines and holds the bytes, with sound check bits. -/
def runHolds (s : State) (a : Nat) (b : Bytes) : Prop :=
  ∀ i (h : i < b.length), stored s (a + i) = (b[i], 0) ∧ validOf s (lineOf (a + i)) = 3

theorem runHolds_append : runHolds s a (b₁ ++ b₂) ↔ runHolds s a b₁ ∧ runHolds s (a + b₁.length) b₂ := by
  refine ⟨fun h => ⟨fun i hi => ?_, fun i hi => ?_⟩, fun ⟨h₁, h₂⟩ i hi => ?_⟩
  · have hi' := h i (by rw [List.length_append]; omega)
    rwa [List.getElem_append_left hi] at hi'
  · have hi' := h (b₁.length + i) (by rw [List.length_append]; omega)
    rw [List.getElem_append_right (Nat.le_add_right _ _), ← Nat.add_assoc] at hi'
    simpa using hi'
  · by_cases hlt : i < b₁.length
    · rw [List.getElem_append_left hlt]
      exact h₁ i hlt
    · have hi' := h₂ (i - b₁.length) (by rw [List.length_append] at hi; omega)
      rw [List.getElem_append_right (by omega)]
      rwa [Nat.add_assoc, Nat.add_sub_cancel' (by omega)] at hi'

/-- A read of a line delivers such a run as it is, and adds nothing to CE. -/
theorem grnRead_of_runHolds (hready : grnReady s q = true) (hne : b ≠ []) (h : runHolds s a b) :
    grnRead s q ag p a b.length = (fbump s .grnErrTallyCe q.val 0, b, false) := by
  have hvalid : validOf s (lineOf a) = 3 := (h 0 (List.length_pos_iff.mpr hne)).2
  have hbytes : delivered s a b.length = b.map fun d => (d, false, false) := by
    refine List.ext_getElem (by simp [delivered]) fun i hi hi' => ?_
    obtain ⟨hmem, hsyn⟩ := Prod.mk.inj (h i (by simpa using hi')).1
    simp [delivered, span_eq_range', hmem, hsyn]
  rw [grnRead_valid hready hvalid, hbytes]
  simp [List.filter_map, Function.comp_def]

theorem memRead_of_runHolds (hready : grnReady s q = true) (hnone : noneWaits s q)
    (hplace : ∀ i, i < b.length → placeOf (a + i) = .granary q) (h : runHolds s a b) :
    (memRead s ag p a b.length).2 = (b, false) := by
  induction a, b using run_induction generalizing s with
  | nil a => rfl
  | append a b₁ b₂ hne hk ih =>
    obtain ⟨h₁, h₂⟩ := runHolds_append.mp h
    have hpos := List.length_pos_iff.mpr hne
    rw [List.length_append] at hplace ⊢
    have ha : placeOf a = .granary q := hplace 0 (by omega)
    have hready' : grnReady (fbump s .grnErrTallyCe q.val 0) q = true := by
      rwa [grnReady, fbump, fget_fset_other _ _ fun h => absurd h.1 (by decide)]
    have hrest := ih hready' hnone (fun i hi => by rw [Nat.add_assoc]; exact hplace _ (by omega)) h₂
    rw [memRead_append hpos hk, arrive_of_noneWaits hnone ha, unitRead, ha]
    dsimp only
    rw [grnRead_of_runHolds hready hne h₁, hrest]
    rfl

/-- What a write of a run brings about: the run is stored, and every byte outside stays that lies in no line of the run, or in a
valid one. -/
structure RunWritten (s t : State) (a : Nat) (b : Bytes) : Prop where
  regs : t.regs = s.regs
  queue : t.grnQueue = s.grnQueue
  holds : runHolds t a b
  valid : ∀ l, validOf s l = 3 → validOf t l = 3
  outside : ∀ j, (j < a ∨ a + b.length ≤ j) → (∀ i, i < b.length → lineOf (a + i) ≠ lineOf j ∨ validOf s (lineOf j) = 3) →
    stored t j = stored s j

theorem RunWritten.nil (s : State) (a : Nat) : RunWritten s s a [] :=
  ⟨rfl, rfl, by simp [runHolds], fun _ h => h, fun _ _ _ => rfl⟩

theorem RunWritten.append (h₁ : RunWritten s t a b₁) (h₂ : RunWritten t u (a + b₁.length) b₂) :
    RunWritten s u a (b₁ ++ b₂) where
  regs := h₂.regs.trans h₁.regs
  queue := h₂.queue.trans h₁.queue
  holds := by
    refine runHolds_append.mpr ⟨fun i hi => ?_, h₂.holds⟩
    obtain ⟨hbyte, hvalid⟩ := h₁.holds i hi
    exact ⟨(h₂.outside _ (.inl (by omega)) fun _ _ => .inr hvalid).trans hbyte, h₂.valid _ hvalid⟩
  valid l h := h₂.valid l (h₁.valid l h)
  outside j hj hkept := by
    rw [List.length_append] at hj hkept
    rw [h₂.outside j (by omega) fun i hi => ?_, h₁.outside j (by omega) fun i hi => hkept i (by omega)]
    rw [Nat.add_assoc]
    exact (hkept (b₁.length + i) (by omega)).imp_right (h₁.valid _)

/-- A write of one line writes its run. -/
theorem runWritten_grnWrite (hready : grnReady s q = true) (hne : b ≠ []) (hlen : b.length ≤ 32 - a % 32) :
    RunWritten s (grnWrite s q ag p (cellsAt a b)) a b := by
  have hpos := List.length_pos_iff.mpr hne
  have hcell {i : Nat} (hi : i < b.length) : (a + i, b[i]) ∈ cellsAt a b := mem_zip_span a rfl hi
  have hcells : cellsAt a b ≠ [] := List.ne_nil_of_mem (hcell hpos)
  have hinside {i : Nat} (hi : i < b.length) : lineOf (a + i) = lineOf a := by
    unfold lineOf
    omega
  have hline : ∀ e ∈ cellsAt a b, lineOf e.1 = lineOf a := by
    intro e he
    obtain ⟨hle, hlt⟩ := mem_span.mp (List.of_mem_zip he).1
    rw [← Nat.add_sub_cancel' hle]
    exact hinside (by omega)
  have hnodup : ((cellsAt a b).map (·.1)).Nodup := by
    rw [cellsAt, map_fst_zip_span rfl]
    exact nodup_span _ _
  have hvalid := validOf_grnWrite (ag := ag) (p := p) hready hcells hline
  exact {
    regs := grnWrite_regs hready hcells hline
    queue := grnWrite_grnQueue hready hcells hline
    holds i hi := ⟨stored_grnWrite_written hready hcells hline hnodup (hcell hi), by rw [hvalid, if_pos (hinside hi)]⟩
    valid l h := by rw [hvalid]; split <;> trivial
    outside j hj hkept := by
      refine stored_grnWrite_kept hready hcells hline (zip_span_ne hj) ?_
      by_cases hl : lineOf j = lineOf a
      · have h3 : validOf s (lineOf j) = 3 := (hkept 0 hpos).resolve_left fun h => h hl.symm
        exact .inr (by rw [← hl, h3]; decide)
      · exact .inl hl }

theorem unitWrite_granary (hne : b ≠ []) (ha : placeOf a = .granary q) :
    unitWrite s ag p (cellsAt a b) = grnWrite s q ag p (cellsAt a b) := by
  obtain _ | ⟨d, b⟩ := b
  · contradiction
  · simp [unitWrite, cellsAt, span, ha]

theorem runWritten_memWrite (hready : grnReady s q = true) (hnone : noneWaits s q)
    (hplace : ∀ i, i < b.length → placeOf (a + i) = .granary q) : RunWritten s (memWrite s ag p a b) a b := by
  induction a, b using run_induction generalizing s with
  | nil a => exact .nil s a
  | append a b₁ b₂ hne hk ih =>
    have hpos := List.length_pos_iff.mpr hne
    rw [List.length_append] at hplace
    have ha : placeOf a = .granary q := hplace 0 (by omega)
    have hfirst : RunWritten s (grnWrite s q ag p (cellsAt a b₁)) a b₁ :=
      runWritten_grnWrite hready hne (unitLeft_granary ha ▸ by omega)
    rw [memWrite_append hne hk, arrive_of_noneWaits hnone ha, unitWrite_granary hne ha]
    refine hfirst.append (ih ?_ ?_ fun i hi => ?_)
    · rwa [grnReady, fget_of_regs hfirst.regs]
    · rwa [noneWaits, hfirst.queue]
    · rw [Nat.add_assoc]
      exact hplace _ (by omega)

end Runs

/-- Settles O22: a write of a run stores it whole in valid lines, and such a run is read as it is. -/
theorem granaryReturnsWhatWasWritten : Obligations.GranaryReturnsWhatWasWritten := by
  intro s ag ag' p p' q a b hready hnone hplace
  have hwritten : RunWritten s (memWrite s ag p a b) a b := runWritten_memWrite hready hnone hplace
  refine ⟨memRead_of_runHolds ?_ ?_ hplace hwritten.holds, fun j hj hkept =>
    (Prod.mk.inj (hwritten.outside j hj hkept)).1⟩
  · rwa [grnReady, fget_of_regs hwritten.regs]
  · rwa [noneWaits, hwritten.queue]

end Sys2Proof.Machine
end

section
/-! O23: the slot that answers the last read of a transfer. Of a request of any engine the statement says that it leaves the
queue, which is otherwise as it was; it bars loads and stores with requests still to send, not transfers. A transfer that has
read its last byte sends its writes at once, and one to the Granary joins the queue (06 R453; 07 R158). -/

namespace Sys2Proof.Machine

/-- Transfer 5 of core 0, which awaits one more byte, from address 32, and is to write it to address 64. -/
def lastReadCopy : MoveOp :=
  { id := 5, word := 0, left := 1, reqs := [], todo := [], reading := true, plan := [(8 * 32, 8 * 64, 8)], got := [] }

/-- The read that it awaits, which waits at bank 1 of memory die 0. -/
def lastRead : MemReq := { core := 0, engine := .copy, op := 5, addr := 32, act := .read 1 }

/-- That read waits alone, and entry 4 of the die's schedule names core 0, which gives it slot 5 of bank 1. -/
def lastReadState : State :=
  { cores := [(0, { copies := [lastReadCopy] })], grn := [(0, { table := [(4, 0)] })], grnQueue := [lastRead] }

/-- The slot serves that read. -/
theorem lastReadState_find :
    lastReadState.grnQueue.find? (fun r => atBank 0 (1 : Byte).toNat r && slotServes lastReadState 0
      (grnOwner lastReadState 0 (((5 : Fin 64).val + 256 - (1 : Byte).toNat) % 64)) r) = some lastRead := by
  decide +kernel

/-- The write of the byte that it brings then waits in the queue. -/
theorem lastReadState_after (t : State) (h : exec (.granaryAccess 0 1 5) lastReadState = .next t) :
    t.grnQueue = [{ core := 0, engine := .copy, op := 5, addr := 64, act := .write [(64, 0)] }] := by
  have hrun : (match exec (.granaryAccess 0 1 5) lastReadState with
    | .next t => t.grnQueue == [{ core := 0, engine := .copy, op := 5, addr := 64, act := .write [(64, 0)] }]
    | _ => false) = true := by decide +kernel
  rw [h] at hrun
  exact beq_iff_eq.mp hrun

/-- Refutes O23: its clause on a slot asks for an empty queue after the last read of a transfer is served alone, and the write
of that transfer has joined the queue by then. -/
theorem not_granaryCommands : ¬ Obligations.GranaryCommands := by
  intro h
  obtain ⟨hslot, -⟩ := h lastReadState 0
  obtain ⟨t, hexec, hqueue, -⟩ := hslot 1 5 lastRead lastReadState_find (by decide +kernel) (by decide +kernel)
  have hgone : t.grnQueue = [] := hqueue.trans (by decide +kernel)
  simp [lastReadState_after t hexec] at hgone

end Sys2Proof.Machine
end

section
/-! O24: the access that answers the last read of a transfer. As in O23, the statement bars loads and stores with requests
still to send, not transfers. A transfer that has read its last byte sends its writes at once, and one to a stack joins the
queue of HBM (06 R453; 08 R182). -/

namespace Sys2Proof.Machine

/-- The transfer of `lastReadCopy` in HBM: from the first byte of stack 0 to the first byte of its next granule. -/
def lastHbmReadCopy : MoveOp := { lastReadCopy with plan := [(8 * hbmBase, 8 * (hbmBase + 64), 8)] }

/-- The read that it awaits, which waits at pseudo-channel 0. -/
def lastHbmRead : MemReq := { lastRead with addr := hbmBase }

/-- The write that the transfer then sends: the byte read, to a stack whose controller has accepted the request. -/
def lastHbmWrite : MemReq :=
  { core := 0, engine := .copy, op := 5, addr := hbmBase + 64, act := .write [(hbmBase + 64, 0)], acked := true }

/-- `lastHbmRead` waits alone, and stack 0 is READY. -/
def lastHbmReadState : State :=
  fset { cores := [(0, { copies := [lastHbmReadCopy] })], hbmQueue := [lastHbmRead] } .hbmStatusState 0 1

/-- The stack is READY, and that read is the oldest that its controller has accepted at the pseudo-channel. -/
theorem lastHbmReadState_find : hbmReady lastHbmReadState (stackOf 0) = true ∧
    (accepted lastHbmReadState (stackOf 0)).find? (fun r => pchanOf r.addr == (0 : PChan).val) = some lastHbmRead := by
  decide +kernel

theorem lastHbmReadState_queue : lastHbmReadState.hbmQueue = [lastHbmRead] := rfl

/-- No load and no store is under way. -/
theorem lastHbmReadState_moves :
    (lastHbmReadState.core lastHbmRead.core).loads = [] ∧ (lastHbmReadState.core lastHbmRead.core).stores = [] := by
  decide +kernel

/-- After the access the transfer's write waits in the queue. -/
theorem lastHbmReadState_after (t : State) (h : exec (.hbmAccess 0) lastHbmReadState = .next t) :
    t.hbmQueue = [lastHbmWrite] := by
  have hrun : (match exec (.hbmAccess 0) lastHbmReadState with
    | .next t => t.hbmQueue == [lastHbmWrite]
    | _ => false) = true := by decide +kernel
  rw [h] at hrun
  exact beq_iff_eq.mp hrun

/-- Refutes O24: its clause on an access asks for an empty queue after the last read of a transfer is performed alone, and the
write of that transfer has joined the queue by then. -/
theorem not_hbmCommands : ¬ Obligations.HbmCommands := by
  intro h
  obtain ⟨haccess, -⟩ := h lastHbmReadState
  obtain ⟨hready, holdest⟩ := lastHbmReadState_find
  obtain ⟨hloads, hstores⟩ := lastHbmReadState_moves
  have hacked : ∀ x ∈ lastHbmReadState.hbmQueue, ∀ cells, x.act = .write cells → x.acked = true := by
    simp [lastHbmReadState_queue, lastHbmRead, lastRead]
  obtain ⟨t, hexec, hqueue, -⟩ :=
    haccess 0 lastHbmRead hready holdest hacked (by simp [hloads]) (by simp [hstores])
  have hgone : t.hbmQueue = [] := hqueue.trans (by decide +kernel)
  simp [lastHbmReadState_after t hexec] at hgone

end Sys2Proof.Machine
end

section
/-! O28 and O29: what an access to memory, an acknowledgement and a poisoning leave alone of the groups, the fetch of an entry,
and the arrival of a collective packet (09 R190 to R202). -/

namespace Sys2Proof.Machine

section GroupsKept

variable {s : State}

/-! ### No access to memory touches a group -/

@[simp] theorem record_groups (s : State) (cls : Cls) (sev : Sev) (p : Option Part) (x : UnitRef) (op : OpRef) (code : Nat)
    (synd : Synd) : (record s cls sev p x op code synd).groups = s.groups := by
  rcases record_cases s cls sev p x op code synd with ⟨-, r, h⟩ | ⟨-, h⟩ <;> simp [h]

@[simp] theorem setStatus_groups (s : State) (p : Option Part) (b : StepBit) : (setStatus s p b).groups = s.groups := by
  cases p <;> rfl

@[simp] theorem memFault_groups (s : State) (a : Nat) (ag : MemAgent) (p : Option Part) (x : UnitRef) (l : List Nat) :
    (memFault s a ag p x l).groups = s.groups := by
  simp [memFault]

@[simp] theorem grnFault_groups (s : State) (q : MemDie) (a : Nat) (ag : MemAgent) (p : Option Part) :
    (grnFault s q a ag p).groups = s.groups := by
  simp [grnFault]

@[simp] theorem hbmFault_groups (s : State) (k : Stack) (a : Nat) (ag : MemAgent) (p : Option Part) :
    (hbmFault s k a ag p).groups = s.groups := by
  simp [hbmFault]

theorem ite_groups {P : Prop} [Decidable P] {t : State} (h : t.groups = s.groups) :
    (if P then t else s).groups = s.groups := by
  split
  · exact h
  · rfl

@[simp] theorem sramRead_groups (s : State) (c : Core) (runs : List (Nat × Nat)) : (sramRead s c runs).groups = s.groups := by
  have faults := fun (l : List (Nat × Nat)) (t : State) => foldl_keeps (R := fun s t : State => t.groups = s.groups)
    (f := fun t e => memFault t (4 * e.1) (.core c) (partOfCore t c) (.core c) [])
    (fun _ => rfl) (fun h h' => h'.trans h) (fun t _ => memFault_groups t _ _ _ _ _) l t
  refine (faults _ _).trans ?_
  split <;> rfl

theorem unitRead_groups (s : State) (ag : MemAgent) (p : Option Part) (a n : Nat) :
    (unitRead s ag p a n).1.groups = s.groups := by
  unfold unitRead
  split
  · unfold grnRead
    dsimp only
    repeat' split
    all_goals simp
  · unfold hbmRead
    dsimp only
    repeat' split
    all_goals simp
  · unfold windowRead
    split <;> simp
  · rfl
  · rfl

@[simp] theorem setDev_groups (s : State) (g d : Nat) : (setDev s g d).groups = s.groups := rfl

theorem grnWrite_groups (s : State) (q : MemDie) (ag : MemAgent) (p : Option Part) (cells : List Host.Cell) :
    (grnWrite s q ag p cells).groups = s.groups := by
  unfold grnWrite
  split
  · rfl
  · split
    · simp
    · dsimp only
      split <;> rfl

theorem hbmWrite_groups (s : State) (k : Stack) (ag : MemAgent) (p : Option Part) (cells : List Host.Cell) :
    (hbmWrite s k ag p cells).groups = s.groups := by
  unfold hbmWrite
  split
  · rfl
  · split
    · rfl
    · dsimp only
      split
      · split
        · rw [fset_groups, setDev_groups, mput_groups]
        · rw [setDev_groups, mput_groups]
      · rw [setDev_groups, mput_groups, mput_groups]
        exact (ite_groups (hbmFault_groups _ _ _ _ _)).trans (ite_groups (fbump_groups _ _ _ _))

theorem windowWrite_groups (s : State) (c : Core) (off : Nat) (b : Bytes) : (windowWrite s c off b).groups = s.groups := by
  unfold windowWrite
  split
  · exact record_groups _ _ _ _ _ _ _ _
  · unfold windowPut
    rfl

theorem unitWrite_groups (s : State) (ag : MemAgent) (p : Option Part) (cells : List Host.Cell) :
    (unitWrite s ag p cells).groups = s.groups := by
  unfold unitWrite
  split
  · rfl
  · split
    · exact grnWrite_groups _ _ _ _ _
    · exact hbmWrite_groups _ _ _ _ _
    · exact windowWrite_groups _ _ _ _
    · rfl
    · rfl

theorem takeEffect_groups (s : State) (r : MemReq) : (takeEffect s r).1.groups = s.groups := by
  unfold takeEffect
  dsimp only
  split
  · exact unitRead_groups _ _ _ _ _
  · exact unitWrite_groups _ _ _ _
  · rfl

theorem takeEffects_groups (pick seen : MemReq → Bool) (l : List MemReq) :
    ∀ (n : Nat) (s : State), (takeEffects pick seen n l s).1.groups = s.groups := by
  induction l with
  | nil => exact fun _ _ => rfl
  | cons r l ih =>
    intro n s
    simp only [takeEffects]
    split
    · rfl
    · refine (ih _ _).trans ?_
      split
      · exact takeEffect_groups s r
      · rfl

theorem arrive_groups (s : State) (ag : MemAgent) (a : Nat) : (arrive s ag a).groups = s.groups := by
  unfold arrive
  split
  · split
    · rfl
    · exact takeEffects_groups _ _ _ _ _
  · split
    · rfl
    · exact takeEffects_groups _ _ _ _ _
  · rfl

theorem memRead_groups (s : State) (ag : MemAgent) (p : Option Part) (a n : Nat) :
    (memRead s ag p a n).1.groups = s.groups := by
  refine foldl_keeps (R := fun x y : State × Bytes × Bool => y.1.groups = x.1.groups) (fun _ => rfl)
    (fun h h' => h'.trans h) (fun _ _ => ?_) (cutRun n a n) (s, [], false)
  exact (unitRead_groups _ _ _ _ _).trans (arrive_groups _ _ _)

theorem group_of_groups {t : State} (h : t.groups = s.groups) (g : Group) : t.group g = s.group g := by
  simp [State.group, h]

/-- The fetch of an entry is one read of memory. -/
theorem entryBytes_keeps (s : State) (g : Group) (i : Nat) :
    Reads accessFields s (entryBytes s g i).1 ∧ ∀ h, (entryBytes s g i).1.group h = s.group h := by
  unfold entryBytes
  dsimp only
  split
  · exact ⟨.refl s, fun _ => rfl⟩
  · split
    · exact ⟨reads_memRead _ _ _ _ _, group_of_groups (memRead_groups _ _ _ _ _)⟩
    · exact ⟨.refl s, fun _ => rfl⟩

end GroupsKept

/-! ### Acknowledging and poisoning -/

section Poisoning

variable {s t : State} {g : Group}

/-- What poisoning a collective may change of the registers. -/
def poisonFields : List Field := [.updStatusStatus, .errLostDropped, .xceCstatState]

theorem answer_rest (s : State) (q : Packet) (type : Byte) (aux : Nat) (data : Bytes) :
    answer s q type aux data = { s with net := (answer s q type aux data).net } := by
  unfold answer
  dsimp only
  split <;> rfl

theorem reports_ackTo (s : State) (q : Packet) {but : List Field} : Reports but s (ackTo s q) := by
  rw [ackTo, answer_rest]
  exact .of_eq rfl rfl rfl rfl rfl

theorem reports_setGroup (s : State) (g : Group) (x : GroupX) {but : List Field} : Reports but s (s.setGroup g x) :=
  .of_eq rfl rfl rfl rfl rfl

theorem grpActive_of_kept {but : List Field} (h : Kept but s t) (hb : .xceCstatState ∉ but) (g : Group) :
    grpActive t g = grpActive s g := by
  simp only [grpActive, grpState, h.regs _ _ hb]

/-- The record of a poisoning and the step's CHECKSUM. -/
theorem reports_poisonReport (s : State) (g : Group) (code xtag block from' detail : Nat) {but : List Field}
    (hs : .updStatusStatus ∈ but) (he : .errLostDropped ∈ but) :
    Reports but s (setStatus (collRecord s g .step code xtag block from' detail)
      (grpPart (collRecord s g .step code xtag block from' detail) g) .checksum) :=
  (reports_record _ _ _ _ _ _ _ he).trans (reports_setStatus _ _ hs)

theorem reports_poison (s : State) (g : Group) (code xtag block from' detail : Nat) :
    Reports poisonFields s (poison s g code xtag block from' detail) := by
  have hreport := reports_poisonReport s g code xtag block from' detail (but := poisonFields) (by decide) (by decide)
  exact hreport.trans (.ite ((reports_setGroup _ _ _).trans (reports_fset _ _ _ (by decide) (by decide))))

/-- The active collective is poisoned. -/
theorem poison_poisoned (hactive : grpActive s g = true) (code xtag block from' detail : Nat) :
    ((poison s g code xtag block from' detail).group g).poisoned = true := by
  have hreport := reports_poisonReport s g code xtag block from' detail (but := reportFields) (by decide) (by decide)
  unfold poison
  dsimp only
  rw [grpActive_of_kept hreport.toKept (by decide) g, hactive]
  simp

theorem reports_takePoison (s : State) (g : Group) (h : XHdr) : Reports poisonFields s (takePoison s g h) :=
  .ite (reports_poison _ _ _ _ _ _ _)

theorem reports_stopEntry (s : State) (g : Group) {but : List Field} : Reports but s (stopEntry s g) := reports_setGroup _ _ _

theorem group_stopEntry (s : State) (g : Group) :
    ((stopEntry s g).group g).stopped = true ∧ ((stopEntry s g).group g).poisoned = (s.group g).poisoned := by
  simp [stopEntry]

end Poisoning

end Sys2Proof.Machine
end

section
/-! O28: an entry that is due becomes active, and lifted tiles and complete blocks enter the collective (09 R192 to R194, R197
to R199, R204, R212). -/

namespace Sys2Proof.Machine

section Begin

variable {s r : State} {g : Group} {e : CollEntry}

/-! ### The fetch -/

/-- Each collective is the fetch of an entry with its operation. -/
theorem exec_collective {i : Instr} {op : Nat} (s : State)
    (h : (i, op) ∈ [(Instr.reduceScatter g, 0), (Instr.allGather g, 1), (Instr.allReduce g, 2), (Instr.broadcast g, 3),
      (Instr.allToAll g, 4), (Instr.send g, 5), (Instr.recv g, 6)]) : exec i s = fetchEntry s g op := by
  simp only [List.mem_cons, Prod.mk.injEq, List.not_mem_nil, or_false] at h
  rcases h with ⟨rfl, rfl⟩ | ⟨rfl, rfl⟩ | ⟨rfl, rfl⟩ | ⟨rfl, rfl⟩ | ⟨rfl, rfl⟩ | ⟨rfl, rfl⟩ | ⟨rfl, rfl⟩ <;> rfl

theorem fetchEntry_of_due {op : Nat} {b : Bytes} (h : Claims.entryDue s g op r b) :
    fetchEntry s g op = .next (activate' r g (collEntryOf b) none) := by
  obtain ⟨hdue, hbytes, hop, hsound, hhost⟩ := h
  simp [fetchEntry, hdue, hbytes, hop, hsound, hhost]

/-- The group with entry `e` just fetched: of it nothing is sent, received or summed. -/
def begunGroup (s : State) (g : Group) (e : CollEntry) : GroupX :=
  { entry := some e, poisonLater := (s.group g).poisonLater.filter (· != grpInst s g)
    badLater := (s.group g).badLater.filter (·.1 != grpInst s g)
    discards := (s.group g).discards, isSeal := (s.group g).isSeal }

/-- The group's entry `e` has become active. -/
def entryBegun (s : State) (g : Group) (e : CollEntry) : State :=
  fset (fset (s.setGroup g (begunGroup s g e)) .xceCstatState g.val 1) .xceCstatBlocks g.val 0

/-- An entry that nothing poisoned before begins. -/
theorem activate'_begins (e : CollEntry) (hpoison : (s.group g).poisonLater.contains (grpInst s g) = false)
    (hbad : ∀ x ∈ (s.group g).badLater, x.1 ≠ grpInst s g) :
    activate' s g e none =
      if e.reduces then settleColl (entryBegun s g e) g e else startMove (entryBegun s g e) g e := by
  have hnone : (s.group g).badLater.filter (·.1 == grpInst s g) = [] :=
    List.filter_eq_nil_iff.mpr fun x hx => by simpa using hbad x hx
  simp only [activate', hnone, hpoison, List.foldl_nil, Bool.false_eq_true, if_false, entryBegun, begunGroup]

theorem reports_entryBegun (s : State) (g : Group) (e : CollEntry) :
    Reports [.xceCstatState, .xceCstatBlocks] s (entryBegun s g e) :=
  ((reports_setGroup s g _).trans (reports_fset _ _ _ (by decide) (by decide))).trans
    (reports_fset _ _ _ (by decide) (by decide))

theorem entryBegun_state (s : State) (g : Group) (e : CollEntry) :
    grpState (entryBegun s g e) g = 1 ∧ fget (entryBegun s g e) .xceCstatBlocks g.val = 0 := by
  constructor
  · rw [grpState, entryBegun, fget_fset_other _ _ (by simp), fget_fset_same]
    rfl
  · rw [entryBegun, fget_fset_same]
    rfl

theorem group_entryBegun (s : State) (g : Group) (e : CollEntry) : (entryBegun s g e).group g = begunGroup s g e := by
  simp [entryBegun]

theorem group_entryBegun_other (s : State) {g h : Group} (e : CollEntry) (hh : h ≠ g) :
    (entryBegun s g e).group h = s.group h := by
  simp [entryBegun, State.group_setGroup_other s _ hh]

theorem collectivesStart : Claims.CollectivesStart := by
  intro s r g b i op hop hdue hpoison hbad
  have ⟨_, hfetch, _⟩ := hdue
  obtain ⟨hreads, hgroups⟩ := entryBytes_keeps s g (grpInst s g)
  rw [hfetch] at hreads hgroups
  have hinst : grpInst r g = grpInst s g := hreads.regs _ _ (by decide)
  rw [← hgroups g, ← hinst] at hpoison hbad
  obtain ⟨hstate, hblocks⟩ := entryBegun_state r g (collEntryOf b)
  have hkept := reports_entryBegun r g (collEntryOf b)
  have hgroup := group_entryBegun r g (collEntryOf b)
  refine ⟨entryBegun r g (collEntryOf b), ?_, congrArg (·.entry) hgroup, congrArg (·.sent) hgroup, congrArg (·.acc) hgroup,
    congrArg (·.chunks) hgroup, congrArg (·.poisoned) hgroup, congrArg (·.stopped) hgroup, hstate, hblocks, hkept.regs,
    hkept.mem, fun h hh => (group_entryBegun_other r _ hh).trans (hgroups h)⟩
  rw [exec_collective s hop, fetchEntry_of_due hdue, activate'_begins _ hpoison hbad]

/-! ### Lifts and blocks -/

/-- A tile of the active entry that its accumulators can take. -/
theorem exec_liftAccumulate {d : Die} {l : LiftX} {rest : List LiftX} (hactive : grpActive s g = true)
    (hentry : (s.group g).entry = some e) (hgoes : (s.group g).stopped = false) (hreduces : e.reduces = true)
    (hlift : tget (fun _ => []) s.lifts d.val = l :: rest) (hgroup : l.xtag % 16 = g.val) (hinst : l.xtag / 16 = grpInst s g)
    (hkept : (s.group g).discards.contains (grpInst s g) = false) (hcontrib : e.contrib ≠ 0)
    (hroom : accInUse s (grpServe s g) + ((liftParts l).filter fun c =>
      decide (c.1 < e.count) && !((s.group g).acc.any fun a => a.1 == c.1)).length ≤ 4096) :
    exec (.liftAccumulate d) s = .next (settleColl ((liftParts l).foldl (takeLift g e l.xtag)
      { s with lifts := tset (fun _ => []) s.lifts d.val rest }) g e) := by
  have hg : (⟨l.xtag % 16, Nat.mod_lt _ (by decide)⟩ : Group) = g := Fin.ext hgroup
  show execLiftAccumulate d s = _
  unfold execLiftAccumulate
  rw [hlift]
  simp only [hg, hinst, hkept, hactive, hentry, hgoes, hreduces, hcontrib, Nat.not_lt.mpr hroom, Bool.false_eq_true, if_false,
    if_true, and_false, and_self, ne_eq, not_false_eq_true]

/-- A block of the active entry that this rank starts. -/
theorem exec_blockReady {b : Word} {w : Nat × Nat} (hactive : grpActive s g = true)
    (hentry : (s.group g).entry = some e) (hgoes : (s.group g).stopped = false) (hreduces : e.reduces = true)
    (hcount : b.toNat < e.count) (hsent : (s.group g).sent.contains b.toNat = false)
    (hstarts : (ownerOf e.count (grpSize s g) b.toNat + 1) % grpSize s g = grpRank s g)
    (hown : ownReady s g e b.toNat = true) (hwindow : starterWindow s g e b.toNat = (r, some w)) :
    exec (.blockReady g b) s = .next (settleColl (hopBlock r g e
      { block := b.toNat, form := w.1, w := w.2, elems := [], cks := 0, ext := {}, hops := 0, eschop := 0x1FFFF
        halves := 3 }) g e) := by
  show execBlockReady g b s = _
  simp only [execBlockReady, hentry, hactive, hgoes, hreduces, hsent, hstarts, hown, hwindow, Nat.not_le.mpr hcount,
    decide_false, bne_self_eq_false, Bool.not_true, Bool.or_self, Bool.false_eq_true, if_false]

theorem liftsAndBlocksStart : Claims.LiftsAndBlocksStart :=
  fun _ _ _ hactive hentry hgoes hreduces =>
    ⟨fun _ _ _ => exec_liftAccumulate hactive hentry hgoes hreduces,
      fun _ _ _ => exec_blockReady hactive hentry hgoes hreduces⟩

end Begin

/-- Settles O28: a due, sound entry begins as its fetch brought it, and a tile or a block of it passes every guard before its
effect. -/
theorem collectivesBegin : Obligations.CollectivesBegin := ⟨collectivesStart, liftsAndBlocksStart⟩

end Sys2Proof.Machine
end

section
/-! O29: packets of the active entry take effect, and a collective that has everything completes (09 R193 to R195, R200 to
R212). -/

namespace Sys2Proof.Machine

section Packets

variable {s : State} {q : Packet} {g : Group} {p : Part} {e : CollEntry}

/-! ### The arrival -/

/-- A packet that has arrived for the active entry has the effect of its KIND on that. -/
theorem xceArrive_of_arrived {kind : Nat} (h : Claims.collArrived s q kind g p e)
    (active : State → Group → CollEntry → XHdr → State) (past : State → Group → XHdr → State)
    (early : State → Group → XHdr → Option State) :
    xceArrive s q kind active past early = .next (active s g e (xhdrOf q.data)) := by
  obtain ⟨htype, hus, hkind, hcheck, hvc, hgroup, hpart, hstep, hinst, hactive, hentry, -, hkept⟩ := h
  have hg : (⟨(xhdrOf q.data).group, Nat.mod_lt _ (by decide)⟩ : Group) = g := Fin.ext hgroup.symm
  rw [hinst, List.contains_eq_mem, decide_eq_false_iff_not] at hkept
  simp [xceArrive, htype, hus, hkind, hcheck, hg, ← hvc, hpart, hstep, hinst, hactive, hentry, hkept]

/-! ### Blocks, extents and bytes -/

theorem exec_blockPacket (h : Claims.collArrived s q 1 g p e) (hfits : blockFits s g e (xhdrOf q.data) = true) :
    exec (.blockPacket q) s = .next (settleColl
      (holdBlock (takePoison (ackTo s q) g (xhdrOf q.data)) g (xhdrOf q.data) (q.data.drop 32)) g e) := by
  show execBlockPacket q s = _
  rw [execBlockPacket, xceArrive_of_arrived h, if_pos hfits]

theorem exec_extentNotice (h : Claims.collArrived s q 3 g p e) (hshard : inShard s g e (predRank s g) (xhdrOf q.data) = true)
    (hform : e.agreed = false) :
    exec (.extentNotice q) s = .next (takeExtents q (takePoison s g (xhdrOf q.data)) g e (xhdrOf q.data)) := by
  show execExtentNotice q s = _
  rw [execExtentNotice, xceArrive_of_arrived h, if_pos (by simp [hshard, hform])]

/-- The packet is acknowledged, and its POISON taken. -/
theorem reports_acknowledged (s : State) (q : Packet) (g : Group) (h : XHdr) :
    Reports poisonFields s (takePoison (ackTo s q) g h) :=
  (reports_ackTo s q).trans (reports_takePoison _ g h)

theorem exec_xrec (h : Claims.collArrived s q 4 g p e)
    (hshard : inShard s g e (ownerOf e.count (grpSize s g) (xhdrOf q.data).block) (xhdrOf q.data) = true)
    (hform : e.agreed = true)
    (hpasses : (ownerOf e.count (grpSize s g) (xhdrOf q.data).block + 1) % grpSize s g ≠ grpRank s g) :
    ∃ u, exec (.xrec q) s = .next (settleColl u g e) ∧
      (u.group g).xheld = ((takePoison (ackTo s q) g (xhdrOf q.data)).group g).xheld ++
        [((xhdrOf q.data).block, noticeRecords q (xhdrOf q.data))] ∧ Claims.memSame s u := by
  have hguard : (inShard s g e (ownerOf e.count (grpSize s g) (xhdrOf q.data).block) (xhdrOf q.data) && e.agreed &&
      (ownerOf e.count (grpSize s g) (xhdrOf q.data).block + 1) % grpSize s g != grpRank s g) = true := by
    rw [hshard, hform, bne_iff_ne.mpr hpasses]
    rfl
  have hexec : exec (.xrec q) s = .next (settleColl _ g e) :=
    (show execXrec q s = _ by rw [execXrec, xceArrive_of_arrived h]; dsimp only; rw [if_pos hguard])
  exact ⟨_, hexec, by rw [State.group_setGroup_same],
    ((reports_acknowledged s q g (xhdrOf q.data)).trans (reports_setGroup _ _ _)).mem⟩

theorem reads_storeWindows (s : State) (g : Group) (e : CollEntry) (first : Nat) (l : List ExtentX) :
    Reads accessFields s (storeWindows s g e first l) :=
  foldl_keeps Reads.refl Reads.trans (fun _ _ => reads_agentWrite _ _ _ _ _) _ s

/-- The size of a group is the same after a notice is acknowledged and its extents recorded. -/
theorem grpSize_recorded (s : State) (q : Packet) (g : Group) (e : CollEntry) (h : XHdr) (first : Nat) (l : List ExtentX) :
    grpSize (storeWindows (takePoison (ackTo s q) g h) g e first l) g = grpSize s g := by
  simp only [grpSize, (reads_storeWindows (takePoison (ackTo s q) g h) g e first l).regs .xceGroupSizem1 g.val (by decide),
    (reports_acknowledged s q g h).regs .xceGroupSizem1 g.val (by decide)]

/-- The windows that the agreed extents of consecutive blocks give in a group of `size` members. -/
def agreedWindows (size first : Nat) (l : List ExtentX) : List (Nat × Nat × Nat) :=
  (List.zip (span first l.length) l).map fun r => (r.1, chooseWindow r.2 (ceilLog2 size + 1) 0)

theorem mem_agreedWindows {size first b : Nat} {l : List ExtentX} {w : Nat × Nat} :
    (b, w) ∈ agreedWindows size first l ↔
      ∃ x, (b, x) ∈ List.zip (span first l.length) l ∧ w = chooseWindow x (ceilLog2 size + 1) 0 := by
  simp [agreedWindows, eq_comm]

/-- The windows join those that the group has. -/
def windowsTaken (s : State) (g : Group) (ws : List (Nat × Nat × Nat)) : State :=
  s.setGroup g { s.group g with windows := (s.group g).windows ++ ws }

theorem exec_agreedNotice (h : Claims.collArrived s q 5 g p e)
    (hshard : inShard s g e (predRank s g) (xhdrOf q.data) = true) (hform : e.agreed = true) :
    exec (.agreedNotice q) s = .next (windowsTaken
      (storeWindows (takePoison (ackTo s q) g (xhdrOf q.data)) g e (xhdrOf q.data).block (noticeRecords q (xhdrOf q.data))) g
      (agreedWindows (grpSize s g) (xhdrOf q.data).block (noticeRecords q (xhdrOf q.data)))) := by
  show execAgreedNotice q s = _
  rw [execAgreedNotice, xceArrive_of_arrived h, if_pos (by simp [hshard, hform])]
  dsimp only
  rw [grpSize_recorded]
  rfl

theorem agreedNotice_windows (h : Claims.collArrived s q 5 g p e)
    (hshard : inShard s g e (predRank s g) (xhdrOf q.data) = true) (hform : e.agreed = true) :
    let u := storeWindows (takePoison (ackTo s q) g (xhdrOf q.data)) g e (xhdrOf q.data).block
      (noticeRecords q (xhdrOf q.data))
    ∃ t, exec (.agreedNotice q) s = .next t ∧ Claims.memSame u t ∧
      ∀ b w, (b, w) ∈ (t.group g).windows ↔ (b, w) ∈ (u.group g).windows ∨
        ∃ x, (b, x) ∈ List.zip (span (xhdrOf q.data).block (noticeRecords q (xhdrOf q.data)).length)
          (noticeRecords q (xhdrOf q.data)) ∧ w = chooseWindow x (ceilLog2 (grpSize s g) + 1) 0 := by
  refine ⟨_, exec_agreedNotice h hshard hform, (reports_setGroup _ _ _ (but := [])).mem, fun b w => ?_⟩
  rw [windowsTaken, State.group_setGroup_same, List.mem_append, mem_agreedWindows]

theorem exec_dataPacket {dest : Nat × Nat × Nat} (h : Claims.collArrived s q 2 g p e)
    (hplace : (dataPlace s g e q (xhdrOf q.data)).2 = some dest)
    (hfits : chunkFits (2048 * (xhdrOf q.data).block)
      (q.data.length - 32 - (if (xhdrOf q.data).v then 16 else 0)) dest.2.2 = true) :
    exec (.dataPacket q) s =
      .next (landData (dataPlace s g e q (xhdrOf q.data)).1 g e q (xhdrOf q.data) dest) := by
  show execDataPacket q s = _
  rw [execDataPacket, xceArrive_of_arrived h]
  simp only [hplace, hfits, if_true]

/-! ### The poison notice -/

theorem exec_poisonNotice (h : Claims.collArrived s q 6 g p e) :
    ∃ t, exec (.poisonNotice q) s = .next t ∧ (t.group g).stopped = true ∧ (t.group g).poisoned = true ∧
      Claims.memSame s t := by
  have hexec : exec (.poisonNotice q) s = .next (stopEntry _ g) :=
    show execPoisonNotice q s = _ by rw [execPoisonNotice, xceArrive_of_arrived h]
  refine ⟨_, hexec, (group_stopEntry _ g).1, (group_stopEntry _ g).2.trans ?_, ?_⟩
  · obtain ⟨-, -, -, -, -, -, -, -, -, hactive, -⟩ := h
    have hacked : grpActive (ackTo s q) g = true :=
      (grpActive_of_kept (reports_ackTo s q (but := [])).toKept (by decide) g).trans hactive
    split
    · assumption
    · exact poison_poisoned hacked _ _ _ _ _
  · refine Claims.memSame_trans (reports_ackTo s q (but := poisonFields)).mem (Claims.memSame_trans ?_
      (reports_stopEntry _ g (but := [])).mem)
    split
    · exact ⟨rfl, rfl⟩
    · exact (reports_poison _ _ _ _ _ _ _).mem

theorem collectivePackets : Claims.CollectivePackets :=
  fun _ _ _ _ _ => ⟨exec_blockPacket, exec_extentNotice, exec_xrec, agreedNotice_windows, fun _ => exec_dataPacket,
    exec_poisonNotice⟩

end Packets

/-! ### Completion -/

section Completion

variable {s : State} {g : Group} {e : CollEntry}

/-- The signal of a complete entry is on its way, unless the entry names none. -/
def entrySignalled (s : State) (g : Group) (e : CollEntry) : State :=
  match if (s.group g).noFlag || e.sflag == 0xFFF then none else sflagRef s g e.sflag with
  | some f => { s with signals := s.signals ++ [f] }
  | none => s

/-- The entry has left the group, which stood at `x`, and INST names the next one. -/
def instAdvanced (s : State) (g : Group) (x : GroupX) : State :=
  let u := (unstageEntry s g).setGroup g
    { poisonLater := x.poisonLater, badLater := x.badLater
      discards := if x.counted then grpInst s g :: x.discards else x.discards }
  fset u .xceCstatInst g.val (grpInst u g + 1)

/-- The entry has left the group, and STATE says whether the list has more. -/
def entryLeft (s : State) (g : Group) (x : GroupX) : State :=
  let v := instAdvanced s g x
  fset v .xceCstatState g.val (if grpCount v g ≤ grpInst v g then 3 else 0)

theorem exec_collectiveComplete (hentry : (s.group g).entry = some e) (hactive : grpActive s g = true)
    (hacked : (s.group g).unacked = 0) (hall : (s.group g).stopped = true ∨ allReceived s g e = true)
    (hseal : (s.group g).isSeal = false) :
    exec (.collectiveComplete g) s = .next (entryLeft (entrySignalled s g e) g (s.group g)) := by
  show execCollectiveComplete g s = _
  have hdone : ((s.group g).stopped || allReceived s g e) = true := by simpa using hall
  simp only [execCollectiveComplete, hentry, hactive, hacked, hdone, hseal, bne_self_eq_false, Bool.not_true, Bool.or_self,
    Bool.false_eq_true, if_false]
  rfl

theorem entrySignalled_rest (s : State) (g : Group) (e : CollEntry) :
    entrySignalled s g e = { s with signals := (entrySignalled s g e).signals } := by
  unfold entrySignalled
  split <;> rfl

theorem entrySignalled_names {f : FlagRef} (hf : sflagRef s g e.sflag = some f) (hflag : (s.group g).noFlag = false)
    (hnames : e.sflag ≠ 0xFFF) : (entrySignalled s g e).signals = s.signals ++ [f] := by
  simp [entrySignalled, hf, hflag, hnames]

theorem entrySignalled_none (h : (s.group g).noFlag = true ∨ e.sflag = 0xFFF) : (entrySignalled s g e).signals = s.signals := by
  rcases h with h | h <;> simp [entrySignalled, h]

theorem unstageEntry_rest (s : State) (g : Group) : unstageEntry s g = { s with net := (unstageEntry s g).net } := by
  unfold unstageEntry
  split
  · split <;> rfl
  · rfl

theorem entryLeft_signals (s : State) (g : Group) (x : GroupX) : (entryLeft s g x).signals = s.signals := by
  simp only [entryLeft, instAdvanced, fset_signals, State.setGroup_signals]
  rw [unstageEntry_rest]

theorem entryLeft_entry (s : State) (g : Group) (x : GroupX) : ((entryLeft s g x).group g).entry = none := by
  simp [entryLeft, instAdvanced]

theorem entryLeft_group_other (s : State) {g h : Group} (x : GroupX) (hh : h ≠ g) : (entryLeft s g x).group h = s.group h := by
  simp only [entryLeft, instAdvanced, fset_group, State.group_setGroup_other _ _ hh]
  rw [unstageEntry_rest]
  rfl

theorem reports_instAdvanced (s : State) (g : Group) (x : GroupX) : Reports [.xceCstatInst] s (instAdvanced s g x) := by
  have hunstaged : Reports [.xceCstatInst] s (unstageEntry s g) := by
    rw [unstageEntry_rest]
    exact .of_eq rfl rfl rfl rfl rfl
  exact (hunstaged.trans (reports_setGroup _ g _)).trans (reports_fset _ _ _ (by decide) (by decide))

theorem reports_entryLeft (s : State) (g : Group) (x : GroupX) :
    Reports [.xceCstatInst, .xceCstatState] s (entryLeft s g x) :=
  ((reports_instAdvanced s g x).mono (by simp)).trans (reports_fset _ _ _ (by decide) (by decide))

theorem grpInst_entryLeft (s : State) (g : Group) (x : GroupX) : grpInst (entryLeft s g x) g = grpInst (instAdvanced s g x) g :=
  fget_fset_other _ _ (by simp)

theorem entryLeft_inst (s : State) (g : Group) (x : GroupX) :
    grpInst (entryLeft s g x) g = (grpInst s g + 1) % 2 ^ Field.xceCstatInst.spec.width := by
  have hinst : grpInst (unstageEntry s g) g = grpInst s g := by
    rw [unstageEntry_rest]
    rfl
  rw [grpInst_entryLeft, grpInst, instAdvanced, fget_fset_same, ← hinst]
  rfl

theorem entryLeft_state (s : State) (g : Group) (x : GroupX) :
    grpState (entryLeft s g x) g = if grpCount s g ≤ grpInst (entryLeft s g x) g then 3 else 0 := by
  have hcount : grpCount (instAdvanced s g x) g = grpCount s g := (reports_instAdvanced s g x).regs _ _ (by decide)
  rw [grpInst_entryLeft, grpState, entryLeft, fget_fset_same, hcount]
  split <;> rfl

theorem collectivesComplete : Claims.CollectivesComplete := by
  intro s g e hentry hactive hacked hall hseal
  have hsignalled : Reports [.xceCstatInst, .xceCstatState] s (entrySignalled s g e) := by
    rw [entrySignalled_rest]
    exact .of_eq rfl rfl rfl rfl rfl
  have hgroups : ∀ h, (entrySignalled s g e).group h = s.group h := fun h => by
    rw [entrySignalled_rest]
    rfl
  have hinst : grpInst (entrySignalled s g e) g = grpInst s g := by
    rw [entrySignalled_rest]
    rfl
  have hcount : grpCount (entrySignalled s g e) g = grpCount s g := by
    rw [entrySignalled_rest]
    rfl
  have hkept := hsignalled.trans (reports_entryLeft (entrySignalled s g e) g (s.group g))
  refine ⟨_, exec_collectiveComplete hentry hactive hacked hall hseal, entryLeft_entry _ g _,
    (entryLeft_inst _ g _).trans (by rw [hinst]), (entryLeft_state _ g _).trans (by rw [hcount]),
    fun f hf hflag hnames => (entryLeft_signals _ g _).trans (entrySignalled_names hf hflag hnames),
    fun hnone => (entryLeft_signals _ g _).trans (entrySignalled_none hnone), hkept.regs, hkept.mem,
    fun h hh => (entryLeft_group_other _ _ hh).trans (hgroups h)⟩

end Completion

/-- Settles O29: a packet of the active entry passes the checks of every arrival and has its KIND's effect; the complete entry
signals and leaves its group. -/
theorem collectivesRun : Obligations.CollectivesRun := ⟨collectivePackets, collectivesComplete⟩

end Sys2Proof.Machine
end

section
/-! What a message, an answer, the queue of an Update Engine and the end of a loop leave alone (10 R224; 11 R261; 13 R323, R324;
14 R346). -/

namespace Sys2Proof.Machine

section Sealing

variable {but : List Field} {s t : State} {p : Part}

/-! ### Messages -/

theorem msix_rest (s : State) (f : Fn) (vec : Nat) :
    msix s f vec = { s with sent := (msix s f vec).sent, fns := (msix s f vec).fns } := by
  unfold msix
  dsimp only
  repeat' split
  all_goals rfl

theorem reports_msix (s : State) (f : Fn) (vec : Nat) : Reports but s (msix s f vec) := by
  rw [msix_rest]
  exact .of_eq rfl rfl rfl rfl rfl

theorem reports_raise (s : State) (src : IrqSource) : Reports but s (raise s src) := by
  rw [raise_rest]
  exact .of_eq rfl rfl rfl rfl rfl

theorem pumpGo_rest (n : Nat) : ∀ s : State, pumpGo n s = { s with net := (pumpGo n s).net } := by
  induction n with
  | zero => exact fun _ => rfl
  | succ n ih =>
    intro s
    unfold pumpGo
    split
    · split
      · rfl
      · exact ih _
    · rfl

/-- A request changes nothing but what the device holds for the fabric. -/
theorem sendReq_rest (s : State) (q : Option Part) (why : ReqFor) (m : Packet) :
    sendReq s q why m = { s with net := (sendReq s q why m).net } := pumpGo_rest _ _

theorem reports_sendReq (s : State) (q : Option Part) (why : ReqFor) (m : Packet) : Reports but s (sendReq s q why m) := by
  rw [sendReq_rest]
  exact .of_eq rfl rfl rfl rfl rfl

theorem reports_pfEvent (s : State) (vec info : Nat) : Reports but s (pfEvent s vec info) := by
  have hvec : Reports but s (msix s 0 vec) := reports_msix s 0 vec
  unfold pfEvent
  dsimp only
  split
  · exact hvec.trans (.of_eq rfl rfl rfl rfl rfl)
  · split
    · exact hvec.trans (reports_sendReq _ _ _ _)
    · exact hvec

/-- An answer leaves every register and partition as it is. -/
theorem ackTo_reads (s : State) (q : Packet) : (ackTo s q).regs = s.regs ∧ (ackTo s q).parts = s.parts := by
  rw [ackTo, answer_rest]
  exact ⟨rfl, rfl⟩

theorem fget_ackTo (s : State) (q : Packet) (f : Field) (i : Nat) : fget (ackTo s q) f i = fget s f i :=
  fget_of_regs (ackTo_reads s q).1 f i

theorem part_ackTo (s : State) (q : Packet) (p : Part) : (ackTo s q).part p = s.part p := by
  rw [State.part, (ackTo_reads s q).2]
  rfl

/-! ### The registers of a partition -/

theorem part_of_parts (h : t.parts = s.parts) (q : Part) : t.part q = s.part q := by simp [State.part, h]

theorem fbit_eq_false (s : State) (f : Field) (i : Nat) : fbit s f i = false ↔ fget s f i ≠ 1 := by simp [fbit]

/-- The quarters of a partition, and so its controller and engine, follow from the protection map alone. -/
theorem scOf_of_regs (hv : ∀ i, fget t .rotPmapValid i = fget s .rotPmapValid i)
    (hq : ∀ i, fget t .rotPmapQmask i = fget s .rotPmapQmask i) (p : Part) : scOf t p = scOf s p := by
  simp [scOf, quartersOf, fbit, hv, hq]

theorem setSealState_state (s : State) (p : Part) (v : Nat) :
    sealState (setSealState s p v) p = v % 2 ^ Field.updSealState.spec.width := fget_fset_same s _ _ _

/-! ### The queue of an Update Engine -/

/-- The fields that show what an Update Engine does. -/
def engineFields : List Field := [.updEngineState, .updEnginePart]

theorem showEngine_rest (s : State) (d : Die) : showEngine s d = { s with regs := (showEngine s d).regs } := by
  unfold showEngine
  split <;> rfl

theorem reports_showEngine (s : State) (d : Die) : Reports engineFields s (showEngine s d) := by
  unfold showEngine
  split
  · exact (reports_fset _ _ _ (by decide) (by decide)).trans (reports_fset _ _ _ (by decide) (by decide))
  · exact reports_fset _ _ _ (by decide) (by decide)

/-- The partition joins the queue of its engine, and is COMMITTING. -/
def commitQueued (s : State) (p : Part) : State :=
  showEngine { setSealState s p 4 with hub := { s.hub with commits := s.hub.commits ++ [p.val] } }
    (engineOf (setSealState s p 4) p)

theorem reports_commitQueued (s : State) (p : Part) :
    Reports (.updSealState :: engineFields) s (commitQueued s p) := by
  have hstate : Reports (.updSealState :: engineFields) s (setSealState s p 4) := reports_fset _ _ _ (by decide) (by decide)
  refine (hstate.trans (t := setSealState s p 4) (u := { setSealState s p 4 with hub := _ }) ?_).trans
    ((reports_showEngine _ _).mono (by decide))
  exact .of_eq rfl rfl rfl rfl rfl

theorem commitQueued_parts (s : State) (p : Part) : (commitQueued s p).parts = s.parts := by
  rw [commitQueued, showEngine_rest]
  rfl

theorem commitQueued_joins (s : State) (p : Part) :
    sealState (commitQueued s p) p = 4 ∧ p.val ∈ (commitQueued s p).hub.commits := by
  constructor
  · exact ((reports_showEngine _ _).regs _ _ (by decide)).trans (setSealState_state s p 4)
  · rw [commitQueued, showEngine_rest]
    simp

/-- What holds a partition in CKWAIT: a fence, the copy of the previous commit, a checkpoint. -/
def heldInCkwait (s : State) (p : Part) : Prop :=
  fget s .hstPartCtrlFence p.val = 1 ∨ (fget s .updSealCken p.val = 1 ∧ (s.part p).buddyCopy ≠ none) ∨
    (s.part p).ckptBusy = true

theorem leaveCkwait_of_held (h : heldInCkwait s p) : leaveCkwait s p = s := by
  rcases h with h | ⟨hon, hcopy⟩ | h
  · simp [leaveCkwait, fbit, h]
  · simp [leaveCkwait, fbit, hon, hcopy]
  · simp [leaveCkwait, h]

theorem leaveCkwait_of_free (hstate : sealState s p = 3) (h : ¬ heldInCkwait s p) : leaveCkwait s p = commitQueued s p := by
  obtain ⟨hfence, hcopy, hbusy⟩ : fget s .hstPartCtrlFence p.val ≠ 1 ∧
      (fget s .updSealCken p.val = 1 → (s.part p).buddyCopy = none) ∧ (s.part p).ckptBusy = false := by
    simpa [heldInCkwait, not_or] using h
  have hfree : fbit s .updSealCken p.val = false ∨ (s.part p).buddyCopy = none := by
    rw [fbit_eq_false]
    exact or_iff_not_imp_left.mpr fun hon => hcopy (not_not.mp hon)
  rw [← fbit_eq_false] at hfence
  unfold leaveCkwait
  simp only [hfence, Bool.false_eq_true, if_false, if_pos (And.intro hstate (And.intro hfree hbusy))]
  rfl

/-- A partition leaves CKWAIT for the queue of its engine, or stays as it is. -/
theorem leaveCkwait_cases (s : State) (p : Part) : leaveCkwait s p = s ∨ leaveCkwait s p = commitQueued s p := by
  unfold leaveCkwait
  dsimp only
  split
  · exact .inl rfl
  · split
    · exact .inr rfl
    · exact .inl rfl

/-! ### The end of a loop -/

theorem reports_finishCall (s : State) (f : Fn) (k : SlotNo) (code detail : Nat) (out : Bytes) :
    Reports but s (finishCall s f k code detail out) := .of_eq rfl rfl rfl rfl rfl

theorem reports_endLoopSvc (s : State) (p : Part) (ending : Nat) : Reports [.svcLoopLoop] s (endLoopSvc s p ending) := by
  unfold endLoopSvc
  dsimp only
  split
  · exact .refl s
  · have hover : Reports [.svcLoopLoop] s (s.setPart p { s.part p with loop := none }) := .of_eq rfl rfl rfl rfl rfl
    have hfreed := hover.trans (reports_fset .svcLoopLoop p.val 0 (by decide) (by decide))
    exact hfreed.trans (reports_finishCall _ _ _ _ _ _)

theorem reports_refetch (s : State) (p : Part) : Reports but s (refetch s p) := by
  unfold refetch
  dsimp only
  split
  · exact .refl s
  · split
    · exact .refl s
    · exact .of_eq rfl rfl rfl rfl rfl

theorem reports_loopAfterAbort (s : State) (p : Part) : Reports [.svcLoopLoop] s (loopAfterAbort s p) := by
  unfold loopAfterAbort
  dsimp only
  split
  · exact .refl s
  · split
    · exact reports_endLoopSvc s p 1
    · split
      · refine Reports.trans ?_ (reports_refetch _ p)
        exact .of_eq rfl rfl rfl rfl rfl
      · exact reports_endLoopSvc s p 2

end Sealing

end Sys2Proof.Machine
end

section
/-! O30: the gather of a seal, and the questions and answers about its verdict (10 R218, R220 to R224, R455; 16 R400, R403). -/

namespace Sys2Proof.Machine

section Verdicts

variable {s : State} {p : Part} {q : Packet}

/-! ### The two verdicts (10 R221, R224) -/

/-- Those concerned hear that a partition is HELD, and its loop takes the ABORT. -/
def heldTold (s : State) (p : Part) : State :=
  let u := pfEvent s 1 p.val
  let vf := (u.part p).vf
  loopAfterAbort (raise (if h : 0 < vf ∧ vf < 16 then msix u ⟨vf, h.2⟩ 1 else u) (.held p)) p

theorem reports_heldTold (s : State) (p : Part) : Reports [.svcLoopLoop] s (heldTold s p) := by
  refine Reports.trans ?_ (reports_loopAfterAbort _ p)
  refine Reports.trans ?_ (reports_raise _ _)
  split
  · exact (reports_pfEvent s 1 p.val).trans (reports_msix _ _ _)
  · exact reports_pfEvent s 1 p.val

/-- Of an ABORT the registers keep, behind its record, the verdict and HELD. -/
theorem decideAbort_eq (s : State) (p : Part) : ∃ (u : State) (summary : Bytes), decideAbort s p =
    heldTold (setSealState (record (fset u .updSealVerdict p.val 2) .step .stop (some p) (.part p) .none 0 (.bytes summary)) p 5)
      p := ⟨_, _, rfl⟩

theorem decideAbort_held (s : State) (p : Part) :
    fget (decideAbort s p) .updSealVerdict p.val = 2 ∧ sealState (decideAbort s p) p = 5 := by
  obtain ⟨u, summary, h⟩ := decideAbort_eq s p
  rw [h, sealState, (reports_heldTold _ p).regs _ _ (by decide), (reports_heldTold _ p).regs _ _ (by decide)]
  refine ⟨?_, setSealState_state _ p 5⟩
  rw [setSealState, fget_fset_other _ _ (by simp),
    (reports_record (but := [.errLostDropped]) _ _ _ _ _ _ _ (by decide)).regs _ _ (by decide), fget_fset_same]
  rfl

/-- A partition whose verdict is CLEAN, before anything lets it leave CKWAIT. -/
def cleanDecided (s : State) (p : Part) : State :=
  setSealState (fset (s.setPart p { s.part p with
    lastStep := fget s .updStepStep p.val, gathered := false, notYet := false
    loop := (s.part p).loop.map fun l => { l with ending := l.cancelled } }) .updSealVerdict p.val 1) p 3

theorem decideClean_eq (s : State) (p : Part) : decideClean s p = leaveCkwait (cleanDecided s p) p := rfl

theorem cleanDecided_state (s : State) (p : Part) : sealState (cleanDecided s p) p = 3 := setSealState_state _ p 3

theorem cleanDecided_verdict (s : State) (p : Part) : fget (cleanDecided s p) .updSealVerdict p.val = 1 := by
  rw [cleanDecided, setSealState, fget_fset_other _ _ (by simp), fget_fset_same]
  rfl

theorem heldInCkwait_cleanDecided (s : State) (p : Part) : heldInCkwait (cleanDecided s p) p ↔ heldInCkwait s p := by
  have hregs (f : Field) (i : Nat) (hv : f ≠ .updSealVerdict) (hs : f ≠ .updSealState) :
      fget (cleanDecided s p) f i = fget s f i := by
    rw [cleanDecided, setSealState, fget_fset_other _ _ fun h => hs h.1, fget_fset_other _ _ fun h => hv h.1]
    rfl
  have hpart : ((cleanDecided s p).part p).buddyCopy = (s.part p).buddyCopy ∧
      ((cleanDecided s p).part p).ckptBusy = (s.part p).ckptBusy := by
    simp [cleanDecided, setSealState]
  rw [heldInCkwait, heldInCkwait, hregs _ _ (by decide) (by decide), hregs _ _ (by decide) (by decide), hpart.1, hpart.2]

/-- After a CLEAN verdict a partition stays in CKWAIT while something holds it, and is COMMITTING else. -/
theorem decideClean_moves (s : State) (p : Part) : fget (decideClean s p) .updSealVerdict p.val = 1 ∧
    (heldInCkwait s p → sealState (decideClean s p) p = 3) ∧
    (¬ heldInCkwait s p → sealState (decideClean s p) p = 4 ∧ p.val ∈ (decideClean s p).hub.commits) := by
  rw [decideClean_eq, ← heldInCkwait_cleanDecided]
  by_cases hheld : heldInCkwait (cleanDecided s p) p
  · rw [leaveCkwait_of_held hheld]
    exact ⟨cleanDecided_verdict s p, fun _ => cleanDecided_state s p, fun h => absurd hheld h⟩
  · rw [leaveCkwait_of_free (cleanDecided_state s p) hheld]
    refine ⟨?_, fun h => absurd h hheld, fun _ => commitQueued_joins _ p⟩
    exact ((reports_commitQueued _ p).regs _ _ (by decide)).trans (cleanDecided_verdict s p)

/-! ### The gather (10 R218, R220) -/

/-- The entry of the seal becomes active where the partition's grants do not hold all that it touches, or with its records
written. -/
def recordsWritten (s : State) (p : Part) (fault : Option Nat) : State :=
  let u := Claims.gathering s p
  let b := fget s .updSealSbuf p.val
  if fault.isNone then holdBytes (agentWrite u (.sc (scOf s p)) (some p) b (Claims.sealRecords s p)) b (Claims.sealRecords s p)
  else u

/-- What the seal collective touches and the partition's grants do not hold. -/
def sealFault (s : State) (p : Part) : Option Nat :=
  (((sealEntry s p).needs (grpSize s (sealGroup s p)) (grpRank s (sealGroup s p))).find? fun r =>
    !grantedRun s p r.2.1 r.2.2).map (·.1)

/-- The records stand at SBUF, and the group of the seal is about to run the seal collective. -/
def sealBegun (s : State) (p : Part) : State :=
  let u := recordsWritten s p (sealFault s p)
  u.setGroup (sealGroup s p) { u.group (sealGroup s p) with isSeal := true }

theorem fget_gathering (s : State) (p : Part) {f : Field} (i : Nat) (hf : f ≠ .updSealState) :
    fget (Claims.gathering s p) f i = fget s f i := by
  rw [Claims.gathering, setSealState, fget_fset_other _ _ fun h => hf h.1]
  rfl

theorem part_gathering (s : State) (p : Part) :
    (Claims.gathering s p).part p = { s.part p with gathered := true, sums := [], fromRank0 := false } := by
  rw [Claims.gathering, setSealState, fset_part, State.part_setPart_same]

theorem noticeStands_gathering (s : State) (p : Part) : noticeStands (Claims.gathering s p) p = noticeStands s p := by
  rw [noticeStands, part_gathering]
  rfl

theorem sealGroup_gathering (s : State) (p : Part) : sealGroup (Claims.gathering s p) p = sealGroup s p := by
  simp only [sealGroup, fget_gathering s p _ (show Field.updSealSgrp ≠ .updSealState by decide)]

theorem sealEntry_gathering (s : State) (p : Part) : sealEntry (Claims.gathering s p) p = sealEntry s p := by
  rw [sealEntry, sealGroup_gathering, grpCount, fget_gathering s p _ (by decide), fget_gathering s p _ (by decide)]
  rfl

theorem scOf_gathering (s : State) (p : Part) : scOf (Claims.gathering s p) p = scOf s p :=
  scOf_of_regs (fun i => fget_gathering s p i (by decide)) (fun i => fget_gathering s p i (by decide)) p

theorem contributions_gathering (s : State) (p : Part) : contributions (Claims.gathering s p) p = contributions s p := by
  rw [contributions, part_gathering, maskOf, fget_gathering s p _ (by decide), fget_gathering s p _ (by decide)]
  rfl

theorem sealRecords_gathering (s : State) (p : Part) : Claims.sealRecords (Claims.gathering s p) p = Claims.sealRecords s p := by
  rw [Claims.sealRecords, contributions_gathering]
  rfl

theorem grantedRun_gathering (s : State) (p : Part) (a n : Nat) :
    grantedRun (Claims.gathering s p) p a n = grantedRun s p a n := by
  simp [grantedRun, granted, fbit, fget_gathering s p]

theorem sealFault_gathering (s : State) (p : Part) : sealFault (Claims.gathering s p) p = sealFault s p := by
  simp [sealFault, sealEntry_gathering, sealGroup_gathering, grantedRun_gathering, grpSize, grpRank, fget_gathering s p]

theorem exec_sealGather (hready : readyToGather s p = true) : exec (.sealGather p) s = .next (if noticeStands s p = true
    then decideAbort (Claims.gathering s p) p
    else activate' (sealBegun s p) (sealGroup s p) (sealEntry s p) (sealFault s p)) := by
  have hbranch : exec (.sealGather p) s = .next (if noticeStands (Claims.gathering s p) p = true
      then decideAbort (Claims.gathering s p) p
      else
        let u := Claims.gathering s p
        let b := (sealEntry u p).src
        let r := if (sealFault u p).isNone then
          holdBytes (agentWrite u (.sc (scOf u p)) (some p) b (Claims.sealRecords u p)) b (Claims.sealRecords u p) else u
        activate' (r.setGroup (sealGroup u p) { r.group (sealGroup u p) with isSeal := true }) (sealGroup u p) (sealEntry u p)
          (sealFault u p)) := by
    show execSealGather p s = _
    unfold execSealGather
    rw [if_neg (by simp [hready])]
    exact apply_ite Host.Outcome.next _ _ _ |>.symm
  rw [hbranch, noticeStands_gathering]
  simp only [sealGroup_gathering, sealEntry_gathering, sealFault_gathering, scOf_gathering, sealRecords_gathering]
  rfl

theorem holdBytes_rest (s : State) (a : Nat) (b : Bytes) : holdBytes s a b = { s with net := (holdBytes s a b).net } := by
  unfold holdBytes
  split <;> rfl

theorem recordsWritten_keeps (s : State) (p : Part) (fault : Option Nat) :
    (recordsWritten s p fault).parts = (Claims.gathering s p).parts ∧
      Claims.regsKept (Claims.gathering s p) (recordsWritten s p fault) accessFields := by
  unfold recordsWritten
  dsimp only
  split
  · rw [holdBytes_rest]
    exact ⟨(stores_agentWrite _ _ _ _ _).parts, (reads_agentWrite _ _ _ _ _).regs⟩
  · exact ⟨rfl, fun _ _ _ => rfl⟩

theorem memSame_recordsWritten (s : State) (p : Part) : Claims.memSame (agentWrite (Claims.gathering s p) (.sc (scOf s p))
    (some p) (fget s .updSealSbuf p.val) (Claims.sealRecords s p)) (recordsWritten s p none) := by
  show Claims.memSame _ (holdBytes _ _ _)
  rw [holdBytes_rest]
  exact ⟨rfl, rfl⟩

theorem sealGathers : Claims.SealGathers := by
  intro s p hready
  refine ⟨fun hnone => ?_, fun hstands => ?_⟩
  · obtain ⟨hparts, hregs⟩ := recordsWritten_keeps s p (sealFault s p)
    have hpart (i : Part) : (sealBegun s p).part i = (Claims.gathering s p).part i := part_of_parts hparts i
    have hown := (hpart p).trans (part_gathering s p)
    refine ⟨sealBegun s p, sealFault s p, ?_, rfl, fun hsound => ?_, ?_, ?_, congrArg PartX.gathered hown,
      congrArg PartX.sums hown, fun i hi => ?_⟩
    · rw [exec_sealGather hready, if_neg (by simp [hnone])]
    · have hmem := memSame_recordsWritten s p
      rw [← hsound] at hmem
      exact hmem
    · simp [sealBegun]
    · exact (hregs .updSealState p.val (by decide)).trans (setSealState_state _ p 2)
    · rw [hpart, Claims.gathering, setSealState, fset_part, State.part_setPart_other _ _ hi]
  · exact ⟨_, by rw [exec_sealGather hready, if_pos hstands], decideAbort_held _ p⟩

/-! ### Verdicts over the fabric (10 R455) -/

/-- A service request for a partition of this device is acknowledged and handed to the partition. -/
theorem svcFor_of_job (htype : q.type = tSVC) (hus : isForUs s q = true) (hjob : q.job.toNat ≠ 0)
    (hcheck : destCheck s q (decide (q.data.length ≠ 16)) = none) (hpart : partOfJob s q.job.toNat = some p) {op : Nat}
    (hop : q.aux.toNat % 256 = op) (act : State → Part → State) : svcFor s q op act = .next (act (ackTo s q) p) := by
  simp only [svcFor, htype, hus, hjob, hop, hcheck, hpart, ne_eq, not_true, Bool.not_true, Bool.false_eq_true, or_self,
    if_false]

/-- The sums of a partition are those that rank 0 answers for. -/
def rankZeroHeard (s : State) (p : Part) : State := s.setPart p { s.part p with fromRank0 := true }

/-- A rank in LOST takes the verdict `v` that rank 0 has for its step. -/
def verdictTaken (s : State) (p : Part) (v : Nat) : State :=
  match v with
  | 0 => s.setPart p { s.part p with notYet := true }
  | 1 => decideClean (rankZeroHeard s p) p
  | 2 => decideAbort (rankZeroHeard s p) p
  | _ + 3 => s.setPart p { s.part p with notYet := false }

theorem verdictTaken_clean (s : State) (p : Part) : verdictTaken s p 1 = decideClean (rankZeroHeard s p) p := rfl

theorem verdictTaken_abort (s : State) (p : Part) : verdictTaken s p 2 = decideAbort (rankZeroHeard s p) p := rfl

theorem verdictTaken_notYet (s : State) (p : Part) : verdictTaken s p 0 = s.setPart p { s.part p with notYet := true } := rfl

theorem verdictTaken_other (s : State) (p : Part) {v : Nat} (h : 3 ≤ v) :
    verdictTaken s p v = s.setPart p { s.part p with notYet := false } := by
  obtain ⟨k, rfl⟩ := Nat.exists_eq_add_of_le' h
  rfl

theorem exec_verdictAnswer (htype : q.type = tSVC) (hus : isForUs s q = true) (hjob : q.job.toNat ≠ 0)
    (hcheck : destCheck s q (decide (q.data.length ≠ 16)) = none) (hpart : partOfJob s q.job.toNat = some p)
    (hop : q.aux.toNat % 256 = 0x21) (hlost : sealState s p = 6) (hstep : field q.data 0 8 = fget s .updStepStep p.val) :
    exec (.verdictAnswer q) s = .next (verdictTaken (ackTo s q) p (field q.data 8 1)) := by
  have hguard : sealState (ackTo s q) p = 6 ∧ field q.data 0 8 = fget (ackTo s q) .updStepStep p.val := by
    rw [sealState, fget_ackTo, fget_ackTo]
    exact ⟨hlost, hstep⟩
  show execVerdictAnswer q s = _
  rw [execVerdictAnswer, svcFor_of_job htype hus hjob hcheck hpart hop, if_pos hguard]
  generalize field q.data 8 1 = v
  match v with
  | 0 | 1 | 2 | _ + 3 => rfl

/-- What rank 0 has answered decides nothing of what holds a partition in CKWAIT. -/
theorem heldInCkwait_answered (s : State) (q : Packet) (p : Part) :
    heldInCkwait (rankZeroHeard (ackTo s q) p) p ↔ heldInCkwait s p := by
  simp [rankZeroHeard, heldInCkwait, fget_ackTo, part_ackTo]

theorem verdictsTravel : Claims.VerdictsTravel := by
  refine ⟨fun s q p htype hus hjob hcheck hpart => ⟨fun hop => ?_, fun hop hlost hstep => ?_⟩,
    fun s p us hlost hasked hlong => if_pos ⟨hlost, hasked, hlong⟩⟩
  · show execVerdictQuery q s = _
    rw [execVerdictQuery, svcFor_of_job htype hus hjob hcheck hpart hop]
  · have hstays (x : PartX) : sealState ((ackTo s q).setPart p x) p = 6 := (fget_ackTo s q _ _).trans hlost
    have hmoves := decideClean_moves (rankZeroHeard (ackTo s q) p) p
    rw [heldInCkwait_answered] at hmoves
    rw [exec_verdictAnswer htype hus hjob hcheck hpart hop hlost hstep]
    refine ⟨fun h => ⟨_, rfl, ?_⟩, fun h => ⟨_, rfl, ?_⟩, fun h => ⟨_, rfl, ?_⟩, fun h => ⟨_, rfl, ?_⟩⟩
    · rw [h, verdictTaken_clean]
      exact hmoves
    · rw [h, verdictTaken_abort]
      exact decideAbort_held _ p
    · rw [h, verdictTaken_notYet]
      exact ⟨congrArg PartX.notYet (State.part_setPart_same _ _ _), hstays _⟩
    · rw [verdictTaken_other _ p h]
      exact ⟨congrArg PartX.notYet (State.part_setPart_same _ _ _), hstays _⟩

end Verdicts

/-- Settles O30: the gather is the write of the records and the activation of the seal's entry, or an ABORT; an answer is one of
the two verdicts, or leaves its rank asking. -/
theorem sealsAndVerdicts : Obligations.SealsAndVerdicts := ⟨sealGathers, verdictsTravel⟩

end Sys2Proof.Machine
end

section
/-! O31: the commit of a list: what it may change of the registers, and how its partition leaves the engine (10 R224, R228 to
R238). -/

namespace Sys2Proof.Machine

section Committing

variable {but : List Field} {s : State} {p : Part} {l : List UpdEntry}

/-! ### The commit of a list -/

/-- The registers that the commit of a list may change. -/
def commitFields : List Field := .updTallyNonfinite :: accessFields

theorem Commit.raise_s (c : Commit) (b : StepBit) : (c.raise b).s = c.s := by
  unfold Commit.raise
  split <;> rfl

theorem Commit.raiseIf_s (c : Commit) (on : Bool) (b : StepBit) : (if on then c.raise b else c).s = c.s := by
  split
  · exact c.raise_s b
  · rfl

theorem Commit.flags_s (c : Commit) (f : Flags) : (c.flags f).s = c.s := by
  simp only [Commit.flags, Commit.raiseIf_s]

/-- A loop of commits keeps what each of its rounds keeps. -/
theorem reads_commits {α : Type} {f : Commit → α → Commit} (step : ∀ c a, Reads but c.s (f c a).s) (l : List α) (c : Commit) :
    Reads but c.s (l.foldl f c).s :=
  foldl_keeps (R := fun c c' : Commit => Reads but c.s c'.s) (fun _ => .refl _) (fun h h' => h.trans h') step l c

theorem reads_commitWrite (s : State) (ag : MemAgent) (p : Option Part) (a : Nat) (b : Bytes) :
    Reads commitFields s (agentWrite s ag p a b) := (reads_agentWrite s ag p a b).mono (by decide)

theorem reads_commitRead (s : State) (ag : MemAgent) (p : Option Part) (a n : Nat) :
    Reads commitFields s (memRead s ag p a n).1 := (reads_memRead s ag p a n).mono (by decide)

theorem reads_putWeight (ag : MemAgent) (p : Part) (e : UpdEntry) (c : Commit) (o : Nat × UpdOut) :
    Reads commitFields c.s (putWeight ag p e c o).s := by
  have hcount : Reads commitFields c.s (fbump c.s .updTallyNonfinite p.val 1) :=
    (reports_fbump _ _ _ (by decide) (by decide)).reads
  unfold putWeight
  split
  · dsimp only
    split
    · rw [Commit.raise_s]
      exact hcount
    · exact hcount
  · dsimp only
    split
    · exact reads_commitWrite _ _ _ _ _
    · exact (reads_commitWrite _ _ _ _ _).trans (reads_commitWrite _ _ _ _ _)

theorem reads_putMoments (s : State) (ag : MemAgent) (p : Part) (e : UpdEntry) (f : Fmt) (a k : Nat) (vs : List XVal) :
    Reads commitFields s (putMoments s ag p e f a k vs).1 := by
  unfold putMoments
  split
  · exact .refl s
  · split
    · exact reads_commitWrite _ _ _ _ _
    · exact (reads_commitWrite _ _ _ _ _).trans (reads_commitWrite _ _ _ _ _)

theorem reads_commitBlock (ag : MemAgent) (p : Part) (e : UpdEntry) (step : Nat) (c : Commit) (k n : Nat) :
    Reads commitFields c.s (commitBlock ag p e step c k n).s := by
  unfold commitBlock
  extract_lets size rd rg rw' rl mb rm tm rv tv ms vs outs c' a b
  have hrd (s : State) (a n : Nat) : Reads commitFields s (rd s a n).1 := by
    unfold rd
    split
    · exact .refl s
    · exact reads_commitRead _ _ _ _ _
  have hskip (s : State) {P : Prop} [Decidable P] (a n : Nat) :
      Reads commitFields s (if P then (s, []) else rd s a n).1 := by
    split
    · exact .refl s
    · exact hrd s a n
  have hread : Reads commitFields c.s tv.1 :=
    ((((((hrd c.s _ _).trans (hrd rg.1 _ _)).trans (hskip rw'.1 _ _)).trans (hskip rl.1 _ _)).trans (hskip rm.1 _ _)).trans
      (hskip tm.1 _ _)).trans (hskip rv.1 _ _)
  have hput : Reads commitFields tv.1 c'.s := by
    unfold c'
    rw [Commit.flags_s]
    exact reads_commits (reads_putWeight ag p e) outs { c with s := tv.1 }
  split
  · exact hread.trans hput
  · rw [Commit.flags_s, Commit.flags_s]
    exact ((hread.trans hput).trans (reads_putMoments _ _ _ _ _ _ _ _)).trans (reads_putMoments _ _ _ _ _ _ _ _)

theorem reads_commitTable (ag : MemAgent) (p : Part) (e : UpdEntry) (c : Commit) (n : Nat) :
    Reads commitFields c.s (commitTable ag p e c n).s := by
  refine reads_commits (fun c i => ?_) _ c
  dsimp only
  split
  · exact reads_commitRead _ _ _ _ _
  · exact (reads_commitRead _ _ _ _ _).trans (reads_commitWrite _ _ _ _ _)

theorem reads_commitShard (d : Die) (p : Part) (step : Nat) (c : Commit) (e : UpdEntry) (n : Nat) :
    Reads commitFields c.s (commitShard d p step c e n).s := by
  have hblocks := fun (l : List Nat) => reads_commits (fun c k => reads_commitBlock (.upd d) p e step c k (n - 32 * k)) l c
  unfold commitShard
  dsimp only
  split
  · exact reads_commitTable _ _ _ _ _
  · split
    · exact hblocks _
    · exact (hblocks _).trans (reads_commitWrite _ _ _ _ _)

theorem reads_commitList (d : Die) (p : Part) (step : Nat) (left : Option Nat) (c : Commit) (l : List UpdEntry) :
    Reads commitFields c.s (commitList d p step left c l).s := by
  refine foldl_keeps (R := fun a b : Option Nat × Commit => Reads commitFields a.2.s b.2.s) (fun _ => .refl _)
    (fun h h' => h.trans h') (fun a e => ?_) l (left, c)
  split
  · exact reads_commitShard _ _ _ _ _ _
  · exact .refl _
  · exact reads_commitShard _ _ _ _ _ _

/-! ### The partition leaves its engine -/

theorem leaveEngine_rest (s : State) (p : Part) :
    leaveEngine s p = { s with hub := (leaveEngine s p).hub, regs := (leaveEngine s p).regs } := by
  rw [leaveEngine, showEngine_rest]

theorem reports_leaveEngine (s : State) (p : Part) : Reports engineFields s (leaveEngine s p) := by
  refine Reports.trans (t := { s with hub := { s.hub with commits := s.hub.commits.filter (· != p.val) } }) ?_
    (reports_showEngine _ _)
  exact .of_eq rfl rfl rfl rfl rfl

theorem leaveEngine_leaves (s : State) (p : Part) : p.val ∉ (leaveEngine s p).hub.commits := by
  rw [leaveEngine, showEngine_rest]
  simp

theorem part_leaveEngine (s : State) (p : Part) (q : Part) : (leaveEngine s p).part q = s.part q := by
  rw [leaveEngine_rest]
  rfl

/-! ### The command -/

/-- The list `l` of a partition is next at its engine, and everything it reads is at hand. -/
structure CommitDue (s : State) (p : Part) (l : List UpdEntry) : Prop where
  committing : sealState s p = 4
  waiting : (s.part p).committed = false
  first : firstOnEngine s p = true
  runs : deviceHeld s = false
  unfenced : fget s .hstPartCtrlFence p.val ≠ 1
  prep : (s.part p).prep = some l
  staged : stageHost s (some p) .event (commitReads l) = none

/-- The commit of the prepared list, as far as `stop` elements. -/
def listCommit (s : State) (p : Part) (stop : Option Nat) (l : List UpdEntry) : Commit :=
  commitList (engineOf s p) p (fget s .updStepStep p.val) stop { s := s, carry := [] } l

/-- The step is committed and its release due. -/
def committed (s : State) (p : Part) (l : List UpdEntry) : State :=
  let c := listCommit s p none l
  let u := unstage c.s (commitReads l)
  leaveEngine (fbump (u.setPart p { u.part p with committed := true, carry := c.carry, releaseDue := some 0 })
    .updTallyCommits p.val 1) p

/-- The commit has stopped at a mismatch of the datapaths after `n` elements. -/
def commitFaulted (s : State) (p : Part) (n : Nat) (l : List UpdEntry) : State :=
  let r := record (unstage (listCommit s p (some n) l).s (commitReads l)) .update .stop (some p) (.upd (engineOf s p)) .none 0
    (.names 228 [n])
  leaveEngine (setSealState (fbump r .updEngineMismatch (engineOf s p).val 1) p 7) p

/-- Nothing holds up a commit that is due. -/
theorem CommitDue.goes (h : CommitDue s p l) : ¬(sealState s p ≠ 4 ∨ (s.part p).committed = true ∨
    firstOnEngine s p = false ∨ deviceHeld s = true ∨ fbit s .hstPartCtrlFence p.val = true) := by
  simp [h.committing, h.waiting, h.first, h.runs, fbit, h.unfenced]

theorem CommitDue.exec_all (h : CommitDue s p l) : exec (.commit p none) s = .next (committed s p l) := by
  show execCommit p none s = _
  simp only [execCommit, if_neg h.goes, h.prep, Option.getD_some, h.staged]
  rfl

theorem CommitDue.exec_mismatch (h : CommitDue s p l) {n : Nat} (hn : n < (l.map (·.nelem)).sum) :
    exec (.commit p (some n)) s = .next (commitFaulted s p n l) := by
  show execCommit p (some n) s = _
  simp only [execCommit, if_neg h.goes, h.prep, Option.getD_some, h.staged, if_pos hn]
  rfl

theorem fget_listCommit (s : State) (p : Part) (stop : Option Nat) (l : List UpdEntry) {f : Field} (i : Nat)
    (hf : f ∉ commitFields) : fget (listCommit s p stop l).s f i = fget s f i :=
  (reads_commitList (engineOf s p) p _ stop { s := s, carry := [] } l).regs f i hf

theorem committed_counts (s : State) (p : Part) (l : List UpdEntry) : fget (committed s p l) .updTallyCommits p.val =
    min (fget s .updTallyCommits p.val + 1) (2 ^ Field.updTallyCommits.spec.width - 1) := by
  rw [committed, (reports_leaveEngine _ p).regs _ _ (by decide), fget_fbump_same, ← fget_listCommit s p none l p.val (by decide)]
  rfl

theorem part_committed (s : State) (p : Part) (l : List UpdEntry) : (committed s p l).part p =
    { (listCommit s p none l).s.part p with
      committed := true, carry := (listCommit s p none l).carry, releaseDue := some 0 } := by
  rw [committed, part_leaveEngine, fbump_part, State.part_setPart_same]
  rfl

theorem memSame_committed (s : State) (p : Part) (l : List UpdEntry) :
    Claims.memSame (listCommit s p none l).s (committed s p l) := by
  rw [committed, leaveEngine_rest]
  exact ⟨rfl, rfl⟩

theorem commitFaulted_state (s : State) (p : Part) (n : Nat) (l : List UpdEntry) :
    sealState (commitFaulted s p n l) p = 7 :=
  ((reports_leaveEngine _ p).regs _ _ (by decide)).trans (setSealState_state _ p 7)

theorem commitFaulted_counts (s : State) (p : Part) (n : Nat) (l : List UpdEntry) :
    fget (commitFaulted s p n l) .updEngineMismatch (engineOf s p).val =
      min (fget s .updEngineMismatch (engineOf s p).val + 1) (2 ^ Field.updEngineMismatch.spec.width - 1) := by
  rw [commitFaulted, (reports_leaveEngine _ p).regs _ _ (by decide), setSealState, fget_fset_other _ _ (by simp),
    fget_fbump_same, (reports_record (but := [.errLostDropped]) _ _ _ _ _ _ _ (by decide)).regs _ _ (by decide),
    ← fget_listCommit s p (some n) l _ (by decide)]
  rfl

theorem memSame_commitFaulted (s : State) (p : Part) (n : Nat) (l : List UpdEntry) :
    Claims.memSame (listCommit s p (some n) l).s (commitFaulted s p n l) := by
  rw [commitFaulted, leaveEngine_rest]
  exact ⟨record_mem _ _ _ _ _ _ _ _, record_scrambled _ _ _ _ _ _ _ _⟩

theorem commitWritesList : Claims.CommitWritesList := by
  intro s p l hstate hwaiting hfirst hruns hfence hprep hstaged
  have hdue : CommitDue s p l := ⟨hstate, hwaiting, hfirst, hruns, hfence, hprep, hstaged⟩
  have hpart := part_committed s p l
  exact ⟨⟨committed s p l, hdue.exec_all, memSame_committed s p l, congrArg PartX.committed hpart,
    congrArg PartX.releaseDue hpart, congrArg PartX.carry hpart, leaveEngine_leaves _ p, committed_counts s p l⟩,
    fun n hn => ⟨commitFaulted s p n l, hdue.exec_mismatch hn, commitFaulted_state s p n l, leaveEngine_leaves _ p,
      commitFaulted_counts s p n l, memSame_commitFaulted s p n l⟩⟩

end Committing

end Sys2Proof.Machine
end

section
/-! What an access to memory or the host may raise in the step status, and what goes with the release of a step: the copy for the
buddy, the loop, the next batches (10 R216, R225, R244, R245; 14 R346, R350). -/

namespace Sys2Proof.Machine

section Following

variable {s t u : State} {p : Part}

/-! ### An access raises CHECKSUM alone (07 R164; 08 R179; 13 R329) -/

/-- No bit of a step status is gained but CHECKSUM. -/
def onlyChecksum (s t : State) : Prop :=
  ∀ q k, k ≠ StepBit.checksum.idx → (fget t .updStatusStatus q).testBit k = true →
    (fget s .updStatusStatus q).testBit k = true

theorem onlyChecksum_of_regs (h : ∀ q, fget t .updStatusStatus q = fget s .updStatusStatus q) : onlyChecksum s t :=
  fun q _ _ hk => h q ▸ hk

theorem onlyChecksum.refl (s : State) : onlyChecksum s s := onlyChecksum_of_regs fun _ => rfl

theorem onlyChecksum.trans (h : onlyChecksum s t) (h' : onlyChecksum t u) : onlyChecksum s u :=
  fun q k hk hu => h q k hk (h' q k hk hu)

theorem onlyChecksum.ite {P : Prop} [Decidable P] (h : onlyChecksum s t) : onlyChecksum s (if P then t else s) := by
  split
  · exact h
  · exact .refl s

theorem onlyChecksum_fset (s : State) {f : Field} (i v : Nat) (hf : f ≠ .updStatusStatus) : onlyChecksum s (fset s f i v) :=
  onlyChecksum_of_regs fun _ => fget_fset_other s v fun h => hf h.1.symm

theorem onlyChecksum_fbump (s : State) {f : Field} (i n : Nat) (hf : f ≠ .updStatusStatus) : onlyChecksum s (fbump s f i n) :=
  onlyChecksum_fset s i _ hf

theorem onlyChecksum_record (s : State) (cls : Cls) (sev : Sev) (p : Option Part) (x : UnitRef) (op : OpRef) (code : Nat)
    (synd : Synd) : onlyChecksum s (record s cls sev p x op code synd) :=
  onlyChecksum_of_regs fun _ =>
    (reports_record (but := [.errLostDropped]) cls sev p x op code synd (by decide)).regs _ _ (by decide)

theorem onlyChecksum_setStatus (s : State) (p : Option Part) : onlyChecksum s (setStatus s p .checksum) := by
  cases p with
  | none => exact .refl s
  | some p =>
    intro q k hk ht
    unfold setStatus at ht
    by_cases hq : q = p.val
    · subst hq
      rw [fget_fset_same, Nat.testBit_mod_two_pow, Nat.testBit_or, Nat.testBit_two_pow] at ht
      simpa [Ne.symm hk] using (Bool.and_eq_true_iff.mp ht).2
    · rwa [fget_fset_other s _ fun h => hq h.2] at ht

theorem onlyChecksum_memFault (s : State) (a : Nat) (ag : MemAgent) (p : Option Part) (x : UnitRef) (l : List Nat) :
    onlyChecksum s (memFault s a ag p x l) := (onlyChecksum_record s _ _ _ _ _ _ _).trans (onlyChecksum_setStatus _ _)

theorem onlyChecksum_grnFault (s : State) (q : MemDie) (a : Nat) (ag : MemAgent) (p : Option Part) :
    onlyChecksum s (grnFault s q a ag p) := (onlyChecksum_fbump s _ _ (by decide)).trans (onlyChecksum_memFault _ _ _ _ _ _)

theorem onlyChecksum_hbmFault (s : State) (k : Stack) (a : Nat) (ag : MemAgent) (p : Option Part) :
    onlyChecksum s (hbmFault s k a ag p) := (onlyChecksum_fbump s _ _ (by decide)).trans (onlyChecksum_memFault _ _ _ _ _ _)

theorem onlyChecksum_mput (s : State) (l : List Host.Cell) : onlyChecksum s (mput s l) := onlyChecksum_of_regs fun _ => rfl

theorem onlyChecksum_setDev (s : State) (g d : Nat) : onlyChecksum s (setDev s g d) := onlyChecksum_of_regs fun _ => rfl

theorem onlyChecksum_grnWrite (s : State) (q : MemDie) (ag : MemAgent) (p : Option Part) (cells : List Host.Cell) :
    onlyChecksum s (grnWrite s q ag p cells) := by
  unfold grnWrite
  split
  · exact .refl s
  · split
    · exact onlyChecksum_grnFault _ _ _ _ _
    · dsimp only
      split <;> exact onlyChecksum_of_regs fun _ => rfl

theorem onlyChecksum_hbmWrite (s : State) (k : Stack) (ag : MemAgent) (p : Option Part) (cells : List Host.Cell) :
    onlyChecksum s (hbmWrite s k ag p cells) := by
  unfold hbmWrite
  split
  · exact .refl s
  · split
    · exact .refl s
    · dsimp only
      split
      · split
        · exact ((onlyChecksum_mput _ _).trans (onlyChecksum_setDev _ _ _)).trans (onlyChecksum_fset _ _ _ (by decide))
        · exact (onlyChecksum_mput _ _).trans (onlyChecksum_setDev _ _ _)
      · refine onlyChecksum.trans ?_ (((onlyChecksum_mput _ _).trans (onlyChecksum_mput _ _)).trans (onlyChecksum_setDev _ _ _))
        exact (onlyChecksum.ite (onlyChecksum_fbump s _ _ (by decide))).trans (.ite (onlyChecksum_hbmFault _ _ _ _ _))

theorem onlyChecksum_windowPut (s : State) (c : Core) (off : Nat) (b : Bytes) : onlyChecksum s (windowPut s c off b) := by
  unfold windowPut
  exact onlyChecksum_of_regs fun _ => rfl

theorem onlyChecksum_unitWrite (s : State) (ag : MemAgent) (p : Option Part) (cells : List Host.Cell) :
    onlyChecksum s (unitWrite s ag p cells) := by
  unfold unitWrite
  split
  · exact .refl s
  · split
    · exact onlyChecksum_grnWrite _ _ _ _ _
    · exact onlyChecksum_hbmWrite _ _ _ _ _
    · unfold windowWrite
      split
      · exact onlyChecksum_record _ _ _ _ _ _ _ _
      · exact onlyChecksum_windowPut _ _ _ _
    · exact .refl s
    · exact .refl s

theorem onlyChecksum_sramRead (s : State) (c : Core) (runs : List (Nat × Nat)) : onlyChecksum s (sramRead s c runs) := by
  have faults := fun (l : List (Nat × Nat)) (t : State) => foldl_keeps (R := onlyChecksum)
    (f := fun t e => memFault t (4 * e.1) (.core c) (partOfCore t c) (.core c) []) .refl .trans
    (fun t _ => onlyChecksum_memFault t _ _ _ _ _) l t
  refine onlyChecksum.trans ?_ (faults _ _)
  split
  · exact .refl s
  · exact onlyChecksum_of_regs fun _ => rfl

theorem onlyChecksum_unitRead (s : State) (ag : MemAgent) (p : Option Part) (a n : Nat) :
    onlyChecksum s (unitRead s ag p a n).1 := by
  unfold unitRead
  split
  · unfold grnRead
    split
    · exact onlyChecksum_grnFault _ _ _ _ _
    · split
      · exact .refl s
      · exact (onlyChecksum_fbump s _ _ (by decide)).trans (.ite (onlyChecksum_grnFault _ _ _ _ _))
      · exact onlyChecksum_grnFault _ _ _ _ _
  · unfold hbmRead
    split
    · exact .refl s
    · exact (onlyChecksum.ite (onlyChecksum_fbump s _ _ (by decide))).trans (.ite (onlyChecksum_hbmFault _ _ _ _ _))
  · unfold windowRead
    split
    · exact onlyChecksum_record _ _ _ _ _ _ _ _
    · exact onlyChecksum_sramRead _ _ _
  · exact .refl s
  · exact .refl s

theorem onlyChecksum_takeEffect (s : State) (r : MemReq) : onlyChecksum s (takeEffect s r).1 := by
  unfold takeEffect
  dsimp only
  split
  · exact onlyChecksum_unitRead _ _ _ _ _
  · exact onlyChecksum_unitWrite _ _ _ _
  · exact .refl s

theorem onlyChecksum_takeEffects (pick seen : MemReq → Bool) (l : List MemReq) :
    ∀ (n : Nat) (s : State), onlyChecksum s (takeEffects pick seen n l s).1 := by
  induction l with
  | nil => exact fun _ s => .refl s
  | cons r l ih =>
    intro n s
    simp only [takeEffects]
    split
    · exact .refl s
    · refine onlyChecksum.trans ?_ (ih _ _)
      split
      · exact onlyChecksum_takeEffect s r
      · exact .refl s

theorem onlyChecksum_arrive (s : State) (ag : MemAgent) (a : Nat) : onlyChecksum s (arrive s ag a) := by
  unfold arrive
  split
  · split
    · exact .refl s
    · exact onlyChecksum_takeEffects _ _ _ _ _
  · split
    · exact .refl s
    · exact onlyChecksum_takeEffects _ _ _ _ _
  · exact .refl s

theorem onlyChecksum_violation (s : State) (code requester : Nat) (info : List Nat) :
    onlyChecksum s (violation s code requester info) := by
  have hcount : onlyChecksum s (fbump s .hstViolTallyCount code 1) := onlyChecksum_fbump s _ _ (by decide)
  unfold violation
  dsimp only
  split
  · exact hcount
  · refine onlyChecksum.trans ?_ (onlyChecksum_record _ _ _ _ _ _ _ _)
    exact hcount

/-! ### Accesses -/

/-- What an access to memory or to the host keeps. -/
structure Touches (s t : State) : Prop extends Reads accessFields s t where
  parts : t.parts = s.parts
  checksum : onlyChecksum s t

theorem Touches.refl (s : State) : Touches s s := ⟨.refl s, rfl, .refl s⟩

theorem Touches.trans (h : Touches s t) (h' : Touches t u) : Touches s u :=
  ⟨h.toReads.trans h'.toReads, h'.parts.trans h.parts, h.checksum.trans h'.checksum⟩

/-- A change that no register, core, partition or lift sees. -/
theorem touches_of_eq (hr : t.regs = s.regs) (hl : t.lifts = s.lifts) (hc : t.cores = s.cores) (hp : t.parts = s.parts) :
    Touches s t :=
  ⟨⟨.of_eq hr hl, fun d => by rw [core_of_cores hc d]⟩, hp, onlyChecksum_of_regs fun _ => fget_of_regs hr _ _⟩

/-- A loop of accesses that carries a result along. -/
theorem touches_foldl_fst {α β : Type} {f : State × β → α → State × β} (step : ∀ x a, Touches x.1 (f x a).1)
    (l : List α) (x : State × β) : Touches x.1 (l.foldl f x).1 :=
  foldl_keeps (R := fun x y : State × β => Touches x.1 y.1) (fun _ => .refl _) (fun h h' => h.trans h') step l x

theorem touches_memRead (s : State) (ag : MemAgent) (p : Option Part) (a n : Nat) : Touches s (memRead s ag p a n).1 := by
  refine touches_foldl_fst (fun x v => ?_) (cutRun n a n) (s, [], false)
  have hread : Reads accessFields x.1 _ := (reads_arrive x.1 ag v.1).trans (reads_unitRead _ ag p v.1 v.2)
  exact ⟨hread, ((stores_arrive _ _ _).toAside.trans (aside_unitRead _ _ _ _ _)).parts,
    (onlyChecksum_arrive _ _ _).trans (onlyChecksum_unitRead _ _ _ _ _)⟩

theorem touches_record (s : State) (cls : Cls) (sev : Sev) (p : Option Part) (x : UnitRef) (op : OpRef) (code : Nat)
    (synd : Synd) : Touches s (record s cls sev p x op code synd) :=
  ⟨(reports_record _ _ _ _ _ _ _ (by decide)).reads, (aside_record _ _ _ _ _ _ _ _).parts, onlyChecksum_record _ _ _ _ _ _ _ _⟩

theorem touches_setChecksum (s : State) (p : Option Part) : Touches s (setStatus s p .checksum) :=
  ⟨(reports_setStatus _ _ (by decide)).reads, (aside_setStatus _ _ _).parts, onlyChecksum_setStatus _ _⟩

theorem touches_unstage (s : State) (runs : List (Nat × Nat)) : Touches s (unstage s runs) := touches_of_eq rfl rfl rfl rfl

theorem touches_sendReq (s : State) (q : Option Part) (why : ReqFor) (m : Packet) : Touches s (sendReq s q why m) := by
  rw [sendReq_rest]
  exact touches_of_eq rfl rfl rfl rfl

theorem touches_finishCall (s : State) (f : Fn) (k : SlotNo) (code detail : Nat) (out : Bytes) :
    Touches s (finishCall s f k code detail out) := touches_of_eq rfl rfl rfl rfl

/-! ### Reads of host memory (13 R321, R329) -/

theorem violation_parts (s : State) (code requester : Nat) (info : List Nat) :
    (violation s code requester info).parts = s.parts := by
  unfold violation
  dsimp only
  split
  · rfl
  · exact (aside_record _ _ _ _ _ _ _ _).parts

theorem touches_dmaFailed (s : State) (why : ReqFor) (f : Fn) (p : Option Part) (a : Nat) :
    Touches s (dmaFailed s why f p a) := by
  have herror : Touches s (dmaError s f p a) :=
    Touches.trans ⟨(reports_violation _ _ _).reads, violation_parts _ _ _ _, onlyChecksum_violation _ _ _ _⟩
      (touches_setChecksum _ p)
  unfold dmaFailed
  dsimp only
  split
  · exact herror.trans (touches_finishCall _ _ _ _ _ _)
  · exact herror.trans (touches_of_eq rfl rfl rfl rfl)
  · exact herror

theorem dmaGo_rest (n : Nat) : ∀ s : State, dmaGo n s = { s with net := (dmaGo n s).net, sent := (dmaGo n s).sent } := by
  induction n with
  | zero => exact fun _ => rfl
  | succ n ih =>
    intro s
    unfold dmaGo
    split
    · rfl
    · dsimp only
      split
      · rfl
      · rw [ih]
        rfl

theorem touches_dmaRead (s : State) (f : Fn) (p : Option Part) (off n : Nat) (why : ReqFor) :
    Touches s (dmaRead s f p off n why).1 := by
  unfold dmaRead
  dsimp only
  split
  · rw [pumpDma, dmaGo_rest]
    exact touches_of_eq rfl rfl rfl rfl
  · exact touches_dmaFailed _ _ _ _ _

theorem touches_askHost (p : Option Part) (why : ReqFor) (s : State) (v : Nat × Nat) : Touches s (askHost p why s v) := by
  unfold askHost
  split
  · exact .refl s
  · split
    · dsimp only
      split
      · exact touches_dmaRead _ _ _ _ _ _
      · exact (touches_dmaRead _ _ _ _ _ _).trans (touches_of_eq rfl rfl rfl rfl)
    · exact .refl s

theorem touches_stageHost {q : Option Part} {why : ReqFor} {runs : List (Nat × Nat)} (h : stageHost s q why runs = some t) :
    Touches s t := by
  unfold stageHost at h
  dsimp only at h
  split at h
  · cases h
  · cases h
    exact foldl_keeps Touches.refl Touches.trans (touches_askHost q why) _ s

/-! ### What follows a release -/

/-- The registers that may change once a step has been released: those of an access, and that a loop runs. -/
def followFields : List Field := .svcLoopLoop :: accessFields

/-- What goes with the release of a step keeps: of the partitions too, the bits that wait for the next step status and the
release that is due. -/
structure Follows (s t : State) : Prop extends Reads followFields s t where
  carry : ∀ q, (t.part q).carry = (s.part q).carry
  due : ∀ q, (t.part q).releaseDue = (s.part q).releaseDue
  checksum : onlyChecksum s t

theorem Touches.follows (h : Touches s t) : Follows s t where
  toReads := h.toReads.mono (by decide)
  carry q := by rw [part_of_parts h.parts]
  due q := by rw [part_of_parts h.parts]
  checksum := h.checksum

theorem Follows.refl (s : State) : Follows s s := (Touches.refl s).follows

theorem Follows.trans (h : Follows s t) (h' : Follows t u) : Follows s u where
  toReads := h.toReads.trans h'.toReads
  carry q := (h'.carry q).trans (h.carry q)
  due q := (h'.due q).trans (h.due q)
  checksum := h.checksum.trans h'.checksum

theorem follows_setPart {x : PartX} (hc : x.carry = (s.part p).carry) (hd : x.releaseDue = (s.part p).releaseDue) :
    Follows s (s.setPart p x) where
  toReads := Reports.reads (t := s.setPart p x) (.of_eq rfl rfl rfl rfl rfl)
  carry q := by
    by_cases hq : q = p
    · rw [hq, State.part_setPart_same, hc]
    · rw [State.part_setPart_other _ _ hq]
  due q := by
    by_cases hq : q = p
    · rw [hq, State.part_setPart_same, hd]
    · rw [State.part_setPart_other _ _ hq]
  checksum := onlyChecksum_of_regs fun _ => rfl

theorem follows_setBuddy (s : State) (p : Part) (b : Option BuddyX) : Follows s (s.setPart p { s.part p with buddyCopy := b }) :=
  follows_setPart rfl rfl

theorem follows_setLoop (s : State) (p : Part) (l : Option LoopSvc) : Follows s (s.setPart p { s.part p with loop := l }) :=
  follows_setPart rfl rfl

theorem follows_setIngest (s : State) (p : Part) (i : Option IngestX) :
    Follows s (s.setPart p { s.part p with ingest := i }) := follows_setPart rfl rfl

/-! ### The copy for the buddy (10 R244, R245) -/

theorem touches_readRun (reach : Nat → Nat → Bool) (p : Part) (r : State × Bytes × Bool) (v : Nat × Nat) :
    Touches r.1 (readRun reach p r v).1 := by
  unfold readRun
  split
  · exact touches_memRead _ _ _ _ _
  · dsimp only
    exact (touches_record _ _ _ _ _ _ _ _).trans (touches_setChecksum _ _)

theorem touches_slotPayload (s : State) (reach : Nat → Nat → Bool) (p : Part) (l : List UpdEntry) :
    Touches s (slotPayload s reach p l).1 := touches_foldl_fst (touches_readRun reach p) _ (s, fingerprint l, false)

theorem touches_buddyWrite (s : State) (p : Part) (why : ReqFor) (a : Nat) (b : Bytes) : Touches s (buddyWrite s p why a b) :=
  touches_sendReq _ _ _ _

theorem follows_pushBuddy (s : State) (p : Part) (step : Nat) : Follows s (pushBuddy s p step) := by
  have hread := (touches_slotPayload s (partReach s p) p (s.part p).lastList).trans (touches_unstage _ (buddyRuns s p))
  have hsent (v : State) (at' : Nat) (head payload : Bytes) (l : List (Nat × Nat)) : Touches v
      (l.foldl (fun v c => buddyWrite v p (.buddy p) (at' + 64 + c.1) (slice payload c.1 c.2))
        (buddyWrite v p (.buddy p) at' head)) :=
    (touches_buddyWrite _ _ _ _ _).trans
      (foldl_keeps Touches.refl Touches.trans (fun _ _ => touches_buddyWrite _ _ _ _ _) l _)
  exact (hread.trans (hsent _ _ _ _ _)).follows.trans (follows_setBuddy _ p _)

theorem follows_stageBuddy (s : State) (p : Part) (step : Nat) : Follows s (stageBuddy s p step) := by
  unfold stageBuddy
  split
  · next h => exact (touches_stageHost h).follows
  · exact follows_pushBuddy s p step

theorem follows_startBuddy (s : State) (p : Part) (step : Nat) : Follows s (startBuddy s p step) := by
  unfold startBuddy
  split
  · exact .refl s
  · dsimp only
    split
    · exact follows_setBuddy s p _
    · exact (follows_setBuddy s p _).trans (follows_stageBuddy _ p step)

/-! ### The loop after a commit (14 R346, R354) -/

theorem follows_endLoopSvc (s : State) (p : Part) (ending : Nat) : Follows s (endLoopSvc s p ending) := by
  unfold endLoopSvc
  dsimp only
  split
  · exact .refl s
  · have hover : Follows s (s.setPart p { s.part p with loop := none }) := follows_setLoop s p none
    have hreg (v : State) : Follows v (fset v .svcLoopLoop p.val 0) :=
      { toReads := (reports_fset _ _ _ (by decide) (by decide)).reads
        carry := fun _ => rfl
        due := fun _ => rfl
        checksum := onlyChecksum_fset _ _ _ (by decide) }
    exact (hover.trans (hreg _)).trans (touches_finishCall _ _ _ _ _ _).follows

/-- What a loop does next, `l` being the loop with the commit counted. -/
def loopGoesOn (s : State) (p : Part) (l : LoopSvc) : State :=
  if l.single || l.replay then endLoopSvc s p 0
  else if l.ending then endLoopSvc s p 1
  else if l.steps != 0 && decide (l.steps ≤ l.committed) then endLoopSvc s p 0
  else if dataEnded s p then endLoopSvc s p 3
  else s

/-- A loop ends or goes on. -/
theorem loopGoesOn_cases (s : State) (p : Part) (l : LoopSvc) :
    loopGoesOn s p l = s ∨ ∃ ending, loopGoesOn s p l = endLoopSvc s p ending := by
  unfold loopGoesOn
  repeat' split
  next => exact .inr ⟨0, rfl⟩
  next => exact .inr ⟨1, rfl⟩
  next => exact .inr ⟨0, rfl⟩
  next => exact .inr ⟨3, rfl⟩
  next => exact .inl rfl

/-- What a replay reads of the state that it has committed, for CKS. -/
def replayRead (s : State) (p : Part) (l : LoopSvc) : State × Bytes × Bool :=
  if l.replay then slotPayload s (mayReach s l.fn p) p (s.part p).lastList else (s, [], false)

/-- A commit is counted in its loop, with the CKS of a replay. -/
def commitCounted (s : State) (p : Part) (l : LoopSvc) : State × LoopSvc :=
  let r := replayRead s p l
  let u := unstage r.1 (replayRuns s p l (s.part p).lastList)
  let l' := { l with committed := l.committed + 1, tries := 0, cks := if l.replay then ckWords r.2.1 else 0 }
  let u := if r.2.2 then finishCall u l'.fn l'.slot sMEMERR (lastSeq u) [] else u
  (u.setPart p { u.part p with loop := some l' }, l')

theorem loopAfterCommit_of_loop {l : LoopSvc} (h : (s.part p).loop = some l) :
    loopAfterCommit s p = loopGoesOn (commitCounted s p l).1 p (commitCounted s p l).2 := by
  simp only [loopAfterCommit, h]
  rfl

theorem loopAfterCommit_of_none (h : (s.part p).loop = none) : loopAfterCommit s p = s := by
  simp only [loopAfterCommit, h]

theorem follows_commitCounted (s : State) (p : Part) (l : LoopSvc) : Follows s (commitCounted s p l).1 := by
  have hread : Touches s (replayRead s p l).1 := by
    unfold replayRead
    split
    · exact touches_slotPayload _ _ _ _
    · exact .refl s
  unfold commitCounted
  dsimp only
  refine Follows.trans ?_ (follows_setLoop _ p _)
  have hused := hread.trans (touches_unstage _ (replayRuns s p l (s.part p).lastList))
  split
  · exact (hused.trans (touches_finishCall _ _ _ _ _ _)).follows
  · exact hused.follows

theorem follows_loopAfterCommit (s : State) (p : Part) : Follows s (loopAfterCommit s p) := by
  cases h : (s.part p).loop with
  | none =>
    rw [loopAfterCommit_of_none h]
    exact .refl s
  | some l =>
    rw [loopAfterCommit_of_loop h]
    refine (follows_commitCounted s p l).trans ?_
    rcases loopGoesOn_cases (commitCounted s p l).1 p (commitCounted s p l).2 with hgo | ⟨ending, hend⟩
    · rw [hgo]
      exact .refl _
    · rw [hend]
      exact follows_endLoopSvc _ p ending

/-! ### The next batches (14 R350) -/

/-- The list entries of a batch as they are read, or as a read that is refused leaves them. -/
def batchRead (s : State) (p : Part) (v : Nat × Nat) : State × Bytes × Bool :=
  if partReach s p v.1 v.2 then memRead s (.sc (scOf s p)) (some p) v.1 v.2 else (setStatus s (some p) .checksum, [], true)

theorem touches_batchRead (s : State) (p : Part) (v : Nat × Nat) : Touches s (batchRead s p v).1 := by
  unfold batchRead
  split
  · exact touches_memRead _ _ _ _ _
  · exact touches_setChecksum s (some p)

theorem follows_readBatch (s : State) (p : Part) (i : IngestX) (b : Nat) : Follows s (readBatch s p i b) := by
  have hread := (touches_batchRead s p (batchRun i b)).follows
  exact (hread.trans (follows_setIngest _ p _)).trans (touches_unstage _ _).follows

theorem follows_askSources (s : State) (p : Part) (es : List (Nat × Nat × Nat)) : Follows s (askSources s p es).1 := by
  unfold askSources
  split
  · next h => exact (touches_stageHost h).follows
  · exact .refl s

theorem follows_askBatch (s : State) (p : Part) (b : Nat) : Follows s (askBatch s p b).1 := by
  unfold askBatch
  split
  · exact .refl s
  · split
    · exact follows_askSources _ _ _
    · split
      · next h => exact (touches_stageHost h).follows
      · exact (follows_readBatch _ _ _ _).trans (follows_askSources _ _ _)

theorem follows_fillIngest (s : State) (p : Part) : Follows s (fillIngest s p) := by
  unfold fillIngest
  dsimp only
  split
  · exact .refl s
  · exact (follows_setIngest s p _).trans (foldl_keeps Follows.refl Follows.trans (fun v b => follows_askBatch v p b) _ _)

/-! ### A release that reads nothing -/

theorem startBuddy_off (h : fget s .updSealCken p.val ≠ 1) (step : Nat) : startBuddy s p step = s := by
  rw [← fbit_eq_false] at h
  simp [startBuddy, h]

theorem fillIngest_none (h : (s.part p).ingest = none) : fillIngest s p = s := by
  simp only [fillIngest, h]

theorem part_finishCall (s : State) (f : Fn) (k : SlotNo) (code detail : Nat) (out : Bytes) (q : Part) :
    (finishCall s f k code detail out).part q = s.part q := rfl

theorem endLoopSvc_keeps (s : State) (p : Part) (ending : Nat) :
    ((endLoopSvc s p ending).part p).ingest = (s.part p).ingest ∧
      fget (endLoopSvc s p ending) .updStatusStatus p.val = fget s .updStatusStatus p.val := by
  refine ⟨?_, (reports_endLoopSvc s p ending).regs _ _ (by decide)⟩
  unfold endLoopSvc
  dsimp only
  split
  · rfl
  · rw [part_finishCall, fset_part, State.part_setPart_same]

/-- A loop that replays nothing reads nothing when it counts a commit. -/
theorem loopAfterCommit_keeps (h : ∀ l, (s.part p).loop = some l → l.replay = false) :
    ((loopAfterCommit s p).part p).ingest = (s.part p).ingest ∧
      fget (loopAfterCommit s p) .updStatusStatus p.val = fget s .updStatusStatus p.val := by
  cases hl : (s.part p).loop with
  | none =>
    rw [loopAfterCommit_of_none hl]
    exact ⟨rfl, rfl⟩
  | some l =>
    have hcounted : ((commitCounted s p l).1.part p).ingest = (s.part p).ingest ∧
        fget (commitCounted s p l).1 .updStatusStatus p.val = fget s .updStatusStatus p.val := by
      simp only [commitCounted, replayRead, h l hl, Bool.false_eq_true, if_false, State.part_setPart_same]
      exact ⟨rfl, rfl⟩
    rw [loopAfterCommit_of_loop hl]
    rcases loopGoesOn_cases (commitCounted s p l).1 p (commitCounted s p l).2 with hgo | ⟨ending, hend⟩
    · rw [hgo]
      exact hcounted
    · obtain ⟨hingest, hstatus⟩ := endLoopSvc_keeps (commitCounted s p l).1 p ending
      rw [hend]
      exact ⟨hingest.trans hcounted.1, hstatus.trans hcounted.2⟩

end Following

end Sys2Proof.Machine
end

section
/-! O31: the release of a step, the preparation of a list and the end of a copy (10 R219, R225, R232, R242, R244, R245; 18
R433). -/

namespace Sys2Proof.Machine

section Releasing

variable {but but' : List Field} {s t u : State} {p : Part} {k : Nat}

/-! ### What leaves the partitions as they are -/

/-- Registers outside `but` and the partitions are kept. -/
structure PartsKept (but : List Field) (s t : State) : Prop where
  regs : Claims.regsKept s t but
  parts : t.parts = s.parts

theorem PartsKept.refl (s : State) : PartsKept but s s := ⟨fun _ _ _ => rfl, rfl⟩

theorem PartsKept.trans (h : PartsKept but s t) (h' : PartsKept but t u) : PartsKept but s u :=
  ⟨Claims.regsKept_trans h.regs h'.regs, h'.parts.trans h.parts⟩

theorem PartsKept.mono (hb : but ⊆ but') (h : PartsKept but s t) : PartsKept but' s t :=
  ⟨Claims.regsKept_mono hb h.regs, h.parts⟩

theorem regsKept_fset (s : State) (f : Field) (i v : Nat) (hf : f ∈ but) : Claims.regsKept s (fset s f i v) but :=
  fun _ _ hg => fget_fset_other s v fun h => hg (h.1 ▸ hf)

theorem partsKept_fset (s : State) (f : Field) (i v : Nat) (hf : f ∈ but) : PartsKept but s (fset s f i v) :=
  ⟨regsKept_fset s f i v hf, rfl⟩

theorem partsKept_foldl {α : Type} {f : State → α → State} (step : ∀ s a, PartsKept but s (f s a)) (l : List α) (s : State) :
    PartsKept but s (l.foldl f s) := foldl_keeps PartsKept.refl PartsKept.trans step l s

/-- The cores of a partition follow from the protection map alone. -/
theorem coresOf_of_kept (h : Claims.regsKept s t but) (hv : .rotPmapValid ∉ but) (hq : .rotPmapQmask ∉ but) (p : Part) :
    coresOf t p = coresOf s p := by
  simp only [coresOf, partOfCore, partOfQuarter_of_regs (fun i => h _ i hv) (fun i => h _ i hq)]

/-! ### Up to the turn of the status (10 R225; 14 R347, R351) -/

/-- A commit moves STEP on, and its list is that of the last commit. -/
def stepAdvanced (s : State) (p : Part) (k : Nat) : State :=
  if k = 0 then fset (s.setPart p { s.part p with lastList := (s.part p).prep.getD [] }) .updStepStep p.val
    (fget s .updStepStep p.val + 1)
  else s

/-- A commit and a resume use up the batch at the cursor. -/
def batchUsed (s : State) (p : Part) (k : Nat) : State :=
  if k = 0 ∨ k = 2 then advanceCursor (stepAdvanced s p k) p else stepAdvanced s p k

/-- The registers that a release may have changed when the status turns. -/
def beforeTurnFields : List Field :=
  [.updStepStep, .svcLoopCursor, .corePshadowValue, .errLostDropped, .coreParamReadyReady]

theorem regsKept_stepAdvanced (s : State) (p : Part) (k : Nat) : Claims.regsKept s (stepAdvanced s p k) [.updStepStep] := by
  unfold stepAdvanced
  split
  · exact regsKept_fset (s.setPart p { s.part p with lastList := (s.part p).prep.getD [] }) _ _ _ (by decide)
  · exact fun _ _ _ => rfl

theorem stepAdvanced_step (s : State) (p : Part) (k : Nat) : fget (stepAdvanced s p k) .updStepStep p.val =
    if k = 0 then (fget s .updStepStep p.val + 1) % 2 ^ Field.updStepStep.spec.width else fget s .updStepStep p.val := by
  unfold stepAdvanced
  split
  · exact fget_fset_same _ _ _ _
  · rfl

theorem part_stepAdvanced (s : State) (p : Part) (k : Nat) :
    (stepAdvanced s p k).part p = { s.part p with lastList := ((stepAdvanced s p k).part p).lastList } := by
  unfold stepAdvanced
  split
  · rw [fset_part, State.part_setPart_same]
  · rfl

theorem regsKept_advanceCursor (s : State) (p : Part) : Claims.regsKept s (advanceCursor s p) [.svcLoopCursor] := by
  unfold advanceCursor
  dsimp only
  split
  · exact fun _ _ _ => rfl
  · exact regsKept_fset (s.setPart p _) _ _ _ (by decide)

theorem advanceCursor_cursor {i : IngestX} (h : (s.part p).ingest = some i) : fget (advanceCursor s p) .svcLoopCursor p.val =
    nextCursor i (fget s .svcLoopCursor p.val) % 2 ^ Field.svcLoopCursor.spec.width := by
  simp only [advanceCursor, h]
  exact fget_fset_same _ _ _ _

theorem part_advanceCursor (s : State) (p : Part) :
    (advanceCursor s p).part p = { s.part p with ingest := ((advanceCursor s p).part p).ingest } ∧
      ((s.part p).ingest = none → ((advanceCursor s p).part p).ingest = none) := by
  cases h : (s.part p).ingest with
  | none =>
    have hstays : advanceCursor s p = s := by simp only [advanceCursor, h]
    rw [hstays]
    exact ⟨rfl, fun _ => h⟩
  | some i =>
    refine ⟨?_, fun hnone => by simp at hnone⟩
    simp only [advanceCursor, h]
    rw [fset_part, State.part_setPart_same]

theorem regsKept_batchUsed (s : State) (p : Part) (k : Nat) : Claims.regsKept s (batchUsed s p k) beforeTurnFields := by
  have hstep : Claims.regsKept s (stepAdvanced s p k) beforeTurnFields :=
    Claims.regsKept_mono (by decide) (regsKept_stepAdvanced s p k)
  unfold batchUsed
  split
  · exact Claims.regsKept_trans hstep (Claims.regsKept_mono (by decide) (regsKept_advanceCursor _ p))
  · exact hstep

theorem batchUsed_step (s : State) (p : Part) (k : Nat) : fget (batchUsed s p k) .updStepStep p.val =
    if k = 0 then (fget s .updStepStep p.val + 1) % 2 ^ Field.updStepStep.spec.width else fget s .updStepStep p.val := by
  rw [← stepAdvanced_step]
  unfold batchUsed
  split
  · exact regsKept_advanceCursor _ p _ _ (by decide)
  · rfl

theorem batchUsed_cursor {i : IngestX} (h : (s.part p).ingest = some i) : fget (batchUsed s p k) .svcLoopCursor p.val =
    if k = 0 ∨ k = 2 then nextCursor i (fget s .svcLoopCursor p.val) % 2 ^ Field.svcLoopCursor.spec.width
    else fget s .svcLoopCursor p.val := by
  have hcursor : fget (stepAdvanced s p k) .svcLoopCursor p.val = fget s .svcLoopCursor p.val :=
    regsKept_stepAdvanced s p k _ _ (by decide)
  have hingest : ((stepAdvanced s p k).part p).ingest = some i := by
    rw [part_stepAdvanced]
    exact h
  unfold batchUsed
  split
  · rw [advanceCursor_cursor hingest, hcursor]
  · exact hcursor

/-- What the release of a step leaves of its partition until the next step opens: the bits to carry, the loop, and no ingestion
where there was none. -/
structure PartStays (x y : PartX) : Prop where
  carry : y.carry = x.carry
  loop : y.loop = x.loop
  ingest : x.ingest = none → y.ingest = none

theorem partStays_batchUsed (s : State) (p : Part) (k : Nat) : PartStays (s.part p) ((batchUsed s p k).part p) := by
  have hstep := part_stepAdvanced s p k
  have hcursor := part_advanceCursor (stepAdvanced s p k) p
  unfold batchUsed
  split
  · exact ⟨by rw [hcursor.1, hstep], by rw [hcursor.1, hstep], fun h => hcursor.2 (by rw [hstep]; exact h)⟩
  · exact ⟨by rw [hstep], by rw [hstep], fun h => by rw [hstep]; exact h⟩

theorem partsKept_placeShadows (s : State) (p : Part) :
    PartsKept [.corePshadowValue, .errLostDropped, .coreParamReadyReady] s (placeShadows s p) := by
  have hshadow (v : State) (c : Core) (n x off : _) :
      PartsKept [.corePshadowValue, .errLostDropped, .coreParamReadyReady] v (writeShadow v c n x off) := by
    unfold writeShadow
    split
    · exact ⟨(reports_record _ _ _ _ _ _ _ (by decide)).regs, (aside_record _ _ _ _ _ _ _ _).parts⟩
    · exact (partsKept_fset v .corePshadowValue _ _ (by decide)).trans ⟨fun _ _ _ => rfl, rfl⟩
  unfold placeShadows
  extract_lets tags step
  split
  · exact .refl s
  · exact partsKept_foldl (fun v c => (partsKept_foldl (fun v t => hshadow v c _ _ _) tags v).trans
      (partsKept_fset _ _ _ _ (by decide))) _ s

/-! ### The turn of the status (10 R225; 18 R433) -/

/-- The state in which the status turns. -/
def beforeTurn (s : State) (p : Part) (k : Nat) : State := placeShadows (batchUsed s p k) p

theorem regsKept_beforeTurn (s : State) (p : Part) (k : Nat) : Claims.regsKept s (beforeTurn s p k) beforeTurnFields :=
  Claims.regsKept_trans (regsKept_batchUsed s p k) (Claims.regsKept_mono (by decide) (partsKept_placeShadows _ p).regs)

theorem partStays_beforeTurn (s : State) (p : Part) (k : Nat) : PartStays (s.part p) ((beforeTurn s p k).part p) := by
  rw [beforeTurn, part_of_parts (partsKept_placeShadows _ p).parts]
  exact partStays_batchUsed s p k

/-- The status bits that a commit carries, as a number. -/
def carriedBits (l : List Nat) : Nat := l.foldl (fun a b => a ||| 2 ^ b) 0

theorem testBit_carriedBits (l : List Nat) (b : Nat) : (carriedBits l).testBit b = decide (b ∈ l) := by
  have hfold : ∀ (l : List Nat) (a : Nat), (l.foldl (fun a b => a ||| 2 ^ b) a).testBit b = (a.testBit b || decide (b ∈ l)) := by
    intro l
    induction l with
    | nil => simp
    | cons c l ih =>
      intro a
      rw [List.foldl_cons, ih, Nat.testBit_or, Nat.testBit_two_pow]
      simp [Bool.or_assoc, eq_comm (a := b)]
  exact (hfold l 0).trans (by simp)

theorem turnStatus_prev (s : State) (p : Part) : fget (turnStatus s p) .updStatusPrev p.val =
    fget s .updStatusStatus p.val % 2 ^ Field.updStatusPrev.spec.width := by
  rw [turnStatus, fget_setPart, fget_fset_other _ _ (by simp), fget_fset_same]

theorem turnStatus_status (s : State) (p : Part) : fget (turnStatus s p) .updStatusStatus p.val =
    carriedBits (s.part p).carry % 2 ^ Field.updStatusStatus.spec.width :=
  fget_fset_same (fset s .updStatusPrev p.val (fget s .updStatusStatus p.val)) _ _ _

theorem part_turnStatus (s : State) (p : Part) : (turnStatus s p).part p = { s.part p with carry := [] } := by
  rw [turnStatus, State.part_setPart_same]

theorem regsKept_turnStatus (s : State) (p : Part) :
    Claims.regsKept s (turnStatus s p) [.updStatusPrev, .updStatusStatus] :=
  Claims.regsKept_trans (regsKept_fset s .updStatusPrev p.val (fget s .updStatusStatus p.val) (by decide))
    (regsKept_fset _ .updStatusStatus p.val _ (by decide))

/-! ### Until the pulse (10 R219, R225; 06 R151; 09 R193; 17 R416) -/

/-- The work counters of mask `m` are armed, the groups return to entry 0, and the dies take faster clocks. -/
def unitsReset (m : Nat) (s : State) (p : Part) : State :=
  let s := ((span 0 64).filter fun w => bit m w && fbit s .hstWorkAuto w).foldl armCounter s
  let s := (partGroups s p).foldl resetGroup s
  (diesOf s p).foldl (raiseDie p) s

/-- The registers that may change between the turn of the status and the opening of the step. -/
def resetFields : List Field :=
  [.hstWorkNext, .xceCstatInst, .xceCstatState, .xceCstatBlocks, .pwrStatusDieslow, .pwrStatusPending]

theorem partsKept_resetGroup (s : State) (g : Group) : PartsKept resetFields s (resetGroup s g) := by
  have hunstaged : PartsKept resetFields s ((unstageEntry s g).setGroup g {}) := by
    rw [unstageEntry_rest]
    exact ⟨fun _ _ _ => rfl, rfl⟩
  exact ((hunstaged.trans (partsKept_fset _ _ _ _ (by decide))).trans (partsKept_fset _ _ _ _ (by decide))).trans
    (partsKept_fset _ _ _ _ (by decide))

theorem partsKept_raiseDie (p : Part) (s : State) (d : Nat) : PartsKept resetFields s (raiseDie p s d) := by
  unfold raiseDie
  dsimp only
  split
  · refine PartsKept.trans (t := { s with pwr := { s.pwr with dieMode := tdrop (· == d) s.pwr.dieMode } })
      ⟨fun _ _ _ => rfl, rfl⟩ ?_
    exact (partsKept_fset _ _ _ _ (by decide)).trans (partsKept_fset _ _ _ _ (by decide))
  · exact .refl s

theorem partsKept_unitsReset (m : Nat) (s : State) (p : Part) : PartsKept resetFields s (unitsReset m s p) :=
  ((partsKept_foldl (fun v w => partsKept_fset v _ w _ (by decide)) _ s).trans
    (partsKept_foldl partsKept_resetGroup _ _)).trans (partsKept_foldl (partsKept_raiseDie p) _ _)

/-- The M stream of a core that a SEAL holds goes on. -/
def coreLetGo (s : State) (c : Core) : State :=
  if (s.core c).sealPhase = .none then s
  else reach (s.setCore c { s.core c with sealPhase := .none, sealWait := [] }) c .m

theorem letGo_eq (s : State) (p : Part) : letGo s p = (coresOf s p).foldl coreLetGo s := rfl

theorem partsKept_coreLetGo (s : State) (c : Core) : PartsKept but s (coreLetGo s c) := by
  unfold coreLetGo
  split
  · exact .refl s
  · rcases reach_cases (s.setCore c { s.core c with sealPhase := .none, sealWait := [] }) c .m with h | ⟨l, v, h⟩ <;> rw [h]
    · exact ⟨fun _ _ _ => rfl, rfl⟩
    · exact ⟨fun _ _ _ => rfl, rfl⟩

/-- No SEAL holds the core once it has been let go. -/
theorem coreLetGo_own (s : State) (c : Core) : ((coreLetGo s c).core c).sealPhase = .none := by
  unfold coreLetGo
  split
  · assumption
  · obtain ⟨v, hv⟩ := reach_stream (s.setCore c { s.core c with sealPhase := .none, sealWait := [] }) c .m
    rw [hv, CoreX.setStream_sealPhase, State.core_setCore_same]

theorem coreLetGo_keeps (s : State) (c d : Core) (h : (s.core d).sealPhase = .none) :
    ((coreLetGo s c).core d).sealPhase = .none := by
  by_cases hd : d = c
  · rw [hd]
    exact coreLetGo_own s c
  · unfold coreLetGo
    split
    · exact h
    · rw [(closes_reach (but := []) _ c .m).others d hd, State.core_setCore_other _ _ hd]
      exact h

theorem letGo_cores (s : State) (p : Part) {c : Core} (hc : c ∈ coresOf s p) : ((letGo s p).core c).sealPhase = .none := by
  rw [letGo_eq]
  exact foldl_brings (P := fun v : State => (v.core c).sealPhase = .none) (fun v d => coreLetGo_keeps v d c) hc
    (fun v => coreLetGo_own v c) s

/-- The next step of a partition is open, and nothing of it has happened. -/
theorem openStep_eq (s : State) (p : Part) : ∃ (v : State) (x : PartX),
    openStep s p = letGo (setSealState (v.setPart p x) p 0) p ∧ PartsKept [.updSealFatal] s v ∧
      PartStays (s.part p) x ∧ x.releaseDue = none := by
  refine ⟨_, _, rfl, ?_, ⟨rfl, rfl, id⟩, rfl⟩
  split
  · exact partsKept_fset s _ _ _ (by decide)
  · exact .refl s

theorem openStep_opens (s : State) (p : Part) :
    Claims.regsKept s (openStep s p) [.updSealFatal, .updSealState] ∧ sealState (openStep s p) p = 0 ∧
      PartStays (s.part p) ((openStep s p).part p) ∧ ((openStep s p).part p).releaseDue = none ∧
      ∀ c ∈ coresOf s p, ((openStep s p).core c).sealPhase = .none := by
  obtain ⟨v, x, heq, hv, hx, hdue⟩ := openStep_eq s p
  have hset : Claims.regsKept s (setSealState (v.setPart p x) p 0) [.updSealFatal, .updSealState] :=
    Claims.regsKept_trans (Claims.regsKept_mono (by decide) hv.regs) (regsKept_fset (v.setPart p x) _ _ _ (by decide))
  have hgo : PartsKept [] (setSealState (v.setPart p x) p 0) (openStep s p) := by
    rw [heq, letGo_eq]
    exact partsKept_foldl partsKept_coreLetGo _ _
  have hpart : (openStep s p).part p = x := by
    rw [part_of_parts hgo.parts, setSealState, fset_part, State.part_setPart_same]
  refine ⟨Claims.regsKept_trans hset (Claims.regsKept_mono (by simp) hgo.regs),
    (hgo.regs .updSealState p.val (by simp)).trans (setSealState_state _ p 0), by rw [hpart]; exact hx, by rw [hpart]; exact hdue,
    fun c hc => ?_⟩
  rw [← coresOf_of_kept hset (by decide) (by decide)] at hc
  rw [heq]
  exact letGo_cores _ p hc

/-! ### The pulse (10 R225) -/

/-- The pulse of a partition counts a release and names the step. -/
def pulsed (s : State) (p : Part) : State :=
  let u := fset s .svcPulseCount p.val (fget s .svcPulseCount p.val + 1)
  raise (fset u .svcPulseStep p.val (fget u .updStepStep p.val)) (.release p)

theorem reports_pulsed (s : State) (p : Part) : Reports [.svcPulseCount, .svcPulseStep] s (pulsed s p) :=
  ((reports_fset _ _ _ (by decide) (by decide)).trans (reports_fset _ _ _ (by decide) (by decide))).trans (reports_raise _ _)

theorem pulsed_parts (s : State) (p : Part) : (pulsed s p).parts = s.parts := by
  rw [pulsed, raise_rest]
  rfl

theorem pulsed_pulse (s : State) (p : Part) :
    fget (pulsed s p) .svcPulseCount p.val = (fget s .svcPulseCount p.val + 1) % 2 ^ Field.svcPulseCount.spec.width ∧
      fget (pulsed s p) .svcPulseStep p.val = fget s .updStepStep p.val % 2 ^ Field.svcPulseStep.spec.width := by
  have hraise (v : State) (f : Field) (i : Nat) : fget (raise v (.release p)) f i = fget v f i :=
    (reports_raise (but := []) v _).regs f i (by simp)
  rw [pulsed, hraise, hraise, fget_fset_other _ _ (by simp), fget_fset_same, fget_fset_same, fget_fset_other _ _ (by simp)]
  exact ⟨rfl, rfl⟩

/-! ### The whole release -/

/-- The state in which the next step opens. -/
def beforeOpen (s : State) (p : Part) (k : Nat) : State :=
  unitsReset (s.part p).img.wcmask (turnStatus (beforeTurn s p k) p) p

/-- The next step is open and its pulse is out. -/
def stepReleased (s : State) (p : Part) (k : Nat) : State := pulsed (openStep (beforeOpen s p k) p) p

/-- What follows a release of kind `k`. -/
def releaseFollowed (s : State) (p : Part) (k : Nat) : State :=
  let t := stepReleased s p k
  fillIngest (if k = 0 then loopAfterCommit (startBuddy t p (fget s .updStepStep p.val)) p else t) p

theorem releasePart_eq (s : State) (p : Part) (k : Nat) : releasePart s p k = releaseFollowed s p k := rfl

/-- What a release of kind `k` has done, whatever follows it. -/
structure Released (p : Part) (k : Nat) (s t : State) : Prop where
  step : fget t .updStepStep p.val =
    if k = 0 then (fget s .updStepStep p.val + 1) % 2 ^ Field.updStepStep.spec.width else fget s .updStepStep p.val
  prev : fget t .updStatusPrev p.val = fget s .updStatusStatus p.val % 2 ^ Field.updStatusPrev.spec.width
  cursor : ∀ i, (s.part p).ingest = some i → fget t .svcLoopCursor p.val =
    if k = 0 ∨ k = 2 then nextCursor i (fget s .svcLoopCursor p.val) % 2 ^ Field.svcLoopCursor.spec.width
    else fget s .svcLoopCursor p.val
  count : fget t .svcPulseCount p.val = (fget s .svcPulseCount p.val + 1) % 2 ^ Field.svcPulseCount.spec.width
  names : fget t .svcPulseStep p.val = fget t .updStepStep p.val % 2 ^ Field.svcPulseStep.spec.width
  opens : sealState t p = 0
  letGo : ∀ c ∈ coresOf s p, (t.core c).sealPhase = .none
  carry : (t.part p).carry = []
  due : (t.part p).releaseDue = none

/-- The registers that a release may have changed when the next step opens. -/
def beforeOpenFields : List Field := beforeTurnFields ++ [.updStatusPrev, .updStatusStatus] ++ resetFields

/-- The registers that the opening of a step and its pulse change. -/
def openFields : List Field := [.updSealFatal, .updSealState, .svcPulseCount, .svcPulseStep]

theorem partsKept_beforeOpen (s : State) (p : Part) (k : Nat) :
    PartsKept resetFields (turnStatus (beforeTurn s p k) p) (beforeOpen s p k) := partsKept_unitsReset _ _ p

theorem regsKept_beforeOpen (s : State) (p : Part) (k : Nat) : Claims.regsKept s (beforeOpen s p k) beforeOpenFields :=
  Claims.regsKept_trans (Claims.regsKept_mono (by decide) (regsKept_beforeTurn s p k)) (Claims.regsKept_trans
    (Claims.regsKept_mono (by decide) (regsKept_turnStatus _ p)) (Claims.regsKept_mono (by decide) (partsKept_beforeOpen s p k).regs))

theorem regsKept_opened (s : State) (p : Part) (k : Nat) :
    Claims.regsKept (beforeOpen s p k) (stepReleased s p k) openFields :=
  Claims.regsKept_trans (Claims.regsKept_mono (by decide) (openStep_opens _ p).1)
    (Claims.regsKept_mono (by decide) (reports_pulsed _ p).regs)

/-- What a release leaves of its partition. -/
theorem part_stepReleased (s : State) (p : Part) (k : Nat) :
    ((stepReleased s p k).part p).carry = [] ∧ ((stepReleased s p k).part p).releaseDue = none ∧
      ((stepReleased s p k).part p).loop = (s.part p).loop ∧
      ((s.part p).ingest = none → ((stepReleased s p k).part p).ingest = none) := by
  obtain ⟨-, -, hopen, hdue, -⟩ := openStep_opens (beforeOpen s p k) p
  rw [part_of_parts (partsKept_beforeOpen s p k).parts, part_turnStatus] at hopen
  rw [stepReleased, part_of_parts (pulsed_parts _ p)]
  exact ⟨hopen.carry, hdue, hopen.loop.trans (partStays_beforeTurn s p k).loop,
    fun h => hopen.ingest ((partStays_beforeTurn s p k).ingest h)⟩

theorem fget_stepReleased_of_turned (s : State) (p : Part) (k : Nat) {f : Field} (i : Nat) (hr : f ∉ resetFields)
    (ho : f ∉ openFields) : fget (stepReleased s p k) f i = fget (turnStatus (beforeTurn s p k) p) f i :=
  (regsKept_opened s p k f i ho).trans ((partsKept_beforeOpen s p k).regs f i hr)

theorem fget_turned_of_batchUsed (s : State) (p : Part) (k : Nat) {f : Field} (i : Nat)
    (ht : f ∉ [Field.updStatusPrev, .updStatusStatus])
    (hs : f ∉ [Field.corePshadowValue, .errLostDropped, .coreParamReadyReady]) :
    fget (turnStatus (beforeTurn s p k) p) f i = fget (batchUsed s p k) f i :=
  (regsKept_turnStatus _ p f i ht).trans ((partsKept_placeShadows (batchUsed s p k) p).regs f i hs)

theorem released_stepReleased (s : State) (p : Part) (k : Nat) : Released p k s (stepReleased s p k) := by
  obtain ⟨hopenRegs, hopens, -, -, hcores⟩ := openStep_opens (beforeOpen s p k) p
  obtain ⟨hcount, hnames⟩ := pulsed_pulse (openStep (beforeOpen s p k) p) p
  have hpulse := reports_pulsed (openStep (beforeOpen s p k) p) p
  obtain ⟨hcarry, hdue, -, -⟩ := part_stepReleased s p k
  refine ⟨?_, ?_, fun i hi => ?_, ?_, ?_, (hpulse.regs _ _ (by decide)).trans hopens, fun c hc => ?_, hcarry, hdue⟩
  · rw [fget_stepReleased_of_turned s p k _ (by decide) (by decide),
      fget_turned_of_batchUsed s p k _ (by decide) (by decide), batchUsed_step]
  · rw [fget_stepReleased_of_turned s p k _ (by decide) (by decide), turnStatus_prev,
      regsKept_beforeTurn s p k _ _ (by decide)]
  · rw [fget_stepReleased_of_turned s p k _ (by decide) (by decide),
      fget_turned_of_batchUsed s p k _ (by decide) (by decide), batchUsed_cursor hi]
  · rw [stepReleased, hcount, hopenRegs _ _ (by decide), regsKept_beforeOpen s p k _ _ (by decide)]
  · rw [stepReleased, hnames, hpulse.regs _ _ (by decide)]
  · rw [stepReleased, hpulse.core c]
    exact hcores c (by rwa [coresOf_of_kept (regsKept_beforeOpen s p k) (by decide) (by decide)])

/-- The status of the new step is what the commit has carried. -/
theorem stepReleased_status (s : State) (p : Part) (k b : Nat) : (fget (stepReleased s p k) .updStatusStatus p.val).testBit b =
    decide (b < Field.updStatusStatus.spec.width ∧ b ∈ (s.part p).carry) := by
  rw [fget_stepReleased_of_turned s p k _ (by decide) (by decide), turnStatus_status, (partStays_beforeTurn s p k).carry,
    Nat.testBit_mod_two_pow, testBit_carriedBits, Bool.decide_and]

/-! ### What follows -/

theorem follows_release (s : State) (p : Part) (k : Nat) : Follows (stepReleased s p k) (releaseFollowed s p k) := by
  unfold releaseFollowed
  dsimp only
  split
  · exact ((follows_startBuddy _ p _).trans (follows_loopAfterCommit _ p)).trans (follows_fillIngest _ p)
  · exact follows_fillIngest _ p

theorem Follows.sealPhase (h : Follows s t) (c : Core) : (t.core c).sealPhase = (s.core c).sealPhase := by rw [h.cores c]

theorem Released.follows (h : Released p k s t) (hf : Follows t u) : Released p k s u where
  step := (hf.regs _ _ (by decide)).trans h.step
  prev := (hf.regs _ _ (by decide)).trans h.prev
  cursor i hi := (hf.regs _ _ (by decide)).trans (h.cursor i hi)
  count := (hf.regs _ _ (by decide)).trans h.count
  names := by rw [hf.regs _ _ (by decide), hf.regs _ _ (by decide), h.names]
  opens := (hf.regs _ _ (by decide)).trans h.opens
  letGo c hc := (hf.sealPhase c).trans (h.letGo c hc)
  carry := (hf.carry p).trans h.carry
  due := (hf.due p).trans h.due

theorem released_releaseFollowed (s : State) (p : Part) (k : Nat) : Released p k s (releaseFollowed s p k) :=
  (released_stepReleased s p k).follows (follows_release s p k)

/-- Of the new status no bit but CHECKSUM is other than the commit has carried it. -/
theorem releaseFollowed_status (s : State) (p : Part) (k : Nat) {b : Nat} (hb : b ≠ 8) :
    (fget (releaseFollowed s p k) .updStatusStatus p.val).testBit b =
      decide (b < Field.updStatusStatus.spec.width ∧ b ∈ (s.part p).carry) := by
  have hbit := stepReleased_status s p k b
  have hf := follows_release s p k
  cases hset : (fget (stepReleased s p k) .updStatusStatus p.val).testBit b with
  | true =>
    have hlt : b < 11 := by
      rw [hset, eq_comm, decide_eq_true_eq] at hbit
      exact hbit.1
    rw [hf.status p.val b hlt hset, ← hbit, hset]
  | false =>
    rw [← hbit, hset]
    exact Bool.eq_false_iff.mpr fun h => absurd (hf.checksum p.val b hb h) (by simp [hset])

theorem releaseFollowed_checksum (s : State) (p : Part) (k : Nat) (h : 8 ∈ (s.part p).carry) :
    (fget (releaseFollowed s p k) .updStatusStatus p.val).testBit 8 = true :=
  (follows_release s p k).status p.val 8 (by decide) (by rw [stepReleased_status]; exact decide_eq_true ⟨by decide, h⟩)

/-- With no copy, no ingestion and no replay nothing is read with the release. -/
theorem releaseFollowed_quiet (s : State) (p : Part) (hcken : fget s .updSealCken p.val ≠ 1)
    (hingest : (s.part p).ingest = none) (hloop : ∀ l, (s.part p).loop = some l → l.replay = false) :
    fget (releaseFollowed s p 0) .updStatusStatus p.val = fget (stepReleased s p 0) .updStatusStatus p.val := by
  obtain ⟨-, -, hloopStays, hingestStays⟩ := part_stepReleased s p 0
  have hckenStays : fget (stepReleased s p 0) .updSealCken p.val = fget s .updSealCken p.val :=
    (regsKept_opened s p 0 _ _ (by decide)).trans (regsKept_beforeOpen s p 0 _ _ (by decide))
  obtain ⟨hnone, hstatus⟩ := loopAfterCommit_keeps (s := stepReleased s p 0) (p := p) (by rwa [hloopStays])
  unfold releaseFollowed
  dsimp only
  rw [if_pos rfl, startBuddy_off (by rwa [hckenStays]), fillIngest_none (hnone.trans (hingestStays hingest)), hstatus]

theorem exec_release (hready : releaseReady s p = true) (hdue : (s.part p).releaseDue = some k)
    (hfence : fget s .hstPartCtrlFence p.val ≠ 1) (hstaged : k = 0 → replayStage s p = none) :
    exec (.release p) s = .next (releaseFollowed s p k) := by
  have hgoes : (!releaseReady s p || fbit s .hstPartCtrlFence p.val) = false := by
    rw [hready, (fbit_eq_false _ _ _).mpr hfence]
    rfl
  have hnone : (if k = 0 then replayStage s p else none) = none := by
    split
    · exact hstaged ‹_›
    · rfl
  show execRelease p s = _
  simp only [execRelease, hgoes, hdue, Option.getD_some, hnone, Bool.false_eq_true, if_false, releasePart_eq]

/-! ### The preparation (10 R219, R232) -/

theorem exec_updPrepare {l : List UpdEntry} (henabled : (s.part p).enabled = true) (hsnap : (s.part p).snapTaken = true)
    (hprep : (s.part p).prep = none) (hfailed : (s.part p).prepFailed = false) (hstate : sealState s p ≤ 1)
    (hfence : fbit s .hstPartCtrlFence p.val = false) (hn : (s.part p).snapList.2 = 0 ∨
      grantedRun s p (s.part p).snapList.1 (64 * (s.part p).snapList.2) = true)
    (hstaged : stageHost s (some p) .event [((s.part p).snapList.1, 64 * (s.part p).snapList.2)] = none) :
    let run := ((s.part p).snapList.1, 64 * (s.part p).snapList.2)
    let r := memRead s (.upd (engineOf s p)) (some p) run.1 run.2
    let u := unstage r.1 [run]
    prepareList u p ((span 0 (s.part p).snapList.2).map fun i => (i, slice r.2.1 (64 * i) 64)) = .ok l →
    exec (.updPrepare p) s = .next (u.setPart p { u.part p with prep := some l }) := by
  intro run r u hlist
  have hgoes : (!(s.part p).enabled || !(s.part p).snapTaken || (s.part p).prep.isSome || (s.part p).prepFailed ||
      decide (1 < sealState s p) || fbit s .hstPartCtrlFence p.val) = false := by
    simp [henabled, hsnap, hprep, hfailed, hfence, hstate]
  have hgranted : ¬((s.part p).snapList.2 ≠ 0 ∧ grantedRun s p (s.part p).snapList.1 (64 * (s.part p).snapList.2) = false) := by
    rintro ⟨hpos, hdenied⟩
    rcases hn with h | h
    · exact hpos h
    · rw [h] at hdenied
      cases hdenied
  show execUpdPrepare p s = _
  unfold execUpdPrepare
  dsimp only
  rw [if_neg (by rw [hgoes]; decide), if_neg hgranted, hstaged]
  dsimp only
  rw [hlist]

/-! ### The end of a copy (10 R244, R245) -/

theorem exec_buddySlotValid_seals {b : BuddyX} (hcopy : (s.part p).buddyCopy = some b) (hheld : copiesHeld s = false)
    (hleft : b.left = 0) (hstarted : b.started = true) (hfailed : b.failed = false)
    (hfence : fbit s .hstPartCtrlFence p.val = false) (hsealing : b.sealing = false) :
    exec (.buddySlotValid p) s = .next (sealBuddy s p b) := by
  show execBuddySlotValid p s = _
  simp [execBuddySlotValid, hcopy, hheld, hleft, hstarted, hfailed, hfence, hsealing]

/-- The copy of a partition is complete, and CKPT STEP names its step. -/
def copyNamed (s : State) (p : Part) (step : Nat) : State :=
  fset (s.setPart p { s.part p with buddyCopy := none }) .updCkptStep p.val step

theorem exec_buddySlotValid_ends {b : BuddyX} (hcopy : (s.part p).buddyCopy = some b) (hheld : copiesHeld s = false)
    (hleft : b.left = 0) (hfailed : b.failed = false) (hfence : fbit s .hstPartCtrlFence p.val = false)
    (hsealing : b.sealing = true) : exec (.buddySlotValid p) s = .next (leaveCkwait (copyNamed s p b.step) p) := by
  show execBuddySlotValid p s = _
  simp [execBuddySlotValid, hcopy, hheld, hleft, hfailed, hfence, hsealing, copyNamed]

theorem fget_sealBuddy (s : State) (p : Part) (b : BuddyX) (f : Field) (i : Nat) : fget (sealBuddy s p b) f i = fget s f i :=
  (reports_sendReq (but := []) (s.setPart p _) _ _ _).regs f i (by simp)

theorem leaveCkwait_keeps (s : State) (p : Part) : PartsKept (.updSealState :: engineFields) s (leaveCkwait s p) := by
  rcases leaveCkwait_cases s p with h | h <;> rw [h]
  · exact .refl s
  · exact ⟨(reports_commitQueued s p).regs, commitQueued_parts s p⟩

theorem leaveCkwait_copyNamed (s : State) (p : Part) (step : Nat) :
    ((leaveCkwait (copyNamed s p step) p).part p).buddyCopy = none ∧
      fget (leaveCkwait (copyNamed s p step) p) .updCkptStep p.val = step % 2 ^ Field.updCkptStep.spec.width := by
  have hkept := leaveCkwait_keeps (copyNamed s p step) p
  rw [part_of_parts hkept.parts, hkept.regs _ _ (by decide), copyNamed, fset_part, State.part_setPart_same, fget_fset_same]
  exact ⟨rfl, rfl⟩

/-! ### The claim -/

theorem releasePreparesAndCopies : Claims.ReleasePreparesAndCopies := by
  refine fun s p => ⟨fun hready hdue hfence hstaged => ?_, fun k hready hdue hk hfence => ?_, fun l henabled hsnap hprep hfailed
    hstate hfence hn hstaged hlist => ?_, fun b hcopy hheld hleft hstarted hfailed hfence => ⟨fun hsealing => ?_,
      fun hsealing => ?_⟩⟩
  · have h := released_releaseFollowed s p 0
    refine ⟨_, exec_release hready hdue hfence fun _ => hstaged, h.step, h.prev, fun b => releaseFollowed_status s p 0,
      releaseFollowed_checksum s p 0, fun hcken hingest hloop hcarry => ?_, h.carry, h.count, h.names, h.opens, h.letGo, h.due⟩
    rw [releaseFollowed_quiet s p hcken hingest hloop, stepReleased_status]
    exact decide_eq_false fun hbit => hcarry hbit.2
  · have h := released_releaseFollowed s p k
    refine ⟨_, exec_release hready hdue hfence fun h0 => absurd h0 hk, h.step.trans (if_neg hk), h.prev,
      fun b => releaseFollowed_status s p k, h.carry, fun i hi => ?_, h.count, h.opens, h.letGo, h.due⟩
    rw [h.cursor i hi]
    simp only [hk, false_or]
  · exact ⟨_, exec_updPrepare henabled hsnap hprep hfailed hstate hfence hn hstaged hlist,
      congrArg PartX.prep (State.part_setPart_same _ p _), ⟨rfl, rfl⟩⟩
  · exact ⟨_, exec_buddySlotValid_seals hcopy hheld hleft hstarted hfailed hfence hsealing, rfl, fget_sealBuddy s p b _ _,
      fget_sealBuddy s p b _ _⟩
  · exact ⟨_, exec_buddySlotValid_ends hcopy hheld hleft hfailed hfence hsealing, rfl, leaveCkwait_copyNamed s p b.step⟩

end Releasing

/-- Settles O31: a commit that is due runs its list and leaves its engine; a release turns the status and opens the next step, and
what follows it can raise CHECKSUM alone. -/
theorem commitsAndReleases : Obligations.CommitsAndReleases := ⟨commitWritesList, releasePreparesAndCopies⟩

end Sys2Proof.Machine
end

section
/-! O36: the drain and the turn of an epoch, the rate of injection and the states of the routing banks (11 R264 to R267, R274). -/

namespace Sys2Proof.Machine

section Epochs

variable {s t : State} {q : Packet} {kind : Nat}

/-! ### Packets of the fabric manager -/

theorem epochAt_acts {act : State → Bool → Option State} (h : Claims.epochFrom s q kind)
    (hact : act s (bit q.aux.toNat 0) = some t) : epochAt s q kind act = .next (ackTo t q) := by
  obtain ⟨⟨htype, hours, hcheck⟩, hkind, hfm⟩ := h
  simp [epochAt, htype, hours, hkind, hcheck, hfm, hact]

theorem epochAt_refuses {act : State → Bool → Option State} (h : Claims.epochFrom s q kind)
    (hact : act s (bit q.aux.toNat 0) = none) : epochAt s q kind act = .next (nak s q nMALFORMED) := by
  obtain ⟨⟨htype, hours, hcheck⟩, hkind, hfm⟩ := h
  simp [epochAt, htype, hours, hkind, hcheck, hfm, hact]

theorem exec_epochArm_again (h : Claims.epochFrom s q 0) (hagain : bit q.aux.toNat 0 = epochNow s ∨ draining s = true) :
    exec (.epochArm q) s = .next (ackTo s q) := by
  show execEpochArm q s = _
  unfold execEpochArm
  exact epochAt_acts h (if_pos hagain)

theorem exec_epochArm_toward (h : Claims.epochFrom s q 0) (hother : bit q.aux.toNat 0 ≠ epochNow s)
    (hidle : draining s = false) : exec (.epochArm q) s =
      .next (if bankState s (bit q.aux.toNat 0) = 2 then ackTo (fset s .sklEpochDraining 0 1) q else nak s q nMALFORMED) := by
  have hnew : ¬(bit q.aux.toNat 0 = epochNow s ∨ draining s = true) := by simp [hother, hidle]
  show execEpochArm q s = _
  unfold execEpochArm
  split
  · next hlive => exact epochAt_acts h (by rw [if_neg hnew, if_neg (not_not.mpr hlive)])
  · next hlive => exact epochAt_refuses h (by rw [if_neg hnew, if_pos hlive])

/-- This device takes no DONE. -/
theorem exec_epochDone (h : Claims.epochFrom s q 1) : exec (.epochDone q) s = .next (nak s q nMALFORMED) := by
  show execEpochDone q s = _
  unfold execEpochDone
  exact epochAt_refuses h rfl

theorem exec_epochRetire (h : Claims.epochFrom s q 2) : exec (.epochRetire q) s = .next (
    if bit q.aux.toNat 0 ≠ epochNow s ∧ draining s = false ∧ bankState s (bit q.aux.toNat 0) ≠ 1 ∧
      bankState s (bit q.aux.toNat 0) ≠ 3 then ackTo (setBank s (bit q.aux.toNat 0) 0) q else nak s q nMALFORMED) := by
  show execEpochRetire q s = _
  unfold execEpochRetire
  split
  · next hmay =>
    obtain ⟨hother, hidle, hloading, hreserved⟩ := hmay
    exact epochAt_acts h (if_neg (by simp [hother, hidle, hloading, hreserved]))
  · next hmay => exact epochAt_refuses h (if_pos (by grind))

/-! ### The turn of the epoch -/

/-- The registers once the epoch has turned. -/
def epochTurned (s : State) : State := fset (fset s .sklEpochEpoch 0 (ofBool (!epochNow s))) .sklEpochDraining 0 0

/-- A turn writes EPOCH and DRAINING; all else that it does is fabric traffic. -/
theorem flipEpoch_rest (s : State) (keep : List Nat) :
    flipEpoch s keep = { epochTurned s with net := (flipEpoch s keep).net } := by
  unfold flipEpoch
  dsimp only
  split <;> exact pumpGo_rest _ _

theorem fget_flipEpoch (s : State) (keep : List Nat) (f : Field) (i : Nat) :
    fget (flipEpoch s keep) f i = fget (epochTurned s) f i :=
  fget_of_regs (by rw [flipEpoch_rest]) f i

theorem epochNow_flipEpoch (s : State) (keep : List Nat) : epochNow (flipEpoch s keep) = !epochNow s := by
  rw [epochNow, fbit, fget_flipEpoch, epochTurned, fget_fset_other _ _ (by decide), fget_fset_same]
  cases epochNow s <;> rfl

theorem draining_flipEpoch (s : State) (keep : List Nat) : draining (flipEpoch s keep) = false := by
  rw [draining, fbit, fget_flipEpoch, epochTurned, fget_fset_same]
  rfl

theorem memSame_flipEpoch (s : State) (keep : List Nat) : Claims.memSame s (flipEpoch s keep) := by
  rw [flipEpoch_rest]
  exact ⟨rfl, rfl⟩

/-! ### A drain that expires -/

/-- The registers that a request's local answer may change. -/
def localNakFields : List Field := [.updStatusStatus, .errLostDropped, .xceCstatState, .sklViolTallyCount]

theorem reports_stepNak (s : State) (p : Option Part) (code : Nat) (q : Packet) :
    Reports localNakFields s (stepNak s p code q) :=
  (reports_record _ _ _ _ _ _ _ (by decide)).trans (reports_setStatus _ _ (by decide))

theorem reports_takeNak (s : State) (o : OutReq) (code : Nat) : Reports localNakFields s (takeNak s o code) := by
  unfold takeNak
  split
  · exact (reports_stepNak _ _ _ _).trans ((reports_poison _ _ _ _ _ _ _).mono (by decide))
  · exact reports_stepNak _ _ _ _
  · split
    · exact .of_eq rfl rfl rfl rfl rfl
    · exact .refl s
  · split
    · exact (reports_record _ _ _ _ _ _ _ (by decide)).trans (reports_finishCall _ _ _ _ _ _)
    · exact reports_finishCall _ _ _ _ _ _
  · exact .of_eq rfl rfl rfl rfl rfl
  · exact .refl s

theorem reports_requestOver (s : State) (o : OutReq) {but : List Field} : Reports but s (requestOver s o) := by
  unfold requestOver
  split
  · exact reports_setGroup _ _ _
  · split
    · exact .of_eq rfl rfl rfl rfl rfl
    · exact .refl s
  · exact .of_eq rfl rfl rfl rfl rfl
  · exact .of_eq rfl rfl rfl rfl rfl
  · exact .refl s

theorem reports_localNak (s : State) (tag kind : Nat) : Reports localNakFields s (localNak s tag kind) := by
  unfold localNak
  split
  · exact .refl s
  · next o _ =>
    have hquarantined : ∀ net : NetX, Reports localNakFields s { s with net := net } := fun _ => .of_eq rfl rfl rfl rfl rfl
    exact (((hquarantined _).trans (reports_fbump _ _ _ (by decide) (by decide))).trans (reports_takeNak _ o _)).trans
      (reports_requestOver _ o)

/-- The state of a drain that has expired, before its requests are answered. -/
def drainRecorded (s : State) : State :=
  record (fset s .sklEpochExpired 0 (satAdd 16 (fget s .sklEpochExpired 0) (awaited s).length)) .fabric .info none .router
    .none nTIMEOUT (.names 267 [(awaited s).length])

theorem reports_drainRecorded (s : State) : Reports [.sklEpochExpired, .errLostDropped] s (drainRecorded s) :=
  (reports_fset _ _ _ (by decide) (by decide)).trans (reports_record _ _ _ _ _ _ _ (by decide))

/-- No answer to an expired request turns the epoch. -/
theorem epochNow_drainAnswered (s : State) :
    epochNow ((awaited s).foldl (fun s t => localNak s t 2) (drainRecorded s)) = epochNow s := by
  have hanswered : Reports localNakFields (drainRecorded s) ((awaited s).foldl (fun s t => localNak s t 2) (drainRecorded s)) :=
    .foldl (fun s t => reports_localNak s t 2) _ _
  unfold epochNow fbit
  rw [hanswered.regs _ _ (by decide), (reports_drainRecorded s).regs _ _ (by decide)]

theorem exec_drainLimit {us : Nat} (hdrain : draining s = true) (hus : fget s .sklEpochDrainLimit 0 ≤ us) :
    exec (.drainLimit us) s =
      .next (flipEpoch ((awaited s).foldl (fun s t => localNak s t 2) (drainRecorded s)) (awaited s)) := by
  show execDrainLimit us s = _
  simp [execDrainLimit, hdrain, Nat.not_lt.mpr hus, drainRecorded]

/-! ### The rate of injection -/

theorem exec_injectionRateRaise {vc : Vc} {ns : Nat} (hvc : vc.val < 22) (hns : 5000 ≤ ns) :
    exec (.injectionRateRaise vc ns) s =
      .next (fset s .sklInjRate vc.val (min (fget s .sklInjRate vc.val + 97) (fget s .sklInjCap vc.val))) := by
  show execInjectionRateRaise vc ns s = _
  simp [execInjectionRateRaise, hvc, hns]

theorem epochsTurn : Claims.EpochsTurn := by
  refine ⟨fun s q h => ⟨exec_epochArm_again h, exec_epochArm_toward h⟩, fun s q => exec_epochDone,
    fun s q => exec_epochRetire, fun s hdrain hnone => ?_, fun s us hdrain hus => ?_, fun s vc ns hvc hns hcap => ?_⟩
  · refine ⟨_, ?_, rfl, epochNow_flipEpoch s [], draining_flipEpoch s [], memSame_flipEpoch s []⟩
    show execEpochFlip s = _
    simp [execEpochFlip, hdrain, hnone]
  · exact ⟨_, exec_drainLimit hdrain hus, rfl, by rw [epochNow_flipEpoch, epochNow_drainAnswered], draining_flipEpoch _ _⟩
  · refine ⟨_, exec_injectionRateRaise hvc hns, ?_, regsKept_fset s _ _ _ (by decide), ⟨rfl, rfl⟩, rfl⟩
    rw [fget_fset_same]
    exact Nat.mod_eq_of_lt (lt_of_le_of_lt (Nat.min_le_right _ _) hcap)

end Epochs

/-! ### What a write inside one register carries -/

section Carrying

variable {s : State} {g f : Field} {l : List Nat} {fs : List Field} {off n data : Nat}

theorem carry_f (s : State) (off n data : Nat) (r : Reached) : (carry s off n data r).f = r.f := by
  unfold carry
  dsimp only
  split <;> rfl

theorem find?_carriedOf (hf : f ∈ fs) : (carriedOf s g l off n data fs).find? (fun h => h.f == f) =
    some (carry s off n data ⟨f, regIndex g l, regAt g l⟩) := by
  induction fs with
  | nil => cases hf
  | cons e fs ih =>
    by_cases he : e = f
    · simp [carriedOf, carry_f, he]
    · have hrest := ih (List.mem_of_ne_of_mem (Ne.symm he) hf)
      simp only [carriedOf, List.map_cons, List.find?_cons, carry_f, beq_false_of_ne he] at hrest ⊢
      exact hrest

theorem valueIn_carriedOf (hf : f ∈ fs) :
    valueIn (carriedOf s g l off n data fs) f = (carry s off n data ⟨f, regIndex g l, regAt g l⟩).val := by
  rw [valueIn, find?_carriedOf hf]
  rfl

theorem hereIn_carriedOf (hf : f ∈ fs) (hhere : (carry s off n data ⟨f, regIndex g l, regAt g l⟩).here = true) :
    hereIn (carriedOf s g l off n data fs) f = true := by
  have hmem := List.mem_of_find?_eq_some (find?_carriedOf (s := s) (g := g) (l := l) (off := off) (n := n) (data := data) hf)
  exact List.any_eq_true.mpr ⟨_, hmem, by simp [carry_f, hhere]⟩

/-- A field whose value fits its width takes just the bits written. -/
theorem putBits_of_lt {v w x : Nat} (h : v < 2 ^ w) : putBits v 0 w x = x % 2 ^ w := by
  simp [putBits, bits, Nat.mod_eq_of_lt h]

/-- A read and write field that lies wholly in a write from its register's first byte on takes its bits of the data. -/
theorem carry_rw {i start : Nat} (hacc : f.spec.access = .rw) (hw : 0 < f.spec.width)
    (hhi : f.spec.lo + f.spec.width ≤ 8 * n) (hold : fget s f i < 2 ^ f.spec.width) : carry s start n data ⟨f, i, start⟩ =
      ⟨f, i, bits data f.spec.lo f.spec.width, true, true⟩ := by
  rw [carry_covered data (j := 0) (Nat.add_zero start).symm hw (Nat.zero_le _) (by simpa using hhi)]
  simp [heldOf, hacc, putBits_of_lt hold, bits_mod]

end Carrying

/-! ### The states of the banks -/

section Banks

variable {s : State} {w : Who}

/-- The field that holds the state of a bank. -/
def bankField (bank : Fin 2) : Field := if bank = 0 then .sklEpochBank0 else .sklEpochBank1

theorem bankState_eq (s : State) (bank : Fin 2) : bankState s (bank.val == 1) = fget s (bankField bank) 0 := by
  fin_cases bank <;> rfl

/-- A bank takes a state that its machine allows; another is logged (11 R264). -/
def bankPut (s : State) (bank : Fin 2) (v : Nat) : State :=
  if bankStep s bank.val v then fset s (bankField bank) 0 v else logRegister s none .router 0x40_0008

theorem reports_bankPut (s : State) (bank : Fin 2) (v : Nat) :
    Reports [bankField bank, .errLostDropped] s (bankPut s bank v) := by
  unfold bankPut
  split
  · exact reports_fset _ _ _ (by simp) (by fin_cases bank <;> decide)
  · exact reports_record _ _ _ _ _ _ _ (by simp)

theorem fget_bankPut (s : State) (bank : Fin 2) (v : Nat) : fget (bankPut s bank v) (bankField bank) 0 =
    if bankStep s bank.val v then v % 4 else fget s (bankField bank) 0 := by
  have hwidth : (bankField bank).spec.width = 2 := by fin_cases bank <;> rfl
  have hlost : bankField bank ∉ [Field.errLostDropped] := by fin_cases bank <;> decide
  unfold bankPut
  split
  · rw [fget_fset_same, hwidth]
    rfl
  · exact (reports_record _ _ _ _ _ _ _ (List.mem_singleton.mpr rfl)).regs _ _ hlost

/-- Whether a bank may take a state depends on its own state, on the epoch and on a drain under way. -/
theorem bankStep_congr {t : State} {bank : Fin 2} (hbank : fget t (bankField bank) 0 = fget s (bankField bank) 0)
    (hepoch : fget t .sklEpochEpoch 0 = fget s .sklEpochEpoch 0)
    (hdrain : fget t .sklEpochDraining 0 = fget s .sklEpochDraining 0) (v : Nat) :
    bankStep t bank.val v = bankStep s bank.val v := by
  unfold bankStep
  fin_cases bank <;> simp_all [bankField, fbit]

/-- SKL_EPOCH once a drain limit and the states of both banks have been written. -/
def epochWritten (s : State) (limit b0 b1 : Nat) : State := bankPut (bankPut (fset s .sklEpochDrainLimit 0 limit) 0 b0) 1 b1

theorem reports_epochWritten (s : State) (limit b0 b1 : Nat) :
    Reports [.sklEpochDrainLimit, .sklEpochBank0, .sklEpochBank1, .errLostDropped] s (epochWritten s limit b0 b1) :=
  ((reports_fset _ _ _ (by decide) (by decide)).trans ((reports_bankPut _ 0 b0).mono (by decide))).trans
    ((reports_bankPut _ 1 b1).mono (by decide))

theorem fget_epochWritten_limit (s : State) (limit b0 b1 : Nat) :
    fget (epochWritten s limit b0 b1) .sklEpochDrainLimit 0 = limit % 2 ^ 24 := by
  rw [epochWritten, (reports_bankPut _ 1 b1).regs _ _ (by decide), (reports_bankPut _ 0 b0).regs _ _ (by decide)]
  exact fget_fset_same _ _ _ _

/-- Each bank takes what is written if its machine allows it. -/
theorem fget_epochWritten_bank (s : State) (limit b0 b1 : Nat) (bank : Fin 2) :
    fget (epochWritten s limit b0 b1) (bankField bank) 0 =
      if bankStep s bank.val (if bank = 0 then b0 else b1) then (if bank = 0 then b0 else b1) % 4
      else fget s (bankField bank) 0 := by
  have hlimit : ∀ f, f ≠ .sklEpochDrainLimit → fget (fset s .sklEpochDrainLimit 0 limit) f 0 = fget s f 0 :=
    fun f hf => fget_fset_other s _ fun h => hf h.1
  match bank with
  | 0 =>
    rw [epochWritten, (reports_bankPut _ 1 b1).regs _ _ (by decide), fget_bankPut, hlimit _ (by decide),
      bankStep_congr (s := s) (hlimit _ (by decide)) (hlimit _ (by decide)) (hlimit _ (by decide))]
    rfl
  | 1 =>
    have hput : ∀ f, f ∉ [Field.sklEpochBank0, .errLostDropped] → f ≠ .sklEpochDrainLimit →
        fget (bankPut (fset s .sklEpochDrainLimit 0 limit) 0 b0) f 0 = fget s f 0 :=
      fun f hf hne => ((reports_bankPut _ 0 b0).regs _ _ hf).trans (hlimit f hne)
    rw [epochWritten, fget_bankPut, hput _ (by decide) (by decide),
      bankStep_congr (s := s) (hput _ (by decide) (by decide)) (hput _ (by decide) (by decide))
        (hput _ (by decide) (by decide))]
    rfl

/-- The word of SKL_EPOCH that carries a drain limit and the states of both banks. -/
def epochWord (limit b0 b1 : Nat) : Nat := b0 * 4 + b1 * 16 + limit * 2 ^ 8

theorem bits_epochWord {limit b0 b1 : Nat} (hlimit : limit < 2 ^ 24) (h0 : b0 < 4) (h1 : b1 < 4) :
    bits (epochWord limit b0 b1) 2 2 = b0 ∧ bits (epochWord limit b0 b1) 4 2 = b1 ∧
      bits (epochWord limit b0 b1) 8 24 = limit ∧ epochWord limit b0 b1 < 2 ^ 32 := by
  simp only [bits, epochWord, Nat.shiftRight_eq_div_pow]
  omega

/-- The fields of SKL_EPOCH. -/
def epochFields : List Field :=
  [.sklEpochEpoch, .sklEpochDraining, .sklEpochBank0, .sklEpochBank1, .sklEpochDrainLimit, .sklEpochExpired]

theorem writeEpoch_carried {limit b0 b1 : Nat} (hlimit : limit < 2 ^ 24) (h0 : b0 < 4) (h1 : b1 < 4)
    (hold : fget s .sklEpochDrainLimit 0 < 2 ^ 24) (hold0 : fget s .sklEpochBank0 0 < 4) (hold1 : fget s .sklEpochBank1 0 < 4) :
    writeEpoch s (carriedOf s .sklEpochEpoch [] 0x40_0008 4 (epochWord limit b0 b1) epochFields) 0x40_0008 =
      epochWritten s limit b0 b1 := by
  obtain ⟨hbits0, hbits1, hbitsLimit, -⟩ := bits_epochWord hlimit h0 h1
  have hcarry0 : carry s 0x40_0008 4 (epochWord limit b0 b1) ⟨.sklEpochBank0, 0, 0x40_0008⟩ =
      ⟨.sklEpochBank0, 0, b0, true, true⟩ := (carry_rw rfl (by decide) (by decide) hold0).trans (congrArg (Carried.mk _ _ · _ _) hbits0)
  have hcarry1 : carry s 0x40_0008 4 (epochWord limit b0 b1) ⟨.sklEpochBank1, 0, 0x40_0008⟩ =
      ⟨.sklEpochBank1, 0, b1, true, true⟩ := (carry_rw rfl (by decide) (by decide) hold1).trans (congrArg (Carried.mk _ _ · _ _) hbits1)
  have hcarryLimit : carry s 0x40_0008 4 (epochWord limit b0 b1) ⟨.sklEpochDrainLimit, 0, 0x40_0008⟩ =
      ⟨.sklEpochDrainLimit, 0, limit, true, true⟩ := (carry_rw rfl (by decide) (by decide) hold).trans (congrArg (Carried.mk _ _ · _ _) hbitsLimit)
  have hval : ∀ f v, f ∈ epochFields → carry s 0x40_0008 4 (epochWord limit b0 b1) ⟨f, 0, 0x40_0008⟩ = ⟨f, 0, v, true, true⟩ →
      hereIn (carriedOf s .sklEpochEpoch [] 0x40_0008 4 (epochWord limit b0 b1) epochFields) f = true ∧
        valueIn (carriedOf s .sklEpochEpoch [] 0x40_0008 4 (epochWord limit b0 b1) epochFields) f = v := fun f v hf hcarry =>
    ⟨hereIn_carriedOf hf (congrArg Carried.here hcarry), (valueIn_carriedOf hf).trans (congrArg Carried.val hcarry)⟩
  obtain ⟨hhere0, hval0⟩ := hval _ _ (by decide) hcarry0
  obtain ⟨hhere1, hval1⟩ := hval _ _ (by decide) hcarry1
  obtain ⟨hhereLimit, hvalLimit⟩ := hval _ _ (by decide) hcarryLimit
  simp only [writeEpoch, hhere0, hhere1, hhereLimit, hval0, hval1, hvalLimit]
  rfl

theorem openAt_skl {off : Nat} (hlo : 0x40_0000 ≤ off) (hhi : off < 0x4F_FF00) : OpenAt s .skl off := by
  have hblock : blockOf off = some .skl := by
    unfold blockOf
    grind
  have hrel : off - blockBase .skl < 0xF_FF00 := by
    unfold blockBase
    dsimp only
    omega
  exact openAt_of_place hblock (by decide) (by omega) (.inl hrel) rfl

theorem epochReg_written {limit b0 b1 : Nat} (h : Claims.admits s w 0x40_0008 4 (epochWord limit b0 b1))
    (hlimit : limit < 2 ^ 24) (h0 : b0 < 4) (h1 : b1 < 4) (hold : fget s .sklEpochDrainLimit 0 < 2 ^ 24)
    (hold0 : fget s .sklEpochBank0 0 < 4) (hold1 : fget s .sklEpochBank1 0 < 4) :
    ∃ x, registerRow s w 0x40_0008 4 (epochWord limit b0 b1) = .next (withTraffic (epochWritten s limit b0 b1) x) := by
  have hfields : Field.all.filter (sameReg .sklEpochEpoch) = epochFields := by decide +kernel
  obtain ⟨who, x, hrow⟩ := registerRow_reg h (.inl rfl) (by decide) (bits_epochWord hlimit h0 h1).2.2.2
    (openAt_skl (by decide) (by decide)) (g := .sklEpochEpoch) (l := []) (j := 0) (by decide) (by decide +kernel) rfl
    (by decide) hfields (by decide)
  refine ⟨x, hrow.trans ?_⟩
  rw [← writeEpoch_carried hlimit h0 h1 hold hold0 hold1]
  rfl

theorem bankStatesFollowRule : Claims.BankStatesFollowRule := by
  intro s w bank v hold0 hold1 hlimit hadmits
  have h0 : (if bank = 0 then v.toNat else fget s .sklEpochBank0 0) < 4 := by split <;> omega
  have h1 : (if bank = 1 then v.toNat else fget s .sklEpochBank1 0) < 4 := by split <;> omega
  obtain ⟨x, hrow⟩ := epochReg_written hadmits hlimit h0 h1 hlimit hold0 hold1
  have hbank := fget_epochWritten_bank s (fget s .sklEpochDrainLimit 0) (if bank = 0 then v.toNat else fget s .sklEpochBank0 0)
    (if bank = 1 then v.toNat else fget s .sklEpochBank1 0) bank
  have hv : (if bank = 0 then if bank = 0 then v.toNat else fget s .sklEpochBank0 0
      else if bank = 1 then v.toNat else fget s .sklEpochBank1 0) = v.toNat := by
    split
    · rfl
    · exact if_pos (by omega)
  rw [hv] at hbank
  have hkept := reports_epochWritten s (fget s .sklEpochDrainLimit 0) (if bank = 0 then v.toNat else fget s .sklEpochBank0 0)
    (if bank = 1 then v.toNat else fget s .sklEpochBank1 0)
  refine ⟨_, hrow, ?_, ?_, fun hstep => ?_, fun hstep => ?_, hkept.mem⟩
  · rw [fget_withTraffic, fget_epochWritten_limit, Nat.mod_eq_of_lt hlimit]
  · rw [epochNow, epochNow, fbit, fbit, fget_withTraffic, hkept.regs _ _ (by decide)]
  · rw [bankState_eq, fget_withTraffic, hbank, if_pos hstep]
    exact Nat.mod_eq_of_lt v.isLt
  · rw [bankState_eq, bankState_eq, fget_withTraffic, hbank, if_neg (by rw [hstep]; decide)]

end Banks

/-- Settles O36: the fabric manager's packets and an expired drain turn the epoch, and a bank takes the states its machine allows. -/
theorem epochsAndBanks : Obligations.EpochsAndBanks := ⟨epochsTurn, bankStatesFollowRule⟩

end Sys2Proof.Machine
end

section
/-! O35: what the router does with a packet, and what an endpoint does with a request and with an answer (11 R258 to R274, R282). -/

namespace Sys2Proof.Machine

section Router

variable {s u : State} {src : Ingress} {hold : Option (Port × Nat)} {p : Packet} {xoffNs : List Nat} {n : Port}

/-! ### Entering the router -/

theorem takeHeld_regs (s : State) (n : Port) (c : Nat) : (takeHeld s n c).1.regs = s.regs := by
  unfold takeHeld
  split <;> rfl

theorem fget_takeHeld (s : State) (n : Port) (c : Nat) (f : Field) (i : Nat) : fget (takeHeld s n c).1 f i = fget s f i :=
  fget_of_regs (takeHeld_regs s n c) f i

/-- A packet that enters is routed, and its buffer lets it go once it has gone. -/
theorem exec_packetRoute_enters (h : Claims.enters s u src hold p) :
    exec (.packetRoute src p xoffNs) s = .next (leaveBuffer (route u src p hold xoffNs) hold) := by
  show execPacketRoute src p xoffNs s = _
  cases src with
  | own =>
    obtain ⟨hfirst, rfl, rfl⟩ := h
    exact if_pos hfirst
  | port n =>
    obtain ⟨hheld, hlen, hends, hchan⟩ := h
    obtain ⟨rfl, rfl⟩ : u = (takeHeld s n p.chan).1 ∧ hold = (takeHeld s n p.chan).2 := Prod.mk.inj hheld
    have hgoes : ¬(2112 < p.len.toNat ∨ p.ends = false) := by simp [Nat.not_lt.mpr hlen, hends]
    have hopen : ¬(p.chan < 48 ∧ fget (takeHeld s n p.chan).1 .sklChanRes (chanIx n p.chan) = 0) := by
      rw [fget_takeHeld]
      exact fun h => hchan h.1 h.2
    simp only [execPacketRoute, fromPort, judgeHeldPacket, if_neg hgoes, if_neg hopen]

theorem exec_packetRoute_badly_ended (h : 2112 < p.len.toNat ∨ p.ends = false) : exec (.packetRoute (.port n) p xoffNs) s =
    .next (leaveBuffer (nakAt (takeHeld s n p.chan).1 p nMALFORMED n.val) (takeHeld s n p.chan).2) := by
  show execPacketRoute (.port n) p xoffNs s = _
  simp only [execPacketRoute, fromPort, judgeHeldPacket, if_pos h]

theorem exec_packetRoute_disabled (hlen : p.len.toNat ≤ 2112) (hends : p.ends = true) (hchan : p.chan < 48)
    (hres : fget s .sklChanRes (chanIx n p.chan) = 0) : exec (.packetRoute (.port n) p xoffNs) s =
      .next (leaveBuffer (nakAt (takeHeld s n p.chan).1 p nVC n.val) (takeHeld s n p.chan).2) := by
  have hgoes : ¬(2112 < p.len.toNat ∨ p.ends = false) := by simp [Nat.not_lt.mpr hlen, hends]
  have hclosed : p.chan < 48 ∧ fget (takeHeld s n p.chan).1 .sklChanRes (chanIx n p.chan) = 0 :=
    ⟨hchan, by rw [fget_takeHeld, hres]⟩
  show execPacketRoute (.port n) p xoffNs s = _
  simp only [execPacketRoute, fromPort, judgeHeldPacket, if_neg hgoes, if_pos hclosed]

/-! ### The branches of the router (R262, R268, R282) -/

theorem route_stale (h : bankState u p.epoch ≠ 2) : route u src p hold xoffNs = nakAt u p nSTALE src.num := if_pos h

theorem route_malformed (hlive : bankState u p.epoch = 2) (h : p.malformed = true) :
    route u src p hold xoffNs = nakAt u p nMALFORMED src.num := by
  simp [route, hlive, h]

theorem route_home (hlive : bankState u p.epoch = 2) (hsound : p.malformed = false) (hmc : p.mc = false)
    (hvalid : devValid u = true) (hdev : p.dstDev.toNat = devId u) :
    route u src p hold xoffNs = deliver u src.num p := by
  simp [route, hlive, hsound, hmc, hvalid, hdev]

theorem route_nowhere (hlive : bankState u p.epoch = 2) (hsound : p.malformed = false) (hmc : p.mc = false)
    (haway : ¬(devValid u = true ∧ p.dstDev.toNat = devId u)) (hout : 6 ≤ routeOf u p.epoch p.dstDev.toNat) :
    route u src p hold xoffNs = nakAt u p nUNROUTABLE src.num := by
  simp [route, hlive, hsound, hmc, haway, Nat.not_lt.mpr hout]

/-- A packet for another device goes toward its port. -/
theorem route_toward (hlive : bankState u p.epoch = 2) (hsound : p.malformed = false) (hmc : p.mc = false)
    (haway : ¬(devValid u = true ∧ p.dstDev.toNat = devId u)) (hout : routeOf u p.epoch p.dstDev.toNat = n.val) :
    route u src p hold xoffNs = if p.hoplim.toNat = 0 then nakAt u p nHOPLIMIT src.num
      else if portUp u n = false then nakAt u p nLINKDOWN src.num else forward u n p hold xoffNs := by
  simp [route, hlive, hsound, hmc, haway, hout]

/-- Where a multicast packet's entry stands. -/
def mcastIndex (p : Packet) : Nat := ofBool p.epoch * 4096 + p.dstDev.toNat % 4096

/-- The ports that a multicast packet leaves by. -/
def mcastPorts (u : State) (src : Ingress) (p : Packet) : List Port :=
  portRange.filter fun n => bit (fget u .sklMcastPorts (mcastIndex p)) n.val && src != .port n

theorem route_multicast (hlive : bankState u p.epoch = 2) (hsound : p.malformed = false) (hmc : p.mc = true) :
    route u src p hold xoffNs = if fget u .sklMcastValid (mcastIndex p) ≠ 1 then nakAt u p nUNROUTABLE src.num
      else if mcastPorts u src p ≠ [] ∧ p.hoplim.toNat = 0 then nakAt u p nHOPLIMIT src.num
      else if (mcastPorts u src p).all (portUp u) = true then (mcastPorts u src p).foldl (fun s n => forward s n p hold xoffNs)
        (if fbit u .sklMcastLocal (mcastIndex p) then deliver u src.num p else u)
      else nakAt u p nLINKDOWN src.num := by
  have hports : portRange.filter (fun n => bit (fget u .sklMcastPorts (ofBool p.epoch * 4096 + p.dstDev.toNat % 4096)) n.val &&
      src != .port n) = mcastPorts u src p := rfl
  unfold route
  rw [if_neg (not_not.mpr hlive), if_neg (by simp [hsound]), if_pos hmc]
  simp only [hports, mcastIndex, fbit, Bool.not_eq_true', beq_eq_false_iff_ne, Bool.and_eq_true, List.isEmpty_eq_false_iff,
    beq_iff_eq]

theorem routerForwards : Claims.RouterForwards := by
  refine ⟨fun s u src hold p xoffNs henters => ?_, fun s n p xoffNs =>
    ⟨exec_packetRoute_badly_ended, exec_packetRoute_disabled⟩⟩
  intro out
  have hgoes : ∀ t, route u src p hold xoffNs = t → out t := fun t ht => ht ▸ exec_packetRoute_enters henters
  refine ⟨fun hstale => hgoes _ (route_stale hstale), fun hlive hbad => hgoes _ (route_malformed hlive hbad),
    fun hlive hsound hmc => ⟨fun hvalid hdev => hgoes _ (route_home hlive hsound hmc hvalid hdev), fun haway =>
      ⟨fun hout => hgoes _ (route_nowhere hlive hsound hmc haway hout), fun n hout => ?_⟩⟩, fun hlive hsound hmc => ?_⟩
  · have hroute := route_toward (src := src) (hold := hold) (xoffNs := xoffNs) hlive hsound hmc haway hout
    refine ⟨fun hhop => hgoes _ ?_, fun hhop hdown => hgoes _ ?_, fun hhop hup => hgoes _ ?_⟩
    · rw [hroute, if_pos hhop]
    · rw [hroute, if_neg hhop, if_pos hdown]
    · rw [hroute, if_neg hhop, if_neg (by rw [hup]; decide)]
  · have hroute := route_multicast (src := src) (hold := hold) (xoffNs := xoffNs) hlive hsound hmc
    intro i ports v
    refine ⟨fun hvalid => hgoes _ ?_, fun hvalid hsome hhop => hgoes _ ?_, fun hvalid hhop hdown => hgoes _ ?_,
      fun hvalid hmay hup => hgoes _ ?_⟩
    · exact hroute.trans (if_pos hvalid)
    · exact hroute.trans ((if_neg (not_not.mpr hvalid)).trans (if_pos ⟨hsome, hhop⟩))
    · exact hroute.trans ((if_neg (not_not.mpr hvalid)).trans ((if_neg fun h => hhop h.2).trans
        (if_neg (Bool.eq_false_iff.mp hdown))))
    · exact hroute.trans ((if_neg (not_not.mpr hvalid)).trans ((if_neg fun h => hmay.elim h.1 fun hhop => hhop h.2).trans
        (if_pos hup)))

end Router

/-! ### Requests at an endpoint (R258 to R260) -/

section Requests

variable {s : State} {q : Packet}

theorem exec_write (h : Claims.arrives s q tWRITE) :
    exec (.write q) s = .next (ackTo (agentWrite s .fabric (accessPart s q) q.addr.toNat q.data) q) := by
  obtain ⟨htype, hours, hcheck⟩ := h
  show execWrite q s = _
  simp [execWrite, htype, hours, hcheck]

/-- A read that names host memory asks for it first. -/
theorem exec_read_asks {t : State} (h : Claims.arrives s q tREAD)
    (hstage : stageHost s (accessPart s q) .event [(q.addr.toNat, q.aux.toNat)] = some t) : exec (.read q) s = .next t := by
  obtain ⟨htype, hours, hcheck⟩ := h
  show execRead q s = _
  simp [execRead, htype, hours, hcheck, hstage]

theorem exec_read_answers (h : Claims.arrives s q tREAD)
    (hstage : stageHost s (accessPart s q) .event [(q.addr.toNat, q.aux.toNat)] = none) :
    let r := memRead s .fabric (accessPart s q) q.addr.toNat q.aux.toNat
    let u := unstage r.1 [(q.addr.toNat, q.aux.toNat)]
    exec (.read q) s = .next (if r.2.2 then nak u q nUNCORRECTABLE else answer u q tREADDATA 0 r.2.1) := by
  obtain ⟨htype, hours, hcheck⟩ := h
  show execRead q s = _
  simp [execRead, htype, hours, hcheck, hstage]

/-- A request to a service controller that has no command of its own is acknowledged, or its sender is refused. -/
theorem exec_svcRequest (h : Claims.arrives s q tSVC) (hop : q.aux.toNat % 256 ∉ [0x20, 0x21, 0x10, 0x12]) :
    exec (.svcRequest q) s =
      .next (if q.job = 0 ∧ ¬(q.vc.toNat = 22 ∧ isFm s q.srcDev.toNat q.srcEp.toNat = true) then nak s q nNOTOWNER else ackTo s q) := by
  obtain ⟨htype, hours, hcheck⟩ := h
  have hserved : ¬(q.type ≠ tSVC ∨ (!isForUs s q) = true ∨ [0x20, 0x21, 0x10, 0x12].contains (q.aux.toNat % 256) = true) := by
    simpa [htype, hours] using hop
  show execSvcRequest q s = _
  rw [execSvcRequest, if_neg hserved, hcheck]
  simp only [Bool.not_eq_true', ← Bool.not_eq_true, Bool.and_eq_true, beq_iff_eq]
  split <;> rfl

theorem requestsAreServed : Claims.RequestsAreServed := by
  refine fun s q => ⟨exec_write, fun h => ⟨fun t => exec_read_asks h, exec_read_answers h⟩, fun h hop =>
    ⟨fun hmay => ?_, fun hjob hmay => ?_⟩⟩
  · rw [exec_svcRequest h hop, if_neg fun hnot => hmay.elim (fun hjob => hjob hnot.1) hnot.2]
  · rw [exec_svcRequest h hop, if_pos ⟨hjob, hmay⟩]

end Requests

/-! ### Answers at the requester (R259, R274, R282) -/

section Answers

variable {s : State} {q : Packet} {type : Byte} {o : OutReq}

/-- A stray is counted, recorded and taken. -/
def strayTaken (s : State) (q : Packet) : State := doneWith (fabViol s nSTRAY (cameBy s q) q) q

/-- What an awaited answer brings. -/
def answerTaken (s : State) (q : Packet) (o : OutReq) : State := takeMark (takeData (doneWith s q) o q) q

theorem takeAnswer_unasked (h : Claims.arrives s q type) (hout : outOf s q.tag.toNat = none) :
    takeAnswer s q type = .next (strayTaken s q) := by
  obtain ⟨htype, hours, hcheck⟩ := h
  simp [takeAnswer, htype, hours, hcheck, hout, strayTaken]

theorem takeAnswer_late (h : Claims.arrives s q type) (hout : outOf s q.tag.toNat = some o) (hlate : o.quarantine ≠ 0) :
    takeAnswer s q type =
      .next (if o.quarantine = 1 then pump (dropOut (strayTaken s q) q.tag.toNat) else strayTaken s q) := by
  obtain ⟨htype, hours, hcheck⟩ := h
  have hserved : ¬(q.type ≠ type ∨ (!isForUs s q) = true) := by simp [htype, hours]
  rw [takeAnswer, if_neg hserved, hcheck]
  dsimp only
  rw [hout]
  dsimp only
  rw [if_pos hlate]
  split <;> rfl

theorem takeAnswer_awaited (h : Claims.arrives s q type) (hout : outOf s q.tag.toNat = some o) (hawaited : o.quarantine = 0) :
    takeAnswer s q type = .next (if 1 < o.leaves then { answerTaken s q o with net := { (answerTaken s q o).net with
        out := mapFirst (fun e => e.1 == q.tag.toNat) (fun _ => (q.tag.toNat, { o with leaves := o.leaves - 1 }))
          (answerTaken s q o).net.out } }
      else pump (requestOver (dropOut (answerTaken s q o) q.tag.toNat) o)) := by
  obtain ⟨htype, hours, hcheck⟩ := h
  have hserved : ¬(q.type ≠ type ∨ (!isForUs s q) = true) := by simp [htype, hours]
  rw [takeAnswer, if_neg hserved, hcheck]
  dsimp only
  rw [hout]
  dsimp only
  rw [if_neg (not_not.mpr hawaited)]
  split <;> rfl

theorem answersEndRequests : Claims.AnswersEndRequests := by
  intro s q i type hi harrives u
  have hexec : exec i s = takeAnswer s q type := by
    simp only [List.mem_cons, Prod.mk.injEq, List.not_mem_nil, or_false] at hi
    rcases hi with ⟨rfl, rfl⟩ | ⟨rfl, rfl⟩ | ⟨rfl, rfl⟩ <;> rfl
  refine ⟨fun hout => hexec.trans (takeAnswer_unasked harrives hout), fun o hout => ⟨fun hlate hdrained => ?_, fun hfenced => ?_,
    fun hawaited => ?_⟩⟩
  · rw [hexec, takeAnswer_late harrives hout hlate, if_neg hdrained]
    rfl
  · rw [hexec, takeAnswer_late harrives hout (by rw [hfenced]; decide), if_pos hfenced]
    rfl
  · rw [hexec, takeAnswer_awaited harrives hout hawaited]
    exact ⟨fun hmore => congrArg _ (if_pos hmore), fun hlast => congrArg _ (if_neg (Nat.not_lt.mpr hlast))⟩

end Answers

/-- Settles O35: the router's branches, the requests at an endpoint and the answers at the requester, one by one. -/
theorem fabricServes : Obligations.FabricServes := ⟨routerForwards, requestsAreServed, answersEndRequests⟩

end Sys2Proof.Machine
end

section
/-! O34: the choice of the grandmaster, the beacons, and the steps and slews of fabric time (11 R277 to R279). -/

namespace Sys2Proof.Machine

section Beacons

variable {s t : State} {n : Port} {b : BeaconMsg} {but : List Field}

/-! ### Who is grandmaster -/

theorem port_of_ports (h : t.ports = s.ports) (m : Port) : t.port m = s.port m := by simp [State.port, h]

/-- The device's own claim to be grandmaster follows from its priority and its ID. -/
theorem ownGm_of_kept (hr : Claims.regsKept s t but) (hpri : .sklTimeCtrlGmpri ∉ but) (hvalid : .sklDevidValid ∉ but)
    (hid : .sklDevidDevid ∉ but) : ownGm t = ownGm s := by
  unfold ownGm devValid devId fbit
  rw [hr _ _ hpri, hr _ _ hvalid, hr _ _ hid]

/-- The parent follows from that claim and from the beacons heard. -/
theorem parentPort_of_kept (hp : t.ports = s.ports) (hown : ownGm t = ownGm s) : parentPort t = parentPort s := by
  have hbest : bestPort t = bestPort s := by simp only [bestPort, port_of_ports hp]
  unfold parentPort
  rw [hbest, hown]
  simp only [port_of_ports hp]

/-- The best grandmaster is heard on the port that is chosen. -/
theorem bestPort_heard {m : Port} (h : bestPort s = some m) : (s.port m).heard = true := by
  refine List.foldlRecOn (motive := fun best : Option Port => ∀ m, best = some m → (s.port m).heard = true) portRange _
    (fun _ h => by cases h) (fun best hbest a _ m => ?_) m h
  dsimp only
  split
  · exact hbest m
  · next hgood =>
    have hheard : (s.port a).heard = true := by
      by_contra hno
      exact hgood (by simp [hno])
    split
    · exact fun ha => Option.some.inj ha ▸ hheard
    · split
      · exact fun ha => Option.some.inj ha ▸ hheard
      · exact hbest m

theorem bestPort_of_parentPort {m : Port} (h : parentPort s = some m) : bestPort s = some m := by
  unfold parentPort at h
  split at h
  · next hbest _ =>
    split at h
    · rw [hbest, h]
    · cases h
  · exact h
  · cases h

theorem parentPort_heard {m : Port} (h : parentPort s = some m) : (s.port m).heard = true :=
  bestPort_heard (bestPort_of_parentPort h)

/-! ### The choice is shown -/

/-- The fields of SKL_TIME_CTRL that show the choice. -/
def gmFields : List Field := [.sklTimeCtrlGm, .sklTimeCtrlParent, .sklTimeCtrlHops, .sklTimeCtrlGmid]

/-- SKL_TIME_CTRL shows a grandmaster. -/
def showGm (s : State) (gm parent hops gmid : Nat) : State :=
  fset (fset (fset (fset s .sklTimeCtrlGm 0 gm) .sklTimeCtrlParent 0 parent) .sklTimeCtrlHops 0 hops) .sklTimeCtrlGmid 0 gmid

theorem reports_showGm (s : State) (gm parent hops gmid : Nat) : Reports gmFields s (showGm s gm parent hops gmid) :=
  (((reports_fset _ _ _ (by decide) (by decide)).trans (reports_fset _ _ _ (by decide) (by decide))).trans
    (reports_fset _ _ _ (by decide) (by decide))).trans (reports_fset _ _ _ (by decide) (by decide))

theorem fget_showGm (s : State) (gm parent hops gmid : Nat) :
    fget (showGm s gm parent hops gmid) .sklTimeCtrlGm 0 = gm % 2 ∧
      fget (showGm s gm parent hops gmid) .sklTimeCtrlParent 0 = parent % 8 ∧
      fget (showGm s gm parent hops gmid) .sklTimeCtrlHops 0 = hops % 256 ∧
      fget (showGm s gm parent hops gmid) .sklTimeCtrlGmid 0 = gmid % 2 ^ Field.sklTimeCtrlGmid.spec.width := by
  refine ⟨?_, ?_, ?_, fget_fset_same _ _ _ _⟩
  · exact (fget_fset_other _ _ (by decide)).trans ((fget_fset_other _ _ (by decide)).trans
      ((fget_fset_other _ _ (by decide)).trans (fget_fset_same _ _ _ _)))
  · exact (fget_fset_other _ _ (by decide)).trans ((fget_fset_other _ _ (by decide)).trans (fget_fset_same _ _ _ _))
  · exact (fget_fset_other _ _ (by decide)).trans (fget_fset_same _ _ _ _)

theorem electGm_parent {m : Port} (h : parentPort s = some m) :
    electGm s = showGm s 0 m.val (min 255 ((s.port m).lastHops + 1)) (s.port m).lastGmid := by
  simp only [electGm, h, showGm]

theorem electGm_own {me : Nat × Nat} (h : parentPort s = none) (hme : ownGm s = some me) : electGm s = showGm s 1 0 0 me.2 := by
  simp only [electGm, h, hme, showGm]

theorem electGm_none (h : parentPort s = none) (hme : ownGm s = none) : electGm s = showGm s 0 0 0 0 := by
  simp only [electGm, h, hme, showGm]

/-- The choice shows one grandmaster or none, and writes nothing else. -/
theorem electGm_shows (s : State) : ∃ gm parent hops gmid, electGm s = showGm s gm parent hops gmid := by
  cases hp : parentPort s with
  | some m => exact ⟨_, _, _, _, electGm_parent hp⟩
  | none => cases hme : ownGm s with
    | some me => exact ⟨_, _, _, _, electGm_own hp hme⟩
    | none => exact ⟨_, _, _, _, electGm_none hp hme⟩

theorem reports_electGm (s : State) : Reports gmFields s (electGm s) := by
  obtain ⟨gm, parent, hops, gmid, h⟩ := electGm_shows s
  rw [h]
  exact reports_showGm _ _ _ _ _

theorem electGm_rest (s : State) : electGm s = { s with regs := (electGm s).regs } := by
  obtain ⟨gm, parent, hops, gmid, h⟩ := electGm_shows s
  rw [h]
  rfl

theorem electGm_ports (s : State) : (electGm s).ports = s.ports := by rw [electGm_rest]

theorem ownGm_electGm (s : State) : ownGm (electGm s) = ownGm s :=
  ownGm_of_kept (reports_electGm s).regs (by decide) (by decide) (by decide)

theorem parentPort_electGm (s : State) : parentPort (electGm s) = parentPort s :=
  parentPort_of_kept (electGm_ports s) (ownGm_electGm s)

theorem gmShown_electGm (s : State) : Claims.gmShown (electGm s) := by
  unfold Claims.gmShown
  rw [parentPort_electGm, ownGm_electGm]
  refine ⟨fun m hm => ?_, fun hnone => ?_⟩
  · have hlt : m.val % 8 = m.val := Nat.mod_eq_of_lt (by omega)
    obtain ⟨hgm, hparent, hhops, hgmid⟩ := fget_showGm s 0 m.val (min 255 ((s.port m).lastHops + 1)) (s.port m).lastGmid
    rw [port_of_ports (electGm_ports s), electGm_parent hm]
    exact ⟨hgm, hparent.trans hlt, hhops.trans (Nat.mod_eq_of_lt (by omega)), hgmid⟩
  · cases hme : ownGm s with
    | some me =>
      obtain ⟨hgm, hparent, hhops, hgmid⟩ := fget_showGm s 1 0 0 me.2
      rw [electGm_own hnone hme]
      exact ⟨hparent, hhops, fun me' h => Option.some.inj h ▸ ⟨hgm, hgmid⟩, fun h => by cases h⟩
    | none =>
      obtain ⟨hgm, hparent, hhops, hgmid⟩ := fget_showGm s 0 0 0 0
      rw [electGm_none hnone hme]
      exact ⟨hparent, hhops, fun me' h => (nomatch h), fun _ => ⟨hgm, hgmid.trans (Nat.zero_mod _)⟩⟩

theorem gmShown_of_kept (h : Claims.gmShown s) (hr : Claims.regsKept s t but) (hgm : ∀ f ∈ gmFields, f ∉ but)
    (hp : t.ports = s.ports) (hown : ownGm t = ownGm s) : Claims.gmShown t := by
  have hread : ∀ f ∈ gmFields, fget t f 0 = fget s f 0 := fun f hf => hr f 0 (hgm f hf)
  unfold Claims.gmShown at h ⊢
  rw [parentPort_of_kept hp hown, hown, hread _ (by decide), hread _ (by decide), hread _ (by decide), hread _ (by decide)]
  simpa only [port_of_ports hp] using h

/-! ### Steering (R279) -/

/-- The fields that a step of the counter writes. -/
def clockFields : List Field := [.sklTimeNow, .sklTimeCtrlLocked]

/-- The counter steps by an offset of twice `d` quarters of a nanosecond, and is locked from then on. -/
def stepClock (s : State) (d : Int) : State :=
  let t := (timeNow s : Int) * 1000 + s.net.slewPart + d * 125
  fset (fset { s with net := { s.net with slewPart := t % 1000 } } .sklTimeNow 0 (t / 1000).toNat) .sklTimeCtrlLocked 0 1

/-- The counter slews an offset away. -/
def slewClock (s : State) (d : Int) : State := { s with net := { s.net with slew := d * 125 } }

theorem steer_none (h : offset2 (s.port n) b = none) : steer s n b = s := by simp only [steer, h]

theorem steer_some {d : Int} (h : offset2 (s.port n) b = some d) :
    steer s n b = if fget s .sklTimeCtrlLocked 0 = 1 then slewClock s d else stepClock s d := by
  simp only [steer, h, fbit, beq_iff_eq]
  rfl

theorem regsKept_stepClock (s : State) (d : Int) : Claims.regsKept s (stepClock s d) clockFields := fun _ _ hf =>
  (regsKept_fset _ .sklTimeCtrlLocked 0 1 (by decide) _ _ hf).trans (regsKept_fset _ .sklTimeNow 0 _ (by decide) _ _ hf)

theorem steer_keeps (s : State) (n : Port) (b : BeaconMsg) :
    (steer s n b).ports = s.ports ∧ Claims.regsKept s (steer s n b) clockFields := by
  cases h : offset2 (s.port n) b with
  | none =>
    rw [steer_none h]
    exact ⟨rfl, fun _ _ _ => rfl⟩
  | some d =>
    rw [steer_some h]
    split
    · exact ⟨rfl, fun _ _ _ => rfl⟩
    · exact ⟨rfl, regsKept_stepClock s d⟩

theorem fget_stepClock (s : State) (d : Int) : fget (stepClock s d) .sklTimeCtrlLocked 0 = 1 ∧
    fget (stepClock s d) .sklTimeNow 0 = ((timeNow s * 1000 + s.net.slewPart + d * 125) / 1000).toNat % 2 ^ 64 :=
  ⟨fget_fset_same _ _ _ _, (fget_fset_other _ _ (by decide)).trans (fget_fset_same _ _ _ _)⟩

/-! ### BEACON (R277, R278) -/

/-- A port notes a beacon. -/
def beaconNoted (s : State) (n : Port) (b : BeaconMsg) : State :=
  s.setPort n { s.port n with
    heard := true, lastBseq := b.bseq.toNat, lastGmpri := b.gmpri.toNat, lastGmid := b.gmid.toNat
    lastHops := b.hops.toNat, lastRx := b.t4.toNat }

/-- A port notes a beacon, and the grandmaster is chosen anew. -/
def beaconTaken (s : State) (n : Port) (b : BeaconMsg) : State := electGm (beaconNoted s n b)

theorem exec_beacon (hup : portUp s n = true) : exec (.beacon n b) s =
    .next (if parentPort (beaconTaken s n b) = some n then steer (beaconTaken s n b) n b else beaconTaken s n b) := by
  show execBeacon n b s = _
  rw [execBeacon, hup]
  rfl

theorem beaconTaken_port (s : State) (n : Port) (b : BeaconMsg) : (beaconTaken s n b).port n = { s.port n with
    heard := true, lastBseq := b.bseq.toNat, lastGmpri := b.gmpri.toNat, lastGmid := b.gmid.toNat
    lastHops := b.hops.toNat, lastRx := b.t4.toNat } :=
  (port_of_ports (electGm_ports _) n).trans (State.port_setPort_same _ _ _)

theorem beaconTaken_net (s : State) (n : Port) (b : BeaconMsg) : (beaconTaken s n b).net = s.net := by
  rw [beaconTaken, electGm_rest]
  rfl

theorem regsKept_beaconTaken (s : State) (n : Port) (b : BeaconMsg) : Claims.regsKept s (beaconTaken s n b) gmFields :=
  (reports_electGm (beaconNoted s n b)).regs

/-- A beacon gives the offset that the port's own beacons, as they stood, make of it. -/
theorem offset2_beaconTaken (s : State) (n : Port) (b : BeaconMsg) :
    offset2 ((beaconTaken s n b).port n) b = offset2 (s.port n) b := by
  rw [beaconTaken_port]
  rfl

theorem beacon_setsTime (hup : portUp s n = true) :
    ∃ t, exec (.beacon n b) s = .next t ∧ (t.port n).heard = true ∧ (t.port n).lastGmpri = b.gmpri.toNat ∧
      (t.port n).lastGmid = b.gmid.toNat ∧ (t.port n).lastHops = b.hops.toNat ∧ (t.port n).lastBseq = b.bseq.toNat ∧
      (t.port n).lastRx = b.t4.toNat ∧ Claims.gmShown t ∧
      (parentPort t ≠ some n ∨ offset2 (s.port n) b = none →
        fget t .sklTimeNow 0 = fget s .sklTimeNow 0 ∧ t.net = s.net) ∧
      (∀ d, parentPort t = some n → offset2 (s.port n) b = some d →
        (fget s .sklTimeCtrlLocked 0 = 0 → fget t .sklTimeCtrlLocked 0 = 1 ∧
          fget t .sklTimeNow 0 = ((timeNow s * 1000 + s.net.slewPart + d * 125) / 1000).toNat % 2 ^ 64) ∧
        (fget s .sklTimeCtrlLocked 0 = 1 → fget t .sklTimeNow 0 = fget s .sklTimeNow 0 ∧
          t.net = { s.net with slew := d * 125 })) := by
  generalize hu : beaconTaken s n b = u
  have hshown : Claims.gmShown u := hu ▸ gmShown_electGm _
  have hnet : u.net = s.net := hu ▸ beaconTaken_net s n b
  have hnow : fget u .sklTimeNow 0 = fget s .sklTimeNow 0 := hu ▸ regsKept_beaconTaken s n b _ _ (by decide)
  have hlocked : fget u .sklTimeCtrlLocked 0 = fget s .sklTimeCtrlLocked 0 := hu ▸ regsKept_beaconTaken s n b _ _ (by decide)
  have hoffset : offset2 (u.port n) b = offset2 (s.port n) b := hu ▸ offset2_beaconTaken s n b
  have hexec := exec_beacon (b := b) hup
  have hport := beaconTaken_port s n b
  rw [hu] at hexec hport
  by_cases hparent : parentPort u = some n
  · obtain ⟨hports, hregs⟩ := steer_keeps u n b
    have hown : ownGm (steer u n b) = ownGm u := ownGm_of_kept hregs (by decide) (by decide) (by decide)
    have hparent' : parentPort (steer u n b) = some n := (parentPort_of_kept hports hown).trans hparent
    rw [if_pos hparent] at hexec
    refine ⟨_, hexec, ?_⟩
    rw [port_of_ports hports, hport]
    refine ⟨rfl, rfl, rfl, rfl, rfl, rfl, gmShown_of_kept hshown hregs (by decide) hports hown, fun hno => ?_,
      fun d _ hd => ?_⟩
    · rw [steer_none (hoffset.trans (hno.resolve_left (absurd hparent')))]
      exact ⟨hnow, hnet⟩
    · rw [steer_some (hoffset.trans hd), hlocked]
      refine ⟨fun hfree => ?_, fun hheld => ?_⟩
      · rw [if_neg (by rw [hfree]; decide), ← hnet, timeNow, ← hnow]
        exact fget_stepClock u d
      · rw [if_pos hheld]
        exact ⟨hnow, by rw [slewClock, hnet]⟩
  · rw [if_neg hparent] at hexec
    refine ⟨_, hexec, ?_⟩
    rw [hport]
    exact ⟨rfl, rfl, rfl, rfl, rfl, rfl, hshown, fun _ => ⟨hnow, hnet⟩, fun d h => absurd h hparent⟩

/-! ### BEACON_SEND (R277) -/

/-- A port has sent a beacon that names a grandmaster. -/
def beaconSent (s : State) (n : Port) (gm : Nat × Nat × Nat) : State :=
  sendLink (s.setPort n { s.port n with
      bseq := ((s.port n).bseq + 1) % 256
      sentT1 := tset (fun _ => 0) (s.port n).sentT1 (((s.port n).bseq + 1) % 256) ((timeQuarters s).toNat + 1) }) n
    ([3] ++ leBytes 1 gm.1 ++ leBytes 3 gm.2.1 ++ leBytes 1 gm.2.2 ++ leBytes 1 (((s.port n).bseq + 1) % 256) ++
      leBytes 1 (s.port n).lastBseq ++ leBytes 8 (timeQuarters s).toNat ++ leBytes 8 (s.port n).lastRx)

/-- The beacon names the grandmaster that the device follows, or itself. -/
theorem exec_beaconSend (hup : portUp s n = true) :
    ∃ gm, Claims.gmNamed s gm ∧ exec (.beaconSend n) s = .next (beaconSent s n gm) := by
  show ∃ gm, Claims.gmNamed s gm ∧ execBeaconSend n s = _
  simp only [execBeaconSend, hup, Claims.gmNamed]
  cases hparent : parentPort s with
  | some m => exact ⟨_, ⟨fun m' hm => Option.some.inj hm ▸ rfl, fun h => (nomatch h)⟩, rfl⟩
  | none => cases hown : ownGm s with
    | some me =>
      exact ⟨_, ⟨fun m' h => (nomatch h), fun _ => ⟨fun me' hme => Option.some.inj hme ▸ rfl, fun h => (nomatch h)⟩⟩, rfl⟩
    | none => exact ⟨_, ⟨fun m' h => (nomatch h), fun _ => ⟨fun me' h => (nomatch h), fun _ => rfl⟩⟩, rfl⟩

theorem beaconSent_port (s : State) (n : Port) (gm : Nat × Nat × Nat) : (beaconSent s n gm).port n = { s.port n with
    bseq := ((s.port n).bseq + 1) % 256
    sentT1 := tset (fun _ => 0) (s.port n).sentT1 (((s.port n).bseq + 1) % 256) ((timeQuarters s).toNat + 1) } :=
  State.port_setPort_same s n _

/-! ### GRANDMASTER_ELECTION (R278) -/

/-- A port forgets a grandmaster that it heard. -/
def forgetGm (gm : Nat × Nat) (s : State) (m : Port) : State :=
  if (s.port m).heard && ((s.port m).lastGmpri, (s.port m).lastGmid) == gm then s.setPort m { s.port m with heard := false }
  else s

theorem forgetGm_other {gm : Nat × Nat} {m k : Port} (h : k ≠ m) : (forgetGm gm s m).port k = s.port k := by
  unfold forgetGm
  split
  · exact State.port_setPort_other s _ h
  · rfl

/-- The grandmaster that a port heard last. -/
def PortX.lastGm (x : PortX) : Nat × Nat := (x.lastGmpri, x.lastGmid)

theorem forgetGm_lastGm (gm : Nat × Nat) (s : State) (m k : Port) : ((forgetGm gm s m).port k).lastGm = (s.port k).lastGm := by
  by_cases h : k = m
  · subst h
    unfold forgetGm
    split
    · rw [State.port_setPort_same]
      rfl
    · rfl
  · rw [forgetGm_other h]

/-- It does not hear that grandmaster any more. -/
theorem forgetGm_heard (gm : Nat × Nat) (s : State) (m : Port) (h : ((forgetGm gm s m).port m).lastGm = gm) :
    ((forgetGm gm s m).port m).heard = false := by
  rw [forgetGm_lastGm] at h
  unfold forgetGm
  split
  · rw [State.port_setPort_same]
  · next hkept =>
    rw [← Bool.not_eq_true]
    exact fun hheard => hkept (Bool.and_eq_true_iff.mpr ⟨hheard, beq_iff_eq.mpr h⟩)

/-- The beacons of a grandmaster are forgotten on every port. -/
def gmForgotten (s : State) (gm : Nat × Nat) : State := portRange.foldl (forgetGm gm) s

theorem gmForgotten_heard (s : State) (n : Port) : ((gmForgotten s (s.port n).lastGm).port n).heard = false := by
  have hgm : ((gmForgotten s (s.port n).lastGm).port n).lastGm = (s.port n).lastGm :=
    foldl_keeps (R := fun u v : State => (v.port n).lastGm = (u.port n).lastGm) (fun _ => rfl) (fun h h' => h'.trans h)
      (fun u m => forgetGm_lastGm _ u m n) portRange s
  refine foldl_brings (P := fun u : State => (u.port n).lastGm = (s.port n).lastGm → (u.port n).heard = false)
    (fun u m h => ?_) (List.mem_finRange n) (fun u => forgetGm_heard _ u n) s hgm
  by_cases hm : n = m
  · subst hm
    exact forgetGm_heard _ u n
  · rwa [forgetGm_other hm]

theorem exec_grandmasterElection {ns : Nat} (hparent : parentPort s = some n) (hns : 64000 ≤ ns) :
    exec (.grandmasterElection ns) s = .next (electGm (gmForgotten s (s.port n).lastGm)) := by
  show execGrandmasterElection ns s = _
  simp only [execGrandmasterElection, hparent, if_neg (Nat.not_lt.mpr hns)]
  rfl

end Beacons

/-- Settles O34: beacons are noted and sent, their silence forgotten, and the parent's alone move the counter. -/
theorem beaconsSetTime : Obligations.BeaconsSetTime := by
  refine ⟨fun s n b => beacon_setsTime, fun s n hup => ?_, fun s n ns hparent hns => ?_, fun s o us ho hus => if_pos ⟨ho, hus⟩⟩
  · obtain ⟨gm, hnamed, hexec⟩ := exec_beaconSend hup
    refine ⟨_, _, gm, hexec, by rw [beaconSent_port], rfl, rfl, hnamed, ?_, ?_, fun _ _ _ => rfl, fun m hm =>
      State.port_setPort_other s _ hm⟩
    · rfl
    · rw [beaconSent_port]
      exact tget_tset_same (fun _ => 0) (s.port n).sentT1 (((s.port n).bseq + 1) % 256) ((timeQuarters s).toNat + 1)
  · have hports := electGm_ports (gmForgotten s (s.port n).lastGm)
    have hheard : ((electGm (gmForgotten s (s.port n).lastGm)).port n).heard = false := by
      rw [port_of_ports hports, gmForgotten_heard]
    exact ⟨_, exec_grandmasterElection hparent hns, hheard, fun h => by simp [parentPort_heard h] at hheard, gmShown_electGm _⟩

end Sys2Proof.Machine
end

section
/-! What running the ports leaves alone: packets that start, flits that are sent again or counted into a buffer, and a change of a
port's state (11 R253 to R256, R271, R272). -/

namespace Sys2Proof.Machine

section PortsRunning

variable {but but' : List Field} {s t u : State} {n : Port}

/-! ### The relation -/

/-- A port but for what it holds, what waits for it, and what it sends next. -/
def PortX.standing (x : PortX) : PortX :=
  { x with
    nextTx := 0, buffer := [], flowDue := false, resent := (0, 0), queue := [], turnVc := 0, turnNew := true, flitsLeft := []
    pkts := [], received := [], rxCount := 0, rxOpen := none }

/-- Running ports keeps the registers outside `but`, memory, the supply, the hub, how each port stands, and what has been sent. -/
structure PortsRun (but : List Field) (s t : State) : Prop where
  regs : Claims.regsKept s t but
  mem : Claims.memSame s t
  pwr : t.pwr = s.pwr
  hub : t.hub = s.hub
  sent : s.sent <+: t.sent
  standing : ∀ m, (t.port m).standing = (s.port m).standing

theorem PortsRun.refl (s : State) : PortsRun but s s :=
  ⟨fun _ _ _ => rfl, ⟨rfl, rfl⟩, rfl, rfl, List.prefix_refl _, fun _ => rfl⟩

theorem PortsRun.trans (h : PortsRun but s t) (h' : PortsRun but t u) : PortsRun but s u where
  regs := Claims.regsKept_trans h.regs h'.regs
  mem := Claims.memSame_trans h.mem h'.mem
  pwr := h'.pwr.trans h.pwr
  hub := h'.hub.trans h.hub
  sent := h.sent.trans h'.sent
  standing m := (h'.standing m).trans (h.standing m)

theorem PortsRun.mono (hb : but ⊆ but') (h : PortsRun but s t) : PortsRun but' s t :=
  { h with regs := Claims.regsKept_mono hb h.regs }

theorem PortsRun.foldl {α : Type} {f : State → α → State} (step : ∀ s a, PortsRun but s (f s a)) (l : List α) (s : State) :
    PortsRun but s (l.foldl f s) := foldl_keeps PortsRun.refl PortsRun.trans step l s

theorem PortsRun.ite {P : Prop} [Decidable P] (h : PortsRun but s t) : PortsRun but s (if P then t else s) := by
  split
  · exact h
  · exact .refl s

/-- Ports that stand alike still do once one of them is given what stands alike. -/
theorem PortsRun.setPort {x y : PortX} (h : PortsRun but s t) (hxy : y.standing = x.standing) :
    PortsRun but (s.setPort n x) (t.setPort n y) where
  regs := h.regs
  mem := h.mem
  pwr := h.pwr
  hub := h.hub
  sent := h.sent
  standing m := by
    by_cases hm : m = n
    · rw [hm, State.port_setPort_same, State.port_setPort_same, hxy]
    · rw [State.port_setPort_other _ _ hm, State.port_setPort_other _ _ hm, h.standing m]

/-- What is told of how a port stands is the same of every port. -/
theorem PortsRun.get {α : Type} (h : PortsRun but s t) (g : PortX → α) (hg : ∀ x : PortX, g x.standing = g x) (m : Port) :
    g (t.port m) = g (s.port m) := by
  rw [← hg (t.port m), h.standing m, hg]

theorem PortsRun.get_set {α : Type} {x : PortX} (h : PortsRun but (s.setPort n x) t) (g : PortX → α)
    (hg : ∀ x : PortX, g x.standing = g x) : g (t.port n) = g x :=
  (h.get g hg n).trans (congrArg g (State.port_setPort_same s n x))

theorem portsRun_setPort {x : PortX} (h : x.standing = (s.port n).standing) : PortsRun but s (s.setPort n x) where
  regs _ _ _ := rfl
  mem := ⟨rfl, rfl⟩
  pwr := rfl
  hub := rfl
  sent := List.prefix_refl _
  standing m := by
    by_cases hm : m = n
    · rw [hm, State.port_setPort_same, h]
    · rw [State.port_setPort_other _ _ hm]

/-- A report keeps what running ports keeps, if it touches nothing else. -/
theorem Reports.portsRun (h : Reports but s t) (ho : Claims.outsideKept s t) (hsent : t.sent = s.sent) : PortsRun but s t := by
  obtain ⟨-, -, -, hpwr, hports, -, hhub, -⟩ := ho
  exact ⟨h.regs, h.mem, hpwr, hhub, by rw [hsent], fun m => by rw [State.port, hports]; rfl⟩

theorem portsRun_fset (s : State) (f : Field) (i v : Nat) (hf : f ∈ but) : PortsRun but s (fset s f i v) :=
  ⟨regsKept_fset s f i v hf, ⟨rfl, rfl⟩, rfl, rfl, List.prefix_refl _, fun _ => rfl⟩

theorem portsRun_emit (s : State) (o : Out) : PortsRun but s (emit s o) :=
  ⟨fun _ _ _ => rfl, ⟨rfl, rfl⟩, rfl, rfl, List.prefix_append _ _, fun _ => rfl⟩

theorem portsRun_record (s : State) (cls : Cls) (sev : Sev) (p : Option Part) (x : UnitRef) (op : OpRef) (code : Nat)
    (synd : Synd) (hf : .errLostDropped ∈ but) : PortsRun but s (record s cls sev p x op code synd) := by
  refine (reports_record _ _ _ _ _ _ _ hf).portsRun (outsideKept_record _ _ _ _ _ _ _ _) ?_
  rcases record_cases s cls sev p x op code synd with ⟨-, r, h⟩ | ⟨-, h⟩ <;> rw [h]
  rfl

theorem portsRun_linkRecord (s : State) (n : Port) (rule : Nat) (what : List Nat) (hf : .errLostDropped ∈ but) :
    PortsRun but s (linkRecord s n rule what) := portsRun_record _ _ _ _ _ _ _ _ hf

theorem linkRecord_ports (s : State) (n : Port) (rule : Nat) (what : List Nat) : (linkRecord s n rule what).ports = s.ports := by
  obtain ⟨-, -, -, -, hports, -⟩ := outsideKept_record s .fabric .info none (.port n) .none 0 (.names rule what)
  exact hports

/-! ### Flits and packets that a port sends -/

/-- The fields that show how full a port's buffers are. -/
def chanFields : List Field := [.sklChanOcc, .sklChanXoff]

theorem portsRun_sendSeq (s : State) (n : Port) (ftype : Nat) (sop : Bool) (content : Bytes) :
    PortsRun but s (sendSeq s n ftype sop content) :=
  (portsRun_setPort (by rfl)).trans (portsRun_emit _ _)

theorem portsRun_sendIdle (s : State) (n : Port) : PortsRun but s (sendIdle s n) := portsRun_emit _ _

theorem portsRun_flowOut (s : State) (n : Port) : PortsRun but s (flowOut s n) := by
  unfold flowOut
  dsimp only
  split
  · exact (portsRun_setPort (by rfl)).trans (portsRun_sendSeq _ _ _ _ _)
  · exact portsRun_setPort (by rfl)

theorem portsRun_chanFill (s : State) (n : Port) (c : Nat) : PortsRun chanFields s (chanFill s n c) := by
  have hocc := portsRun_fset s .sklChanOcc (chanIx n c) (fget s .sklChanOcc (chanIx n c) + 1) (but := chanFields) (by decide)
  unfold chanFill
  dsimp only
  split
  · exact (hocc.trans (portsRun_fset _ _ _ _ (by decide))).trans (portsRun_flowOut _ _)
  · exact hocc

theorem portsRun_chanDrain (s : State) (n : Port) (c flits : Nat) : PortsRun chanFields s (chanDrain s n c flits) := by
  have hocc := portsRun_fset s .sklChanOcc (chanIx n c) (fget s .sklChanOcc (chanIx n c) - flits) (but := chanFields) (by decide)
  unfold chanDrain
  dsimp only
  split
  · exact (hocc.trans (portsRun_fset _ _ _ _ (by decide))).trans (portsRun_flowOut _ _)
  · exact hocc

theorem portsRun_leaveBuffer (s : State) (hold : Option (Port × Nat)) : PortsRun chanFields s (leaveBuffer s hold) := by
  unfold leaveBuffer
  split
  · exact .refl s
  · split
    · exact .refl s
    · split
      · exact .refl s
      · exact (portsRun_setPort (by rfl)).trans (portsRun_chanDrain _ _ _ _)

theorem portsRun_sendPacket (s : State) (n : Port) (p : Packet) : PortsRun but s (sendPacket s n p) :=
  ((PortsRun.foldl (fun _ _ => portsRun_sendSeq _ _ _ _ _) _ s).trans (portsRun_setPort (by rfl))).trans (portsRun_emit _ _)

/-- The choice of the packet that starts next changes whose turn it is, no more. -/
theorem nextPacket_standing {p : Packet} {x : PortX} (h : nextPacket s n = some (p, x)) :
    x.standing = (s.port n).standing := by
  unfold nextPacket at h
  dsimp only at h
  split at h
  · cases h; rfl
  · split at h
    · cases h; rfl
    · split at h
      · cases h; rfl
      · cases h

theorem portsRun_portPump (n : Port) (k : Nat) : ∀ s : State, PortsRun chanFields s (portPump n k s) := by
  induction k with
  | zero => exact fun s => .refl s
  | succ k ih =>
    intro s
    unfold portPump
    split
    · exact .refl s
    · next p x hnext =>
      have hstanding : ({ x with queue := dropFirst (fun w => w.pkt == p) x.queue } : PortX).standing = (s.port n).standing :=
        nextPacket_standing (x := x) hnext
      have hchosen := portsRun_setPort (but := chanFields) hstanding
      exact ((hchosen.trans (portsRun_sendPacket _ _ _)).trans (portsRun_leaveBuffer _ _)).trans (ih _)

theorem portsRun_portRun (s : State) (n : Port) : PortsRun chanFields s (portRun s n) := by
  unfold portRun portGo
  split
  · exact (portsRun_flowOut _ _).trans (portsRun_portPump _ _ _)
  · exact portsRun_portPump _ _ _

/-! ### Flits sent again -/

/-- A held flit as it is sent again, with the acknowledgement of now. -/
def resentFlit (x : PortX) (f : Nat × Flit) : Flit :=
  mkFlit f.1 f.2.ftype.toNat ((x.expectRx + 16383) % 16384) x.gotFlit f.2.sop f.2.content

/-- Sending again changes what has been sent, no more. -/
theorem foldl_resendOne (n : Port) (l : List (Nat × Flit)) : ∀ s : State,
    l.foldl (resendOne n) s = { s with sent := s.sent ++ l.map fun f => Out.flit n (resentFlit (s.port n) f) } := by
  induction l with
  | nil => intro s; simp
  | cons f l ih =>
    intro s
    rw [List.foldl_cons, ih, List.map_cons, List.append_cons]
    rfl

/-! ### A port's state -/

theorem sent_msix (s : State) (f : Fn) (vec : Nat) : s.sent <+: (msix s f vec).sent := by
  unfold msix
  dsimp only
  split
  · exact List.prefix_refl _
  · split
    · exact List.prefix_append _ _
    · split <;> exact List.prefix_refl _

theorem portsRun_raise (s : State) (src : IrqSource) : PortsRun but s (raise s src) := by
  refine PortsRun.foldl (fun s h => ⟨(reports_msix s _ _).regs, (reports_msix (but := but) s _ _).mem, ?_, ?_, sent_msix _ _ _,
    fun m => ?_⟩) _ s
  all_goals rw [msix_rest]
  rfl

theorem raise_ports (s : State) (src : IrqSource) : (raise s src).ports = s.ports := by rw [raise_rest]

theorem portsRun_setPortState (s : State) (n : Port) (v : Nat) (hf : .sklPortStatusState ∈ but) :
    PortsRun but s (setPortState s n v) := by
  unfold setPortState
  split
  · exact .refl s
  · exact (portsRun_fset _ _ _ _ hf).trans (portsRun_raise _ _)

theorem setPortState_ports (s : State) (n : Port) (v : Nat) : (setPortState s n v).ports = s.ports := by
  unfold setPortState
  split
  · rfl
  · exact raise_ports _ _

/-- A port is in the state that it enters. -/
theorem portState_setPortState (s : State) (n : Port) {v : Nat} (hv : v < 8) : portState (setPortState s n v) n = v := by
  unfold setPortState
  split
  · assumption
  · rw [portState, (portsRun_raise (but := []) _ _).regs _ _ (by simp), fget_fset_same]
    exact Nat.mod_eq_of_lt hv

theorem PortsRun.portState_eq (h : PortsRun but s t) (hf : .sklPortStatusState ∉ but) (m : Port) :
    portState t m = portState s m := h.regs _ _ hf

/-! ### Training -/

theorem portsRun_beginTraining (s : State) (n : Port) : PortsRun [.sklPortStatusState] s (beginTraining s n) :=
  (portsRun_setPortState _ _ _ (by decide)).trans (portsRun_emit _ _)

theorem portState_beginTraining (s : State) (n : Port) : portState (beginTraining s n) n = 1 :=
  portState_setPortState s n (by decide)

theorem beginTraining_ports (s : State) (n : Port) : (beginTraining s n).ports = s.ports := setPortState_ports s n 1

/-- A port that trains says who and which it is. -/
theorem beginTraining_sends (s : State) (n : Port) : Out.link n 4 [devId s, n.val] ∈ (beginTraining s n).sent :=
  List.mem_append_right _ (List.mem_singleton.mpr rfl)

/-- A port about to train again has forgotten its resends, and a record names it. -/
def retrainRecorded (s : State) (n : Port) : State := linkRecord (s.setPort n { s.port n with resent := (0, 0) }) n 256 [n.val]

theorem portsRun_retrainRecorded (s : State) (n : Port) : PortsRun [.errLostDropped] s (retrainRecorded s n) := by
  have hforgotten : PortsRun [.errLostDropped] s (s.setPort n { s.port n with resent := (0, 0) }) := portsRun_setPort rfl
  exact hforgotten.trans (portsRun_linkRecord _ n 256 [n.val] (by decide))

theorem retrain_ports (s : State) (n : Port) : (retrain s n).ports = (s.setPort n { s.port n with resent := (0, 0) }).ports :=
  (beginTraining_ports (retrainRecorded s n) n).trans (linkRecord_ports _ _ _ _)

theorem retrain_sends (s : State) (n : Port) : Out.link n 4 [devId s, n.val] ∈ (retrain s n).sent := by
  have h := beginTraining_sends (retrainRecorded s n) n
  rwa [devId, (portsRun_retrainRecorded s n).regs _ _ (by decide)] at h

end PortsRunning

end Sys2Proof.Machine
end

section
/-! O32: flits taken in order or asked for again, and the spares that carry failed lanes (11 R251 to R256, R281). -/

namespace Sys2Proof.Machine

section Flits

variable {s t : State} {n : Port} {f : Flit}

/-! ### FLIT_RECEIVE (R254 to R256) -/

/-- A port as it stands once it has taken a flit: the next is expected, and FLOW has given the peer's XOFF state. -/
def PortX.takes (x : PortX) (f : Flit) : PortX :=
  { x with
    expectRx := (x.expectRx + 1) % 16384, gotFlit := true, retryWanted := false
    xoff := if f.ftype = 2 then field f.content 0 6 else x.xoff }

/-- A port as it stands once it has asked for the flit that it expects. -/
def PortX.asks (x : PortX) : PortX := { x with retryWanted := true }

theorem portsRun_takeAck (s : State) (n : Port) (f : Flit) : PortsRun chanFields s (takeAck s n f) := by
  unfold takeAck
  dsimp only
  split
  · exact portsRun_setPort (by rfl)
  · exact .refl s

/-- An acknowledgement is taken if the flit is sound. -/
def ackTaken (s : State) (n : Port) (f : Flit) : State := if f.crcOk && f.decoded then takeAck s n f else s

theorem portsRun_ackTaken (s : State) (n : Port) (f : Flit) : PortsRun chanFields s (ackTaken s n f) := by
  unfold ackTaken
  split
  · exact portsRun_takeAck s n f
  · exact .refl s

theorem portsRun_takeFlit (s : State) (n : Port) (f : Flit) :
    PortsRun chanFields (s.setPort n ((s.port n).takes f)) (takeFlit s n f) := by
  have hstands : ∀ y : PortX, y.standing = ((s.port n).takes f).standing →
      PortsRun chanFields (s.setPort n ((s.port n).takes f)) (s.setPort n y) := fun y hy => (PortsRun.refl s).setPort hy
  unfold takeFlit
  dsimp only
  split
  · next hflow => exact hstands _ (by simp only [PortX.takes, if_pos hflow])
  next hdata =>
  have hnext : ∀ received rxCount rxOpen, ({ s.port n with
      expectRx := ((s.port n).expectRx + 1) % 16384, gotFlit := true, retryWanted := false, received := received
      rxCount := rxCount, rxOpen := rxOpen } : PortX).standing = ((s.port n).takes f).standing := fun _ _ _ => by
    simp only [PortX.takes, if_neg hdata]
    rfl
  split
  · split
    · exact (hstands _ (hnext _ _ _)).trans (portsRun_chanFill _ _ _)
    · exact hstands _ (hnext _ _ _)
  · split
    · exact (hstands _ (hnext _ _ _)).trans (portsRun_chanFill _ _ _)
    · exact hstands _ (hnext _ _ _)

/-- The flit that is expected, whole and sound, is taken, whatever goes out besides. -/
theorem flitReceive_takes (hup : portUp s n = true) (hseq : f.ftype = 0 ∨ f.ftype = 2) (hcrc : f.crcOk = true)
    (hwhole : f.decoded = true) (hnext : f.fseq.toNat = (s.port n).expectRx) :
    ∃ t, exec (.flitReceive n f) s = .next t ∧ PortsRun chanFields (s.setPort n ((s.port n).takes f)) t := by
  have htaken : ((f.ftype == 0 || f.ftype == 2) && (f.crcOk && f.decoded) && f.fseq.toNat == (s.port n).expectRx) = true := by
    simpa [hcrc, hwhole, hnext] using hseq
  have hacked := portsRun_ackTaken s n f
  have hstands : (((ackTaken s n f).port n).takes f).standing = ((s.port n).takes f).standing :=
    hacked.get (fun x => (x.takes f).standing) (fun _ => rfl) n
  have hrun := ((hacked.setPort hstands).trans (portsRun_takeFlit _ n f)).trans (portsRun_portRun _ n)
  refine ⟨_, ?_, hrun.trans (PortsRun.ite (P := ((portRun (takeFlit (ackTaken s n f) n f) n).port n).nextTx = (s.port n).nextTx)
    (portsRun_sendIdle _ n))⟩
  show execFlitReceive n f s = _
  simp only [execFlitReceive, hup, htaken, ackTaken, Bool.not_true, Bool.false_eq_true, if_false, if_true, Bool.true_and,
    beq_iff_eq]
  rfl

theorem portsRun_askRetry (s : State) (n : Port) :
    PortsRun [.sklLinkTallyRetry] (s.setPort n (s.port n).asks) (askRetry s n) :=
  (portsRun_emit _ _).trans (portsRun_fset _ _ _ _ (by decide))

theorem askRetry_sends (s : State) (n : Port) : Out.link n 1 [(s.port n).expectRx] ∈ (askRetry s n).sent :=
  List.mem_append_right _ (List.mem_singleton.mpr rfl)

/-- A damaged or unexpected sequenced flit is discarded, and the flit that is expected is asked for. -/
theorem exec_flitReceive_asks (hup : portUp s n = true) (hseq : f.ftype = 0 ∨ f.ftype = 2)
    (hbad : f.crcOk = false ∨ f.decoded = false ∨ f.fseq.toNat ≠ (s.port n).expectRx) (hasked : (s.port n).retryWanted = false) :
    exec (.flitReceive n f) s = .next (portRun (askRetry (ackTaken s n f) n) n) := by
  have htaken : ((f.ftype == 0 || f.ftype == 2) && (f.crcOk && f.decoded) && f.fseq.toNat == (s.port n).expectRx) = false := by
    rcases hbad with h | h | h <;> simp [h]
  have hwanted : ((ackTaken s n f).port n).retryWanted = false :=
    ((portsRun_ackTaken s n f).get PortX.retryWanted (fun _ => rfl) n).trans hasked
  have hasks : (f.ftype = 0 ∨ f.ftype = 2) ∧ ((if f.crcOk && f.decoded then takeAck s n f else s).port n).retryWanted = false :=
    ⟨hseq, hwanted⟩
  show execFlitReceive n f s = _
  simp only [execFlitReceive, hup, htaken, ackTaken, Bool.not_true, Bool.false_eq_true, if_false, Bool.false_and, if_pos hasks]

theorem flitReceive_asks (hup : portUp s n = true) (hseq : f.ftype = 0 ∨ f.ftype = 2)
    (hbad : f.crcOk = false ∨ f.decoded = false ∨ f.fseq.toNat ≠ (s.port n).expectRx) (hasked : (s.port n).retryWanted = false) :
    ∃ t, exec (.flitReceive n f) s = .next t ∧ (t.port n).expectRx = (s.port n).expectRx ∧
      (t.port n).retryWanted = true ∧ Out.link n 1 [(s.port n).expectRx] ∈ t.sent ∧
      fget t .sklLinkTallyRetry n.val =
        satAdd Field.sklLinkTallyRetry.spec.width (fget s .sklLinkTallyRetry n.val) 1 := by
  have hacked := portsRun_ackTaken s n f
  have hexpect : ((ackTaken s n f).port n).expectRx = (s.port n).expectRx :=
    hacked.get PortX.expectRx (fun _ => rfl) n
  have hask := portsRun_askRetry (ackTaken s n f) n
  have hrun := portsRun_portRun (askRetry (ackTaken s n f) n) n
  refine ⟨_, exec_flitReceive_asks hup hseq hbad hasked,
    ((hrun.get PortX.expectRx (fun _ => rfl) n).trans (hask.get_set PortX.expectRx fun _ => rfl)).trans hexpect,
    (hrun.get PortX.retryWanted (fun _ => rfl) n).trans (hask.get_set PortX.retryWanted fun _ => rfl),
    hrun.sent.subset (hexpect ▸ askRetry_sends (ackTaken s n f) n), ?_⟩
  rw [hrun.regs _ _ (by decide), askRetry, fget_fbump_same]
  exact congrArg (min · _) (congrArg (· + 1) (hacked.regs .sklLinkTallyRetry n.val (by decide)))

/-! ### RETRY (R255, R256) -/

/-- How often a port has resent from a flit, counting this time. -/
def resentCount (x : PortX) (q : Nat) : Nat := if x.resent.1 = q then x.resent.2 + 1 else 1

/-- A port has sent every flit from `q` on again. -/
def resentFrom (s : State) (n : Port) (q : Nat) : State :=
  { s.setPort n { s.port n with resent := (q, resentCount (s.port n) q) } with
    sent := s.sent ++ ((s.port n).buffer.dropWhile (·.1 != q)).map fun f => Out.flit n (resentFlit (s.port n) f) }

theorem resentFrom_port (s : State) (n : Port) (q : Nat) :
    (resentFrom s n q).port n = { s.port n with resent := (q, resentCount (s.port n) q) } := State.port_setPort_same s n _

theorem resendFrom_eq (s : State) (n : Port) (q : Nat) :
    resendFrom (s.setPort n { s.port n with resent := (q, resentCount (s.port n) q) }) n q = resentFrom s n q := by
  rw [resendFrom, State.port_setPort_same, foldl_resendOne, State.port_setPort_same]
  rfl

theorem exec_retry {q : BitVec 14} (hup : portUp s n = true) (hheld : ∃ f, (q.toNat, f) ∈ (s.port n).buffer) :
    exec (.retry n q) s = .next (if 16 ≤ resentCount (s.port n) q.toNat then retrain (resentFrom s n q.toNat) n
      else resentFrom s n q.toNat) := by
  obtain ⟨f, hf⟩ := hheld
  have hany : (s.port n).buffer.any (fun e => e.1 == q.toNat) = true := List.any_eq_true.mpr ⟨_, hf, beq_self_eq_true _⟩
  rw [← resendFrom_eq]
  show execRetry n q s = _
  simp only [execRetry, hup, hany]
  rfl

theorem flitsAreTakenInOrder : Claims.FlitsAreTakenInOrder := by
  refine fun s n hup => ⟨fun f hseq => ⟨fun hcrc hwhole hnext => ?_, flitReceive_asks hup hseq⟩, fun ns hasked hns => ?_,
    fun q hheld => ⟨fun hfew => ?_, fun hsame hoften => ?_⟩, fun x => ?_⟩
  · obtain ⟨t, hexec, hrun⟩ := flitReceive_takes hup hseq hcrc hwhole hnext
    exact ⟨t, hexec, hrun.get_set PortX.expectRx fun _ => rfl, hrun.get_set PortX.gotFlit fun _ => rfl,
      hrun.get_set PortX.retryWanted fun _ => rfl, fun hflow => (hrun.get_set PortX.xoff fun _ => rfl).trans (if_pos hflow)⟩
  · show execRetryRepeat n ns s = _
    simp [execRetryRepeat, hup, hasked, hns]
  · have hcount : ¬16 ≤ resentCount (s.port n) q.toNat := by
      unfold resentCount
      split <;> omega
    refine ⟨_, (exec_retry hup hheld).trans (congrArg _ (if_neg hcount)), ?_, ?_, fun _ _ _ => rfl, rfl⟩
    · rw [resentFrom_port]
    · rw [resentFrom_port, resentCount]
  · have hcount : 16 ≤ resentCount (s.port n) q.toNat := by
      rw [resentCount, if_pos hsame]
      omega
    refine ⟨_, (exec_retry hup hheld).trans (congrArg _ (if_pos hcount)), portState_beginTraining _ n, ?_⟩
    rw [State.port, retrain_ports]
    exact congrArg PortX.resent (State.port_setPort_same (resentFrom s n q.toNat) n _)
  · have hrun := portsRun_portRun (s.setPort n { s.port n with xoff := x.toNat }) n
    refine ⟨_, ?_, hrun.get_set PortX.xoff fun _ => rfl, hrun.mem⟩
    show execFlow n x s = _
    exact if_pos hup

end Flits

/-! ### Sets of lanes -/

theorem mem_keys_tput {α : Type} (t : List (Nat × α)) (k : Nat) (v : α) (j : Nat) :
    j ∈ (tput t k v).map (·.1) ↔ j = k ∨ j ∈ t.map (·.1) := by
  induction t with
  | nil => simp [tput]
  | cons e t ih =>
    simp only [tput]
    split
    · simp only [List.map_cons, List.mem_cons, ih]
      tauto
    · split
      · next he => simp [he]
      · simp

theorem mem_keys_foldl_tset (l : List Nat) (j : Nat) : ∀ t : List (Nat × Bool),
    j ∈ (l.foldl (fun t k => tset (fun _ => false) t k true) t).map (·.1) ↔ j ∈ l ∨ j ∈ t.map (·.1) := by
  induction l with
  | nil => simp
  | cons k l ih =>
    intro t
    have hput : tset (fun _ => false) t k true = tput t k true := if_neg (by simp)
    rw [List.foldl_cons, ih, hput, mem_keys_tput, List.mem_cons]
    tauto

theorem mem_sortSet (l : List Nat) (j : Nat) : j ∈ sortSet l ↔ j ∈ l := by
  rw [sortSet, mem_keys_foldl_tset]
  simp

theorem contains_sortSet_cons (a : Nat) (l : List Nat) (j : Nat) :
    (sortSet (a :: l)).contains j = (j == a || l.contains j) := by
  rw [Bool.eq_iff_iff]
  simp [mem_sortSet]

section Lanes

variable {s : State} {n : Port} {lane : Fin 34} {lost : Bool} {skew corrected : Nat} {cwc : BitVec 10}

/-! ### LANE_FAIL (R251, R252) -/

/-- A port that has found a lane bad. -/
def PortX.losesLane (x : PortX) (lane : Nat) : PortX := { x with badRx := sortSet (lane :: x.badRx) }

/-- A port that has asked for a spare for a logical lane. -/
def PortX.asksSpare (x : PortX) (l k count : Nat) : PortX :=
  { x with swapsRx := (x.swapsRx.filter fun w => w.active || w.lane != l) ++ [{ lane := l, spare := k, count := count, active := false }] }

/-- Which spare a port finds free for a lane that has failed. -/
def spareFor (x : PortX) (lane : Nat) : Option Nat := [0, 1].find? (Claims.spareIsFree x lane)

/-- The corrected symbols of a lane are counted. -/
def csymCounted (s : State) (n : Port) (corrected : Nat) : State := fbump s .sklLinkTallyCsym n.val corrected

theorem fget_csymCounted {f : Field} (i : Nat) (h : f ≠ .sklLinkTallyCsym) :
    fget (csymCounted s n corrected) f i = fget s f i := fget_fset_other s _ fun hf => h hf.1

theorem exec_laneFail_sound (hup : portUp s n = true) (hlost : lost = false) (hskew : skew ≤ 16)
    (hfew : corrected ≤ fget s .sklPortCtrlSpthr n.val) :
    exec (.laneFail n lane lost skew corrected cwc) s = .next (csymCounted s n corrected) := by
  have hthreshold := fget_csymCounted (s := s) (n := n) (corrected := corrected) (f := .sklPortCtrlSpthr) n.val (by decide)
  rw [csymCounted] at hthreshold
  show execLaneFail n lane lost skew corrected cwc s = _
  simp [execLaneFail, hup, hlost, hthreshold, Nat.not_lt.mpr hskew, Nat.not_lt.mpr hfew, csymCounted]

/-- What the failure of a lane that carries `l` makes of its port. -/
def spareAsked (s : State) (n : Port) (lane l count : Nat) : State :=
  match spareFor (s.port n) lane, sparesOn s with
  | some k, true => emit (s.setPort n (((s.port n).losesLane lane).asksSpare l k count)) (.link n 2 [l, k, count])
  | _, _ => retrain (s.setPort n ((s.port n).losesLane lane)) n

/-- What the failure of a lane makes of its port. -/
def laneLost (s : State) (n : Port) (lane count : Nat) : State :=
  match laneCarried (s.port n) lane with
  | none => s.setPort n ((s.port n).losesLane lane)
  | some l => spareAsked s n lane l count

/-- The receiver looks for a spare that is free once the failed lane is among the bad ones. -/
theorem find?_free (x : PortX) (lane : Nat) : ([0, 1].find? fun k =>
    !(x.losesLane lane).badRx.contains ((x.losesLane lane).fibre (32 + k)) &&
      !(x.losesLane lane).lanesRx.contains ((x.losesLane lane).fibre (32 + k)) &&
      !(x.losesLane lane).swapsRx.any fun w => w.spare == k) = spareFor x lane := by
  refine congrArg (List.find? · _) (funext fun k => ?_)
  have hbad : (x.losesLane lane).badRx.contains (x.fibre (32 + k)) = (x.fibre (32 + k) == lane || x.badRx.contains (x.fibre (32 + k))) :=
    contains_sortSet_cons _ _ _
  show (!(x.losesLane lane).badRx.contains (x.fibre (32 + k)) && _ && _) = _
  rw [hbad, Bool.not_or]
  rfl

theorem exec_laneFail_lost (hup : portUp s n = true)
    (hbad : lost = true ∨ 16 < skew ∨ fget s .sklPortCtrlSpthr n.val < corrected) (hnew : lane.val ∉ (s.port n).badRx) :
    exec (.laneFail n lane lost skew corrected cwc) s =
      .next (laneLost (csymCounted s n corrected) n lane.val ((cwc.toNat + 64) % 1024)) := by
  generalize hu : csymCounted s n corrected = u
  have hport : u.port n = s.port n := hu ▸ rfl
  have hthreshold : fget u .sklPortCtrlSpthr n.val = fget s .sklPortCtrlSpthr n.val := hu ▸ fget_csymCounted _ (by decide)
  have hfails : ¬((!(lost || decide (16 < skew) || decide (fget u .sklPortCtrlSpthr n.val < corrected)) ||
      (u.port n).badRx.contains lane.val) = true) := by
    rw [hthreshold, hport]
    simp only [Bool.or_eq_true, Bool.not_eq_true', Bool.or_eq_false_iff, decide_eq_false_iff_not, List.contains_iff_mem, hnew,
      or_false]
    rintro ⟨⟨hlost, hskew⟩, hmany⟩
    exact hbad.elim (by simp [hlost]) (·.elim hskew hmany)
  show execLaneFail n lane lost skew corrected cwc s = _
  unfold execLaneFail
  rw [hup, if_neg (by decide), show fbump s .sklLinkTallyCsym n.val corrected = u from hu]
  dsimp only
  rw [if_neg hfails]
  unfold laneLost
  split
  · next hcarried =>
    rw [show laneCarried (u.port n) lane.val = none from hcarried]
    rfl
  · next l hcarried =>
    rw [show laneCarried (u.port n) lane.val = some l from hcarried]
    dsimp only
    unfold spareAsked
    split
    · next k hfree hon =>
      rw [show spareFor (u.port n) lane.val = some k from (find?_free _ _).symm.trans hfree, hon]
      rfl
    · next hnone =>
      split
      · next k hfree hon => exact (hnone k ((find?_free _ _).trans hfree) hon).elim
      · rfl

theorem laneLost_idle {lane count : Nat} (h : laneCarried (s.port n) lane = none) :
    laneLost s n lane count = s.setPort n ((s.port n).losesLane lane) := by
  simp only [laneLost, h]

theorem laneLost_spare {lane count l k : Nat} (h : laneCarried (s.port n) lane = some l) (hk : spareFor (s.port n) lane = some k)
    (hon : sparesOn s = true) : laneLost s n lane count =
      emit (s.setPort n (((s.port n).losesLane lane).asksSpare l k count)) (.link n 2 [l, k, count]) := by
  simp only [laneLost, h, spareAsked, hk, hon]

theorem laneLost_retrains {lane count l : Nat} (h : laneCarried (s.port n) lane = some l)
    (hno : spareFor (s.port n) lane = none ∨ sparesOn s = false) :
    laneLost s n lane count = retrain (s.setPort n ((s.port n).losesLane lane)) n := by
  simp only [laneLost, h, spareAsked]
  split
  · next hk hon => simp [hk, hon] at hno
  · rfl

/-! ### Requests for spares (R251) -/

theorem exec_laneswap {logical : Fin 32} {spare : Fin 2} {count : BitVec 10} (hup : portUp s n = true) (hon : sparesOn s = true)
    (hfree : (s.port n).lanesTx.contains (32 + spare.val) = false)
    (hunasked : (s.port n).swapsTx.any (fun w => w.spare == spare.val) = false) :
    exec (.laneswap n logical spare count) s = .next (s.setPort n { s.port n with
      swapsTx := ((s.port n).swapsTx.filter fun w => w.active || w.lane != logical.val) ++
        [{ lane := logical.val, spare := spare.val, count := count.toNat, active := false }] }) := by
  show execLaneswap n logical spare count s = _
  unfold execLaneswap
  dsimp only
  rw [hup, hon, hfree, hunasked]
  rfl

theorem foldl_emit {α : Type} (g : α → Out) (l : List α) : ∀ s : State,
    l.foldl (fun s a => emit s (g a)) s = { s with sent := s.sent ++ l.map g } := by
  induction l with
  | nil => intro s; simp
  | cons a l ih =>
    intro s
    rw [List.foldl_cons, ih, List.map_cons, List.append_cons]
    rfl

theorem exec_laneswapRepeat {ns : Nat} (hup : portUp s n = true) (hns : 4000 ≤ ns) :
    exec (.laneswapRepeat n ns) s = .next { s with
      sent := s.sent ++ ((s.port n).swapsRx.filter fun w => !w.active).map fun w => Out.link n 2 [w.lane, w.spare, w.count] } := by
  show execLaneswapRepeat n ns s = _
  rw [execLaneswapRepeat, if_pos ⟨hup, hns⟩, foldl_emit]

/-! ### LANE_SWITCH (R251) -/

/-- The lane that a spare carries, and whether it carries one. -/
def shownLane (l : List SwapX) (k : Nat) : Nat := ((l.find? fun w => w.spare == k && w.active).map (·.lane)).getD 0

def shownEn (l : List SwapX) (k : Nat) : Bool := (l.find? fun w => w.spare == k && w.active).isSome

/-- SKL_SPARE_MAP shows one spare of a direction. -/
def showSpare (s : State) (n : Port) (tx : Bool) (l : List SwapX) (k : Nat) : State :=
  fset (fset s (Claims.spareFields tx k).1 n.val (shownLane l k)) (Claims.spareFields tx k).2 n.val (ofBool (shownEn l k))

theorem setSpareMap_eq (s : State) (n : Port) (tx : Bool) (k lane : Nat) (en : Bool) : setSpareMap s n tx k lane en =
    fset (fset s (Claims.spareFields tx k).1 n.val lane) (Claims.spareFields tx k).2 n.val (ofBool en) := by
  cases tx <;> cases k <;> rfl

theorem showSpares_eq (s : State) (n : Port) (tx : Bool) : showSpares s n tx =
    showSpare (showSpare s n tx (Claims.swaps (s.port n) tx) 0) n tx (Claims.swaps (s.port n) tx) 1 := by
  have hone : ∀ (u : State) (l : List SwapX) (k : Nat), (match l.find? fun w => w.spare == k && w.active with
      | some w => setSpareMap u n tx k w.lane true
      | none => setSpareMap u n tx k 0 false) = showSpare u n tx l k := fun u l k => by
    unfold showSpare shownLane shownEn
    split
    · next w hw => rw [hw, setSpareMap_eq]; rfl
    · next hw => rw [hw, setSpareMap_eq]; rfl
  rw [← hone, ← hone]
  rfl

theorem showSpares_rest (s : State) (n : Port) (tx : Bool) : showSpares s n tx = { s with regs := (showSpares s n tx).regs } := by
  rw [showSpares_eq]
  rfl

/-- The fields of SKL_SPARE_MAP of one direction. -/
def spareMapFields (tx : Bool) : List Field :=
  [0, 1].flatMap fun k => [(Claims.spareFields tx k).1, (Claims.spareFields tx k).2]

theorem regsKept_showSpare (s : State) (n : Port) (tx : Bool) (l : List SwapX) (k : Fin 2) :
    Claims.regsKept s (showSpare s n tx l k.val) (spareMapFields tx) := by
  have hlane : (Claims.spareFields tx k.val).1 ∈ spareMapFields tx := by cases tx <;> fin_cases k <;> decide
  have hen : (Claims.spareFields tx k.val).2 ∈ spareMapFields tx := by cases tx <;> fin_cases k <;> decide
  exact Claims.regsKept_trans (regsKept_fset s _ _ _ hlane) (regsKept_fset _ _ _ _ hen)

theorem regsKept_showSpares (s : State) (n : Port) (tx : Bool) : Claims.regsKept s (showSpares s n tx) (spareMapFields tx) := by
  rw [showSpares_eq]
  exact Claims.regsKept_trans (regsKept_showSpare s n tx _ 0) (regsKept_showSpare _ n tx _ 1)

theorem fget_showSpare_same (s : State) (n : Port) (tx : Bool) (l : List SwapX) (k : Fin 2) :
    fget (showSpare s n tx l k.val) (Claims.spareFields tx k.val).2 n.val = ofBool (shownEn l k.val) ∧
      fget (showSpare s n tx l k.val) (Claims.spareFields tx k.val).1 n.val =
        shownLane l k.val % 2 ^ (Claims.spareFields tx k.val).1.spec.width := by
  have hne : (Claims.spareFields tx k.val).1 ≠ (Claims.spareFields tx k.val).2 := by cases tx <;> fin_cases k <;> decide
  have hwidth : (Claims.spareFields tx k.val).2.spec.width = 1 := by cases tx <;> fin_cases k <;> rfl
  constructor
  · rw [showSpare, fget_fset_same, hwidth]
    cases shownEn l k.val <;> rfl
  · rw [showSpare, fget_fset_other _ _ fun h => hne h.1, fget_fset_same]

/-- SKL_SPARE_MAP shows for each spare whether it carries a lane, and which. -/
theorem fget_showSpares (s : State) (n : Port) (tx : Bool) (k : Fin 2) :
    fget (showSpares s n tx) (Claims.spareFields tx k.val).2 n.val = ofBool (shownEn (Claims.swaps (s.port n) tx) k.val) ∧
      fget (showSpares s n tx) (Claims.spareFields tx k.val).1 n.val =
        shownLane (Claims.swaps (s.port n) tx) k.val % 2 ^ (Claims.spareFields tx k.val).1.spec.width := by
  rw [showSpares_eq]
  match k with
  | 0 =>
    have hother : ∀ (u : State) (l : List SwapX) (f : Field), f = (Claims.spareFields tx 0).1 ∨ f = (Claims.spareFields tx 0).2 →
        fget (showSpare u n tx l 1) f n.val = fget u f n.val := by
      intro u l f hf
      have hne : f ≠ (Claims.spareFields tx 1).1 ∧ f ≠ (Claims.spareFields tx 1).2 := by
        rcases hf with rfl | rfl <;> cases tx <;> decide
      rw [showSpare, fget_fset_other _ _ fun h => hne.2 h.1, fget_fset_other _ _ fun h => hne.1 h.1]
    obtain ⟨hen, hlane⟩ := fget_showSpare_same s n tx (Claims.swaps (s.port n) tx) 0
    exact ⟨(hother _ _ _ (.inr rfl)).trans hen, (hother _ _ _ (.inl rfl)).trans hlane⟩
  | 1 => exact fget_showSpare_same _ n tx _ 1

/-- A substitution in force is the one that its spare shows, when no other lane was on that spare. -/
theorem find?_swapOn {l : List SwapX} {w : SwapX} (h : ∀ y ∈ l, y.spare = w.spare → y.active = true → y.lane = w.lane) :
    (swapOn l w).find? (fun y => y.spare == w.spare && y.active) = some { w with active := true } := by
  have hnone : (l.filter fun y => y.lane != w.lane).find? (fun y => y.spare == w.spare && y.active) = none := by
    refine List.find?_eq_none.mpr fun y hy hshown => ?_
    obtain ⟨hmem, hlane⟩ := List.mem_filter.mp hy
    obtain ⟨hspare, hactive⟩ := Bool.and_eq_true_iff.mp hshown
    exact (bne_iff_ne.mp hlane) (h y hmem (beq_iff_eq.mp hspare) hactive)
  rw [swapOn, List.find?_append, hnone]
  simp

/-- A port once a substitution has taken force. -/
def PortX.switches (x : PortX) (tx : Bool) (w : SwapX) : PortX :=
  if tx then { x with swapsTx := swapOn x.swapsTx w, lanesTx := setAt x.lanesTx w.lane (32 + w.spare) }
  else { x with swapsRx := swapOn x.swapsRx w, lanesRx := setAt x.lanesRx w.lane (x.fibre (32 + w.spare)) }

theorem exec_laneSwitch {tx : Bool} {spare : Fin 2} {w : SwapX} (hup : portUp s n = true)
    (hw : (Claims.swaps (s.port n) tx).find? (fun w => w.spare == spare.val && !w.active && w.count == cwc.toNat) = some w) :
    exec (.laneSwitch n tx spare cwc) s = .next (showSpares (s.setPort n ((s.port n).switches tx w)) n tx) := by
  unfold Claims.swaps at hw
  show execLaneSwitch n tx spare cwc s = _
  unfold execLaneSwitch
  dsimp only
  rw [hup, hw]
  cases tx <;> rfl

theorem sparesCarryLanes : Claims.SparesCarryLanes := by
  refine fun s n hup => ⟨fun lane lost skew corrected cwc => ⟨fun hlost hskew hfew => ?_, fun hbad hnew => ?_⟩,
    fun logical spare count hon hfree hunasked => ?_, fun ns hns => ?_, fun tx spare cwc w hw => ?_⟩
  · refine ⟨_, exec_laneFail_sound hup hlost hskew hfew, rfl, rfl, regsKept_fset s _ _ _ (by decide), ?_⟩
    exact fget_fbump_same s _ _ _
  · have hexec := exec_laneFail_lost (lane := lane) (cwc := cwc) hup hbad hnew
    have hon : sparesOn (csymCounted s n corrected) = sparesOn s := by
      rw [sparesOn, sparesOn, fget_csymCounted _ (by decide)]
    refine ⟨fun hidle => ?_, fun l hl => ⟨fun k hk hspares => ?_, fun hno => ?_⟩⟩
    · rw [laneLost_idle (s := csymCounted s n corrected) hidle] at hexec
      exact ⟨_, hexec, rfl, State.port_setPort_same _ _ _⟩
    · rw [laneLost_spare (s := csymCounted s n corrected) hl hk (hon.trans hspares)] at hexec
      exact ⟨_, hexec, State.port_setPort_same _ n _, rfl⟩
    · rw [laneLost_retrains (s := csymCounted s n corrected) hl (hno.imp id fun h => hon.trans h)] at hexec
      have hsent := retrain_sends ((csymCounted s n corrected).setPort n ((s.port n).losesLane lane.val)) n
      have hid : devId ((csymCounted s n corrected).setPort n ((s.port n).losesLane lane.val)) = devId s :=
        fget_csymCounted _ (by decide)
      rw [hid] at hsent
      exact ⟨_, hexec, portState_beginTraining _ n, hsent⟩
  · refine ⟨_, exec_laneswap hup hon hfree hunasked, ?_, fun _ _ _ => rfl, fun m hm => State.port_setPort_other s _ hm⟩
    rw [State.port_setPort_same]
  · exact ⟨_, exec_laneswapRepeat hup hns, rfl, fun _ _ _ => rfl, rfl⟩
  · have hspare : w.spare = spare.val := by
      have hfound := List.find?_some hw
      simp only [Bool.and_eq_true, beq_iff_eq] at hfound
      exact hfound.1.1
    have hport : (showSpares (s.setPort n ((s.port n).switches tx w)) n tx).port n = (s.port n).switches tx w := by
      rw [showSpares_rest]
      exact State.port_setPort_same s n _
    have hswaps : Claims.swaps ((s.port n).switches tx w) tx = swapOn (Claims.swaps (s.port n) tx) w := by cases tx <;> rfl
    refine ⟨_, exec_laneSwitch hup hw, ?_⟩
    rw [hport]
    refine ⟨hswaps, by cases tx <;> rfl, by cases tx <;> rfl, by cases tx <;> rfl, regsKept_showSpares _ n tx, fun halone => ?_⟩
    have hshown := find?_swapOn halone
    obtain ⟨hen, hlane⟩ := fget_showSpares (s.setPort n ((s.port n).switches tx w)) n tx spare
    rw [State.port_setPort_same, hswaps] at hen hlane
    rw [hspare] at hshown
    rw [shownEn, hshown] at hen
    rw [shownLane, hshown] at hlane
    exact ⟨hen, hlane⟩

end Lanes

/-- Settles O32: flits are taken in order or asked for again, and a failed lane goes to a free spare. -/
theorem linksCarryFlits : Obligations.LinksCarryFlits := ⟨flitsAreTakenInOrder, sparesCarryLanes⟩

end Sys2Proof.Machine
end

section
/-! O33: how a port trains, is lost, is enabled and is reset (11 R249, R250, R273, R276; 16 R392). -/

namespace Sys2Proof.Machine

section PortsTraining

variable {but : List Field} {s t : State} {n m : Port}

/-! ### Light (R249) -/

/-- A port lights whether its optics are on, as the supply, the hub and its own EN say. -/
theorem PortsRun.opticsOn_eq (h : PortsRun but s t) (hpstate : .pwrStatusPstate ∉ but) (hen : .sklPortCtrlEn ∉ but)
    (hstage : .pwrStatusStage ∉ but) (n : Port) : opticsOn t n = opticsOn s n := by
  unfold opticsOn fabricOn hubOn fbit
  rw [h.pwr, h.hub, h.regs _ _ hpstate, h.regs _ _ hen, h.regs _ _ hstage]

theorem portsRun_lightUp (s : State) (n : Port) : PortsRun [.sklPortStatusState] s (lightUp s n) :=
  PortsRun.ite (portsRun_beginTraining s n)

/-- A port that is DOWN trains if it has light and its optics are on. -/
theorem portState_lightUp (hdown : portState s n = 0) :
    portState (lightUp s n) n = if (s.port n).light = true ∧ opticsOn s n = true then 1 else 0 := by
  unfold lightUp
  simp only [hdown, true_and]
  split
  · exact portState_beginTraining s n
  · exact hdown

theorem lightUp_ports (s : State) (n : Port) : (lightUp s n).ports = s.ports := by
  unfold lightUp
  split
  · exact beginTraining_ports s n
  · rfl

/-! ### A port that is lost (R276) -/

/-- A port as it stands once its link is lost. -/
def PortX.lost (x : PortX) : PortX :=
  { x with
    nextTx := 0, expectRx := 0, retryWanted := false, resent := (0, 0), buffer := [], xoff := 0, flowDue := false
    queue := [], pkts := [], gotFlit := false, received := [], rxOpen := none, sentT1 := [], heard := false }

theorem portsRun_net (s : State) (x : NetX) : PortsRun but s { s with net := x } :=
  ⟨fun _ _ _ => rfl, ⟨rfl, rfl⟩, rfl, rfl, List.prefix_refl _, fun _ => rfl⟩

/-- The fields that a violation writes. -/
def violFields : List Field := [.sklViolTallyCount, .errLostDropped]

theorem portsRun_fabViol (s : State) (code port : Nat) (q : Packet) : PortsRun violFields s (fabViol s code port q) := by
  have hcounted := portsRun_fset s .sklViolTallyCount code (satAdd Field.sklViolTallyCount.spec.width
    (fget s .sklViolTallyCount code) 1) (but := violFields) (by decide)
  unfold fabViol
  dsimp only
  split
  · exact hcounted
  · exact (hcounted.trans (portsRun_net _ _)).trans (portsRun_record _ _ _ _ _ _ _ _ (by decide))

theorem fabViol_ports (s : State) (code port : Nat) (q : Packet) : (fabViol s code port q).ports = s.ports := by
  unfold fabViol
  dsimp only
  split
  · rfl
  · obtain ⟨-, -, -, -, hports, -⟩ := outsideKept_record _ .fabric .info none _ _ _ _
    exact hports

theorem sendNak_cases (s : State) (q : Packet) (code : Nat) : ∃ x, sendNak s q code = { s with net := x } := by
  unfold sendNak
  dsimp only
  generalize (if code = nSTALE then epochNow s else q.epoch) = e
  split
  · exact ⟨s.net, rfl⟩
  · split
    · exact ⟨_, rfl⟩
    · exact ⟨s.net, rfl⟩

theorem portsRun_nakAt (s : State) (q : Packet) (code port : Nat) : PortsRun violFields s (nakAt s q code port) := by
  obtain ⟨x, hx⟩ := sendNak_cases (fabViol s code port q) q code
  rw [nakAt, hx]
  exact (portsRun_fabViol s code port q).trans (portsRun_net _ x)

theorem nakAt_ports (s : State) (q : Packet) (code port : Nat) : (nakAt s q code port).ports = s.ports := by
  obtain ⟨x, hx⟩ := sendNak_cases (fabViol s code port q) q code
  rw [nakAt, hx]
  exact fabViol_ports s code port q

theorem port_flowOut (h : n ≠ m) : (flowOut s m).port n = s.port n := by
  unfold flowOut
  dsimp only
  split
  · exact (State.port_setPort_other _ _ h).trans (State.port_setPort_other _ _ h)
  · exact State.port_setPort_other _ _ h

theorem port_chanDrain (h : n ≠ m) (c flits : Nat) : (chanDrain s m c flits).port n = s.port n := by
  unfold chanDrain
  dsimp only
  split
  · exact port_flowOut h
  · rfl

/-- A packet that leaves a buffer leaves a port alone that holds none. -/
theorem port_leaveBuffer (hempty : (s.port n).received = []) (hold : Option (Port × Nat)) :
    (leaveBuffer s hold).port n = s.port n := by
  unfold leaveBuffer
  split
  · rfl
  · next m id =>
    split
    · rfl
    · split
      · rfl
      · next r hfound =>
        by_cases hm : n = m
        · rw [← hm, hempty] at hfound
          cases hfound
        · exact (port_chanDrain hm _ _).trans (State.port_setPort_other _ _ hm)

/-- The buffers of a port's channels are empty, and its channels XON. -/
def chansCleared (s : State) (n : Port) : State :=
  (span 0 48).foldl (fun s c => fset (fset s .sklChanOcc (chanIx n c) 0) .sklChanXoff (chanIx n c) 0) s

theorem portsRun_chansCleared (s : State) (n : Port) : PortsRun chanFields s (chansCleared s n) :=
  .foldl (fun _ _ => (portsRun_fset _ _ _ _ (by decide)).trans (portsRun_fset _ _ _ _ (by decide))) _ s

theorem chansCleared_ports (s : State) (n : Port) : (chansCleared s n).ports = s.ports :=
  List.foldlRecOn (motive := fun t : State => t.ports = s.ports) (span 0 48) _ rfl fun _ ht _ _ => ht

/-- The requests that a lost port held are answered LINKDOWN. -/
def lostAnswered (s : State) (n : Port) (l : List Packet) : State := l.foldl (fun s p => nakAt s p nLINKDOWN n.val) s

theorem portsRun_lostAnswered (s : State) (n : Port) (l : List Packet) : PortsRun violFields s (lostAnswered s n l) :=
  .foldl (fun _ _ => portsRun_nakAt _ _ _ _) l s

theorem lostAnswered_ports (s : State) (n : Port) (l : List Packet) : (lostAnswered s n l).ports = s.ports :=
  List.foldlRecOn (motive := fun t : State => t.ports = s.ports) l _ rfl fun t ht p _ => (nakAt_ports t p _ _).trans ht

/-- The packets that waited at a lost port leave the buffers that hold them. -/
def holdsLeft (s : State) (l : List WaitPkt) : State := l.foldl (fun s w => leaveBuffer s w.hold) s

theorem portsRun_holdsLeft (s : State) (l : List WaitPkt) : PortsRun chanFields s (holdsLeft s l) :=
  .foldl (fun _ _ => portsRun_leaveBuffer _ _) l s

theorem port_holdsLeft (hempty : (s.port n).received = []) (l : List WaitPkt) : (holdsLeft s l).port n = s.port n :=
  List.foldlRecOn (motive := fun t : State => t.port n = s.port n) l _ rfl fun _ ht _ _ =>
    (port_leaveBuffer ((congrArg PortX.received ht).trans hempty) _).trans ht

/-- What losing a port leaves, but for the choice of a grandmaster. -/
def linkLost (s : State) (n : Port) : State :=
  holdsLeft (lostAnswered (chansCleared (s.setPort n (s.port n).lost) n) n
    ((s.port n).pkts.map (·.2) ++ (s.port n).queue.map (·.pkt))) (s.port n).queue

theorem portLost_eq (s : State) (n : Port) :
    portLost s n = if (s.port n).heard then electGm (linkLost s n) else linkLost s n := rfl

/-- The fields that losing a port writes. -/
def lostFields : List Field := chanFields ++ violFields ++ gmFields

theorem portsRun_electGm (s : State) : PortsRun gmFields s (electGm s) := by
  refine (reports_electGm s).portsRun ?_ ?_ <;> rw [electGm_rest]
  exact ⟨rfl, rfl, rfl, rfl, rfl, rfl, rfl, rfl⟩

theorem portsRun_linkLost (s : State) (n : Port) : PortsRun (chanFields ++ violFields) (s.setPort n (s.port n).lost) (linkLost s n) :=
  (((portsRun_chansCleared _ n).mono (by decide)).trans ((portsRun_lostAnswered _ n _).mono (by decide))).trans
    ((portsRun_holdsLeft _ _).mono (by decide))

theorem portsRun_portLost (s : State) (n : Port) : PortsRun lostFields (s.setPort n (s.port n).lost) (portLost s n) := by
  have hlost : PortsRun lostFields (s.setPort n (s.port n).lost) (linkLost s n) := (portsRun_linkLost s n).mono (by decide)
  rw [portLost_eq]
  split
  · exact hlost.trans ((portsRun_electGm _).mono (by decide))
  · exact hlost

theorem port_linkLost (s : State) (n : Port) : (linkLost s n).port n = (s.port n).lost := by
  have hanswered : (lostAnswered (chansCleared (s.setPort n (s.port n).lost) n) n
      ((s.port n).pkts.map (·.2) ++ (s.port n).queue.map (·.pkt))).port n = (s.port n).lost :=
    (port_of_ports ((lostAnswered_ports _ _ _).trans (chansCleared_ports _ _)) n).trans (State.port_setPort_same _ _ _)
  exact (port_holdsLeft (congrArg PortX.received hanswered) _).trans hanswered

/-- The link of a port that is lost starts afresh. -/
theorem port_portLost (s : State) (n : Port) : (portLost s n).port n = (s.port n).lost := by
  rw [portLost_eq]
  split
  · exact (port_of_ports (electGm_ports _) n).trans (port_linkLost s n)
  · exact port_linkLost s n

/-- The fields that taking a port DOWN writes. -/
def downFields : List Field := .sklPortStatusState :: lostFields

theorem portsRun_portDown (s : State) (n : Port) (v : Nat) :
    PortsRun downFields (s.setPort n (s.port n).lost) (portDown s n v) := by
  have hlost := portsRun_portLost (setPortState s n v) n
  rw [port_of_ports (setPortState_ports s n v)] at hlost
  exact ((portsRun_setPortState s n v (by decide)).setPort rfl).trans (hlost.mono (by decide))

theorem port_portDown (s : State) (n : Port) (v : Nat) : (portDown s n v).port n = (s.port n).lost :=
  (port_portLost _ n).trans (congrArg PortX.lost (port_of_ports (setPortState_ports s n v) n))

theorem portState_portDown (s : State) (n : Port) {v : Nat} (hv : v < 8) : portState (portDown s n v) n = v :=
  ((portsRun_portLost (setPortState s n v) n).portState_eq (by decide) n).trans (portState_setPortState s n hv)

/-! ### Training (R250, R273) -/

/-- A port as it stands once training has ended well. -/
def PortX.trained (x : PortX) (tx rx : List Nat) (full : Bool) (seen : RxLanes) : PortX :=
  { x with
    fails := 0, badRx := (span 0 34).filter fun i => !bit seen.good.toNat i, fibres := seen.fibres
    lanesTx := placeLanes tx full, lanesRx := (placeLanes rx full).map fun l => seen.fibres.getD l l
    swapsTx := placedSwaps (placeLanes tx full), swapsRx := placedSwaps (placeLanes rx full) }

/-- SKL_SPARE_MAP shows the spares of a port that has trained. -/
def sparesShown (s : State) (n : Port) (x : PortX) : State := showSpares (showSpares (s.setPort n x) n true) n false

theorem portsRun_showSpares (s : State) (n : Port) (tx : Bool) : PortsRun (spareMapFields tx) s (showSpares s n tx) := by
  have hregs := regsKept_showSpares s n tx
  rw [showSpares_rest] at hregs ⊢
  exact ⟨hregs, ⟨rfl, rfl⟩, rfl, rfl, List.prefix_refl _, fun _ => rfl⟩

/-- The fields that show the spares of a port. -/
def sparesFields : List Field := spareMapFields true ++ spareMapFields false

theorem portsRun_sparesShown (s : State) (n : Port) (x : PortX) : PortsRun sparesFields (s.setPort n x) (sparesShown s n x) :=
  ((portsRun_showSpares _ n true).mono (by decide)).trans ((portsRun_showSpares _ n false).mono (by decide))

theorem PortsRun.resTooLarge_eq (h : PortsRun but s t) (hres : .sklChanRes ∉ but) (hhead : .sklPortStatusHead ∉ but)
    (hrtt : .sklPortStatusRtt ∉ but) (n : Port) : resTooLarge t n = resTooLarge s n := by
  have hregs : ∀ i, fget t .sklChanRes i = fget s .sklChanRes i := fun i => h.regs _ i hres
  unfold resTooLarge
  simp only [hregs]
  rw [h.regs _ _ hhead, h.regs _ _ hrtt]

/-- Training that ends well shows what it found, and the port is UP, UP16 or CONFIG_ERR. -/
theorem exec_trainingDone {a : BitVec 34} {b : RxLanes} {tx rx : List Nat} {full : Bool}
    (htx : tx = usableLanes s a.toNat (s.port n).swapsTx) (hrx : rx = usableLanes s (RxLanes.lit b) (s.port n).swapsRx)
    (hfull : full = (decide (32 ≤ min tx.length rx.length) && !fbit s .sklPortCtrlForce16 n.val))
    (htrains : portState s n = 1) (hgood : 16 ≤ min tx.length rx.length) :
    exec (.trainingDone n a b) s = .next (
      let u := sparesShown s n ((s.port n).trained tx rx full b)
      if resTooLarge u n then linkRecord (setPortState u n 4) n 273 [n.val, fget u .sklPortStatusRtt n.val]
      else portCameUp (setPortState u n (if full then 2 else 3)) n) := by
  have hends : ¬(portState s n ≠ 1 ∨ min tx.length rx.length < 16) :=
    not_or.mpr ⟨not_not_intro htrains, not_lt.mpr hgood⟩
  subst htx hrx hfull
  show execTrainingDone n a b s = _
  unfold execTrainingDone
  dsimp only
  rw [if_neg hends]
  split <;> rename_i hlarge
  · exact congrArg Host.Outcome.next (if_pos hlarge).symm
  · exact congrArg Host.Outcome.next (if_neg hlarge).symm

theorem portsRun_portCameUp (s : State) (n : Port) : PortsRun chanFields s (portCameUp s n) :=
  (PortsRun.foldl (fun _ _ => portsRun_emit _ _) (s.port n).buffer s).trans (portsRun_portRun _ n)

/-- The fields that the end of training writes. -/
def trainedFields : List Field := .sklPortStatusState :: .errLostDropped :: (chanFields ++ sparesFields)

theorem portsRun_configErr (u : State) (n : Port) (what : List Nat) :
    PortsRun trainedFields u (linkRecord (setPortState u n 4) n 273 what) :=
  (portsRun_setPortState u n 4 (by decide)).trans (portsRun_linkRecord _ n 273 what (by decide))

theorem portsRun_cameUp (u : State) (n : Port) (v : Nat) : PortsRun trainedFields u (portCameUp (setPortState u n v) n) :=
  (portsRun_setPortState u n v (by decide)).trans ((portsRun_portCameUp _ n).mono (by decide))

theorem portState_configErr (u : State) (n : Port) (what : List Nat) :
    portState (linkRecord (setPortState u n 4) n 273 what) n = 4 :=
  ((portsRun_linkRecord (but := [.errLostDropped]) _ n 273 what (by decide)).portState_eq (by decide) n).trans
    (portState_setPortState u n (by decide))

theorem portState_cameUp (u : State) (n : Port) {v : Nat} (hv : v < 8) : portState (portCameUp (setPortState u n v) n) n = v :=
  ((portsRun_portCameUp (setPortState u n v) n).portState_eq (by decide) n).trans (portState_setPortState u n hv)

theorem trainingDone_ends {a : BitVec 34} {b : RxLanes} {tx rx : List Nat} {full : Bool}
    (htx : tx = usableLanes s a.toNat (s.port n).swapsTx) (hrx : rx = usableLanes s (RxLanes.lit b) (s.port n).swapsRx)
    (hfull : full = (decide (32 ≤ min tx.length rx.length) && !fbit s .sklPortCtrlForce16 n.val))
    (htrains : portState s n = 1) (hgood : 16 ≤ min tx.length rx.length) :
    ∃ t, exec (.trainingDone n a b) s = .next t ∧ (t.port n).fails = 0 ∧ (t.port n).lanesTx = placeLanes tx full ∧
      (t.port n).lanesRx = (placeLanes rx full).map (fun l => b.fibres.getD l l) ∧
      (t.port n).badRx = (span 0 34).filter (fun i => !bit b.good.toNat i) ∧
      (resTooLarge s n = true → portState t n = 4) ∧
      (resTooLarge s n = false → portState t n = if full then 2 else 3) := by
  have hexec := exec_trainingDone htx hrx hfull htrains hgood
  have hshown := portsRun_sparesShown s n ((s.port n).trained tx rx full b)
  have hsame : resTooLarge (sparesShown s n ((s.port n).trained tx rx full b)) n = resTooLarge s n :=
    hshown.resTooLarge_eq (by decide) (by decide) (by decide) n
  have hports : ∀ t, PortsRun trainedFields (sparesShown s n ((s.port n).trained tx rx full b)) t →
      (t.port n).fails = 0 ∧ (t.port n).lanesTx = placeLanes tx full ∧
      (t.port n).lanesRx = (placeLanes rx full).map (fun l => b.fibres.getD l l) ∧
      (t.port n).badRx = (span 0 34).filter (fun i => !bit b.good.toNat i) := fun t ht =>
    have hrun := (hshown.mono (show sparesFields ⊆ trainedFields by decide)).trans ht
    ⟨hrun.get_set PortX.fails fun _ => rfl, hrun.get_set PortX.lanesTx fun _ => rfl,
      hrun.get_set PortX.lanesRx fun _ => rfl, hrun.get_set PortX.badRx fun _ => rfl⟩
  dsimp only at hexec
  rw [hsame] at hexec
  cases hlarge : resTooLarge s n with
  | true =>
    rw [if_pos hlarge] at hexec
    obtain ⟨hfails, htxs, hrxs, hbad⟩ := hports _ (portsRun_configErr _ n _)
    exact ⟨_, hexec, hfails, htxs, hrxs, hbad, fun _ => portState_configErr _ n _,
      fun h => Bool.noConfusion h⟩
  | false =>
    rw [if_neg (by simp [hlarge])] at hexec
    obtain ⟨hfails, htxs, hrxs, hbad⟩ := hports _ (portsRun_cameUp _ n _)
    exact ⟨_, hexec, hfails, htxs, hrxs, hbad, fun h => Bool.noConfusion h,
      fun _ => portState_cameUp _ n (by cases full <;> decide)⟩

/-- The peer, the round trip and the headroom that it needs are shown. -/
def peerShown (s : State) (n dev port rtt head : Nat) : State :=
  fset (fset (fset (fset s .sklPortStatusPeerdev n dev) .sklPortStatusPeerport n port) .sklPortStatusRtt n rtt)
    .sklPortStatusHead n head

theorem regsKept_peerShown (s : State) (n dev port rtt head : Nat) : Claims.regsKept s (peerShown s n dev port rtt head)
    [.sklPortStatusPeerdev, .sklPortStatusPeerport, .sklPortStatusRtt, .sklPortStatusHead] :=
  Claims.regsKept_trans (Claims.regsKept_trans (Claims.regsKept_trans (regsKept_fset _ _ _ _ (by decide))
    (regsKept_fset _ _ _ _ (by decide))) (regsKept_fset _ _ _ _ (by decide))) (regsKept_fset _ _ _ _ (by decide))

theorem fget_peerShown (s : State) (n dev port rtt head : Nat) :
    fget (peerShown s n dev port rtt head) .sklPortStatusPeerdev n = dev % 2 ^ 17 ∧
      fget (peerShown s n dev port rtt head) .sklPortStatusPeerport n = port % 2 ^ 3 ∧
      fget (peerShown s n dev port rtt head) .sklPortStatusRtt n = rtt % 2 ^ 10 ∧
      fget (peerShown s n dev port rtt head) .sklPortStatusHead n = head % 2 ^ Field.sklPortStatusHead.spec.width := by
  refine ⟨?_, ?_, ?_, fget_fset_same _ _ _ _⟩
  · exact (fget_fset_other _ _ (by simp)).trans ((fget_fset_other _ _ (by simp)).trans
      ((fget_fset_other _ _ (by simp)).trans (fget_fset_same _ _ _ _)))
  · exact (fget_fset_other _ _ (by simp)).trans ((fget_fset_other _ _ (by simp)).trans (fget_fset_same _ _ _ _))
  · exact (fget_fset_other _ _ (by simp)).trans (fget_fset_same _ _ _ _)

theorem exec_train {dev : BitVec 17} {port : BitVec 3} {rtt : Nat} (htrains : portState s n = 1) :
    exec (.train n dev port rtt) s = .next (peerShown s n.val dev.toNat port.toNat (min rtt 1023)
      (ceilDiv (min rtt 1023 * 25) 4 + 18)) := if_neg (not_not_intro htrains)

/-- A port as it stands once training has failed. -/
def PortX.failedOnce (x : PortX) : PortX := { x with fails := if 8 ≤ x.fails + 1 then 0 else x.fails + 1 }

theorem exec_trainingTimeout {us : Nat} (htrains : portState s n = 1) (hus : 20000 ≤ us) :
    exec (.trainingTimeout n us) s = .next (portDown (s.setPort n (s.port n).failedOnce) n
      (if 8 ≤ (s.port n).fails + 1 then 5 else 0)) := if_neg (by simp [htrains, hus])

theorem portsTrain : Claims.PortsTrain := by
  refine fun s n => ⟨fun hdown hon => ?_, ?_, fun dev port rtt htrains => ?_,
    fun a b htrains hgood => trainingDone_ends rfl rfl rfl htrains hgood, fun us htrains hus => ?_⟩
  · have hlit : ((s.setPort n { s.port n with light := true }).port n).light = true := by rw [State.port_setPort_same]
    refine ⟨_, rfl, ?_, ?_, (portsRun_lightUp (s.setPort n { s.port n with light := true }) n).regs⟩
    · exact (portState_lightUp (s := s.setPort n { s.port n with light := true }) hdown).trans (if_pos ⟨hlit, hon⟩)
    · exact (congrArg PortX.light (port_of_ports (lightUp_ports _ n) n)).trans hlit
  · have hdark : ((s.setPort n { s.port n with light := false }).port n).light = false := by rw [State.port_setPort_same]
    refine ⟨_, rfl, ?_, fun hfailed => ?_, fun hnot => ?_⟩
    · split
      · exact hdark
      · exact (congrArg PortX.light (port_portDown _ n 0)).trans hdark
    · rw [if_pos (.inr hfailed)]
      exact hfailed
    · split
      · next h => exact h.resolve_right hnot
      · exact portState_portDown _ n (by decide)
  · refine ⟨_, exec_train htrains, ?_⟩
    obtain ⟨hdev, hport, hrtt, hhead⟩ :=
      fget_peerShown s n.val dev.toNat port.toNat (min rtt 1023) (ceilDiv (min rtt 1023 * 25) 4 + 18)
    refine ⟨hdev.trans (Nat.mod_eq_of_lt dev.isLt), hport.trans (Nat.mod_eq_of_lt port.isLt),
      hrtt.trans (Nat.mod_eq_of_lt (by omega)), hhead, rfl, regsKept_peerShown _ _ _ _ _ _⟩
  · refine ⟨_, exec_trainingTimeout htrains hus, (portState_portDown _ n (by split <;> decide)).trans ?_, ?_⟩
    · simp only [Nat.succ_le_succ_iff]
    · rw [port_portDown, State.port_setPort_same]
      show (if 8 ≤ (s.port n).fails + 1 then 0 else (s.port n).fails + 1) = _
      simp only [Nat.succ_le_succ_iff]

/-! ### EN of a port (R249) -/

/-- A field takes the bits that a write brings, whatever it held. -/
theorem fset_putBits (s : State) (f : Field) (i v x : Nat) : fset s f i (putBits v 0 f.spec.width x) = fset s f i x := by
  rw [fset, fset, putBits_mod]

/-- The fields of SKL_PORT_CTRL. -/
def portCtrlFields : List Field := [.sklPortCtrlEn, .sklPortCtrlForce16, .sklPortCtrlSpthr]

/-- The word of SKL_PORT_CTRL that carries EN, FORCE16 and SPTHR. -/
def portCtrlWord (en : Bool) (force16 spthr : Nat) : Nat := ofBool en + force16 * 2 + spthr * 2 ^ 8

/-- SKL_PORT_CTRL of a port is stored. -/
def portCtrlStored (s : State) (n : Port) (en : Bool) (force16 spthr : Nat) : State :=
  fset (fset (fset s .sklPortCtrlEn n.val (ofBool en)) .sklPortCtrlForce16 n.val force16) .sklPortCtrlSpthr n.val spthr

theorem bits_portCtrlWord (en : Bool) {force16 spthr : Nat} (hforce : force16 < 2) (hspthr : spthr < 2 ^ 16) :
    bits (portCtrlWord en force16 spthr) 0 1 = ofBool en ∧ bits (portCtrlWord en force16 spthr) 1 1 = force16 ∧
      bits (portCtrlWord en force16 spthr) 8 16 = spthr ∧ portCtrlWord en force16 spthr < 2 ^ 32 := by
  have hen : ofBool en < 2 := by cases en <;> decide
  simp only [bits, portCtrlWord, Nat.shiftRight_eq_div_pow]
  omega

/-- A port acts on its EN as `s` held it and as `u` holds it now. -/
def enTaken (s u : State) (n : Port) : State :=
  if fbit s .sklPortCtrlEn n.val && !fbit u .sklPortCtrlEn n.val then portDown u n 0
  else if fbit u .sklPortCtrlEn n.val then
    (if portState u n = 5 then lightUp (setPortState (u.setPort n { u.port n with fails := 0 }) n 0) n else lightUp u n)
  else u

theorem writePortCtrl_eq {l : List Carried} {u : State} (hstored : storeRw s l = u) (hhere : hereIn l .sklPortCtrlEn = true) :
    writePortCtrl s n l = enTaken s u n := by
  simp only [writePortCtrl, hstored, hhere, Bool.and_true]
  rfl

theorem portReg_written {w : Who} {en : Bool} {force16 spthr : Nat} (hforce : force16 < 2) (hspthr : spthr < 2 ^ 16)
    (h : Claims.admits s w (0x40_1000 + 0x400 * n.val) 4 (portCtrlWord en force16 spthr)) :
    ∃ x, registerRow s w (0x40_1000 + 0x400 * n.val) 4 (portCtrlWord en force16 spthr) =
      .next (withTraffic (enTaken s (portCtrlStored s n en force16 spthr) n) x) := by
  obtain ⟨hen, hforced, hthreshold, hword⟩ := bits_portCtrlWord en hforce hspthr
  generalize portCtrlWord en force16 spthr = word at h hen hforced hthreshold hword ⊢
  have hfields : Field.all.filter (sameReg .sklPortCtrlEn) = portCtrlFields := by decide +kernel
  have hindex : regIndex .sklPortCtrlEn [n.val] = n.val := by simp [regIndex, dimsIndex, Field.spec]
  have hreg : 0x40_1000 + 0x400 * n.val = regAt .sklPortCtrlEn [n.val] + 0 := by
    simp [regAt, dimsAt, Field.spec]
    omega
  have hport : (⟨n.val % 6, Nat.mod_lt _ (by decide)⟩ : Port) = n := Fin.ext (Nat.mod_eq_of_lt n.isLt)
  obtain ⟨who, x, hrow⟩ := registerRow_reg h (.inl rfl) (by omega) hword (openAt_skl (by omega) (by omega)) hreg
    (by decide +kernel) (by simp [dimsIn, Field.spec]) (by decide) hfields (by decide)
  simp only [carriedOf, List.map_cons, List.map_nil, hindex] at hrow
  rw [carry_covered _ hreg (by decide) (by decide) (by decide), carry_covered _ hreg (by decide) (by decide) (by decide),
    carry_covered _ hreg (by decide) (by decide) (by decide)] at hrow
  refine ⟨x, hrow.trans (congrArg (fun t => Host.Outcome.next (withTraffic t x)) ?_)⟩
  unfold writeReg
  simp only [hport]
  refine writePortCtrl_eq ?_ rfl
  rw [portCtrlStored, ← hen, ← hforced, ← hthreshold, ← fset_putBits s .sklPortCtrlEn n.val (heldOf s .sklPortCtrlEn n.val),
    ← fset_putBits _ .sklPortCtrlForce16 n.val (heldOf s .sklPortCtrlForce16 n.val),
    ← fset_putBits _ .sklPortCtrlSpthr n.val (heldOf s .sklPortCtrlSpthr n.val)]
  rfl

/-- A port that acts on its EN keeps its registers but for what going DOWN and training write. -/
theorem regsKept_enTaken (s u : State) (n : Port) : Claims.regsKept u (enTaken s u n) downFields := by
  have hlights : ∀ v, Claims.regsKept v (lightUp v n) downFields := fun v => ((portsRun_lightUp v n).mono (by decide)).regs
  unfold enTaken
  split
  · exact (portsRun_portDown u n 0).regs
  · split
    · split
      · have hfreed := portsRun_setPortState (but := downFields) (u.setPort n { u.port n with fails := 0 }) n 0 (by decide)
        exact Claims.regsKept_trans hfreed.regs (hlights _)
      · exact hlights u
    · exact fun _ _ _ => rfl

/-- Clearing EN takes a port DOWN. -/
theorem portState_enTaken_off {u : State} (hwas : fget s .sklPortCtrlEn n.val = 1) (hoff : fget u .sklPortCtrlEn n.val = 0) :
    portState (enTaken s u n) n = 0 := by
  rw [enTaken, if_pos (by simp [fbit, hwas, hoff])]
  exact portState_portDown u n (by decide)

/-- With EN set a port that is DOWN or FAILED, has light and may have its optics on trains. -/
theorem portState_enTaken_on {u : State} (hen : fget u .sklPortCtrlEn n.val = 1) (hdown : portState u n = 0 ∨ portState u n = 5)
    (hlight : (u.port n).light = true) (hoptics : opticsOn u n = true) : portState (enTaken s u n) n = 1 := by
  have hon : fbit u .sklPortCtrlEn n.val = true := by simp [fbit, hen]
  rw [enTaken, hon, if_neg (by simp), if_pos rfl]
  split
  · have hfreed := portsRun_setPortState (but := [.sklPortStatusState]) (u.setPort n { u.port n with fails := 0 }) n 0 (by decide)
    have hlit := (hfreed.get_set PortX.light fun _ => rfl).trans hlight
    have hready := (hfreed.opticsOn_eq (by decide) (by decide) (by decide) n).trans hoptics
    exact (portState_lightUp (portState_setPortState _ n (by decide))).trans (if_pos ⟨hlit, hready⟩)
  · next hnot => exact (portState_lightUp (hdown.resolve_right hnot)).trans (if_pos ⟨hlight, hoptics⟩)

theorem fget_portCtrlStored (s : State) (n : Port) (en : Bool) {force16 spthr : Nat} (hforce : force16 < 2)
    (hspthr : spthr < 2 ^ 16) : fget (portCtrlStored s n en force16 spthr) .sklPortCtrlEn n.val = ofBool en ∧
      fget (portCtrlStored s n en force16 spthr) .sklPortCtrlForce16 n.val = force16 ∧
      fget (portCtrlStored s n en force16 spthr) .sklPortCtrlSpthr n.val = spthr := by
  have hbit : ofBool en % 2 ^ 1 = ofBool en := by cases en <;> rfl
  refine ⟨?_, ?_, (fget_fset_same _ _ _ _).trans (Nat.mod_eq_of_lt hspthr)⟩
  · exact (fget_fset_other _ _ (by simp)).trans ((fget_fset_other _ _ (by simp)).trans ((fget_fset_same _ _ _ _).trans hbit))
  · exact (fget_fset_other _ _ (by simp)).trans ((fget_fset_same _ _ _ _).trans (Nat.mod_eq_of_lt hforce))

theorem portsRun_portCtrlStored (s : State) (n : Port) (en : Bool) (force16 spthr : Nat) :
    PortsRun portCtrlFields s (portCtrlStored s n en force16 spthr) :=
  ((portsRun_fset _ _ _ _ (by decide)).trans (portsRun_fset _ _ _ _ (by decide))).trans (portsRun_fset _ _ _ _ (by decide))

theorem opticsOn_iff : opticsOn s n = true ↔
    fabricOn s = true ∧ fget s .sklPortCtrlEn n.val = 1 ∧ fget s .pwrStatusStage 0 < 5 := by
  simp [opticsOn, fbit, and_assoc]

theorem PortsRun.fabricOn_eq (h : PortsRun but s t) (hpstate : .pwrStatusPstate ∉ but) : fabricOn t = fabricOn s := by
  unfold fabricOn hubOn
  rw [h.pwr, h.hub, h.regs _ _ hpstate]

theorem portEn_written {w : Who} (en : Bool) (hforce : fget s .sklPortCtrlForce16 n.val < 2)
    (hspthr : fget s .sklPortCtrlSpthr n.val < 2 ^ 16)
    (h : Claims.admits s w (0x40_1000 + 0x400 * n.val) 4
      (portCtrlWord en (fget s .sklPortCtrlForce16 n.val) (fget s .sklPortCtrlSpthr n.val))) :
    ∃ t, exec (.portEnWrite w n en) s = .next t ∧ fget t .sklPortCtrlEn n.val = ofBool en ∧
      fget t .sklPortCtrlForce16 n.val = fget s .sklPortCtrlForce16 n.val ∧
      fget t .sklPortCtrlSpthr n.val = fget s .sklPortCtrlSpthr n.val ∧
      (en = false → fget s .sklPortCtrlEn n.val = 1 → portState t n = 0) ∧
      (en = true → (portState s n = 0 ∨ portState s n = 5) → (s.port n).light = true → fabricOn s = true →
        fget s .pwrStatusStage 0 < 5 → portState t n = 1) := by
  obtain ⟨x, hrow⟩ := portReg_written hforce hspthr h
  generalize hu : portCtrlStored s n en (fget s .sklPortCtrlForce16 n.val) (fget s .sklPortCtrlSpthr n.val) = u at hrow
  obtain ⟨hen, hforced, hthreshold⟩ := fget_portCtrlStored s n en hforce hspthr
  have hstored := portsRun_portCtrlStored s n en (fget s .sklPortCtrlForce16 n.val) (fget s .sklPortCtrlSpthr n.val)
  rw [hu] at hen hforced hthreshold hstored
  have hkept := regsKept_enTaken s u n
  refine ⟨_, hrow, (hkept _ _ (by decide)).trans hen, (hkept _ _ (by decide)).trans hforced,
    (hkept _ _ (by decide)).trans hthreshold, fun hoff hwas => ?_, fun hset hdown hlight hfabric hstage => ?_⟩
  · exact portState_enTaken_off hwas (hen.trans (congrArg ofBool hoff))
  · have hone : fget u .sklPortCtrlEn n.val = 1 := hen.trans (congrArg ofBool hset)
    have hstate := hstored.portState_eq (by decide) n
    refine portState_enTaken_on hone (by rwa [hstate]) ((hstored.get PortX.light (fun _ => rfl) n).trans hlight) ?_
    exact opticsOn_iff.mpr ⟨(hstored.fabricOn_eq (by decide)).trans hfabric, hone,
      (hstored.regs .pwrStatusStage 0 (by decide)).symm ▸ hstage⟩

/-! ### A PORT reset (R276; 16 R392) -/

/-- The list of all fields is in the order of their numbers. -/
theorem map_ctorIdx_all : Field.all.map Field.ctorIdx = List.range Field.all.length := by decide +kernel

theorem Field.ctorIdx_lt_length (f : Field) : f.ctorIdx < Field.all.length := by
  have hlt : ∀ k < 512, (Field.ofNat k).ctorIdx < Field.all.length := by decide +kernel
  have hf := hlt _ (Field.ctorIdx_lt f)
  rwa [Field.ofNat_ctorIdx] at hf

/-- Every field is found by its number. -/
theorem Field.ofIdx_ctorIdx (f : Field) : Field.ofIdx f.ctorIdx = some f := by
  have hlisted : f.ctorIdx ∈ Field.all.map Field.ctorIdx := by
    rw [map_ctorIdx_all]
    exact List.mem_range.mpr (Field.ctorIdx_lt_length f)
  obtain ⟨h, hmem, hnum⟩ := List.mem_map.mp hlisted
  obtain ⟨g, hg⟩ := Option.isSome_iff_exists.mp
    (List.find?_isSome (p := fun g : Field => g.ctorIdx == f.ctorIdx).mpr ⟨h, hmem, beq_iff_eq.mpr hnum⟩)
  have hsame : g = f := Field.ctorIdx_inj (beq_iff_eq.mp (List.find?_some (p := fun g : Field => g.ctorIdx == f.ctorIdx) hg))
  exact hsame ▸ hg

theorem regLookup_filter (q : Nat → Bool) (t : List (Nat × Nat)) (k : Nat) :
    regLookup (t.filter fun e => q e.1) k = if q k then regLookup t k else none := by
  induction t with
  | nil => simp [regLookup]
  | cons e t ih =>
    obtain ⟨j, v⟩ := e
    by_cases hjk : j = k
    · subst hjk
      cases hq : q j <;> simp [hq, regLookup, ih]
    · cases hq : q j <;> simp [hq, regLookup, ih, hjk]

/-- A key is not among those that a reset of fields clears. -/
def keyKept (p : Field → Nat → Bool) (k : Nat) : Bool :=
  match Field.ofIdx (k % 512) with
  | some f => !p f (k / 512)
  | none => true

theorem keyKept_key (p : Field → Nat → Bool) (f : Field) (i : Nat) : keyKept p (Field.key f i) = !p f i := by
  have hlt := Field.ctorIdx_lt f
  have hmod : Field.key f i % 512 = f.ctorIdx := by unfold Field.key; omega
  have hdiv : Field.key f i / 512 = i := by unfold Field.key; omega
  simp only [keyKept, hmod, hdiv, Field.ofIdx_ctorIdx]

theorem fget_fclearWhere (s : State) (p : Field → Nat → Bool) (f : Field) (i : Nat) :
    fget (fclearWhere s p) f i = if p f i then Field.resetAt f i else fget s f i := by
  have hregs : (fclearWhere s p).regs = s.regs.filter fun e => keyKept p e.1 := rfl
  rw [fget, hregs, regLookup_filter, keyKept_key]
  cases p f i <;> rfl

/-- The fields of a port that its reset returns to their reset values. -/
def portResets (n : Port) (f : Field) (i : Nat) : Bool :=
  (f == .sklLinkTallyCsym || f == .sklLinkTallyRetry) && i == n.val ||
    (f == .sklChanOcc || f == .sklChanXoff) && i / 48 == n.val

def tallyFields : List Field := [.sklLinkTallyCsym, .sklLinkTallyRetry, .sklChanOcc, .sklChanXoff]

theorem portsRun_tallyCleared (s : State) (n : Port) : PortsRun tallyFields s (fclearWhere s (portResets n)) := by
  refine ⟨fun f i hf => ?_, ⟨rfl, rfl⟩, rfl, rfl, List.prefix_refl _, fun _ => rfl⟩
  have hnot : portResets n f i = false := by
    simp only [tallyFields, List.mem_cons, List.not_mem_nil, or_false, not_or] at hf
    obtain ⟨hcsym, hretry, hocc, hxoff⟩ := hf
    simp [portResets, hcsym, hretry, hocc, hxoff]
  rw [fget_fclearWhere, hnot]
  rfl

/-- The record of a PORT reset. -/
def resetRecorded (s : State) (n : Port) : State :=
  record s .reset .info none (.port n) .none 5 (.bytes (leBytes 1 n.val ++ List.replicate 23 0))

/-- A port that has been reset, before it looks for light. -/
def portCleared (s : State) (n : Port) : State := resetRecorded (fclearWhere (portDown s n 0) (portResets n)) n

theorem resetPort_eq (s : State) (n : Port) : resetPort s n = lightUp (portCleared s n) n := rfl

/-- A record that is in the queue once there is room for it. -/
theorem mem_errQueue_resetRecorded (h : (resetRecorded s n).errQueue.length < 256) :
    ∃ e ∈ (resetRecorded s n).errQueue, e.cls = Cls.code .reset ∧ e.code = 5 ∧ e.sev = Sev.code .info ∧
      e.unitKind = (UnitRef.port n).kind ∧ e.unitIdx = n.val ∧
      e.synd = .bytes (leBytes 1 n.val ++ List.replicate 23 0) := by
  have hroom : s.errQueue.length < 256 := by
    rcases record_cases s .reset .info none (.port n) .none 5 (.bytes (leBytes 1 n.val ++ List.replicate 23 0)) with
      ⟨hroom, -⟩ | ⟨hfull, hdropped⟩
    · exact hroom
    · rw [resetRecorded, hdropped] at h
      exact absurd h (not_lt.mpr hfull)
  unfold resetRecorded record
  rw [if_pos hroom]
  exact ⟨_, List.mem_append_right _ (List.mem_singleton.mpr rfl), rfl, rfl, rfl, rfl, rfl, rfl⟩

/-- The fields that a PORT reset writes before the port looks for light. -/
def clearedFields : List Field := downFields ++ tallyFields

theorem portsRun_resetRecorded (s : State) (n : Port) : PortsRun [.errLostDropped] s (resetRecorded s n) :=
  portsRun_record _ _ _ _ _ _ _ _ (by decide)

theorem portsRun_portCleared (s : State) (n : Port) : PortsRun clearedFields (s.setPort n (s.port n).lost) (portCleared s n) :=
  (((portsRun_portDown s n 0).mono (by decide)).trans ((portsRun_tallyCleared _ n).mono (by decide))).trans
    ((portsRun_resetRecorded _ n).mono (by decide))

theorem portState_portCleared (s : State) (n : Port) : portState (portCleared s n) n = 0 :=
  ((portsRun_resetRecorded _ n).portState_eq (by decide) n).trans
    (((portsRun_tallyCleared _ n).portState_eq (by decide) n).trans (portState_portDown s n (by decide)))

theorem port_portCleared (s : State) (n : Port) : (portCleared s n).port n = (s.port n).lost := by
  obtain ⟨-, -, -, -, hports, -⟩ := outsideKept_record (fclearWhere (portDown s n 0) (portResets n)) .reset .info none (.port n)
    .none 5 (.bytes (leBytes 1 n.val ++ List.replicate 23 0))
  exact (port_of_ports hports n).trans (port_portDown s n 0)

theorem fget_portCleared_tally {f : Field} (hf : f = .sklLinkTallyCsym ∨ f = .sklLinkTallyRetry) (s : State) (n : Port) :
    fget (portCleared s n) f n.val = 0 := by
  have hlost : f ∉ [Field.errLostDropped] := by rcases hf with rfl | rfl <;> decide
  have hresets : portResets n f n.val = true := by rcases hf with rfl | rfl <;> simp [portResets]
  rw [portCleared, (portsRun_resetRecorded _ n).regs _ _ hlost, fget_fclearWhere, if_pos hresets]
  rcases hf with rfl | rfl <;> rfl

theorem lightUp_errQueue (s : State) (n : Port) : (lightUp s n).errQueue = s.errQueue := by
  unfold lightUp
  split
  · unfold beginTraining setPortState
    split
    · rfl
    · rw [raise_rest]
      rfl
  · rfl

theorem portState_resetPort (s : State) (n : Port) :
    portState (resetPort s n) n = if (s.port n).light = true ∧ opticsOn s n = true then 1 else 0 := by
  have hlight : ((portCleared s n).port n).light = (s.port n).light := by
    rw [port_portCleared]
    rfl
  have hoptics : opticsOn (portCleared s n) n = opticsOn s n :=
    (portsRun_portCleared s n).opticsOn_eq (by decide) (by decide) (by decide) n
  rw [resetPort_eq, portState_lightUp (portState_portCleared s n), hlight, hoptics]

theorem port_resetPort (s : State) (n : Port) : (resetPort s n).port n = (s.port n).lost := by
  rw [resetPort_eq, port_of_ports (lightUp_ports _ n), port_portCleared]

theorem fget_resetPort_tally {f : Field} (hf : f = .sklLinkTallyCsym ∨ f = .sklLinkTallyRetry) (s : State) (n : Port) :
    fget (resetPort s n) f n.val = 0 := by
  have hstate : f ∉ [Field.sklPortStatusState] := by rcases hf with rfl | rfl <;> decide
  rw [resetPort_eq, (portsRun_lightUp _ n).regs _ _ hstate, fget_portCleared_tally hf]

theorem resetPort_errQueue (s : State) (n : Port) : (resetPort s n).errQueue = (portCleared s n).errQueue := by
  rw [resetPort_eq, lightUp_errQueue]

/-- The word of HST_RESET that resets a port. -/
theorem bits_portResetWord (n : Port) :
    bits (2 ^ (n.val + 1)) 0 1 = 0 ∧ bits (2 ^ (n.val + 1)) 1 6 = 2 ^ n.val ∧ 2 ^ (n.val + 1) < 2 ^ (8 * 4) := by
  revert n
  decide

/-- Of the six ports the one is reset whose bit is set. -/
theorem foldl_resetPort (s : State) (n : Port) : (span 0 6).foldl (fun s k =>
    if bit (2 ^ n.val) k then resetPort s ⟨k % 6, Nat.mod_lt _ (by decide)⟩ else s) s = resetPort s n := by
  fin_cases n <;> rfl

theorem openAt_hstReset : OpenAt s .hst 0x400 := ⟨by decide, by decide, by decide, by decide, rfl⟩

theorem hstReset_written {w : Who} (h : Claims.admits s w 0x400 4 (2 ^ (n.val + 1))) :
    ∃ x, registerRow s w 0x400 4 (2 ^ (n.val + 1)) = .next (withTraffic (resetPort s n) x) := by
  obtain ⟨hwarm, hports, hword⟩ := bits_portResetWord n
  have hfields : Field.all.filter (sameReg .hstResetWarm) = [.hstResetWarm, .hstResetPort] := by decide +kernel
  have hreg : 0x400 = regAt .hstResetWarm [] + 0 := by decide
  obtain ⟨who, x, hrow⟩ := registerRow_reg h (.inl rfl) (by decide) hword openAt_hstReset hreg (by decide +kernel) rfl
    (by decide) hfields (by decide)
  have hwarmed : putBits (heldOf s .hstResetWarm 0) 0 1 (bits (2 ^ (n.val + 1)) 0 1) = 0 := (putBits_zero _ 0 1).trans hwarm
  have hreset : putBits (heldOf s .hstResetPort 0) 0 6 (bits (2 ^ (n.val + 1)) 1 6) = 2 ^ n.val :=
    (putBits_zero _ 1 6).trans hports
  have hwarmCarry : carry s 0x400 4 (2 ^ (n.val + 1)) ⟨.hstResetWarm, 0, 0x400⟩ = ⟨.hstResetWarm, 0, 0, true, true⟩ :=
    (carry_covered _ hreg (by decide) (by decide) (by decide)).trans (congrArg (Carried.mk _ _ · _ _) hwarmed)
  have hportCarry : carry s 0x400 4 (2 ^ (n.val + 1)) ⟨.hstResetPort, 0, 0x400⟩ = ⟨.hstResetPort, 0, 2 ^ n.val, true, true⟩ :=
    (carry_covered _ hreg (by decide) (by decide) (by decide)).trans (congrArg (Carried.mk _ _ · _ _) hreset)
  refine ⟨x, hrow.trans (congrArg (fun t => Host.Outcome.next (withTraffic t x)) ?_)⟩
  rw [← foldl_resetPort s n]
  show writeReg w who 0x400 4 s [carry s 0x400 4 (2 ^ (n.val + 1)) ⟨.hstResetWarm, 0, 0x400⟩,
    carry s 0x400 4 (2 ^ (n.val + 1)) ⟨.hstResetPort, 0, 0x400⟩] = _
  rw [hwarmCarry, hportCarry]
  rfl

theorem portReset_resets {w : Who} (h : Claims.admits s w 0x400 4 (2 ^ (n.val + 1))) :
    ∃ t, exec (.portReset w n) s = .next t ∧
      (portState t n = if (s.port n).light = true ∧ opticsOn s n = true then 1 else 0) ∧
      fget t .sklLinkTallyCsym n.val = 0 ∧ fget t .sklLinkTallyRetry n.val = 0 ∧ (t.port n).buffer = [] ∧
      (t.port n).expectRx = 0 ∧ (t.port n).nextTx = 0 ∧
      (t.errQueue.length < 256 → ∃ e ∈ t.errQueue, e.cls = Cls.code .reset ∧ e.code = 5 ∧ e.sev = Sev.code .info ∧
        e.unitKind = (UnitRef.port n).kind ∧ e.unitIdx = n.val ∧ e.synd = .bytes (leBytes 1 n.val ++ List.replicate 23 0)) := by
  obtain ⟨x, hrow⟩ := hstReset_written h
  have hstate := portState_resetPort s n
  have hcsym := fget_resetPort_tally (.inl rfl) s n
  have hretry := fget_resetPort_tally (.inr rfl) s n
  have hport := port_resetPort s n
  have hrecord := mem_errQueue_resetRecorded (s := fclearWhere (portDown s n 0) (portResets n)) (n := n)
  rw [← portCleared, ← resetPort_errQueue] at hrecord
  generalize resetPort s n = u at *
  exact ⟨withTraffic u x, hrow, hstate, hcsym, hretry, congrArg PortX.buffer hport, congrArg PortX.expectRx hport,
    congrArg PortX.nextTx hport, hrecord⟩

theorem portEnableAndReset : Claims.PortEnableAndReset := fun _ _ _ hforce hspthr =>
  ⟨fun en => portEn_written en hforce hspthr, portReset_resets⟩

end PortsTraining

/-- Settles O33: training ends in the state that the lanes and the reservations give, and EN and a PORT reset take a port DOWN. -/
theorem portsComeUp : Obligations.PortsComeUp := ⟨portsTrain, portEnableAndReset⟩

end Sys2Proof.Machine
end

section
/-! O37: a structure load from its START to its end (12 R288 to R290; 16 R395). -/

namespace Sys2Proof.Machine

section StructureLoading

variable {s t : State} {w : Who} {checkOnly : Bool} {a : Nat} {img : Option Bytes}

/-! ### START (12 R288) -/

/-- While no operation of the root of trust runs, its registers are open to writes (18 R428). -/
theorem openAt_rotSimgCtrl (hidle : rotBusy s = false) : OpenAt s .rot 0x10_0808 :=
  openAt_of_place (by decide) (by decide) (by decide) (.inl (by decide)) (by simp [busyUnit, hidle])

/-- The bits of START and of CHECKONLY in the word that asks for a load. -/
theorem bits_loadWord (checkOnly : Bool) : bits (1 + 4 * ofBool checkOnly) 0 1 = 1 ∧
    bits (1 + 4 * ofBool checkOnly) 2 1 = ofBool checkOnly ∧ 1 + 4 * ofBool checkOnly < 2 ^ (8 * 4) := by
  cases checkOnly <;> decide

/-- CHECKONLY is stored as it was written. -/
theorem fget_checkonlySet (s : State) (checkOnly : Bool) :
    fget (fset s .rotSimgCtrlCheckonly 0 (ofBool checkOnly)) .rotSimgCtrlCheckonly 0 = ofBool checkOnly := by
  rw [fget_fset_same]
  cases checkOnly <;> rfl

theorem fbit_checkonlySet (s : State) (checkOnly : Bool) :
    fbit (fset s .rotSimgCtrlCheckonly 0 (ofBool checkOnly)) .rotSimgCtrlCheckonly 0 = checkOnly := by
  rw [fbit, fget_checkonlySet]
  cases checkOnly <;> rfl

theorem beginLoad_op (s : State) (checkOnly : Bool) :
    (beginLoad s checkOnly).rot.op = some (.load (fget s .rotSimgAddrAddr 0) checkOnly) :=
  congrArg (fun a => some (RotOp.load a checkOnly)) (fget_fset_other _ _ (by simp))

theorem fget_beginLoad_start (s : State) (checkOnly : Bool) : fget (beginLoad s checkOnly) .rotSimgCtrlStart 0 = 1 :=
  fget_fset_same s .rotSimgCtrlStart 0 1

theorem fget_beginLoad_other (s : State) (checkOnly : Bool) {f : Field} (i : Nat) (hf : f ≠ .rotSimgCtrlStart) :
    fget (beginLoad s checkOnly) f i = fget s f i :=
  fget_fset_other s 1 fun h => hf h.1

/-- START written 1 begins a load, for a check only as CHECKONLY then stands. -/
theorem writeReg_start {l : List Carried} {u : State} {who off n : Nat}
    (hstored : storeRw s (⟨.rotSimgCtrlStart, 0, 1, true, true⟩ :: l) = u) :
    writeReg w who off n s (⟨.rotSimgCtrlStart, 0, 1, true, true⟩ :: l) =
      beginLoad u (fbit u .rotSimgCtrlCheckonly 0) := by
  subst hstored
  rfl

/-- The write of START stores CHECKONLY, and the load begins. -/
theorem simgCtrl_written (h : Claims.admits s w 0x10_0808 4 (1 + 4 * ofBool checkOnly)) (hidle : rotBusy s = false) :
    ∃ x, registerRow s w 0x10_0808 4 (1 + 4 * ofBool checkOnly) =
      .next (withTraffic (beginLoad (fset s .rotSimgCtrlCheckonly 0 (ofBool checkOnly)) checkOnly) x) := by
  obtain ⟨hstart, hcheck, hword⟩ := bits_loadWord checkOnly
  have hfields : Field.all.filter (sameReg .rotSimgCtrlStart) =
      [.rotSimgCtrlStart, .rotSimgCtrlBusy, .rotSimgCtrlCheckonly] := by decide +kernel
  have hreg : 0x10_0808 = regAt .rotSimgCtrlStart [] + 0 := by decide
  obtain ⟨who, x, hrow⟩ := registerRow_reg h (.inl rfl) (by decide) hword (openAt_rotSimgCtrl hidle) hreg (by decide +kernel)
    rfl (by decide) hfields (by decide)
  generalize 1 + 4 * ofBool checkOnly = word at hstart hcheck hrow ⊢
  have hstartCarry : carry s 0x10_0808 4 word ⟨.rotSimgCtrlStart, 0, 0x10_0808⟩ = ⟨.rotSimgCtrlStart, 0, 1, true, true⟩ :=
    (carry_covered _ hreg (by decide) (by decide) (by decide)).trans
      (congrArg (Carried.mk _ _ · _ _) ((putBits_zero _ 0 1).trans hstart))
  have hcheckCarry : carry s 0x10_0808 4 word ⟨.rotSimgCtrlCheckonly, 0, 0x10_0808⟩ =
      ⟨.rotSimgCtrlCheckonly, 0, putBits (heldOf s .rotSimgCtrlCheckonly 0) 0 1 (ofBool checkOnly), true, true⟩ :=
    (carry_covered _ hreg (by decide) (by decide) (by decide)).trans
      (congrArg (fun v => Carried.mk _ _ (putBits _ 0 1 v) _ _) hcheck)
  refine ⟨x, hrow.trans (congrArg (fun t => Host.Outcome.next (withTraffic t x)) ?_)⟩
  show writeReg w who 0x10_0808 4 s [carry s 0x10_0808 4 word ⟨.rotSimgCtrlStart, 0, 0x10_0808⟩,
    carry s 0x10_0808 4 word ⟨.rotSimgCtrlBusy, 0, 0x10_0808⟩,
    carry s 0x10_0808 4 word ⟨.rotSimgCtrlCheckonly, 0, 0x10_0808⟩] = _
  rw [hstartCarry, hcheckCarry, writeReg_start (u := fset s .rotSimgCtrlCheckonly 0 (ofBool checkOnly)), fbit_checkonlySet]
  exact fset_putBits s .rotSimgCtrlCheckonly 0 _ _

theorem structLoad_begins (h : Claims.admits s w 0x10_0808 4 (1 + 4 * ofBool checkOnly)) (hidle : rotBusy s = false) :
    ∃ t, exec (.structLoad w checkOnly) s = .next t ∧ t.rot.op = some (.load (fget s .rotSimgAddrAddr 0) checkOnly) ∧
      fget t .rotSimgCtrlStart 0 = 1 ∧ fget t .rotSimgCtrlCheckonly 0 = ofBool checkOnly ∧ t.parts = s.parts ∧
      Claims.memSame s t := by
  obtain ⟨x, hrow⟩ := simgCtrl_written h hidle
  have haddr : fget (fset s .rotSimgCtrlCheckonly 0 (ofBool checkOnly)) .rotSimgAddrAddr 0 = fget s .rotSimgAddrAddr 0 :=
    fget_fset_other s _ (by simp)
  refine ⟨_, hrow, ?_, fget_beginLoad_start _ checkOnly, ?_, rfl, rfl, rfl⟩
  · exact haddr ▸ beginLoad_op _ checkOnly
  · exact (fget_beginLoad_other _ checkOnly 0 (by simp)).trans (fget_checkonlySet s checkOnly)

/-! ### The end of a load (12 R290) -/

/-- Once the image has been read, the load ends with what the image brings about, and the fences that waited begin. -/
theorem structLoadDone_ends (hload : s.rot.op = some (.load a checkOnly)) (haligned : a % 64 = 0) (hheader : 128 ≤ a)
    (hread : rotImage s (a - 128) = .inr (t, img)) : exec .structLoadDone s = .next (dueFences (endLoad (rotUnstage
      (loadImage t (if t.rot.readErr then none else img) a checkOnly) (a - 128) ((img.map imgSize).getD 128)))) := by
  show execStructLoadDone s = _
  have hplace : ¬(a % 64 ≠ 0 ∨ a < 128) := by omega
  simp only [execStructLoadDone, hload, if_neg hplace, hread]

end StructureLoading

/-- Settles O37: the write of START stores CHECKONLY and begins the load, and the image once read ends it. -/
theorem structureLoads : Obligations.StructureLoads :=
  ⟨fun _ _ _ => structLoad_begins, fun _ _ _ _ _ => structLoadDone_ends⟩

end Sys2Proof.Machine
end
